-- ==== Sys2Proof/Word.lean ====
section
/-! DEFINITION. The word types of the machine and their plainest arithmetic (02 R23, 04 R77). -/

namespace Sys2Proof

/-- A 64-bit scalar register (R77). -/
abbrev Word := BitVec 64

/-- A 128-bit SIMD register (R77). -/
abbrev VWord := BitVec 128

/-- A byte of memory (R44). -/
abbrev Byte := BitVec 8

end Sys2Proof
end

