-- ==== Sys2Proof/Syntax.lean ====
section
/-! DEFINITION. The instructions of Skoip and the steps of the device, as syntax: one constructor for each row of the
opcode table (04 R82 for the slots, 95 for the device steps). Operands are typed, so that a register kind or a subfield
value that the spec does not accept cannot be written down; what is left to check is in WellFormed.lean. -/

namespace Sys2Proof

/-- The guard of a slot (R80): guard register and negation. -/
structure Guard where
  neg : Bool
  k   : Fin 8
  deriving DecidableEq, Repr

/-- A G operand (R77): a direct name or a relative name g[jn]. -/
inductive GOp where
  | g (n : Fin 64)
  | rel (j : Fin 8)
  deriving DecidableEq, Repr

/-- An operand that may be of kind G, J or K (R95). -/
inductive GJK where
  | g (o : GOp)
  | j (n : Fin 8)
  | k (n : Fin 8)
  deriving DecidableEq, Repr

/-- A destination of kind G or J (R95). -/
inductive GJ where
  | g (o : GOp)
  | j (n : Fin 8)
  deriving DecidableEq, Repr

/-- An operand of kind G or V (R183). -/
inductive GV where
  | g (o : GOp)
  | v (n : Fin 32)
  deriving DecidableEq, Repr

/-- The shift count of a vector shift (R112): lanes of a v register, or a scalar plus X. -/
inductive ShCount where
  | v (r : Fin 32)
  | g (o : GOp) (x : BitVec 38)
  deriving DecidableEq, Repr

/-- The integer types of `t=` in the order of their codes 0 to 7 (R86). -/
inductive IType where
  | i64 | i32 | i16 | i8 | n64 | n32 | n16 | n8
  deriving DecidableEq, Repr

/-- The scalar and lane float types of `t=` in the order of their codes 0 to 2 (R102). -/
inductive FType where
  | f32 | bf16 | f16
  deriving DecidableEq, Repr

/-- The lane types of `t=`: codes 0 to 7 integer, 8 to 10 float (R109). -/
inductive VType where
  | i (t : IType)
  | f (t : FType)
  deriving DecidableEq, Repr

/-- The conversion types in the order of their codes 0 to 15 (R106). -/
inductive CvtType where
  | f32 | bf16 | f16 | e4m3 | e5m2 | e3m2 | e2m3 | e2m1 | i8 | i16 | i32 | i64 | n8 | n16 | n32 | n64
  deriving DecidableEq, Repr

/-- The integer comparison conditions in the order of their codes (R90). -/
inductive Cc where
  | eq | ne | lt | ge | le | gt | tst | ntst
  deriving DecidableEq, Repr

/-- The float comparison conditions in the order of their codes (R105). -/
inductive FCc where
  | eq | lt | le | un | ne | gt | ge
  deriving DecidableEq, Repr

/-- The rounding modes in the order of their codes (R27). -/
inductive Rnd where
  | rne | rtz | rup | rdn | rsr
  deriving DecidableEq, Repr

/-- The values of `ord=` a load accepts (R132). -/
inductive LoadOrd where
  | rlx | acq | sc
  deriving DecidableEq, Repr

/-- The values of `ord=` a store accepts (R132). -/
inductive StoreOrd where
  | rlx | rel | sc
  deriving DecidableEq, Repr

/-- The values of `ord=` an atomic or a fence accepts, in the order of their codes (R76, R132). -/
inductive Ord where
  | rlx | acq | rel | ar | sc
  deriving DecidableEq, Repr

/-- The ten scopes in the order of their codes (R76). -/
inductive Scope where
  | pa | st | co | cl | rg | di | pk | te | fa | sy
  deriving DecidableEq, Repr

/-- The combines of a deposit in the order of their codes (R150). -/
inductive Cmb where
  | add | max | set
  deriving DecidableEq, Repr

/-- A window of cells (R152). A run holds its code of `len=`: 0 stands for 16 cells and 1 is not assigned. -/
inductive Window where
  | run (len : Fin 16)
  | cross
  | box3
  | box5
  deriving DecidableEq, Repr

/-- The BQ formats in the order of their codes 0 to 2 (R97). -/
inductive BqFmt where
  | bq3 | bq5 | bq8
  deriving DecidableEq, Repr

/-- The subfields of lane arithmetic (R112): saturation goes with integer lanes, rounding with float lanes. -/
inductive VArith where
  | int (t : IType) (sat : Bool)
  | flt (t : FType) (rnd : Rnd)
  deriving DecidableEq, Repr

/-- The subfields of VABS and VNEG (R112). -/
inductive VSign where
  | int (t : IType) (sat : Bool)
  | flt (t : FType)
  deriving DecidableEq, Repr

/-- The subfields of VCMP (R113). -/
inductive VCond where
  | int (t : IType) (cc : Cc)
  | flt (t : FType) (cc : FCc)
  deriving DecidableEq, Repr

/-- The float input types of VDOT in the order of their codes 0 to 6 (R114). -/
inductive DotF where
  | e4m3 | e5m2 | e3m2 | e2m3 | e2m1 | bf16 | f16
  deriving DecidableEq, Repr

/-- The subfields of VDOT (R114): `int false` is i8 and `int true` is n8. -/
inductive VDotArg where
  | flt (t : DotF) (rnd : Rnd)
  | int (nat : Bool) (sat : Bool)
  deriving DecidableEq, Repr

/-- The integer reductions in the order of their codes (R124). -/
inductive IRed where
  | add | min | max | and | or | xor
  deriving DecidableEq, Repr

/-- The subfields of VRED (R124). -/
inductive VRedArg where
  | int (t : IType) (op : IRed)
  | fadd (t : FType) (rnd : Rnd)
  | fmin (t : FType)
  | fmax (t : FType)
  deriving DecidableEq, Repr

/-- The integer atomic operations in the order of their codes 0 to 6 (R139). -/
inductive AmoI where
  | add | and | or | xor | min | max | swap
  deriving DecidableEq, Repr

/-- The float atomic operations in the order of their codes 6 to 9 (R139). -/
inductive AmoF where
  | swap | fadd | fmin | fmax
  deriving DecidableEq, Repr

/-- The type and operation of an atomic (R139). -/
inductive AmoArg where
  | int (t : IType) (op : AmoI)
  | flt (t : FType) (op : AmoF)
  deriving DecidableEq, Repr

/-- The two forms of VPACK with what each encodes (R116, R117). -/
inductive PackArg where
  | int (t : IType) (w : BitVec 7) (sat : Bool) (x : BitVec 7)
  | bq (fmt : BqFmt) (b : Fin 32) (prop : Bool)
  deriving DecidableEq, Repr

/-- The two forms of VUNPK with what each encodes (R118). -/
inductive UnpkArg where
  | int (t : IType) (w : BitVec 7) (x : BitVec 7)
  | bq (fmt : BqFmt) (part : Fin 4)
  deriving DecidableEq, Repr

/-- The combines of a copy in the order of their codes (R157). -/
inductive CopyCmb where
  | none | add | max
  deriving DecidableEq, Repr

/-- The mode of a COPY (R157): a combine, or a forwarding chain named by gC. -/
inductive CopyMode where
  | plain (cmb : CopyCmb)
  | fwd (c : GOp)
  deriving DecidableEq, Repr

/-- The element types of ADDW in the order of their codes 0 to 4 (R157). -/
inductive AddwType where
  | f32 | bf16 | f16 | e4m3 | e5m2
  deriving DecidableEq, Repr

/-- `pri=` (R185): inherit the issuer's priority, or a priority 0 to 7. -/
inductive PriSel where
  | same
  | pri (p : Fin 8)
  deriving DecidableEq, Repr

/-- The levels LVLADD may open (R196), with codes 0, 2, 3 and 4. -/
inductive OpenLevel where
  | unit | graph | phase | job
  deriving DecidableEq, Repr

/-- The control registers of R204. -/
inductive Cr where
  | core | strand | part | pword | caps | fduty | status | cause | epc | tval | tvec | eopd | frame | node
  | rlo | rhi | srstate | lfbase | dbell | tags | vfail | xbwait | acnt
  | wch (n : Fin 4)
  | th (n : Fin 8)
  | privc
  deriving DecidableEq, Repr


/-! ### What the steps of the device carry: choices of the service, of peers and of the package's surroundings -/

/-- A service request's header with the tenant of the session it came in on (R343). -/
structure ReqHdr where
  bits : BitVec 256
  session : Nat
  deriving DecidableEq, Repr

/-- A query of the service, with the verifier's nonce for the quote (R343, R360). -/
structure QueryAsk where
  hdr : ReqHdr
  nonce : Nat
  deriving DecidableEq, Repr

/-- How a copy unit's step goes: the element in it that meets an uncorrectable error, if one does, and whether what it writes is still
under way when it ends (R180, R249). -/
structure CopyTurn where
  softErr : Option Nat := none
  late : Bool := false
  deriving DecidableEq, Repr

/-- A page the service maps: its 64 KiB granule's virtual address, frame number, key slot, kind and rights (R256, R308). -/
structure PageMap where
  va : Nat
  pfn : Nat
  key : Nat
  kind : Nat
  xr : Bool
  wr : Bool
  rd : Bool
  dev : Nat := 0
  deriving DecidableEq, Repr

/-- A clamp's configuration (R293). -/
structure ClampCfg where
  num : Nat
  kind : Nat
  need : Nat
  root : Nat
  deriving DecidableEq, Repr

/-- The quotas of R371. -/
inductive QuotaKind where
  | nodes | buffers | fields | tlb | pages
  deriving DecidableEq, Repr

/-- What a build request sets up (R325): cores, granules as cluster and granule number, page-table root, pages with the
table frames they take, key slot, load field, doorbell and clamps. -/
structure BuildBody where
  cores : List Nat
  granules : List (Nat × Nat)
  root : Nat
  pages : List PageMap
  tables : List Nat
  key : Nat
  lfbase : Nat
  dbell : Nat
  clamps : List ClampCfg
  quotas : List (QuotaKind × Nat) := []
  deriving DecidableEq, Repr

/-- A firmware image with its header (R359): bytes, digest, security version and whose signatures stand on it. -/
structure FwImage where
  bytes : List Nat
  digest : Nat
  svn : Nat
  sigE : Nat
  sigM : Nat
  deriving DecidableEq, Repr

/-- The final outcome of a start-up unit (R356, R358): failed tries before it, 3 when it failed, the last failure's detail
code, and the reference tick counted from power-good. -/
structure UnitOutcome where
  step : Nat
  unit : Nat
  fails : Nat
  det : Nat
  tick : Nat
  deriving DecidableEq, Repr

/-- What a peer answers (R338): the value of a read or atomic, or a refusal. -/
inductive PeerAnswer where
  | value (v : Nat)
  | refused
  deriving DecidableEq, Repr

/-- A rank's part in a collective: its contribution's bits, or a failure with its WHY and device (R340, R341). -/
inductive Contribution where
  | bits (v : Nat)
  | failed (why dev : Nat)
  deriving DecidableEq, Repr

/-- Delivery modes of Ultra Ethernet (R342). -/
inductive UeMode where
  | rud | rod | uud | rudi
  deriving DecidableEq, Repr

/-- What an Ultra Ethernet packet asks for (R342): a send brings its payload's bits, and an RMA write names physical memory under a
key slot. -/
inductive UeOp where
  | send (tagged : Bool) (val : Nat)
  | rmaWrite (pa key w val : Nat)
  | rmaRead (pa key w : Nat)
  | atomic
  | deferrable
  deriving DecidableEq, Repr

/-- An Ultra Ethernet packet: mode, operation, the bytes of its frame and of its payload, whether it is secured, its message, and of
how many packets that message is made (R247, R342). -/
structure UePacket where
  mode : UeMode
  op : UeOp
  frame : Nat
  payload : Nat
  secured : Bool
  msg : Nat
  of_ : Nat
  deriving DecidableEq, Repr

/-- A tenant token (R334). -/
structure Token where
  ch : Nat
  n : Nat
  tenant : Nat
  device : Nat
  kidE : Nat
  kidM : Nat
  sigE : Nat
  sigM : Nat
  deriving DecidableEq, Repr

/-- Units whose storage may be gated (R352). -/
inductive GateUnit where
  | cluster (n : Nat)
  | granule (cl i : Nat)
  | bank (slice : Nat)
  | port (p : Nat)
  | uePort (p : Nat)
  deriving DecidableEq, Repr
/-- The instructions of Skoip (R82) and the steps of the device, one constructor for each row of the opcode table. -/
inductive Instr where
  /-- NOP: no effect except to advance the pc (R62). -/
  | nop
  /-- BR: branch to a line offset and slot (R100). -/
  | br (gd : Guard) (off : BitVec 40) (slot : BitVec 3)
  /-- BRI: branch to gA + X (R100). -/
  | bri (gd : Guard) (a : GOp) (x : BitVec 38)
  /-- CALL: branch and link in gA (R100). -/
  | call (gd : Guard) (a : GOp) (off : BitVec 40) (slot : BitVec 3)
  /-- RET: branch to gA (R100). -/
  | ret (gd : Guard) (a : GOp)
  /-- LOOP: count gA down and branch unless it is 0 (R100). -/
  | loop (gd : Guard) (a : GOp) (off : BitVec 40) (slot : BitVec 3)
  /-- ADD_R: integer ADD, register form (R89). -/
  | addR (gd : Guard) (d : GOp) (a : GOp) (b : GOp) (t : IType)
  /-- SUB_R: integer SUB, register form (R89). -/
  | subR (gd : Guard) (d : GOp) (a : GOp) (b : GOp) (t : IType)
  /-- MUL_R: integer MUL, register form (R89). -/
  | mulR (gd : Guard) (d : GOp) (a : GOp) (b : GOp) (t : IType)
  /-- MULH_R: integer MULH, register form (R89). -/
  | mulhR (gd : Guard) (d : GOp) (a : GOp) (b : GOp) (t : IType)
  /-- MULHN_R: integer MULHN, register form (R89). -/
  | mulhnR (gd : Guard) (d : GOp) (a : GOp) (b : GOp) (t : IType)
  /-- DIV_R: integer DIV, register form (R89). -/
  | divR (gd : Guard) (d : GOp) (a : GOp) (b : GOp) (t : IType)
  /-- DIVN_R: integer DIVN, register form (R89). -/
  | divnR (gd : Guard) (d : GOp) (a : GOp) (b : GOp) (t : IType)
  /-- REM_R: integer REM, register form (R89). -/
  | remR (gd : Guard) (d : GOp) (a : GOp) (b : GOp) (t : IType)
  /-- REMN_R: integer REMN, register form (R89). -/
  | remnR (gd : Guard) (d : GOp) (a : GOp) (b : GOp) (t : IType)
  /-- AND_R: integer AND, register form (R89). -/
  | andR (gd : Guard) (d : GOp) (a : GOp) (b : GOp) (t : IType)
  /-- OR_R: integer OR, register form (R89). -/
  | orR (gd : Guard) (d : GOp) (a : GOp) (b : GOp) (t : IType)
  /-- XOR_R: integer XOR, register form (R89). -/
  | xorR (gd : Guard) (d : GOp) (a : GOp) (b : GOp) (t : IType)
  /-- ANDN_R: integer ANDN, register form (R89). -/
  | andnR (gd : Guard) (d : GOp) (a : GOp) (b : GOp) (t : IType)
  /-- ORN_R: integer ORN, register form (R89). -/
  | ornR (gd : Guard) (d : GOp) (a : GOp) (b : GOp) (t : IType)
  /-- SHL_R: integer SHL, register form (R89). -/
  | shlR (gd : Guard) (d : GOp) (a : GOp) (b : GOp) (t : IType)
  /-- SHR_R: integer SHR, register form (R89). -/
  | shrR (gd : Guard) (d : GOp) (a : GOp) (b : GOp) (t : IType)
  /-- SAR_R: integer SAR, register form (R89). -/
  | sarR (gd : Guard) (d : GOp) (a : GOp) (b : GOp) (t : IType)
  /-- ROL_R: integer ROL, register form (R89). -/
  | rolR (gd : Guard) (d : GOp) (a : GOp) (b : GOp) (t : IType)
  /-- ROR_R: integer ROR, register form (R89). -/
  | rorR (gd : Guard) (d : GOp) (a : GOp) (b : GOp) (t : IType)
  /-- MIN_R: integer MIN, register form (R89). -/
  | minR (gd : Guard) (d : GOp) (a : GOp) (b : GOp) (t : IType)
  /-- MAX_R: integer MAX, register form (R89). -/
  | maxR (gd : Guard) (d : GOp) (a : GOp) (b : GOp) (t : IType)
  /-- MINN_R: integer MINN, register form (R89). -/
  | minnR (gd : Guard) (d : GOp) (a : GOp) (b : GOp) (t : IType)
  /-- MAXN_R: integer MAXN, register form (R89). -/
  | maxnR (gd : Guard) (d : GOp) (a : GOp) (b : GOp) (t : IType)
  /-- CMP_R: integer compare into a guard, register form (R90). -/
  | cmpR (gd : Guard) (d : Fin 8) (a : GOp) (b : GOp) (t : IType) (cc : Cc)
  /-- ADD_I: integer ADD, immediate form (R89). -/
  | addI (gd : Guard) (d : GOp) (a : GOp) (t : IType) (x : BitVec 38)
  /-- SUB_I: integer SUB, immediate form (R89). -/
  | subI (gd : Guard) (d : GOp) (a : GOp) (t : IType) (x : BitVec 38)
  /-- MUL_I: integer MUL, immediate form (R89). -/
  | mulI (gd : Guard) (d : GOp) (a : GOp) (t : IType) (x : BitVec 38)
  /-- MULH_I: integer MULH, immediate form (R89). -/
  | mulhI (gd : Guard) (d : GOp) (a : GOp) (t : IType) (x : BitVec 38)
  /-- MULHN_I: integer MULHN, immediate form (R89). -/
  | mulhnI (gd : Guard) (d : GOp) (a : GOp) (t : IType) (x : BitVec 38)
  /-- DIV_I: integer DIV, immediate form (R89). -/
  | divI (gd : Guard) (d : GOp) (a : GOp) (t : IType) (x : BitVec 38)
  /-- DIVN_I: integer DIVN, immediate form (R89). -/
  | divnI (gd : Guard) (d : GOp) (a : GOp) (t : IType) (x : BitVec 38)
  /-- REM_I: integer REM, immediate form (R89). -/
  | remI (gd : Guard) (d : GOp) (a : GOp) (t : IType) (x : BitVec 38)
  /-- REMN_I: integer REMN, immediate form (R89). -/
  | remnI (gd : Guard) (d : GOp) (a : GOp) (t : IType) (x : BitVec 38)
  /-- AND_I: integer AND, immediate form (R89). -/
  | andI (gd : Guard) (d : GOp) (a : GOp) (t : IType) (x : BitVec 38)
  /-- OR_I: integer OR, immediate form (R89). -/
  | orI (gd : Guard) (d : GOp) (a : GOp) (t : IType) (x : BitVec 38)
  /-- XOR_I: integer XOR, immediate form (R89). -/
  | xorI (gd : Guard) (d : GOp) (a : GOp) (t : IType) (x : BitVec 38)
  /-- ANDN_I: integer ANDN, immediate form (R89). -/
  | andnI (gd : Guard) (d : GOp) (a : GOp) (t : IType) (x : BitVec 38)
  /-- ORN_I: integer ORN, immediate form (R89). -/
  | ornI (gd : Guard) (d : GOp) (a : GOp) (t : IType) (x : BitVec 38)
  /-- SHL_I: integer SHL, immediate form (R89). -/
  | shlI (gd : Guard) (d : GOp) (a : GOp) (t : IType) (x : BitVec 38)
  /-- SHR_I: integer SHR, immediate form (R89). -/
  | shrI (gd : Guard) (d : GOp) (a : GOp) (t : IType) (x : BitVec 38)
  /-- SAR_I: integer SAR, immediate form (R89). -/
  | sarI (gd : Guard) (d : GOp) (a : GOp) (t : IType) (x : BitVec 38)
  /-- ROL_I: integer ROL, immediate form (R89). -/
  | rolI (gd : Guard) (d : GOp) (a : GOp) (t : IType) (x : BitVec 38)
  /-- ROR_I: integer ROR, immediate form (R89). -/
  | rorI (gd : Guard) (d : GOp) (a : GOp) (t : IType) (x : BitVec 38)
  /-- MIN_I: integer MIN, immediate form (R89). -/
  | minI (gd : Guard) (d : GOp) (a : GOp) (t : IType) (x : BitVec 38)
  /-- MAX_I: integer MAX, immediate form (R89). -/
  | maxI (gd : Guard) (d : GOp) (a : GOp) (t : IType) (x : BitVec 38)
  /-- MINN_I: integer MINN, immediate form (R89). -/
  | minnI (gd : Guard) (d : GOp) (a : GOp) (t : IType) (x : BitVec 38)
  /-- MAXN_I: integer MAXN, immediate form (R89). -/
  | maxnI (gd : Guard) (d : GOp) (a : GOp) (t : IType) (x : BitVec 38)
  /-- CMP_I: integer compare into a guard, immediate form (R90). -/
  | cmpI (gd : Guard) (d : Fin 8) (a : GOp) (t : IType) (cc : Cc) (x : BitVec 38)
  /-- CLZ: CLZ of w bits (R91). -/
  | clz (gd : Guard) (d : GOp) (a : GOp) (t : IType)
  /-- CTZ: CTZ of w bits (R91). -/
  | ctz (gd : Guard) (d : GOp) (a : GOp) (t : IType)
  /-- POPC: POPC of w bits (R91). -/
  | popc (gd : Guard) (d : GOp) (a : GOp) (t : IType)
  /-- BREV: BREV of w bits (R91). -/
  | brev (gd : Guard) (d : GOp) (a : GOp) (t : IType)
  /-- BEXT: extract a bit field (R92). -/
  | bext (gd : Guard) (d : GOp) (a : GOp) (b : GOp) (sx : Bool) (x : BitVec 38)
  /-- BINS: insert a bit field into D (R92). -/
  | bins (gd : Guard) (d : GOp) (a : GOp) (b : GOp) (x : BitVec 38)
  /-- SEXT: sign-extend the low X bits (R93). -/
  | sext (gd : Guard) (d : GOp) (a : GOp) (x : BitVec 38)
  /-- ZEXT: zero-extend the low X bits (R93). -/
  | zext (gd : Guard) (d : GOp) (a : GOp) (x : BitVec 38)
  /-- ABS: absolute value of w bits (R91). -/
  | abs (gd : Guard) (d : GOp) (a : GOp) (t : IType)
  /-- NEG: negation of w bits (R91). -/
  | neg (gd : Guard) (d : GOp) (a : GOp) (t : IType)
  /-- SEL: select by a guard register (R94). -/
  | sel (gd : Guard) (d : GOp) (a : GOp) (b : GOp) (c : Fin 8)
  /-- MOV: copy between G, J and K (R95). -/
  | mov (gd : Guard) (d : GJK) (a : GJK)
  /-- MOVI: 64-bit immediate (R95). -/
  | movi (gd : Guard) (d : GJ) (imm : BitVec 64)
  /-- GAND: guard logic (R96). -/
  | gand (gd : Guard) (d : Fin 8) (a : Fin 8) (b : Fin 8)
  /-- GOR: guard logic (R96). -/
  | gor (gd : Guard) (d : Fin 8) (a : Fin 8) (b : Fin 8)
  /-- GXOR: guard logic (R96). -/
  | gxor (gd : Guard) (d : Fin 8) (a : Fin 8) (b : Fin 8)
  /-- GNOT: guard complement (R96). -/
  | gnot (gd : Guard) (d : Fin 8) (a : Fin 8)
  /-- PADD: element address (R97). -/
  | padd (gd : Guard) (d : GOp) (a : GOp) (b : GOp) (w : BitVec 10) (x : BitVec 38)
  /-- PDIF: element difference (R97). -/
  | pdif (gd : Guard) (d : GOp) (a : GOp) (b : GOp) (w : BitVec 10)
  /-- PALN: align an address (R97). -/
  | paln (gd : Guard) (d : GOp) (a : GOp) (w : BitVec 10) (up : Bool)
  /-- PBLK: address of a BQ stream element (R97). -/
  | pblk (gd : Guard) (d : GOp) (a : GOp) (b : GOp) (fmt : BqFmt)
  /-- PCHK: alignment class test (R98). -/
  | pchk (gd : Guard) (d : Fin 8) (a : GOp) (w : BitVec 10) (cls : BitVec 2) (x : BitVec 38)
  /-- JSET: write an index register (R99). -/
  | jset (gd : Guard) (d : Fin 8) (a : GOp) (x : BitVec 38)
  /-- JADD: add to an index register (R99). -/
  | jadd (gd : Guard) (d : Fin 8) (a : Fin 8) (b : GOp) (x : BitVec 38)
  /-- FADD: scalar float FADD (R103). -/
  | fadd (gd : Guard) (d : GOp) (a : GOp) (b : GOp) (t : FType) (rnd : Rnd)
  /-- FSUB: scalar float FSUB (R103). -/
  | fsub (gd : Guard) (d : GOp) (a : GOp) (b : GOp) (t : FType) (rnd : Rnd)
  /-- FMUL: scalar float FMUL (R103). -/
  | fmul (gd : Guard) (d : GOp) (a : GOp) (b : GOp) (t : FType) (rnd : Rnd)
  /-- FFMA: fused multiply-add (R103). -/
  | ffma (gd : Guard) (d : GOp) (a : GOp) (b : GOp) (c : GOp) (t : FType) (rnd : Rnd)
  /-- FDIV: scalar float divide (R103). -/
  | fdiv (gd : Guard) (d : GOp) (a : GOp) (b : GOp) (t : FType) (rnd : Rnd)
  /-- FSQRT: scalar float square root (R103). -/
  | fsqrt (gd : Guard) (d : GOp) (a : GOp) (t : FType) (rnd : Rnd)
  /-- FMIN: scalar float FMIN (R104). -/
  | fmin (gd : Guard) (d : GOp) (a : GOp) (b : GOp) (t : FType)
  /-- FMAX: scalar float FMAX (R104). -/
  | fmax (gd : Guard) (d : GOp) (a : GOp) (b : GOp) (t : FType)
  /-- FCMP: float compare into a guard (R105). -/
  | fcmp (gd : Guard) (d : Fin 8) (a : GOp) (b : GOp) (t : FType) (cc : FCc)
  /-- FCVT: conversion (R106). -/
  | fcvt (gd : Guard) (d : GOp) (a : GOp) (df : CvtType) (sf : CvtType) (rnd : Rnd) (prop : Bool)
  /-- FCLASS: FCLASS (R104). -/
  | fclass (gd : Guard) (d : GOp) (a : GOp) (t : FType)
  /-- FNEG: FNEG (R104). -/
  | fneg (gd : Guard) (d : GOp) (a : GOp) (t : FType)
  /-- VADD: lane-wise ADD (R112). -/
  | vadd (gd : Guard) (d : Fin 32) (a : Fin 32) (b : Fin 32) (ar : VArith)
  /-- VSUB: lane-wise SUB (R112). -/
  | vsub (gd : Guard) (d : Fin 32) (a : Fin 32) (b : Fin 32) (ar : VArith)
  /-- VMUL: lane-wise MUL (R112). -/
  | vmul (gd : Guard) (d : Fin 32) (a : Fin 32) (b : Fin 32) (ar : VArith)
  /-- VFMA: lane-wise multiply-add (R112). -/
  | vfma (gd : Guard) (d : Fin 32) (a : Fin 32) (b : Fin 32) (c : Fin 32) (ar : VArith)
  /-- VMIN: lane-wise MIN (R112). -/
  | vmin (gd : Guard) (d : Fin 32) (a : Fin 32) (b : Fin 32) (t : VType)
  /-- VMAX: lane-wise MAX (R112). -/
  | vmax (gd : Guard) (d : Fin 32) (a : Fin 32) (b : Fin 32) (t : VType)
  /-- VABS: lane-wise ABS (R112). -/
  | vabs (gd : Guard) (d : Fin 32) (a : Fin 32) (sg : VSign)
  /-- VNEG: lane-wise NEG (R112). -/
  | vneg (gd : Guard) (d : Fin 32) (a : Fin 32) (sg : VSign)
  /-- VAND: lane-wise AND (R112). -/
  | vand (gd : Guard) (d : Fin 32) (a : Fin 32) (b : Fin 32) (t : IType)
  /-- VOR: lane-wise OR (R112). -/
  | vor (gd : Guard) (d : Fin 32) (a : Fin 32) (b : Fin 32) (t : IType)
  /-- VXOR: lane-wise XOR (R112). -/
  | vxor (gd : Guard) (d : Fin 32) (a : Fin 32) (b : Fin 32) (t : IType)
  /-- VSHL: lane-wise shift SHL (R112). -/
  | vshl (gd : Guard) (d : Fin 32) (a : Fin 32) (cnt : ShCount) (t : IType)
  /-- VSHR: lane-wise shift SHR (R112). -/
  | vshr (gd : Guard) (d : Fin 32) (a : Fin 32) (cnt : ShCount) (t : IType)
  /-- VSAR: lane-wise shift SAR (R112). -/
  | vsar (gd : Guard) (d : Fin 32) (a : Fin 32) (cnt : ShCount) (t : IType)
  /-- VCMP: lane-wise compare into a mask (R113). -/
  | vcmp (gd : Guard) (d : Fin 32) (a : Fin 32) (b : Fin 32) (cond : VCond)
  /-- VSEL: bitwise select (R113). -/
  | vsel (gd : Guard) (d : Fin 32) (a : Fin 32) (b : Fin 32) (c : Fin 32)
  /-- VDOT: four grouped dot products (R114). -/
  | vdot (gd : Guard) (d : Fin 32) (a : Fin 32) (b : Fin 32) (dot : VDotArg)
  /-- VCVT: lane conversion, one part (R115). -/
  | vcvt (gd : Guard) (d : Fin 32) (a : Fin 32) (df : CvtType) (sf : CvtType) (rnd : Rnd) (prop : Bool) (part : BitVec 3)
  /-- VPACK: pack lanes into fields or a BQ block (R116). -/
  | vpack (gd : Guard) (d : Fin 32) (a : Fin 32) (p : PackArg)
  /-- VUNPK: unpack fields or a BQ block (R118). -/
  | vunpk (gd : Guard) (d : Fin 32) (a : Fin 32) (p : UnpkArg)
  /-- VSPLAT: broadcast a scalar (R119). -/
  | vsplat (gd : Guard) (d : Fin 32) (a : GOp) (t : VType) (x : BitVec 38)
  /-- VEXT: extract a lane (R119). -/
  | vext (gd : Guard) (d : GOp) (a : Fin 32) (b : GOp) (t : VType) (x : BitVec 38)
  /-- VINS: insert a lane (R119). -/
  | vins (gd : Guard) (d : Fin 32) (a : GOp) (b : GOp) (t : VType) (x : BitVec 38)
  /-- VPERM: permute lanes of two registers (R120). -/
  | vperm (gd : Guard) (d : Fin 32) (a : Fin 32) (b : Fin 32) (c : Fin 32) (t : VType)
  /-- VTBL: byte table lookup (R121). -/
  | vtbl (gd : Guard) (d : Fin 32) (a : Fin 32) (b : Fin 32) (tn : BitVec 3) (x : BitVec 38)
  /-- VRED: reduce the lanes (R124). -/
  | vred (gd : Guard) (d : GOp) (a : Fin 32) (ra : VRedArg)
  /-- CHAIN: stream elements through a program (R126). -/
  | chain (gd : Guard) (d : GOp) (a : GOp) (b : GOp) (c : Fin 32) (sty : CvtType) (dty : CvtType) (rnd : Rnd) (prop : Bool) (ssp : Bool) (dsp : Bool)
  /-- LD: scalar load (R135). -/
  | ld (gd : Guard) (d : GOp) (a : GOp) (b : GOp) (w : BitVec 6) (sx : Bool) (o : LoadOrd) (sc : Scope) (x : BitVec 38)
  /-- LDP: scalar load (R135). -/
  | ldp (gd : Guard) (d : GOp) (a : GOp) (b : GOp) (w : BitVec 6) (sx : Bool) (o : LoadOrd) (sc : Scope) (x : BitVec 38)
  /-- ST: scalar store (R135). -/
  | st (gd : Guard) (d : GOp) (a : GOp) (b : GOp) (w : BitVec 6) (o : StoreOrd) (sc : Scope) (x : BitVec 38)
  /-- STP: scalar store (R135). -/
  | stp (gd : Guard) (d : GOp) (a : GOp) (b : GOp) (w : BitVec 6) (o : StoreOrd) (sc : Scope) (x : BitVec 38)
  /-- VLD: vector load (R136). -/
  | vld (gd : Guard) (d : Fin 32) (a : GOp) (b : GOp) (o : LoadOrd) (sc : Scope) (x : BitVec 38)
  /-- VST: vector store (R136). -/
  | vst (gd : Guard) (d : Fin 32) (a : GOp) (b : GOp) (o : StoreOrd) (sc : Scope) (x : BitVec 38)
  /-- VLDP: vector load (R136). -/
  | vldp (gd : Guard) (d : Fin 32) (a : GOp) (b : GOp) (o : LoadOrd) (sc : Scope) (x : BitVec 38)
  /-- VSTP: vector store (R136). -/
  | vstp (gd : Guard) (d : Fin 32) (a : GOp) (b : GOp) (o : StoreOrd) (sc : Scope) (x : BitVec 38)
  /-- PREF: prefetch hint (R137). -/
  | pref (gd : Guard) (a : GOp) (b : GOp) (x : BitVec 38)
  /-- DEP: deposit into a mark cell (R150). -/
  | dep (gd : Guard) (d : GOp) (a : GOp) (b : GOp) (cmb : Cmb) (o : StoreOrd) (sc : Scope) (x : BitVec 38)
  /-- MRD: evaluate a mark cell (R151). -/
  | mrd (gd : Guard) (d : GOp) (a : GOp) (o : LoadOrd) (sc : Scope) (x : BitVec 38)
  /-- SENSE: evaluate a window of cells (R153). -/
  | sense (gd : Guard) (d : GOp) (a : GOp) (win : Window) (rot : Bool) (o : LoadOrd) (sc : Scope) (x : BitVec 38)
  /-- TICKR: field tick (R154). -/
  | tickr (gd : Guard) (d : GOp) (a : GOp) (x : BitVec 38)
  /-- TADV: field tick (R154). -/
  | tadv (gd : Guard) (d : GOp) (a : GOp) (x : BitVec 38)
  /-- AMO: atomic read-modify-write (R139). -/
  | amo (gd : Guard) (d : GOp) (a : GOp) (b : GOp) (f : AmoArg) (o : Ord) (sc : Scope) (x : BitVec 38)
  /-- CAS: compare and swap (R140). -/
  | cas (gd : Guard) (d : GOp) (a : GOp) (b : GOp) (c : GOp) (t : VType) (o : Ord) (sc : Scope) (x : BitVec 38)
  /-- RED: atomic reduction (R141). -/
  | red (gd : Guard) (a : GOp) (b : GOp) (f : AmoArg) (o : Ord) (sc : Scope) (x : BitVec 38)
  /-- FENCE: fence (R143). -/
  | fence (gd : Guard) (o : Ord) (sc : Scope)
  /-- MARM: arm a monitor (R144). -/
  | marm (gd : Guard) (a : GOp) (w : BitVec 6) (mon : BitVec 2) (sp : Bool) (x : BitVec 38)
  /-- WAITA: wait on the monitors (R145). -/
  | waita (gd : Guard) (d : GOp) (a : GOp) (x : BitVec 38)
  /-- MDIS: disarm monitors (R147). -/
  | mdis (gd : Guard) (mon : BitVec 2) (all : Bool)
  /-- COPY: tile copy (R163). -/
  | copy (gd : Guard) (d : GOp) (a : GOp) (b : GOp) (mode : CopyMode) (tag : BitVec 6) (sc : Scope) (prop : Bool) (ta : BitVec 12) (tb : BitVec 12) (lm : BitVec 3) (ln : BitVec 3)
  /-- COPYV: versioned tile commit (R166). -/
  | copyv (gd : Guard) (d : GOp) (a : GOp) (b : GOp) (c : GOp) (tag : BitVec 6) (sc : Scope) (prop : Bool) (ta : BitVec 12) (tb : BitVec 12) (lm : BitVec 3) (ln : BitVec 3)
  /-- CSTAGE: release an entry of the static schedule (R168). -/
  | cstage (gd : Guard) (d : GOp) (a : GOp) (x : BitVec 38)
  /-- WMARK: copy that advances a watermark channel (R167). -/
  | wmark (gd : Guard) (d : GOp) (a : GOp) (b : GOp) (tag : BitVec 6) (ch : BitVec 2) (sc : Scope) (prop : Bool) (ta : BitVec 12) (tb : BitVec 12) (lm : BitVec 3) (ln : BitVec 3)
  /-- TWAIT: wait for tags (R171). -/
  | twait (gd : Guard) (a : GOp) (x : BitVec 38)
  /-- TFIND: find a set tag (R171). -/
  | tfind (gd : Guard) (d : GOp) (a : GOp) (x : BitVec 38)
  /-- TCLR: clear tags (R171). -/
  | tclr (gd : Guard) (a : GOp) (x : BitVec 38)
  /-- MDLD: load side memory (R169). -/
  | mdld (gd : Guard) (d : GOp) (a : GOp) (b : GOp) (tag : BitVec 6) (ta : BitVec 12) (lm : BitVec 3) (ln : BitVec 3)
  /-- TDSET: write a tensor descriptor (R161). -/
  | tdset (gd : Guard) (a : Fin 32) (ta : BitVec 12)
  /-- TDGET: read a tensor descriptor (R161). -/
  | tdget (gd : Guard) (d : Fin 32) (ta : BitVec 12)
  /-- LSET: write a loop register (R162). -/
  | lset (gd : Guard) (a : GOp) (cp : Bool) (lr : BitVec 3) (x : BitVec 38)
  /-- MJOB: matrix job (R173). -/
  | mjob (gd : Guard) (d : GOp) (a : GOp) (b : GOp) (c : GOp) (hdr : BitVec 3) (pro : BitVec 6) (cvt : Bool) (prop : Bool) (ta : BitVec 12) (tb : BitVec 12) (lm : BitVec 3) (ln : BitVec 3) (lk : BitVec 3) (xo : BitVec 5)
  /-- MJOBR: remote matrix job (R177). -/
  | mjobr (gd : Guard) (d : GOp) (a : GOp) (b : GOp) (c : Fin 63) (hdr : BitVec 3) (pro : BitVec 6) (cvt : Bool) (prop : Bool) (ta : BitVec 12) (tb : BitVec 12) (lm : BitVec 3) (ln : BitVec 3) (lk : BitVec 3) (xo : BitVec 5)
  /-- MPOLL: poll for a result record (R176). -/
  | mpoll (gd : Guard) (d : GOp)
  /-- MWAIT: wait for a result record (R176). -/
  | mwait (gd : Guard) (d : GOp)
  /-- MCLR: clear a tile header (R178). -/
  | mclr (gd : Guard) (hdr : BitVec 3)
  /-- MBURST: declare a burst (R179). -/
  | mburst (gd : Guard) (lm : BitVec 3)
  /-- ADDW: add into the window (R183). -/
  | addw (gd : Guard) (a : GV) (sf : AddwType)
  /-- RNDW: round the window (R183). -/
  | rndw (gd : Guard) (d : GOp) (clr : Bool)
  /-- CLRW: clear the window (R183). -/
  | clrw (gd : Guard)
  /-- FORK: fork a child (R188). -/
  | fork (gd : Guard) (d : GOp) (a : GOp) (b : GOp) (pri : PriSel) (x : BitVec 38)
  /-- JOIN: wait for a node to count down (R193). -/
  | join (gd : Guard) (a : GOp)
  /-- SPAWNR: spawn a range (R188). -/
  | spawnr (gd : Guard) (d : GOp) (a : GOp) (b : GOp) (c : GOp) (pri : PriSel) (grain : BitVec 6) (x : BitVec 38)
  /-- RNEXT: claim an index (R189). -/
  | rnext (gd : Guard) (d : GOp)
  /-- STEAL: steal work (R191). -/
  | steal (gd : Guard) (d : GOp) (win : Window)
  /-- YIELD: suspend to the deque tail (R192). -/
  | yield (gd : Guard)
  /-- EXIT: retire (R194). -/
  | exit (gd : Guard)
  /-- LVLADD_ADD: add to a node counter (R196). -/
  | lvladdAdd (gd : Guard) (d : GOp) (a : GOp) (b : GOp) (x : BitVec 38)
  /-- LVLADD_OPEN: open a node (R196). -/
  | lvladdOpen (gd : Guard) (d : GOp) (a : GOp) (b : GOp) (lvl : OpenLevel) (x : BitVec 38)
  /-- LVLADD_DRAIN: drain a node (R196). -/
  | lvladdDrain (gd : Guard) (d : GOp) (a : GOp) (b : GOp) (x : BitVec 38)
  /-- LVLWAIT: wait for a node to end (R197). -/
  | lvlwait (gd : Guard) (d : GOp) (a : GOp)
  /-- CANCEL: set a cancel flag (R197). -/
  | cancel (gd : Guard) (a : GOp)
  /-- CLAMP: arrive at a clamp (R198). -/
  | clamp (gd : Guard) (d : GOp) (a : GOp) (x : BitVec 38)
  /-- LAUNCH: start a child launch (R199). -/
  | launch (gd : Guard) (d : GOp) (a : GOp) (b : GOp) (c : GOp)
  /-- DQPUSH: push a delta record (R200). -/
  | dqpush (gd : Guard) (a : GOp) (b : GOp) (c : GOp) (q : BitVec 5)
  /-- DQPOP: pop a delta record (R201). -/
  | dqpop (gd : Guard) (d : Fin 32) (q : BitVec 5)
  /-- ARRADD: arrangement add (R202). -/
  | arradd (gd : Guard) (d : GOp) (a : GOp) (b : GOp) (c : GOp) (arr : BitVec 4)
  /-- ARRGET: arrangement get (R202). -/
  | arrget (gd : Guard) (d : GOp) (a : GOp) (b : GOp) (c : GOp) (arr : BitVec 4)
  /-- QWAIT: wait for quiescence (R203). -/
  | qwait (gd : Guard) (a : GOp) (b : GOp)
  /-- TRAP: raise a trap (R208). -/
  | trap (gd : Guard) (x : BitVec 38)
  /-- RETT: return from a trap (R207). -/
  | rett (gd : Guard)
  /-- CRR: read a control register (R204). -/
  | crr (gd : Guard) (d : GOp) (hi : Bool) (cr : Cr)
  /-- CRW: write a control register (R204). -/
  | crw (gd : Guard) (a : GOp) (hi : Bool) (cr : Cr)
  /-- TLBINV: invalidate translations (R209). -/
  | tlbinv (gd : Guard) (a : GOp) (b : GOp) (all : Bool)
  /-- REPLAY: retry stalled accesses (R316). -/
  | replay (gd : Guard) (a : GOp)
  /-- SEAL: seal a context (R332). -/
  | seal (gd : Guard) (d : GOp) (a : GOp) (b : GOp) (c : GOp)
  /-- UNSEAL: unseal a context (R333). -/
  | unseal (gd : Guard) (d : GOp) (a : GOp) (b : GOp) (c : GOp)
  /-- FEAT: read a CAPS bit (R211). -/
  | feat (gd : Guard) (d : Fin 8) (a : GOp) (x : BitVec 38)
  /-- HANDLER_RECORD_PUSH: a handler or initial record that waited for room at a node is pushed (R284). -/
  | handlerRecordPush (ptag : Nat) (node : Nat)
  /-- WAITA_WAKE: a sleeping WAITA returns the lowest fired monitor (R145). -/
  | waitaWake (c : Nat) (l : Nat)
  /-- WAITA_TIMEOUT: a WAITA's timeout expires (R145). -/
  | waitaTimeout (c : Nat) (l : Nat)
  /-- TWAIT_WAKE: a sleeping TWAIT returns or delivers a fault (R171). -/
  | twaitWake (c : Nat) (l : Nat)
  /-- MWAIT_WAKE: a sleeping MWAIT pops its record (R176). -/
  | mwaitWake (c : Nat) (l : Nat)
  /-- COMMAND_PLACE_WAKE: a strand that sleeps for a place of q0, q1 or q2 takes it (R158). -/
  | commandPlaceWake (c : Nat) (l : Nat)
  /-- WATERMARK_STALL_END: a stalled pool access proceeds (R167). -/
  | watermarkStallEnd (c : Nat) (l : Nat)
  /-- LVLWAIT_WAKE: a sleeping LVLWAIT returns the terminal status (R197). -/
  | lvlwaitWake (c : Nat) (l : Nat)
  /-- DQPOP_WAKE: a sleeping DQPOP takes a record (R201). -/
  | dqpopWake (c : Nat) (l : Nat)
  /-- QWAIT_WAKE: a sleeping QWAIT finds quiescence (R203). -/
  | qwaitWake (c : Nat) (l : Nat)
  /-- TLBINV_DONE: a TLBINV returns (R209). -/
  | tlbinvDone (c : Nat) (l : Nat)
  /-- SEAL_COMPLETE: an ingot is written, its counter committed and SEAL returns (R332). -/
  | sealComplete (c : Nat) (l : Nat) (nonce : Nat) (size : Nat)
  /-- UNSEAL_COMPLETE: an UNSEAL is checked, restores and returns its status (R333). -/
  | unsealComplete (c : Nat) (l : Nat) (frames : List Nat) (keys : List Nat) (tables : List Nat)
  /-- HOME_SLICE_ACCESS: request i of a core is performed at its home slice (R18). -/
  | homeSliceAccess (c : Nat) (i : Nat) (softErr : Bool)
  /-- RED_PERFORM: RED i of a core is performed (R141). -/
  | redPerform (c : Nat) (i : Nat) (softErr : Bool)
  /-- LOAD_RETURN: reply i reaches its strand (R54). -/
  | loadReturn (c : Nat) (i : Nat)
  /-- LINE_PARITY_REFETCH: a line that failed parity is fetched once more (R64). -/
  | lineParityRefetch (c : Nat) (l : Nat)
  /-- GROUP_OPEN_DEFERRED: waiting miss i of a die opens its group (R312). -/
  | groupOpenDeferred (die : Nat) (i : Nat)
  /-- PAGE_WALK_COMPLETE: the walk of group i of a die ends; bad names the level whose entry met an uncorrectable error (R309). -/
  | pageWalkComplete (die : Nat) (i : Nat) (bad : Option Nat)
  /-- RETRY_WALK: group i of a die walks again after REPLAY; bad as above (R316). -/
  | retryWalk (die : Nat) (i : Nat) (bad : Option Nat)
  /-- FAULT_BUFFER_CLR: CLR is written to a fault buffer (R313). -/
  | faultBufferClr (ptag : Nat)
  /-- FAULT_BUFFER_DROP_CLEAR: 1 is written to DROP of a fault buffer (R313). -/
  | faultBufferDropClear (ptag : Nat)
  /-- ERROR_LOG_ENTRY: a memory error is logged: hard when uncorrectable, else corrected, one more of its frame (R321). -/
  | errorLogEntry (die : Nat) (pa : Nat) (hard : Bool)
  /-- ENGINE_SCHEDULE: a scheduler chooses its next command (R270). -/
  | engineSchedule (cl : Nat) (mat : Bool)
  /-- COPY_STEP: a copy unit moves up to 64 lines; softErr names an element that meets an uncorrectable error, and late says
  that what it writes into memory and pools is still under way (R249, R269). -/
  | copyStep (cl : Nat) (turn : CopyTurn)
  /-- COPY_COMPLETE: a copy-unit command whose last step has ended completes (R170). -/
  | copyComplete (cl : Nat)
  /-- FORWARD_RESERVATION: the reservations of a forwarding chain are made (R165). -/
  | forwardReservation (cl : Nat)
  /-- FORWARD_RESERVATION_TIMEOUT: the reservations of a forwarding chain were not made in time (R165). -/
  | forwardReservationTimeout (cl : Nat)
  /-- SCHEDULE_ENTRY_START: a copy unit starts a released schedule entry (R168). -/
  | scheduleEntryStart (cl : Nat)
  /-- MATRIX_STEP: a matrix engine runs one step; softErr names an output element whose operands met an error (R269). -/
  | matrixStep (cl : Nat) (softErr : Option Nat)
  /-- MATRIX_JOB_COMPLETE: a matrix job whose last step has ended leaves its record (R176). -/
  | matrixJobComplete (cl : Nat)
  /-- RESULT_RECORD_ENTER: a record that waits enters a freed result place (R281). -/
  | resultRecordEnter (c : Nat)
  /-- MJOBR_ARRIVAL: a remote job of a core reaches its engine (R177). -/
  | mjobrArrival (c : Nat) (i : Nat)
  /-- REMOTE_PLACE_GRANT: a remote job takes a free remote place (R177). -/
  | remotePlaceGrant (cl : Nat)
  /-- MBURST_TIMEOUT: a burst without pending jobs ends (R179). -/
  | mburstTimeout (c : Nat)
  /-- RAMP_DOWN: an engine runs its ramp-down filler (R351). -/
  | rampDown (cl : Nat)
  /-- BUDGET_RESERVE: a job that failed the budget check too long is reserved its ramp (R271). -/
  | budgetReserve (cl : Nat)
  /-- COMMAND_AGING: a waiting command rises one priority level (R270). -/
  | commandAging (c : Nat) (mat : Bool) (i : Nat)
  /-- SLOT_FILL: a free slot is filled from the deque head (R265). -/
  | slotFill (c : Nat)
  /-- RECORD_AGING: record i of a deque ages one level (R265). -/
  | recordAging (c : Nat) (i : Nat)
  /-- IMPLICIT_STEAL: an idle core asks a neighbour for work (R266). -/
  | implicitSteal (c : Nat)
  /-- STEAL_REQUEST_SERVE: the victim of steal request i answers (R191). -/
  | stealRequestServe (i : Nat)
  /-- STEAL_REPLY: the answer of steal request i reaches the thief (R191). -/
  | stealReply (i : Nat)
  /-- HELD_RECORD_PUSH: a released JOIN record that waited for room is pushed (R284). -/
  | heldRecordPush (ptag : Nat) (node : Nat)
  /-- CANCEL_PROPAGATE: the cancel flag of its parent reaches a node (R278). -/
  | cancelPropagate (ptag : Nat) (node : Nat)
  /-- PROGRESS_CHECK_REPORT: a strand ready too long is reported (R268). -/
  | progressCheckReport (c : Nat) (l : Nat)
  /-- DELTA_CONSOLIDATE: push i of a core is consolidated (R200). -/
  | deltaConsolidate (c : Nat) (i : Nat)
  /-- BUFFER_TIMED_DRAIN: a buffer drains 4,096 ticks after its oldest entry (R288). -/
  | bufferTimedDrain (ptag : Nat) (q : Nat)
  /-- DRAIN_RING_ROOM: a drain that waited for room proceeds (R288). -/
  | drainRingRoom (ptag : Nat) (q : Nat)
  /-- STAGE_BATCH_FORM: a batch is formed and its stage record pushed (R290). -/
  | stageBatchForm (ptag : Nat) (q : Nat)
  /-- CLAMP_ARRIVE: arrival i of a partition reaches its clamp's root (R294). -/
  | clampArrive (ptag : Nat) (i : Nat)
  /-- CLAMP_WAKE: a release reaches a participant (R295). -/
  | clampWake (c : Nat) (l : Nat)
  /-- TICK_ADVANCE: a field advances by one tick (R298). -/
  | tickAdvance (ptag : Nat) (fid : Nat)
  /-- FIELD_TIMER_TICK: a field's timer period ends (R297). -/
  | fieldTimerTick (ptag : Nat) (fid : Nat)
  /-- FETTLER_NORMALISE: the fettler rewrites a cell (R304). -/
  | fettlerNormalise (ptag : Nat) (fid : Nat) (cell : Nat)
  /-- FIELD_FREEZE: a field is frozen (R302). -/
  | fieldFreeze (ptag : Nat) (fid : Nat)
  /-- FIELD_THAW: a field is thawed (R302). -/
  | fieldThaw (ptag : Nat) (fid : Nat)
  /-- LAUNCH_PLACEMENT: a partition's first pending launch is placed, with the batch areas its queues get (R261). -/
  | launchPlacement (ptag : Nat) (areas : List Nat)
  /-- LAUNCH_RETIRE: a launch is retired (R263). -/
  | launchRetire (ptag : Nat) (i : Nat)
  /-- LATE_CAPTURE_REPLAY: a core cycle is stretched and run again, twice when again is set (R350). -/
  | lateCaptureReplay (c : Nat) (again : Bool)
  /-- BUDGET_DIVISION: the budget tree divides, with the measured power in mW, the cores' demands, their voltages in mV and their energy in microjoules (R345). -/
  | budgetDivision (measured : Nat) (demands : List (Nat × Nat)) (volts : List (Nat × Nat)) (energy : List (Nat × Nat))
  /-- THERMAL_REPORT: the dies report their temperatures (R354). -/
  | thermalReport (temps : List Int)
  /-- CAP_WRITE: the board controller writes the package cap (R346). -/
  | capWrite (watts : Nat)
  /-- SNAPSHOT_TRIGGER: a snapshot is asked for (R362). -/
  | snapshotTrigger
  /-- SNAPSHOT_LATCH: a snapshot latches (R362). -/
  | snapshotLatch
  /-- HEARTBEAT_WRITE: the service writes its heartbeat word (R353). -/
  | heartbeatWrite (v : Word)
  /-- HEARTBEAT_MISS: a missed heartbeat resets the management cores (R353). -/
  | heartbeatMiss
  /-- ENJ_CLEAR: bits of an energy word are cleared (R348). -/
  | enjClear (ptag : Nat) (mask : Word)
  /-- GATE_BEGIN: a unit begins to gate (R352). -/
  | gateBegin (unit : GateUnit)
  /-- GATE_WAKE: a request wakes a gated unit (R352). -/
  | gateWake (unit : GateUnit)
  /-- CLOCK_RESTART: a paused core clock restarts (R349). -/
  | clockRestart (c : Nat)
  /-- POWER_GOOD: start-up begins: firmware image and backup, the outcomes of its units, and the firmware's strands as management core and entry (R356). -/
  | powerGood (image : FwImage) (backup : FwImage) (units : List UnitOutcome) (mgmt : List (Nat × Nat)) (svcRoot : Nat)
  /-- UNIT_REDO: the service redoes a skipped unit (R358). -/
  | unitRedo (o : UnitOutcome)
  /-- PORT_ENABLE: the service enables a port (R336). -/
  | portEnable (p : Nat)
  /-- PORT_DISABLE: the service disables a port (R336). -/
  | portDisable (p : Nat)
  /-- PORT_TRAINED: a port is trained towards a peer's port (R336). -/
  | portTrained (p : Nat) (dev : Nat) (pport : Nat)
  /-- TRAINING_TIMEOUT: a port's training takes too long (R336). -/
  | trainingTimeout (p : Nat)
  /-- LOSS_OF_SIGNAL: a port loses its signal (R336). -/
  | lossOfSignal (p : Nat)
  /-- FLIT_REPLAY: a flit is replayed: crc when its CRC failed, same when it is the flit replayed last (R335). -/
  | flitReplay (p : Nat) (crc : Bool) (same : Bool)
  /-- PEER_RESPONSE: the answer of peer request i arrives (R338). -/
  | peerResponse (i : Nat) (r : PeerAnswer)
  /-- PEER_ACCESS_TIMEOUT: peer request i has no answer in time (R338). -/
  | peerAccessTimeout (i : Nat)
  /-- COLLECTIVE_POST: a partition's oldest doorbell post is taken (R339). -/
  | collectivePost (ptag : Nat)
  /-- COLLECTIVE_COMPLETE: a collective ends, with what the other devices' ranks contribute (R341). -/
  | collectiveComplete (grp : Nat) (parts : List (Nat × Contribution))
  /-- COLLECTIVE_TIMEOUT: a collective's timeout expires; dev is the lowest device missing (R341). -/
  | collectiveTimeout (grp : Nat) (dev : Nat)
  /-- UE_PACKET_RECEIVE: a packet arrives at an Ultra Ethernet port (R342). -/
  | uePacketReceive (p : Nat) (pkt : UePacket)
  /-- RMA_WRITE_COMPLETE: a port reports a delivered message complete (R247). -/
  | rmaWriteComplete (p : Nat)
  /-- BUILD_REQUEST: a context is built (R325). -/
  | buildRequest (h : ReqHdr) (body : BuildBody)
  /-- FREE_REQUEST: a context is freed (R325). -/
  | freeRequest (h : ReqHdr)
  /-- LOAD_REQUEST: a kernel is loaded under an index from an SKO file of so many bits into frames (R255). -/
  | loadRequest (h : ReqHdr) (kidx : Nat) (file : Nat) (bits : Nat) (frames : List Nat) (tables : List Nat)
  /-- UNLOAD_REQUEST: a kernel is unloaded (R255). -/
  | unloadRequest (h : ReqHdr) (kidx : Nat)
  /-- LAUNCH_REQUEST: a job: kernel, core count, frame pointer and parent, 0 for a job node that the service opens (R257). -/
  | launchRequest (h : ReqHdr) (kidx : Nat) (n : Nat) (fp : Word) (parent : Nat)
  /-- PARK_REQUEST: a context is to be parked; the request reaches core number i of the partition (R327). -/
  | parkRequest (h : ReqHdr) (i : Nat)
  /-- CONTEXT_PARKED: every core is parked (R325). -/
  | contextParked (ptag : Nat)
  /-- RESUME_REQUEST: a parked context resumes (R328). -/
  | resumeRequest (h : ReqHdr)
  /-- RESET_REQUEST: a partition is reset (R329). -/
  | resetRequest (h : ReqHdr)
  /-- FATAL_FAULT: a fatal fault resets a context (R325). -/
  | fatalFault (ptag : Nat)
  /-- RESET_COMPLETE: a partition reset completes (R329). -/
  | resetComplete (ptag : Nat)
  /-- TAG_HOLD_EXPIRY: a freed tag may be assigned again (R329). -/
  | tagHoldExpiry (ptag : Nat)
  /-- SEAL_REQUEST: a seal request: sealing-root slot, chain, and where the ingot goes; the service issues a SEAL (R332). -/
  | sealRequest (h : ReqHdr) (root : Nat) (ch : Nat) (ea : Nat) (nonce : Nat) (size : Nat)
  /-- UNSEAL_REQUEST: an unseal request; the service issues an UNSEAL (R333). -/
  | unsealRequest (h : ReqHdr) (root : Nat) (ch : Nat) (ea : Nat) (frames : List Nat) (keys : List Nat) (tables : List Nat)
  /-- QUERY_REQUEST: a query of status and quotas, and of the device's quote for a nonce (R343, R360). -/
  | queryRequest (q : QueryAsk)
  /-- GROUP_SETUP_REQUEST: a collective group is set up: its number and its ranks as device and tag (R343). -/
  | groupSetupRequest (h : ReqHdr) (grp : Nat) (ranks : List (Nat × Nat))
  /-- HANDOFF_SEND: a chain is handed to another device (R334). -/
  | handoffSend (ch : Nat)
  /-- HANDOFF_RECEIVE: a chain is received (R334). -/
  | handoffReceive (ch : Nat) (n : Nat) (tenant : Nat)
  /-- TENANT_TOKEN: a tenant token is presented (R334). -/
  | tenantToken (tok : Token)
  /-- CHAIN_RELEASE: a tenant releases a chain (R332). -/
  | chainRelease (ch : Nat)
  /-- POWER_LOSS: the supply is lost (R332). -/
  | powerLoss
  /-- CLAMP_RECONFIGURATION: a clamp is reconfigured (R293). -/
  | clampReconfiguration (ptag : Nat) (cfg : ClampCfg)
  /-- ENGINE_EPOCH_ADVANCE: an engine's capability epoch advances (R177). -/
  | engineEpochAdvance (cl : Nat)
  /-- QUOTA_CHANGE: a tenant's quota changes (R371). -/
  | quotaChange (tenant : Nat) (kind : QuotaKind) (value : Nat)
  /-- MEMORY_KEY_INSTALL: key material is installed in a slot, or the slot is zeroed (R324). -/
  | memoryKeyInstall (slot : Nat) (tenant : Nat) (material : Option Nat)
  /-- SEALING_ROOT_INSTALL: a sealing root is placed in a slot (R324). -/
  | sealingRootInstall (slot : Nat) (tenant : Nat) (root : Nat)
  /-- RAIL_VOTE: a partition votes a rail level in a region (R347). -/
  | railVote (ptag : Nat) (level : Nat) (region : Nat)
  deriving DecidableEq, Repr

end Sys2Proof
end

