-- ==== Sys2Proof/WellFormed.lean ====
section
/-! DEFINITION. Well-formedness of an instruction: the checks of R74, R80 and of the operand tables that the operand
types of Syntax.lean do not already make. -/

namespace Sys2Proof

/-- GD = 0b1000 (NEG k0) is reserved (R80). -/
def Guard.wf (g : Guard) : Bool := !(g.neg && g.k == 0)

/-- Operand width of an integer type (R86). -/
def IType.width : IType → Nat
  | .i64 | .n64 => 64
  | .i32 | .n32 => 32
  | .i16 | .n16 => 16
  | .i8 | .n8 => 8

/-- Width of a conversion type (R24, R106). -/
def CvtType.width : CvtType → Nat
  | .f32 | .i32 | .n32 => 32
  | .bf16 | .f16 | .i16 | .n16 => 16
  | .e4m3 | .e5m2 | .i8 | .n8 => 8
  | .e3m2 | .e2m3 => 6
  | .e2m1 => 4
  | .i64 | .n64 => 64

/-- Elements of a v register at a lane width (R108). -/
def lanesOf (w : Nat) : Nat := 128 / w

/-- ovf=prop is assigned only with a target of e4m3 or e5m2 (R106). -/
def ovfWf (df : CvtType) (prop : Bool) : Bool := !prop || df == .e4m3 || df == .e5m2

/-- part= is below ceil(Max(Es, Ed) / n), n the smaller of the two element counts (R115). -/
def partWf (df sf : CvtType) (part : Nat) : Bool :=
  let es := lanesOf sf.width
  let ed := lanesOf df.width
  let n := min es ed
  part < (max es ed + n - 1) / n

/-- w= of the integer packs: 1 to the lane width (R116). -/
def packWf (t : IType) (w : BitVec 7) : Bool := 1 ≤ w.toNat && w.toNat ≤ t.width

def PackArg.wf : PackArg → Bool
  | .int t w _ _ => packWf t w
  | .bq .. => true

def UnpkArg.wf : UnpkArg → Bool
  | .int t w _ => packWf t w
  | .bq .. => true

/-- A run of one cell is not assigned (R152). -/
def Window.wf : Window → Bool
  | .run len => len != 1
  | _ => true

/-- LOOP does not accept g0 (R85). -/
def GOp.notG0 : GOp → Bool
  | .g n => n != 0
  | .rel _ => true

/-- XO of a matrix job: bit 2 is 0, and so is sp when kind=cvt (R157). -/
def xoWf (xo : BitVec 5) (cvt : Bool) : Bool := !xo.getLsbD 2 && (!cvt || !xo.getLsbD 1)

/-- The 128-bit control registers (R204). -/
def Cr.wide : Cr → Bool
  | .caps | .tval | .wch _ => true
  | _ => false

/-- What the types of the operands leave to check of an instruction: guard, widths, combinations and ranges of X.
A step of the device is always well formed: what it needs is part of its meaning. -/
def Instr.wf : Instr → Bool
  | .nop => true
  | .br gd _ _ => gd.wf
  | .bri gd _ _ => gd.wf
  | .call gd _ _ _ => gd.wf
  | .ret gd _ => gd.wf
  | .loop gd a _ _ => gd.wf && a.notG0
  | .addR gd _ _ _ _ => gd.wf
  | .subR gd _ _ _ _ => gd.wf
  | .mulR gd _ _ _ _ => gd.wf
  | .mulhR gd _ _ _ _ => gd.wf
  | .mulhnR gd _ _ _ _ => gd.wf
  | .divR gd _ _ _ _ => gd.wf
  | .divnR gd _ _ _ _ => gd.wf
  | .remR gd _ _ _ _ => gd.wf
  | .remnR gd _ _ _ _ => gd.wf
  | .andR gd _ _ _ _ => gd.wf
  | .orR gd _ _ _ _ => gd.wf
  | .xorR gd _ _ _ _ => gd.wf
  | .andnR gd _ _ _ _ => gd.wf
  | .ornR gd _ _ _ _ => gd.wf
  | .shlR gd _ _ _ _ => gd.wf
  | .shrR gd _ _ _ _ => gd.wf
  | .sarR gd _ _ _ _ => gd.wf
  | .rolR gd _ _ _ _ => gd.wf
  | .rorR gd _ _ _ _ => gd.wf
  | .minR gd _ _ _ _ => gd.wf
  | .maxR gd _ _ _ _ => gd.wf
  | .minnR gd _ _ _ _ => gd.wf
  | .maxnR gd _ _ _ _ => gd.wf
  | .cmpR gd _ _ _ _ _ => gd.wf
  | .addI gd _ _ _ _ => gd.wf
  | .subI gd _ _ _ _ => gd.wf
  | .mulI gd _ _ _ _ => gd.wf
  | .mulhI gd _ _ _ _ => gd.wf
  | .mulhnI gd _ _ _ _ => gd.wf
  | .divI gd _ _ _ _ => gd.wf
  | .divnI gd _ _ _ _ => gd.wf
  | .remI gd _ _ _ _ => gd.wf
  | .remnI gd _ _ _ _ => gd.wf
  | .andI gd _ _ _ _ => gd.wf
  | .orI gd _ _ _ _ => gd.wf
  | .xorI gd _ _ _ _ => gd.wf
  | .andnI gd _ _ _ _ => gd.wf
  | .ornI gd _ _ _ _ => gd.wf
  | .shlI gd _ _ _ _ => gd.wf
  | .shrI gd _ _ _ _ => gd.wf
  | .sarI gd _ _ _ _ => gd.wf
  | .rolI gd _ _ _ _ => gd.wf
  | .rorI gd _ _ _ _ => gd.wf
  | .minI gd _ _ _ _ => gd.wf
  | .maxI gd _ _ _ _ => gd.wf
  | .minnI gd _ _ _ _ => gd.wf
  | .maxnI gd _ _ _ _ => gd.wf
  | .cmpI gd _ _ _ _ _ => gd.wf
  | .clz gd _ _ _ => gd.wf
  | .ctz gd _ _ _ => gd.wf
  | .popc gd _ _ _ => gd.wf
  | .brev gd _ _ _ => gd.wf
  | .bext gd _ _ _ _ _ => gd.wf
  | .bins gd _ _ _ _ => gd.wf
  | .sext gd _ _ x => gd.wf && 1 ≤ x.toNat && x.toNat ≤ 64
  | .zext gd _ _ x => gd.wf && 1 ≤ x.toNat && x.toNat ≤ 64
  | .abs gd _ _ _ => gd.wf
  | .neg gd _ _ _ => gd.wf
  | .sel gd _ _ _ _ => gd.wf
  | .mov gd _ _ => gd.wf
  | .movi gd _ _ => gd.wf
  | .gand gd _ _ _ => gd.wf
  | .gor gd _ _ _ => gd.wf
  | .gxor gd _ _ _ => gd.wf
  | .gnot gd _ _ => gd.wf
  | .padd gd _ _ _ w _ => gd.wf && w != 0
  | .pdif gd _ _ _ w => gd.wf && w != 0
  | .paln gd _ _ w _ => gd.wf && w != 0
  | .pblk gd _ _ _ _ => gd.wf
  | .pchk gd _ _ w _ _ => gd.wf && w != 0
  | .jset gd _ _ _ => gd.wf
  | .jadd gd _ _ _ _ => gd.wf
  | .fadd gd _ _ _ _ _ => gd.wf
  | .fsub gd _ _ _ _ _ => gd.wf
  | .fmul gd _ _ _ _ _ => gd.wf
  | .ffma gd _ _ _ _ _ _ => gd.wf
  | .fdiv gd _ _ _ _ _ => gd.wf
  | .fsqrt gd _ _ _ _ => gd.wf
  | .fmin gd _ _ _ _ => gd.wf
  | .fmax gd _ _ _ _ => gd.wf
  | .fcmp gd _ _ _ _ _ => gd.wf
  | .fcvt gd _ _ df _ _ prop => gd.wf && ovfWf df prop
  | .fclass gd _ _ _ => gd.wf
  | .fneg gd _ _ _ => gd.wf
  | .vadd gd _ _ _ _ => gd.wf
  | .vsub gd _ _ _ _ => gd.wf
  | .vmul gd _ _ _ _ => gd.wf
  | .vfma gd _ _ _ _ _ => gd.wf
  | .vmin gd _ _ _ _ => gd.wf
  | .vmax gd _ _ _ _ => gd.wf
  | .vabs gd _ _ _ => gd.wf
  | .vneg gd _ _ _ => gd.wf
  | .vand gd _ _ _ _ => gd.wf
  | .vor gd _ _ _ _ => gd.wf
  | .vxor gd _ _ _ _ => gd.wf
  | .vshl gd _ _ _ _ => gd.wf
  | .vshr gd _ _ _ _ => gd.wf
  | .vsar gd _ _ _ _ => gd.wf
  | .vcmp gd _ _ _ _ => gd.wf
  | .vsel gd _ _ _ _ => gd.wf
  | .vdot gd _ _ _ _ => gd.wf
  | .vcvt gd _ _ df sf _ prop part => gd.wf && ovfWf df prop && partWf df sf part.toNat
  | .vpack gd _ _ p => gd.wf && p.wf
  | .vunpk gd _ _ p => gd.wf && p.wf
  | .vsplat gd _ _ _ _ => gd.wf
  | .vext gd _ _ _ _ _ => gd.wf
  | .vins gd _ _ _ _ _ => gd.wf
  | .vperm gd _ _ _ _ _ => gd.wf
  | .vtbl gd _ _ _ _ x => gd.wf && x.toNat ≤ 255
  | .vred gd _ _ _ => gd.wf
  | .chain gd _ _ _ _ _ dty _ prop _ _ => gd.wf && ovfWf dty prop
  | .ld gd _ _ _ _ _ _ _ _ => gd.wf
  | .ldp gd _ _ _ _ _ _ _ _ => gd.wf
  | .st gd _ _ _ _ _ _ _ => gd.wf
  | .stp gd _ _ _ _ _ _ _ => gd.wf
  | .vld gd _ _ _ _ _ _ => gd.wf
  | .vst gd _ _ _ _ _ _ => gd.wf
  | .vldp gd _ _ _ _ _ _ => gd.wf
  | .vstp gd _ _ _ _ _ _ => gd.wf
  | .pref gd _ _ _ => gd.wf
  | .dep gd _ _ _ _ _ _ _ => gd.wf
  | .mrd gd _ _ _ _ _ => gd.wf
  | .sense gd _ _ win _ _ _ _ => gd.wf && win.wf
  | .tickr gd _ _ _ => gd.wf
  | .tadv gd _ _ _ => gd.wf
  | .amo gd _ _ _ _ _ _ _ => gd.wf
  | .cas gd _ _ _ _ _ _ _ _ => gd.wf
  | .red gd _ _ _ _ _ _ => gd.wf
  | .fence gd _ _ => gd.wf
  | .marm gd _ _ _ _ _ => gd.wf
  | .waita gd _ _ _ => gd.wf
  | .mdis gd _ _ => gd.wf
  | .copy gd _ _ _ _ _ _ _ _ _ _ _ => gd.wf
  | .copyv gd _ _ _ _ _ _ _ _ _ _ _ => gd.wf
  | .cstage gd _ _ _ => gd.wf
  | .wmark gd _ _ _ _ _ _ _ _ _ _ _ => gd.wf
  | .twait gd _ _ => gd.wf
  | .tfind gd _ _ _ => gd.wf
  | .tclr gd _ _ => gd.wf
  | .mdld gd _ _ _ _ _ _ _ => gd.wf
  | .tdset gd _ _ => gd.wf
  | .tdget gd _ _ => gd.wf
  | .lset gd _ _ _ _ => gd.wf
  | .mjob gd _ _ _ _ _ _ cvt _ _ _ _ _ _ xo => gd.wf && xoWf xo cvt
  | .mjobr gd _ _ _ _ _ _ cvt _ _ _ _ _ _ xo => gd.wf && xoWf xo cvt
  | .mpoll gd _ => gd.wf
  | .mwait gd _ => gd.wf
  | .mclr gd _ => gd.wf
  | .mburst gd _ => gd.wf
  | .addw gd _ _ => gd.wf
  | .rndw gd _ _ => gd.wf
  | .clrw gd => gd.wf
  | .fork gd _ _ _ _ _ => gd.wf
  | .join gd _ => gd.wf
  | .spawnr gd _ _ _ _ _ grain _ => gd.wf && grain.toNat ≤ 62
  | .rnext gd _ => gd.wf
  | .steal gd _ win => gd.wf && win.wf
  | .yield gd => gd.wf
  | .exit gd => gd.wf
  | .lvladdAdd gd _ _ _ _ => gd.wf
  | .lvladdOpen gd _ _ _ _ _ => gd.wf
  | .lvladdDrain gd _ _ _ _ => gd.wf
  | .lvlwait gd _ _ => gd.wf
  | .cancel gd _ => gd.wf
  | .clamp gd _ _ _ => gd.wf
  | .launch gd _ _ _ _ => gd.wf
  | .dqpush gd _ _ _ _ => gd.wf
  | .dqpop gd _ _ => gd.wf
  | .arradd gd _ _ _ _ _ => gd.wf
  | .arrget gd _ _ _ _ _ => gd.wf
  | .qwait gd _ _ => gd.wf
  | .trap gd x => gd.wf && x.toNat ≤ 31
  | .rett gd => gd.wf
  | .crr gd _ hi cr => gd.wf && (!hi || cr.wide)
  | .crw gd _ hi cr => gd.wf && (!hi || cr.wide)
  | .tlbinv gd _ _ _ => gd.wf
  | .replay gd _ => gd.wf
  | .seal gd _ _ _ _ => gd.wf
  | .unseal gd _ _ _ _ => gd.wf
  | .feat gd _ _ _ => gd.wf
  | .handlerRecordPush _ _ => true
  | .waitaWake _ _ => true
  | .waitaTimeout _ _ => true
  | .twaitWake _ _ => true
  | .mwaitWake _ _ => true
  | .commandPlaceWake _ _ => true
  | .watermarkStallEnd _ _ => true
  | .lvlwaitWake _ _ => true
  | .dqpopWake _ _ => true
  | .qwaitWake _ _ => true
  | .tlbinvDone _ _ => true
  | .sealComplete _ _ _ _ => true
  | .unsealComplete _ _ _ _ _ => true
  | .homeSliceAccess _ _ _ => true
  | .redPerform _ _ _ => true
  | .loadReturn _ _ => true
  | .lineParityRefetch _ _ => true
  | .groupOpenDeferred _ _ => true
  | .pageWalkComplete _ _ _ => true
  | .retryWalk _ _ _ => true
  | .faultBufferClr _ => true
  | .faultBufferDropClear _ => true
  | .errorLogEntry _ _ _ => true
  | .engineSchedule _ _ => true
  | .copyStep _ _ => true
  | .copyComplete _ => true
  | .forwardReservation _ => true
  | .forwardReservationTimeout _ => true
  | .scheduleEntryStart _ => true
  | .matrixStep _ _ => true
  | .matrixJobComplete _ => true
  | .resultRecordEnter _ => true
  | .mjobrArrival _ _ => true
  | .remotePlaceGrant _ => true
  | .mburstTimeout _ => true
  | .rampDown _ => true
  | .budgetReserve _ => true
  | .commandAging _ _ _ => true
  | .slotFill _ => true
  | .recordAging _ _ => true
  | .implicitSteal _ => true
  | .stealRequestServe _ => true
  | .stealReply _ => true
  | .heldRecordPush _ _ => true
  | .cancelPropagate _ _ => true
  | .progressCheckReport _ _ => true
  | .deltaConsolidate _ _ => true
  | .bufferTimedDrain _ _ => true
  | .drainRingRoom _ _ => true
  | .stageBatchForm _ _ => true
  | .clampArrive _ _ => true
  | .clampWake _ _ => true
  | .tickAdvance _ _ => true
  | .fieldTimerTick _ _ => true
  | .fettlerNormalise _ _ _ => true
  | .fieldFreeze _ _ => true
  | .fieldThaw _ _ => true
  | .launchPlacement _ _ => true
  | .launchRetire _ _ => true
  | .lateCaptureReplay _ _ => true
  | .budgetDivision _ _ _ _ => true
  | .thermalReport _ => true
  | .capWrite _ => true
  | .snapshotTrigger => true
  | .snapshotLatch => true
  | .heartbeatWrite _ => true
  | .heartbeatMiss => true
  | .enjClear _ _ => true
  | .gateBegin _ => true
  | .gateWake _ => true
  | .clockRestart _ => true
  | .powerGood _ _ _ _ _ => true
  | .unitRedo _ => true
  | .portEnable _ => true
  | .portDisable _ => true
  | .portTrained _ _ _ => true
  | .trainingTimeout _ => true
  | .lossOfSignal _ => true
  | .flitReplay _ _ _ => true
  | .peerResponse _ _ => true
  | .peerAccessTimeout _ => true
  | .collectivePost _ => true
  | .collectiveComplete _ _ => true
  | .collectiveTimeout _ _ => true
  | .uePacketReceive _ _ => true
  | .rmaWriteComplete _ => true
  | .buildRequest _ _ => true
  | .freeRequest _ => true
  | .loadRequest _ _ _ _ _ _ => true
  | .unloadRequest _ _ => true
  | .launchRequest _ _ _ _ _ => true
  | .parkRequest _ _ => true
  | .contextParked _ => true
  | .resumeRequest _ => true
  | .resetRequest _ => true
  | .fatalFault _ => true
  | .resetComplete _ => true
  | .tagHoldExpiry _ => true
  | .sealRequest _ _ _ _ _ _ => true
  | .unsealRequest _ _ _ _ _ _ _ => true
  | .queryRequest _ => true
  | .groupSetupRequest _ _ _ => true
  | .handoffSend _ => true
  | .handoffReceive _ _ _ => true
  | .tenantToken _ => true
  | .chainRelease _ => true
  | .powerLoss => true
  | .clampReconfiguration _ _ => true
  | .engineEpochAdvance _ => true
  | .quotaChange _ _ _ => true
  | .memoryKeyInstall _ _ _ => true
  | .sealingRootInstall _ _ _ => true
  | .railVote _ _ _ => true

end Sys2Proof
end

