-- ==== Sys2Proof/Decode.lean ====
section
/-! DEFINITION. From the 96 bits of a slot to an instruction or to the code of the check of R81 that fails (04 R70 to
R84), and after it the encoder, written from the same tables of the spec (R85, R110, R129, R157, R185). -/

namespace Sys2Proof

/-- Bits [lo + width - 1 : lo] of a natural number. -/
def mBits (m lo width : Nat) : Nat := m / 2 ^ lo % 2 ^ width

/-- The fields of a slot. Formats R and E use `op` to `x`, W uses `w` and `m`, B uses `r1`, `r2`, `off` and `slot`. -/
structure Fields where
  op : Nat := 0
  gd : Nat := 0
  d : Nat := 0
  a : Nat := 0
  b : Nat := 0
  c : Nat := 0
  m : Nat := 0
  x : Nat := 0
  w : Nat := 0
  r1 : Nat := 0
  r2 : Nat := 0
  off : Nat := 0
  slot : Nat := 0
  deriving DecidableEq, Repr

/-- The layouts of R70 to R73; format E is format R with X divided. -/
inductive Fmt where
  | r | w | b
  deriving DecidableEq, Repr

/-- The engine subfields of format E (R73). -/
def Fields.ta (f : Fields) : Nat := mBits f.x 26 12
def Fields.tb (f : Fields) : Nat := mBits f.x 14 12
def Fields.lm (f : Fields) : Nat := mBits f.x 11 3
def Fields.ln (f : Fields) : Nat := mBits f.x 8 3
def Fields.lk (f : Fields) : Nat := mBits f.x 5 3
def Fields.xo (f : Fields) : Nat := mBits f.x 0 5

/-- X of format E from its subfields (R73). -/
def eBits (ta tb lm ln lk xo : Nat) : Nat :=
  ((((ta * 2 ^ 12 + tb) * 2 ^ 3 + lm) * 2 ^ 3 + ln) * 2 ^ 3 + lk) * 2 ^ 5 + xo

/-- The slot of a format R or E instruction (R70). -/
def packR (f : Fields) : Nat :=
  ((((((f.op * 2 ^ 4 + f.gd) * 2 ^ 7 + f.d) * 2 ^ 7 + f.a) * 2 ^ 7 + f.b) * 2 ^ 7 + f.c) * 2 ^ 16 + f.m) * 2 ^ 38 + f.x

/-- The slot of a format W instruction (R71). -/
def packW (f : Fields) : Nat :=
  (((f.op * 2 ^ 4 + f.gd) * 2 ^ 7 + f.d) * 2 ^ 64 + f.w) * 2 ^ 11 + f.m

/-- The slot of a format B instruction (R72). -/
def packB (f : Fields) : Nat :=
  (((((f.op * 2 ^ 4 + f.gd) * 2 ^ 7 + f.r1) * 2 ^ 7 + f.a) * 2 ^ 25 + f.r2) * 2 ^ 40 + f.off) * 2 ^ 3 + f.slot

def pack (fmt : Fmt) (f : Fields) : Nat :=
  match fmt with
  | .r => packR f
  | .w => packW f
  | .b => packB f

/-- The fields of a slot under its format (R70 to R73). -/
def unpack (fmt : Fmt) (n : Nat) : Fields :=
  match fmt with
  | .r =>
    { op := mBits n 86 10, gd := mBits n 82 4, d := mBits n 75 7, a := mBits n 68 7, b := mBits n 61 7,
      c := mBits n 54 7, m := mBits n 38 16, x := mBits n 0 38 }
  | .w => { op := mBits n 86 10, gd := mBits n 82 4, d := mBits n 75 7, w := mBits n 11 64, m := mBits n 0 11 }
  | .b =>
    { op := mBits n 86 10, gd := mBits n 82 4, r1 := mBits n 75 7, a := mBits n 68 7, r2 := mBits n 43 25,
      off := mBits n 3 40, slot := mBits n 0 3 }

/-! ### Codes of the operand kinds and subfields -/

def Guard.code (g : Guard) : Nat := g.neg.toNat * 8 + g.k.val
def Guard.ofCode (n : Nat) : Guard := ⟨n / 8 % 2 == 1, Fin.ofNat 8 n⟩

/-- Register names of R77. -/
def GOp.code : GOp → Nat
  | .g n => n.val
  | .rel j => 112 + j.val
def GOp.ofCode (n : Nat) : GOp := if n < 64 then .g (Fin.ofNat 64 n) else .rel (Fin.ofNat 8 n)
def vCode (v : Fin 32) : Nat := 64 + v.val
def vOfCode (n : Nat) : Fin 32 := Fin.ofNat 32 n
def kCode (k : Fin 8) : Nat := 96 + k.val
def kOfCode (n : Nat) : Fin 8 := Fin.ofNat 8 n
def jCode (j : Fin 8) : Nat := 120 + j.val
def jOfCode (n : Nat) : Fin 8 := Fin.ofNat 8 n
def GJK.code : GJK → Nat
  | .g o => o.code
  | .j n => jCode n
  | .k n => kCode n
def GJK.ofCode (n : Nat) : GJK :=
  if 120 ≤ n then .j (jOfCode n) else if 96 ≤ n ∧ n < 104 then .k (kOfCode n) else .g (GOp.ofCode n)
def GJ.code : GJ → Nat
  | .g o => o.code
  | .j n => jCode n
def GJ.ofCode (n : Nat) : GJ := if 120 ≤ n then .j (jOfCode n) else .g (GOp.ofCode n)
def GV.code : GV → Nat
  | .g o => o.code
  | .v n => vCode n
def GV.ofCode (n : Nat) : GV := if 64 ≤ n ∧ n < 96 then .v (vOfCode n) else .g (GOp.ofCode n)

def ShCount.bCode : ShCount → Nat
  | .v r => vCode r
  | .g o _ => o.code
def ShCount.xCode : ShCount → Nat
  | .v _ => 0
  | .g _ x => x.toNat
def ShCount.ofRaw (b x : Nat) : ShCount :=
  if 64 ≤ b ∧ b < 96 then .v (vOfCode b) else .g (GOp.ofCode b) (BitVec.ofNat 38 x)

def IType.code : IType → Nat
  | .i64 => 0 | .i32 => 1 | .i16 => 2 | .i8 => 3 | .n64 => 4 | .n32 => 5 | .n16 => 6 | .n8 => 7
def IType.ofCode (n : Nat) : IType :=
  match n with
  | 0 => .i64 | 1 => .i32 | 2 => .i16 | 3 => .i8 | 4 => .n64 | 5 => .n32 | 6 => .n16 | _ => .n8
def FType.code : FType → Nat
  | .f32 => 0 | .bf16 => 1 | .f16 => 2
def FType.ofCode (n : Nat) : FType :=
  match n with
  | 0 => .f32 | 1 => .bf16 | _ => .f16
def VType.code : VType → Nat
  | .i t => t.code
  | .f t => 8 + t.code
def VType.ofCode (n : Nat) : VType := if n < 8 then .i (IType.ofCode n) else .f (FType.ofCode (n - 8))
def CvtType.code : CvtType → Nat
  | .f32 => 0 | .bf16 => 1 | .f16 => 2 | .e4m3 => 3 | .e5m2 => 4 | .e3m2 => 5 | .e2m3 => 6 | .e2m1 => 7
  | .i8 => 8 | .i16 => 9 | .i32 => 10 | .i64 => 11 | .n8 => 12 | .n16 => 13 | .n32 => 14 | .n64 => 15
def CvtType.ofCode (n : Nat) : CvtType :=
  match n with
  | 0 => .f32 | 1 => .bf16 | 2 => .f16 | 3 => .e4m3 | 4 => .e5m2 | 5 => .e3m2 | 6 => .e2m3 | 7 => .e2m1
  | 8 => .i8 | 9 => .i16 | 10 => .i32 | 11 => .i64 | 12 => .n8 | 13 => .n16 | 14 => .n32 | _ => .n64
def Cc.code : Cc → Nat
  | .eq => 0 | .ne => 1 | .lt => 2 | .ge => 3 | .le => 4 | .gt => 5 | .tst => 6 | .ntst => 7
def Cc.ofCode (n : Nat) : Cc :=
  match n with
  | 0 => .eq | 1 => .ne | 2 => .lt | 3 => .ge | 4 => .le | 5 => .gt | 6 => .tst | _ => .ntst
def FCc.code : FCc → Nat
  | .eq => 0 | .lt => 1 | .le => 2 | .un => 3 | .ne => 4 | .gt => 5 | .ge => 6
def FCc.ofCode (n : Nat) : FCc :=
  match n with
  | 0 => .eq | 1 => .lt | 2 => .le | 3 => .un | 4 => .ne | 5 => .gt | _ => .ge
def Rnd.code : Rnd → Nat
  | .rne => 0 | .rtz => 1 | .rup => 2 | .rdn => 3 | .rsr => 4
def Rnd.ofCode (n : Nat) : Rnd :=
  match n with
  | 0 => .rne | 1 => .rtz | 2 => .rup | 3 => .rdn | _ => .rsr
def LoadOrd.code : LoadOrd → Nat
  | .rlx => 0 | .acq => 1 | .sc => 4
def LoadOrd.ofCode (n : Nat) : LoadOrd :=
  match n with
  | 0 => .rlx | 1 => .acq | _ => .sc
def StoreOrd.code : StoreOrd → Nat
  | .rlx => 0 | .rel => 2 | .sc => 4
def StoreOrd.ofCode (n : Nat) : StoreOrd :=
  match n with
  | 0 => .rlx | 2 => .rel | _ => .sc
def Ord.code : Ord → Nat
  | .rlx => 0 | .acq => 1 | .rel => 2 | .ar => 3 | .sc => 4
def Ord.ofCode (n : Nat) : Ord :=
  match n with
  | 0 => .rlx | 1 => .acq | 2 => .rel | 3 => .ar | _ => .sc
def Scope.code : Scope → Nat
  | .pa => 0 | .st => 1 | .co => 2 | .cl => 3 | .rg => 4 | .di => 5 | .pk => 6 | .te => 7 | .fa => 8 | .sy => 9
def Scope.ofCode (n : Nat) : Scope :=
  match n with
  | 0 => .pa | 1 => .st | 2 => .co | 3 => .cl | 4 => .rg | 5 => .di | 6 => .pk | 7 => .te | 8 => .fa | _ => .sy
def Cmb.code : Cmb → Nat
  | .add => 0 | .max => 1 | .set => 2
def Cmb.ofCode (n : Nat) : Cmb :=
  match n with
  | 0 => .add | 1 => .max | _ => .set
def Window.toM : Window → Nat
  | .run len => len.val * 2 ^ 3
  | .cross => 1 | .box3 => 2 | .box5 => 3
def Window.ofM (m : Nat) : Window :=
  match mBits m 0 3 with
  | 0 => .run (Fin.ofNat 16 (mBits m 3 4)) | 1 => .cross | 2 => .box3 | _ => .box5
def BqFmt.code : BqFmt → Nat
  | .bq3 => 0 | .bq5 => 1 | .bq8 => 2
def BqFmt.ofCode (n : Nat) : BqFmt :=
  match n with
  | 0 => .bq3 | 1 => .bq5 | _ => .bq8
def VArith.toM : VArith → Nat
  | .int t sat => t.code + sat.toNat * 2 ^ 7
  | .flt t rnd => 8 + t.code + rnd.code * 2 ^ 4
def VArith.ofM (m : Nat) : VArith :=
  if mBits m 0 4 < 8 then .int (IType.ofCode (mBits m 0 4)) (mBits m 7 1 == 1)
  else .flt (FType.ofCode (mBits m 0 4 - 8)) (Rnd.ofCode (mBits m 4 3))
def VSign.toM : VSign → Nat
  | .int t sat => t.code + sat.toNat * 2 ^ 7
  | .flt t => 8 + t.code
def VSign.ofM (m : Nat) : VSign :=
  if mBits m 0 4 < 8 then .int (IType.ofCode (mBits m 0 4)) (mBits m 7 1 == 1)
  else .flt (FType.ofCode (mBits m 0 4 - 8))
def VCond.toM : VCond → Nat
  | .int t cc => t.code + cc.code * 2 ^ 8
  | .flt t cc => 8 + t.code + cc.code * 2 ^ 8
def VCond.ofM (m : Nat) : VCond :=
  if mBits m 0 4 < 8 then .int (IType.ofCode (mBits m 0 4)) (Cc.ofCode (mBits m 8 4))
  else .flt (FType.ofCode (mBits m 0 4 - 8)) (FCc.ofCode (mBits m 8 4))
def DotF.code : DotF → Nat
  | .e4m3 => 0 | .e5m2 => 1 | .e3m2 => 2 | .e2m3 => 3 | .e2m1 => 4 | .bf16 => 5 | .f16 => 6
def DotF.ofCode (n : Nat) : DotF :=
  match n with
  | 0 => .e4m3 | 1 => .e5m2 | 2 => .e3m2 | 3 => .e2m3 | 4 => .e2m1 | 5 => .bf16 | _ => .f16
def VDotArg.toM : VDotArg → Nat
  | .flt t rnd => t.code + rnd.code * 2 ^ 4
  | .int nat sat => 7 + nat.toNat + sat.toNat * 2 ^ 7
def VDotArg.ofM (m : Nat) : VDotArg :=
  if mBits m 0 4 < 7 then .flt (DotF.ofCode (mBits m 0 4)) (Rnd.ofCode (mBits m 4 3))
  else .int (mBits m 0 4 == 8) (mBits m 7 1 == 1)
def IRed.code : IRed → Nat
  | .add => 0 | .min => 1 | .max => 2 | .and => 3 | .or => 4 | .xor => 5
def IRed.ofCode (n : Nat) : IRed :=
  match n with
  | 0 => .add | 1 => .min | 2 => .max | 3 => .and | 4 => .or | _ => .xor
def VRedArg.toM : VRedArg → Nat
  | .int t op => t.code + op.code * 2 ^ 4
  | .fadd t rnd => 8 + t.code + rnd.code * 2 ^ 7
  | .fmin t => 8 + t.code + 2 ^ 4
  | .fmax t => 8 + t.code + 2 * 2 ^ 4
def VRedArg.ofM (m : Nat) : VRedArg :=
  if mBits m 0 4 < 8 then .int (IType.ofCode (mBits m 0 4)) (IRed.ofCode (mBits m 4 3))
  else match mBits m 4 3 with
    | 0 => .fadd (FType.ofCode (mBits m 0 4 - 8)) (Rnd.ofCode (mBits m 7 3))
    | 1 => .fmin (FType.ofCode (mBits m 0 4 - 8))
    | _ => .fmax (FType.ofCode (mBits m 0 4 - 8))
def AmoI.code : AmoI → Nat
  | .add => 0 | .and => 1 | .or => 2 | .xor => 3 | .min => 4 | .max => 5 | .swap => 6
def AmoI.ofCode (n : Nat) : AmoI :=
  match n with
  | 0 => .add | 1 => .and | 2 => .or | 3 => .xor | 4 => .min | 5 => .max | _ => .swap
def AmoF.code : AmoF → Nat
  | .swap => 6 | .fadd => 7 | .fmin => 8 | .fmax => 9
def AmoF.ofCode (n : Nat) : AmoF :=
  match n with
  | 6 => .swap | 7 => .fadd | 8 => .fmin | _ => .fmax
def AmoArg.toM : AmoArg → Nat
  | .int t op => t.code + op.code * 2 ^ 4
  | .flt t op => 8 + t.code + op.code * 2 ^ 4
def AmoArg.ofM (m : Nat) : AmoArg :=
  if mBits m 0 4 < 8 then .int (IType.ofCode (mBits m 0 4)) (AmoI.ofCode (mBits m 4 4))
  else .flt (FType.ofCode (mBits m 0 4 - 8)) (AmoF.ofCode (mBits m 4 4))
def PackArg.bCode : PackArg → Nat
  | .int .. => 0
  | .bq _ b _ => vCode b
def PackArg.xCode : PackArg → Nat
  | .int _ _ _ x => x.toNat
  | .bq .. => 0
def PackArg.toM : PackArg → Nat
  | .int t w sat _ => t.code * 2 ^ 3 + w.toNat * 2 ^ 7 + sat.toNat * 2 ^ 14
  | .bq fmt _ prop => fmt.code + 1 + prop.toNat * 2 ^ 15
def PackArg.ofRaw (b m x : Nat) : PackArg :=
  if mBits m 0 3 == 0 then
    .int (IType.ofCode (mBits m 3 4)) (BitVec.ofNat 7 (mBits m 7 7)) (mBits m 14 1 == 1) (BitVec.ofNat 7 x)
  else .bq (BqFmt.ofCode (mBits m 0 3 - 1)) (vOfCode b) (mBits m 15 1 == 1)
def UnpkArg.xCode : UnpkArg → Nat
  | .int _ _ x => x.toNat
  | .bq _ part => part.val
def UnpkArg.toM : UnpkArg → Nat
  | .int t w _ => t.code * 2 ^ 3 + w.toNat * 2 ^ 7
  | .bq fmt _ => fmt.code + 1
def UnpkArg.ofRaw (m x : Nat) : UnpkArg :=
  if mBits m 0 3 == 0 then .int (IType.ofCode (mBits m 3 4)) (BitVec.ofNat 7 (mBits m 7 7)) (BitVec.ofNat 7 x)
  else .bq (BqFmt.ofCode (mBits m 0 3 - 1)) (Fin.ofNat 4 x)
def CopyCmb.code : CopyCmb → Nat
  | .none => 0 | .add => 1 | .max => 2
def CopyCmb.ofCode (n : Nat) : CopyCmb :=
  match n with
  | 0 => .none | 1 => .add | _ => .max
def CopyMode.cCode : CopyMode → Nat
  | .plain _ => 0
  | .fwd c => c.code
def CopyMode.toM : CopyMode → Nat
  | .plain cmb => cmb.code * 2 ^ 6
  | .fwd _ => 2 ^ 13
def CopyMode.ofRaw (c m : Nat) : CopyMode :=
  if mBits m 13 1 == 1 then .fwd (GOp.ofCode c) else .plain (CopyCmb.ofCode (mBits m 6 2))
def AddwType.code : AddwType → Nat
  | .f32 => 0 | .bf16 => 1 | .f16 => 2 | .e4m3 => 3 | .e5m2 => 4
def AddwType.ofCode (n : Nat) : AddwType :=
  match n with
  | 0 => .f32 | 1 => .bf16 | 2 => .f16 | 3 => .e4m3 | _ => .e5m2
def PriSel.code : PriSel → Nat
  | .same => 0
  | .pri p => 1 + p.val
def PriSel.ofCode (n : Nat) : PriSel :=
  match n with
  | 0 => .same
  | n + 1 => .pri (Fin.ofNat 8 n)
def OpenLevel.code : OpenLevel → Nat
  | .unit => 0 | .graph => 2 | .phase => 3 | .job => 4
def OpenLevel.ofCode (n : Nat) : OpenLevel :=
  match n with
  | 0 => .unit | 2 => .graph | 3 => .phase | _ => .job

/-- Control register numbers of R204. -/
def Cr.code : Cr → Nat
  | .core => 0x000 | .strand => 0x001 | .part => 0x002 | .pword => 0x003 | .caps => 0x004 | .fduty => 0x005
  | .status => 0x008 | .cause => 0x009 | .epc => 0x00A | .tval => 0x00B | .tvec => 0x00C | .eopd => 0x00D
  | .frame => 0x00E | .node => 0x00F | .rlo => 0x010 | .rhi => 0x011 | .srstate => 0x012 | .lfbase => 0x014
  | .dbell => 0x015 | .tags => 0x020 | .vfail => 0x021 | .xbwait => 0x022 | .acnt => 0x023
  | .wch n => 0x028 + n.val
  | .th n => 0x030 + n.val
  | .privc => 0x040
/-- The numbers R204 assigns. -/
def crAssigned (n : Nat) : Bool :=
  n ≤ 5 || (8 ≤ n && n ≤ 0x12) || n == 0x14 || n == 0x15 || (0x20 ≤ n && n ≤ 0x23) || (0x28 ≤ n && n ≤ 0x2B)
    || (0x30 ≤ n && n ≤ 0x37) || n == 0x40
def Cr.ofCode (n : Nat) : Cr :=
  if 0x28 ≤ n ∧ n ≤ 0x2B then .wch (Fin.ofNat 4 n)
  else if 0x30 ≤ n ∧ n ≤ 0x37 then .th (Fin.ofNat 8 n)
  else match n with
    | 0x000 => .core | 0x001 => .strand | 0x002 => .part | 0x003 => .pword | 0x004 => .caps | 0x005 => .fduty
    | 0x008 => .status | 0x009 => .cause | 0x00A => .epc | 0x00B => .tval | 0x00C => .tvec | 0x00D => .eopd
    | 0x00E => .frame | 0x00F => .node | 0x010 => .rlo | 0x011 => .rhi | 0x012 => .srstate | 0x014 => .lfbase
    | 0x015 => .dbell | 0x020 => .tags | 0x021 => .vfail | 0x022 => .xbwait | 0x023 => .acnt
    | _ => .privc
/-- A number R204 does not assign has no width: only its own check, 0x026, applies to it. -/
def crNarrowOk (n : Nat) : Bool := !crAssigned n || (Cr.ofCode n).wide

/-! ### What each opcode accepts -/

/-- The register kinds an operand position accepts (R77, R85). -/
inductive Acc where
  | zero | g | gNot0 | g62 | v | vg | k | j | gjk | gj | gv | pack | fwd
  deriving DecidableEq, Repr

def isG (n : Nat) : Bool := n < 64 || (112 ≤ n && n < 120)
def isV (n : Nat) : Bool := 64 ≤ n && n < 96
def isK (n : Nat) : Bool := 96 ≤ n && n < 104
def isJ (n : Nat) : Bool := 120 ≤ n && n < 128

def Acc.ok (a : Acc) (f : Fields) (n : Nat) : Bool :=
  match a with
  | .zero => n == 0
  | .g => isG n
  | .gNot0 => isG n && n != 0
  | .g62 => n < 63
  | .v => isV n
  | .vg => isV n || isG n
  | .k => isK n
  | .j => isJ n
  | .gjk => isG n || isJ n || isK n
  | .gj => isG n || isJ n
  | .gv => isG n || isV n
  | .pack => if mBits f.m 0 3 == 0 then n == 0 else isV n || (n == 0 && 4 ≤ mBits f.m 0 3)
  | .fwd => if mBits f.m 13 1 == 1 then isG n else n == 0

/-- A named M subfield (R74): its lowest bit, its width and whether its value, and the combination it closes, is
assigned. -/
structure Sub where
  lo : Nat
  width : Nat
  ok : Fields → Bool

/-- The range of X an instruction states (R81 step 8). -/
inductive XRule where
  | any | zero
  | range (lo hi : Nat)
  | shift
  | pack (int bq : Nat)
  | cr
  deriving DecidableEq, Repr

def XRule.ok (x : XRule) (f : Fields) : Bool :=
  match x with
  | .any => true
  | .zero => f.x == 0
  | .range lo hi => lo ≤ f.x && f.x ≤ hi
  | .shift => if isV f.b then f.x == 0 else true
  | .pack i q => if mBits f.m 0 3 == 0 then f.x ≤ i else f.x ≤ q
  | .cr => crAssigned f.x

/-- The engine subfields an instruction of format E uses, and what XO must satisfy (R157). -/
structure EUse where
  ta : Bool
  tb : Bool
  lm : Bool
  ln : Bool
  lk : Bool
  xo : Fields → Bool

/-- One opcode: its layout, the kinds its operands accept, its M and E subfields, its X and how its instruction is
built from fields that passed. -/
structure OpRow where
  op : Nat
  fmt : Fmt := .r
  d : Acc := .zero
  a : Acc := .zero
  b : Acc := .zero
  c : Acc := .zero
  subs : List Sub := []
  e : Option EUse := none
  x : XRule := .zero
  build : Fields → Instr

def isLoadOrd (n : Nat) : Bool := n == 0 || n == 1 || n == 4
def isStoreOrd (n : Nat) : Bool := n == 0 || n == 2 || n == 4
def isAnyOrd (n : Nat) : Bool := n < 5
def isOpenLevel (n : Nat) : Bool := n == 0 || n == 2 || n == 3 || n == 4
def isOvfTarget (n : Nat) : Bool := n == 3 || n == 4

/-- The lane width of an integer type code (R116). -/
def iWidthOf (t : Nat) : Nat := (IType.ofCode t).width
/-- The condition on part= of VCVT (R115). -/
def partOk (df sf part : Nat) : Bool := partWf (CvtType.ofCode df) (CvtType.ofCode sf) part

/-- BR (R100). -/
def rowBr : OpRow :=
  { op := 0x001,
    fmt := .b,
    x := .any,
    build := fun r => .br (Guard.ofCode r.gd) (BitVec.ofNat 40 r.off) (BitVec.ofNat 3 r.slot) }

/-- BRI (R100). -/
def rowBri : OpRow :=
  { op := 0x002,
    a := .g,
    x := .any,
    build := fun r => .bri (Guard.ofCode r.gd) (GOp.ofCode r.a) (BitVec.ofNat 38 r.x) }

/-- CALL (R100). -/
def rowCall : OpRow :=
  { op := 0x003,
    fmt := .b,
    a := .g,
    x := .any,
    build := fun r => .call (Guard.ofCode r.gd) (GOp.ofCode r.a) (BitVec.ofNat 40 r.off) (BitVec.ofNat 3 r.slot) }

/-- RET (R100). -/
def rowRet : OpRow :=
  { op := 0x004,
    a := .g,
    build := fun r => .ret (Guard.ofCode r.gd) (GOp.ofCode r.a) }

/-- LOOP (R100). -/
def rowLoop : OpRow :=
  { op := 0x005,
    fmt := .b,
    a := .gNot0,
    x := .any,
    build := fun r => .loop (Guard.ofCode r.gd) (GOp.ofCode r.a) (BitVec.ofNat 40 r.off) (BitVec.ofNat 3 r.slot) }

/-- ADD_R (R89). -/
def rowAddR : OpRow :=
  { op := 0x040,
    d := .g,
    a := .g,
    b := .g,
    subs := [⟨0, 3, fun _ => true⟩],
    build := fun r => .addR (Guard.ofCode r.gd) (GOp.ofCode r.d) (GOp.ofCode r.a) (GOp.ofCode r.b) (IType.ofCode (mBits r.m 0 3)) }

/-- SUB_R (R89). -/
def rowSubR : OpRow :=
  { op := 0x041,
    d := .g,
    a := .g,
    b := .g,
    subs := [⟨0, 3, fun _ => true⟩],
    build := fun r => .subR (Guard.ofCode r.gd) (GOp.ofCode r.d) (GOp.ofCode r.a) (GOp.ofCode r.b) (IType.ofCode (mBits r.m 0 3)) }

/-- MUL_R (R89). -/
def rowMulR : OpRow :=
  { op := 0x042,
    d := .g,
    a := .g,
    b := .g,
    subs := [⟨0, 3, fun _ => true⟩],
    build := fun r => .mulR (Guard.ofCode r.gd) (GOp.ofCode r.d) (GOp.ofCode r.a) (GOp.ofCode r.b) (IType.ofCode (mBits r.m 0 3)) }

/-- MULH_R (R89). -/
def rowMulhR : OpRow :=
  { op := 0x043,
    d := .g,
    a := .g,
    b := .g,
    subs := [⟨0, 3, fun _ => true⟩],
    build := fun r => .mulhR (Guard.ofCode r.gd) (GOp.ofCode r.d) (GOp.ofCode r.a) (GOp.ofCode r.b) (IType.ofCode (mBits r.m 0 3)) }

/-- MULHN_R (R89). -/
def rowMulhnR : OpRow :=
  { op := 0x044,
    d := .g,
    a := .g,
    b := .g,
    subs := [⟨0, 3, fun _ => true⟩],
    build := fun r => .mulhnR (Guard.ofCode r.gd) (GOp.ofCode r.d) (GOp.ofCode r.a) (GOp.ofCode r.b) (IType.ofCode (mBits r.m 0 3)) }

/-- DIV_R (R89). -/
def rowDivR : OpRow :=
  { op := 0x045,
    d := .g,
    a := .g,
    b := .g,
    subs := [⟨0, 3, fun _ => true⟩],
    build := fun r => .divR (Guard.ofCode r.gd) (GOp.ofCode r.d) (GOp.ofCode r.a) (GOp.ofCode r.b) (IType.ofCode (mBits r.m 0 3)) }

/-- DIVN_R (R89). -/
def rowDivnR : OpRow :=
  { op := 0x046,
    d := .g,
    a := .g,
    b := .g,
    subs := [⟨0, 3, fun _ => true⟩],
    build := fun r => .divnR (Guard.ofCode r.gd) (GOp.ofCode r.d) (GOp.ofCode r.a) (GOp.ofCode r.b) (IType.ofCode (mBits r.m 0 3)) }

/-- REM_R (R89). -/
def rowRemR : OpRow :=
  { op := 0x047,
    d := .g,
    a := .g,
    b := .g,
    subs := [⟨0, 3, fun _ => true⟩],
    build := fun r => .remR (Guard.ofCode r.gd) (GOp.ofCode r.d) (GOp.ofCode r.a) (GOp.ofCode r.b) (IType.ofCode (mBits r.m 0 3)) }

/-- REMN_R (R89). -/
def rowRemnR : OpRow :=
  { op := 0x048,
    d := .g,
    a := .g,
    b := .g,
    subs := [⟨0, 3, fun _ => true⟩],
    build := fun r => .remnR (Guard.ofCode r.gd) (GOp.ofCode r.d) (GOp.ofCode r.a) (GOp.ofCode r.b) (IType.ofCode (mBits r.m 0 3)) }

/-- AND_R (R89). -/
def rowAndR : OpRow :=
  { op := 0x049,
    d := .g,
    a := .g,
    b := .g,
    subs := [⟨0, 3, fun _ => true⟩],
    build := fun r => .andR (Guard.ofCode r.gd) (GOp.ofCode r.d) (GOp.ofCode r.a) (GOp.ofCode r.b) (IType.ofCode (mBits r.m 0 3)) }

/-- OR_R (R89). -/
def rowOrR : OpRow :=
  { op := 0x04A,
    d := .g,
    a := .g,
    b := .g,
    subs := [⟨0, 3, fun _ => true⟩],
    build := fun r => .orR (Guard.ofCode r.gd) (GOp.ofCode r.d) (GOp.ofCode r.a) (GOp.ofCode r.b) (IType.ofCode (mBits r.m 0 3)) }

/-- XOR_R (R89). -/
def rowXorR : OpRow :=
  { op := 0x04B,
    d := .g,
    a := .g,
    b := .g,
    subs := [⟨0, 3, fun _ => true⟩],
    build := fun r => .xorR (Guard.ofCode r.gd) (GOp.ofCode r.d) (GOp.ofCode r.a) (GOp.ofCode r.b) (IType.ofCode (mBits r.m 0 3)) }

/-- ANDN_R (R89). -/
def rowAndnR : OpRow :=
  { op := 0x04C,
    d := .g,
    a := .g,
    b := .g,
    subs := [⟨0, 3, fun _ => true⟩],
    build := fun r => .andnR (Guard.ofCode r.gd) (GOp.ofCode r.d) (GOp.ofCode r.a) (GOp.ofCode r.b) (IType.ofCode (mBits r.m 0 3)) }

/-- ORN_R (R89). -/
def rowOrnR : OpRow :=
  { op := 0x04D,
    d := .g,
    a := .g,
    b := .g,
    subs := [⟨0, 3, fun _ => true⟩],
    build := fun r => .ornR (Guard.ofCode r.gd) (GOp.ofCode r.d) (GOp.ofCode r.a) (GOp.ofCode r.b) (IType.ofCode (mBits r.m 0 3)) }

/-- SHL_R (R89). -/
def rowShlR : OpRow :=
  { op := 0x04E,
    d := .g,
    a := .g,
    b := .g,
    subs := [⟨0, 3, fun _ => true⟩],
    build := fun r => .shlR (Guard.ofCode r.gd) (GOp.ofCode r.d) (GOp.ofCode r.a) (GOp.ofCode r.b) (IType.ofCode (mBits r.m 0 3)) }

/-- SHR_R (R89). -/
def rowShrR : OpRow :=
  { op := 0x04F,
    d := .g,
    a := .g,
    b := .g,
    subs := [⟨0, 3, fun _ => true⟩],
    build := fun r => .shrR (Guard.ofCode r.gd) (GOp.ofCode r.d) (GOp.ofCode r.a) (GOp.ofCode r.b) (IType.ofCode (mBits r.m 0 3)) }

/-- SAR_R (R89). -/
def rowSarR : OpRow :=
  { op := 0x050,
    d := .g,
    a := .g,
    b := .g,
    subs := [⟨0, 3, fun _ => true⟩],
    build := fun r => .sarR (Guard.ofCode r.gd) (GOp.ofCode r.d) (GOp.ofCode r.a) (GOp.ofCode r.b) (IType.ofCode (mBits r.m 0 3)) }

/-- ROL_R (R89). -/
def rowRolR : OpRow :=
  { op := 0x051,
    d := .g,
    a := .g,
    b := .g,
    subs := [⟨0, 3, fun _ => true⟩],
    build := fun r => .rolR (Guard.ofCode r.gd) (GOp.ofCode r.d) (GOp.ofCode r.a) (GOp.ofCode r.b) (IType.ofCode (mBits r.m 0 3)) }

/-- ROR_R (R89). -/
def rowRorR : OpRow :=
  { op := 0x052,
    d := .g,
    a := .g,
    b := .g,
    subs := [⟨0, 3, fun _ => true⟩],
    build := fun r => .rorR (Guard.ofCode r.gd) (GOp.ofCode r.d) (GOp.ofCode r.a) (GOp.ofCode r.b) (IType.ofCode (mBits r.m 0 3)) }

/-- MIN_R (R89). -/
def rowMinR : OpRow :=
  { op := 0x053,
    d := .g,
    a := .g,
    b := .g,
    subs := [⟨0, 3, fun _ => true⟩],
    build := fun r => .minR (Guard.ofCode r.gd) (GOp.ofCode r.d) (GOp.ofCode r.a) (GOp.ofCode r.b) (IType.ofCode (mBits r.m 0 3)) }

/-- MAX_R (R89). -/
def rowMaxR : OpRow :=
  { op := 0x054,
    d := .g,
    a := .g,
    b := .g,
    subs := [⟨0, 3, fun _ => true⟩],
    build := fun r => .maxR (Guard.ofCode r.gd) (GOp.ofCode r.d) (GOp.ofCode r.a) (GOp.ofCode r.b) (IType.ofCode (mBits r.m 0 3)) }

/-- MINN_R (R89). -/
def rowMinnR : OpRow :=
  { op := 0x055,
    d := .g,
    a := .g,
    b := .g,
    subs := [⟨0, 3, fun _ => true⟩],
    build := fun r => .minnR (Guard.ofCode r.gd) (GOp.ofCode r.d) (GOp.ofCode r.a) (GOp.ofCode r.b) (IType.ofCode (mBits r.m 0 3)) }

/-- MAXN_R (R89). -/
def rowMaxnR : OpRow :=
  { op := 0x056,
    d := .g,
    a := .g,
    b := .g,
    subs := [⟨0, 3, fun _ => true⟩],
    build := fun r => .maxnR (Guard.ofCode r.gd) (GOp.ofCode r.d) (GOp.ofCode r.a) (GOp.ofCode r.b) (IType.ofCode (mBits r.m 0 3)) }

/-- CMP_R (R90). -/
def rowCmpR : OpRow :=
  { op := 0x057,
    d := .k,
    a := .g,
    b := .g,
    subs := [⟨0, 3, fun _ => true⟩, ⟨3, 4, fun r => decide (mBits r.m 3 4 < 8)⟩],
    build := fun r => .cmpR (Guard.ofCode r.gd) (kOfCode r.d) (GOp.ofCode r.a) (GOp.ofCode r.b) (IType.ofCode (mBits r.m 0 3)) (Cc.ofCode (mBits r.m 3 4)) }

/-- ADD_I (R89). -/
def rowAddI : OpRow :=
  { op := 0x060,
    d := .g,
    a := .g,
    subs := [⟨0, 3, fun _ => true⟩],
    x := .any,
    build := fun r => .addI (Guard.ofCode r.gd) (GOp.ofCode r.d) (GOp.ofCode r.a) (IType.ofCode (mBits r.m 0 3)) (BitVec.ofNat 38 r.x) }

/-- SUB_I (R89). -/
def rowSubI : OpRow :=
  { op := 0x061,
    d := .g,
    a := .g,
    subs := [⟨0, 3, fun _ => true⟩],
    x := .any,
    build := fun r => .subI (Guard.ofCode r.gd) (GOp.ofCode r.d) (GOp.ofCode r.a) (IType.ofCode (mBits r.m 0 3)) (BitVec.ofNat 38 r.x) }

/-- MUL_I (R89). -/
def rowMulI : OpRow :=
  { op := 0x062,
    d := .g,
    a := .g,
    subs := [⟨0, 3, fun _ => true⟩],
    x := .any,
    build := fun r => .mulI (Guard.ofCode r.gd) (GOp.ofCode r.d) (GOp.ofCode r.a) (IType.ofCode (mBits r.m 0 3)) (BitVec.ofNat 38 r.x) }

/-- MULH_I (R89). -/
def rowMulhI : OpRow :=
  { op := 0x063,
    d := .g,
    a := .g,
    subs := [⟨0, 3, fun _ => true⟩],
    x := .any,
    build := fun r => .mulhI (Guard.ofCode r.gd) (GOp.ofCode r.d) (GOp.ofCode r.a) (IType.ofCode (mBits r.m 0 3)) (BitVec.ofNat 38 r.x) }

/-- MULHN_I (R89). -/
def rowMulhnI : OpRow :=
  { op := 0x064,
    d := .g,
    a := .g,
    subs := [⟨0, 3, fun _ => true⟩],
    x := .any,
    build := fun r => .mulhnI (Guard.ofCode r.gd) (GOp.ofCode r.d) (GOp.ofCode r.a) (IType.ofCode (mBits r.m 0 3)) (BitVec.ofNat 38 r.x) }

/-- DIV_I (R89). -/
def rowDivI : OpRow :=
  { op := 0x065,
    d := .g,
    a := .g,
    subs := [⟨0, 3, fun _ => true⟩],
    x := .any,
    build := fun r => .divI (Guard.ofCode r.gd) (GOp.ofCode r.d) (GOp.ofCode r.a) (IType.ofCode (mBits r.m 0 3)) (BitVec.ofNat 38 r.x) }

/-- DIVN_I (R89). -/
def rowDivnI : OpRow :=
  { op := 0x066,
    d := .g,
    a := .g,
    subs := [⟨0, 3, fun _ => true⟩],
    x := .any,
    build := fun r => .divnI (Guard.ofCode r.gd) (GOp.ofCode r.d) (GOp.ofCode r.a) (IType.ofCode (mBits r.m 0 3)) (BitVec.ofNat 38 r.x) }

/-- REM_I (R89). -/
def rowRemI : OpRow :=
  { op := 0x067,
    d := .g,
    a := .g,
    subs := [⟨0, 3, fun _ => true⟩],
    x := .any,
    build := fun r => .remI (Guard.ofCode r.gd) (GOp.ofCode r.d) (GOp.ofCode r.a) (IType.ofCode (mBits r.m 0 3)) (BitVec.ofNat 38 r.x) }

/-- REMN_I (R89). -/
def rowRemnI : OpRow :=
  { op := 0x068,
    d := .g,
    a := .g,
    subs := [⟨0, 3, fun _ => true⟩],
    x := .any,
    build := fun r => .remnI (Guard.ofCode r.gd) (GOp.ofCode r.d) (GOp.ofCode r.a) (IType.ofCode (mBits r.m 0 3)) (BitVec.ofNat 38 r.x) }

/-- AND_I (R89). -/
def rowAndI : OpRow :=
  { op := 0x069,
    d := .g,
    a := .g,
    subs := [⟨0, 3, fun _ => true⟩],
    x := .any,
    build := fun r => .andI (Guard.ofCode r.gd) (GOp.ofCode r.d) (GOp.ofCode r.a) (IType.ofCode (mBits r.m 0 3)) (BitVec.ofNat 38 r.x) }

/-- OR_I (R89). -/
def rowOrI : OpRow :=
  { op := 0x06A,
    d := .g,
    a := .g,
    subs := [⟨0, 3, fun _ => true⟩],
    x := .any,
    build := fun r => .orI (Guard.ofCode r.gd) (GOp.ofCode r.d) (GOp.ofCode r.a) (IType.ofCode (mBits r.m 0 3)) (BitVec.ofNat 38 r.x) }

/-- XOR_I (R89). -/
def rowXorI : OpRow :=
  { op := 0x06B,
    d := .g,
    a := .g,
    subs := [⟨0, 3, fun _ => true⟩],
    x := .any,
    build := fun r => .xorI (Guard.ofCode r.gd) (GOp.ofCode r.d) (GOp.ofCode r.a) (IType.ofCode (mBits r.m 0 3)) (BitVec.ofNat 38 r.x) }

/-- ANDN_I (R89). -/
def rowAndnI : OpRow :=
  { op := 0x06C,
    d := .g,
    a := .g,
    subs := [⟨0, 3, fun _ => true⟩],
    x := .any,
    build := fun r => .andnI (Guard.ofCode r.gd) (GOp.ofCode r.d) (GOp.ofCode r.a) (IType.ofCode (mBits r.m 0 3)) (BitVec.ofNat 38 r.x) }

/-- ORN_I (R89). -/
def rowOrnI : OpRow :=
  { op := 0x06D,
    d := .g,
    a := .g,
    subs := [⟨0, 3, fun _ => true⟩],
    x := .any,
    build := fun r => .ornI (Guard.ofCode r.gd) (GOp.ofCode r.d) (GOp.ofCode r.a) (IType.ofCode (mBits r.m 0 3)) (BitVec.ofNat 38 r.x) }

/-- SHL_I (R89). -/
def rowShlI : OpRow :=
  { op := 0x06E,
    d := .g,
    a := .g,
    subs := [⟨0, 3, fun _ => true⟩],
    x := .any,
    build := fun r => .shlI (Guard.ofCode r.gd) (GOp.ofCode r.d) (GOp.ofCode r.a) (IType.ofCode (mBits r.m 0 3)) (BitVec.ofNat 38 r.x) }

/-- SHR_I (R89). -/
def rowShrI : OpRow :=
  { op := 0x06F,
    d := .g,
    a := .g,
    subs := [⟨0, 3, fun _ => true⟩],
    x := .any,
    build := fun r => .shrI (Guard.ofCode r.gd) (GOp.ofCode r.d) (GOp.ofCode r.a) (IType.ofCode (mBits r.m 0 3)) (BitVec.ofNat 38 r.x) }

/-- SAR_I (R89). -/
def rowSarI : OpRow :=
  { op := 0x070,
    d := .g,
    a := .g,
    subs := [⟨0, 3, fun _ => true⟩],
    x := .any,
    build := fun r => .sarI (Guard.ofCode r.gd) (GOp.ofCode r.d) (GOp.ofCode r.a) (IType.ofCode (mBits r.m 0 3)) (BitVec.ofNat 38 r.x) }

/-- ROL_I (R89). -/
def rowRolI : OpRow :=
  { op := 0x071,
    d := .g,
    a := .g,
    subs := [⟨0, 3, fun _ => true⟩],
    x := .any,
    build := fun r => .rolI (Guard.ofCode r.gd) (GOp.ofCode r.d) (GOp.ofCode r.a) (IType.ofCode (mBits r.m 0 3)) (BitVec.ofNat 38 r.x) }

/-- ROR_I (R89). -/
def rowRorI : OpRow :=
  { op := 0x072,
    d := .g,
    a := .g,
    subs := [⟨0, 3, fun _ => true⟩],
    x := .any,
    build := fun r => .rorI (Guard.ofCode r.gd) (GOp.ofCode r.d) (GOp.ofCode r.a) (IType.ofCode (mBits r.m 0 3)) (BitVec.ofNat 38 r.x) }

/-- MIN_I (R89). -/
def rowMinI : OpRow :=
  { op := 0x073,
    d := .g,
    a := .g,
    subs := [⟨0, 3, fun _ => true⟩],
    x := .any,
    build := fun r => .minI (Guard.ofCode r.gd) (GOp.ofCode r.d) (GOp.ofCode r.a) (IType.ofCode (mBits r.m 0 3)) (BitVec.ofNat 38 r.x) }

/-- MAX_I (R89). -/
def rowMaxI : OpRow :=
  { op := 0x074,
    d := .g,
    a := .g,
    subs := [⟨0, 3, fun _ => true⟩],
    x := .any,
    build := fun r => .maxI (Guard.ofCode r.gd) (GOp.ofCode r.d) (GOp.ofCode r.a) (IType.ofCode (mBits r.m 0 3)) (BitVec.ofNat 38 r.x) }

/-- MINN_I (R89). -/
def rowMinnI : OpRow :=
  { op := 0x075,
    d := .g,
    a := .g,
    subs := [⟨0, 3, fun _ => true⟩],
    x := .any,
    build := fun r => .minnI (Guard.ofCode r.gd) (GOp.ofCode r.d) (GOp.ofCode r.a) (IType.ofCode (mBits r.m 0 3)) (BitVec.ofNat 38 r.x) }

/-- MAXN_I (R89). -/
def rowMaxnI : OpRow :=
  { op := 0x076,
    d := .g,
    a := .g,
    subs := [⟨0, 3, fun _ => true⟩],
    x := .any,
    build := fun r => .maxnI (Guard.ofCode r.gd) (GOp.ofCode r.d) (GOp.ofCode r.a) (IType.ofCode (mBits r.m 0 3)) (BitVec.ofNat 38 r.x) }

/-- CMP_I (R90). -/
def rowCmpI : OpRow :=
  { op := 0x077,
    d := .k,
    a := .g,
    subs := [⟨0, 3, fun _ => true⟩, ⟨3, 4, fun r => decide (mBits r.m 3 4 < 8)⟩],
    x := .any,
    build := fun r => .cmpI (Guard.ofCode r.gd) (kOfCode r.d) (GOp.ofCode r.a) (IType.ofCode (mBits r.m 0 3)) (Cc.ofCode (mBits r.m 3 4)) (BitVec.ofNat 38 r.x) }

/-- CLZ (R91). -/
def rowClz : OpRow :=
  { op := 0x080,
    d := .g,
    a := .g,
    subs := [⟨0, 3, fun _ => true⟩],
    build := fun r => .clz (Guard.ofCode r.gd) (GOp.ofCode r.d) (GOp.ofCode r.a) (IType.ofCode (mBits r.m 0 3)) }

/-- CTZ (R91). -/
def rowCtz : OpRow :=
  { op := 0x081,
    d := .g,
    a := .g,
    subs := [⟨0, 3, fun _ => true⟩],
    build := fun r => .ctz (Guard.ofCode r.gd) (GOp.ofCode r.d) (GOp.ofCode r.a) (IType.ofCode (mBits r.m 0 3)) }

/-- POPC (R91). -/
def rowPopc : OpRow :=
  { op := 0x082,
    d := .g,
    a := .g,
    subs := [⟨0, 3, fun _ => true⟩],
    build := fun r => .popc (Guard.ofCode r.gd) (GOp.ofCode r.d) (GOp.ofCode r.a) (IType.ofCode (mBits r.m 0 3)) }

/-- BREV (R91). -/
def rowBrev : OpRow :=
  { op := 0x083,
    d := .g,
    a := .g,
    subs := [⟨0, 3, fun _ => true⟩],
    build := fun r => .brev (Guard.ofCode r.gd) (GOp.ofCode r.d) (GOp.ofCode r.a) (IType.ofCode (mBits r.m 0 3)) }

/-- BEXT (R92). -/
def rowBext : OpRow :=
  { op := 0x084,
    d := .g,
    a := .g,
    b := .g,
    subs := [⟨0, 1, fun _ => true⟩],
    x := .any,
    build := fun r => .bext (Guard.ofCode r.gd) (GOp.ofCode r.d) (GOp.ofCode r.a) (GOp.ofCode r.b) (mBits r.m 0 1 == 1) (BitVec.ofNat 38 r.x) }

/-- BINS (R92). -/
def rowBins : OpRow :=
  { op := 0x085,
    d := .g,
    a := .g,
    b := .g,
    x := .any,
    build := fun r => .bins (Guard.ofCode r.gd) (GOp.ofCode r.d) (GOp.ofCode r.a) (GOp.ofCode r.b) (BitVec.ofNat 38 r.x) }

/-- SEXT (R93). -/
def rowSext : OpRow :=
  { op := 0x086,
    d := .g,
    a := .g,
    x := .range 1 64,
    build := fun r => .sext (Guard.ofCode r.gd) (GOp.ofCode r.d) (GOp.ofCode r.a) (BitVec.ofNat 38 r.x) }

/-- ZEXT (R93). -/
def rowZext : OpRow :=
  { op := 0x087,
    d := .g,
    a := .g,
    x := .range 1 64,
    build := fun r => .zext (Guard.ofCode r.gd) (GOp.ofCode r.d) (GOp.ofCode r.a) (BitVec.ofNat 38 r.x) }

/-- ABS (R91). -/
def rowAbs : OpRow :=
  { op := 0x088,
    d := .g,
    a := .g,
    subs := [⟨0, 3, fun _ => true⟩],
    build := fun r => .abs (Guard.ofCode r.gd) (GOp.ofCode r.d) (GOp.ofCode r.a) (IType.ofCode (mBits r.m 0 3)) }

/-- NEG (R91). -/
def rowNeg : OpRow :=
  { op := 0x089,
    d := .g,
    a := .g,
    subs := [⟨0, 3, fun _ => true⟩],
    build := fun r => .neg (Guard.ofCode r.gd) (GOp.ofCode r.d) (GOp.ofCode r.a) (IType.ofCode (mBits r.m 0 3)) }

/-- SEL (R94). -/
def rowSel : OpRow :=
  { op := 0x08A,
    d := .g,
    a := .g,
    b := .g,
    c := .k,
    build := fun r => .sel (Guard.ofCode r.gd) (GOp.ofCode r.d) (GOp.ofCode r.a) (GOp.ofCode r.b) (kOfCode r.c) }

/-- MOV (R95). -/
def rowMov : OpRow :=
  { op := 0x08B,
    d := .gjk,
    a := .gjk,
    build := fun r => .mov (Guard.ofCode r.gd) (GJK.ofCode r.d) (GJK.ofCode r.a) }

/-- MOVI (R95). -/
def rowMovi : OpRow :=
  { op := 0x08C,
    fmt := .w,
    d := .gj,
    x := .any,
    build := fun r => .movi (Guard.ofCode r.gd) (GJ.ofCode r.d) (BitVec.ofNat 64 r.w) }

/-- GAND (R96). -/
def rowGand : OpRow :=
  { op := 0x0A0,
    d := .k,
    a := .k,
    b := .k,
    build := fun r => .gand (Guard.ofCode r.gd) (kOfCode r.d) (kOfCode r.a) (kOfCode r.b) }

/-- GOR (R96). -/
def rowGor : OpRow :=
  { op := 0x0A1,
    d := .k,
    a := .k,
    b := .k,
    build := fun r => .gor (Guard.ofCode r.gd) (kOfCode r.d) (kOfCode r.a) (kOfCode r.b) }

/-- GXOR (R96). -/
def rowGxor : OpRow :=
  { op := 0x0A2,
    d := .k,
    a := .k,
    b := .k,
    build := fun r => .gxor (Guard.ofCode r.gd) (kOfCode r.d) (kOfCode r.a) (kOfCode r.b) }

/-- GNOT (R96). -/
def rowGnot : OpRow :=
  { op := 0x0A3,
    d := .k,
    a := .k,
    build := fun r => .gnot (Guard.ofCode r.gd) (kOfCode r.d) (kOfCode r.a) }

/-- PADD (R97). -/
def rowPadd : OpRow :=
  { op := 0x100,
    d := .g,
    a := .g,
    b := .g,
    subs := [⟨0, 10, fun r => decide (mBits r.m 0 10 ≠ 0)⟩],
    x := .any,
    build := fun r => .padd (Guard.ofCode r.gd) (GOp.ofCode r.d) (GOp.ofCode r.a) (GOp.ofCode r.b) (BitVec.ofNat 10 (mBits r.m 0 10)) (BitVec.ofNat 38 r.x) }

/-- PDIF (R97). -/
def rowPdif : OpRow :=
  { op := 0x101,
    d := .g,
    a := .g,
    b := .g,
    subs := [⟨0, 10, fun r => decide (mBits r.m 0 10 ≠ 0)⟩],
    build := fun r => .pdif (Guard.ofCode r.gd) (GOp.ofCode r.d) (GOp.ofCode r.a) (GOp.ofCode r.b) (BitVec.ofNat 10 (mBits r.m 0 10)) }

/-- PALN (R97). -/
def rowPaln : OpRow :=
  { op := 0x102,
    d := .g,
    a := .g,
    subs := [⟨0, 10, fun r => decide (mBits r.m 0 10 ≠ 0)⟩, ⟨10, 1, fun _ => true⟩],
    build := fun r => .paln (Guard.ofCode r.gd) (GOp.ofCode r.d) (GOp.ofCode r.a) (BitVec.ofNat 10 (mBits r.m 0 10)) (mBits r.m 10 1 == 1) }

/-- PBLK (R97). -/
def rowPblk : OpRow :=
  { op := 0x103,
    d := .g,
    a := .g,
    b := .g,
    subs := [⟨0, 2, fun r => decide (mBits r.m 0 2 < 3)⟩],
    build := fun r => .pblk (Guard.ofCode r.gd) (GOp.ofCode r.d) (GOp.ofCode r.a) (GOp.ofCode r.b) (BqFmt.ofCode (mBits r.m 0 2)) }

/-- PCHK (R98). -/
def rowPchk : OpRow :=
  { op := 0x104,
    d := .k,
    a := .g,
    subs := [⟨0, 10, fun r => decide (mBits r.m 0 10 ≠ 0)⟩, ⟨10, 2, fun _ => true⟩],
    x := .any,
    build := fun r => .pchk (Guard.ofCode r.gd) (kOfCode r.d) (GOp.ofCode r.a) (BitVec.ofNat 10 (mBits r.m 0 10)) (BitVec.ofNat 2 (mBits r.m 10 2)) (BitVec.ofNat 38 r.x) }

/-- JSET (R99). -/
def rowJset : OpRow :=
  { op := 0x108,
    d := .j,
    a := .g,
    x := .any,
    build := fun r => .jset (Guard.ofCode r.gd) (jOfCode r.d) (GOp.ofCode r.a) (BitVec.ofNat 38 r.x) }

/-- JADD (R99). -/
def rowJadd : OpRow :=
  { op := 0x109,
    d := .j,
    a := .j,
    b := .g,
    x := .any,
    build := fun r => .jadd (Guard.ofCode r.gd) (jOfCode r.d) (jOfCode r.a) (GOp.ofCode r.b) (BitVec.ofNat 38 r.x) }

/-- FADD (R103). -/
def rowFadd : OpRow :=
  { op := 0x140,
    d := .g,
    a := .g,
    b := .g,
    subs := [⟨0, 2, fun r => decide (mBits r.m 0 2 < 3)⟩, ⟨2, 3, fun r => decide (mBits r.m 2 3 < 5)⟩],
    build := fun r => .fadd (Guard.ofCode r.gd) (GOp.ofCode r.d) (GOp.ofCode r.a) (GOp.ofCode r.b) (FType.ofCode (mBits r.m 0 2)) (Rnd.ofCode (mBits r.m 2 3)) }

/-- FSUB (R103). -/
def rowFsub : OpRow :=
  { op := 0x141,
    d := .g,
    a := .g,
    b := .g,
    subs := [⟨0, 2, fun r => decide (mBits r.m 0 2 < 3)⟩, ⟨2, 3, fun r => decide (mBits r.m 2 3 < 5)⟩],
    build := fun r => .fsub (Guard.ofCode r.gd) (GOp.ofCode r.d) (GOp.ofCode r.a) (GOp.ofCode r.b) (FType.ofCode (mBits r.m 0 2)) (Rnd.ofCode (mBits r.m 2 3)) }

/-- FMUL (R103). -/
def rowFmul : OpRow :=
  { op := 0x142,
    d := .g,
    a := .g,
    b := .g,
    subs := [⟨0, 2, fun r => decide (mBits r.m 0 2 < 3)⟩, ⟨2, 3, fun r => decide (mBits r.m 2 3 < 5)⟩],
    build := fun r => .fmul (Guard.ofCode r.gd) (GOp.ofCode r.d) (GOp.ofCode r.a) (GOp.ofCode r.b) (FType.ofCode (mBits r.m 0 2)) (Rnd.ofCode (mBits r.m 2 3)) }

/-- FFMA (R103). -/
def rowFfma : OpRow :=
  { op := 0x143,
    d := .g,
    a := .g,
    b := .g,
    c := .g,
    subs := [⟨0, 2, fun r => decide (mBits r.m 0 2 < 3)⟩, ⟨2, 3, fun r => decide (mBits r.m 2 3 < 5)⟩],
    build := fun r => .ffma (Guard.ofCode r.gd) (GOp.ofCode r.d) (GOp.ofCode r.a) (GOp.ofCode r.b) (GOp.ofCode r.c) (FType.ofCode (mBits r.m 0 2)) (Rnd.ofCode (mBits r.m 2 3)) }

/-- FDIV (R103). -/
def rowFdiv : OpRow :=
  { op := 0x144,
    d := .g,
    a := .g,
    b := .g,
    subs := [⟨0, 2, fun r => decide (mBits r.m 0 2 < 3)⟩, ⟨2, 3, fun r => decide (mBits r.m 2 3 < 5)⟩],
    build := fun r => .fdiv (Guard.ofCode r.gd) (GOp.ofCode r.d) (GOp.ofCode r.a) (GOp.ofCode r.b) (FType.ofCode (mBits r.m 0 2)) (Rnd.ofCode (mBits r.m 2 3)) }

/-- FSQRT (R103). -/
def rowFsqrt : OpRow :=
  { op := 0x145,
    d := .g,
    a := .g,
    subs := [⟨0, 2, fun r => decide (mBits r.m 0 2 < 3)⟩, ⟨2, 3, fun r => decide (mBits r.m 2 3 < 5)⟩],
    build := fun r => .fsqrt (Guard.ofCode r.gd) (GOp.ofCode r.d) (GOp.ofCode r.a) (FType.ofCode (mBits r.m 0 2)) (Rnd.ofCode (mBits r.m 2 3)) }

/-- FMIN (R104). -/
def rowFmin : OpRow :=
  { op := 0x146,
    d := .g,
    a := .g,
    b := .g,
    subs := [⟨0, 2, fun r => decide (mBits r.m 0 2 < 3)⟩],
    build := fun r => .fmin (Guard.ofCode r.gd) (GOp.ofCode r.d) (GOp.ofCode r.a) (GOp.ofCode r.b) (FType.ofCode (mBits r.m 0 2)) }

/-- FMAX (R104). -/
def rowFmax : OpRow :=
  { op := 0x147,
    d := .g,
    a := .g,
    b := .g,
    subs := [⟨0, 2, fun r => decide (mBits r.m 0 2 < 3)⟩],
    build := fun r => .fmax (Guard.ofCode r.gd) (GOp.ofCode r.d) (GOp.ofCode r.a) (GOp.ofCode r.b) (FType.ofCode (mBits r.m 0 2)) }

/-- FCMP (R105). -/
def rowFcmp : OpRow :=
  { op := 0x148,
    d := .k,
    a := .g,
    b := .g,
    subs := [⟨0, 2, fun r => decide (mBits r.m 0 2 < 3)⟩, ⟨2, 4, fun r => decide (mBits r.m 2 4 < 7)⟩],
    build := fun r => .fcmp (Guard.ofCode r.gd) (kOfCode r.d) (GOp.ofCode r.a) (GOp.ofCode r.b) (FType.ofCode (mBits r.m 0 2)) (FCc.ofCode (mBits r.m 2 4)) }

/-- FCVT (R106). -/
def rowFcvt : OpRow :=
  { op := 0x149,
    d := .g,
    a := .g,
    subs := [⟨0, 4, fun _ => true⟩, ⟨4, 4, fun _ => true⟩, ⟨8, 3, fun r => decide (mBits r.m 8 3 < 5)⟩, ⟨11, 1, fun r => mBits r.m 11 1 == 0 || isOvfTarget (mBits r.m 0 4)⟩],
    build := fun r => .fcvt (Guard.ofCode r.gd) (GOp.ofCode r.d) (GOp.ofCode r.a) (CvtType.ofCode (mBits r.m 0 4)) (CvtType.ofCode (mBits r.m 4 4)) (Rnd.ofCode (mBits r.m 8 3)) (mBits r.m 11 1 == 1) }

/-- FCLASS (R104). -/
def rowFclass : OpRow :=
  { op := 0x14A,
    d := .g,
    a := .g,
    subs := [⟨0, 2, fun r => decide (mBits r.m 0 2 < 3)⟩],
    build := fun r => .fclass (Guard.ofCode r.gd) (GOp.ofCode r.d) (GOp.ofCode r.a) (FType.ofCode (mBits r.m 0 2)) }

/-- FNEG (R104). -/
def rowFneg : OpRow :=
  { op := 0x14B,
    d := .g,
    a := .g,
    subs := [⟨0, 2, fun r => decide (mBits r.m 0 2 < 3)⟩],
    build := fun r => .fneg (Guard.ofCode r.gd) (GOp.ofCode r.d) (GOp.ofCode r.a) (FType.ofCode (mBits r.m 0 2)) }

/-- VADD (R112). -/
def rowVadd : OpRow :=
  { op := 0x180,
    d := .v,
    a := .v,
    b := .v,
    subs := [⟨0, 4, fun r => decide (mBits r.m 0 4 < 11)⟩, ⟨4, 3, fun r => if mBits r.m 0 4 < 8 then mBits r.m 4 3 == 0 else decide (mBits r.m 4 3 < 5)⟩, ⟨7, 1, fun r => mBits r.m 0 4 < 8 || mBits r.m 7 1 == 0⟩],
    build := fun r => .vadd (Guard.ofCode r.gd) (vOfCode r.d) (vOfCode r.a) (vOfCode r.b) (VArith.ofM r.m) }

/-- VSUB (R112). -/
def rowVsub : OpRow :=
  { op := 0x181,
    d := .v,
    a := .v,
    b := .v,
    subs := [⟨0, 4, fun r => decide (mBits r.m 0 4 < 11)⟩, ⟨4, 3, fun r => if mBits r.m 0 4 < 8 then mBits r.m 4 3 == 0 else decide (mBits r.m 4 3 < 5)⟩, ⟨7, 1, fun r => mBits r.m 0 4 < 8 || mBits r.m 7 1 == 0⟩],
    build := fun r => .vsub (Guard.ofCode r.gd) (vOfCode r.d) (vOfCode r.a) (vOfCode r.b) (VArith.ofM r.m) }

/-- VMUL (R112). -/
def rowVmul : OpRow :=
  { op := 0x182,
    d := .v,
    a := .v,
    b := .v,
    subs := [⟨0, 4, fun r => decide (mBits r.m 0 4 < 11)⟩, ⟨4, 3, fun r => if mBits r.m 0 4 < 8 then mBits r.m 4 3 == 0 else decide (mBits r.m 4 3 < 5)⟩, ⟨7, 1, fun r => mBits r.m 0 4 < 8 || mBits r.m 7 1 == 0⟩],
    build := fun r => .vmul (Guard.ofCode r.gd) (vOfCode r.d) (vOfCode r.a) (vOfCode r.b) (VArith.ofM r.m) }

/-- VFMA (R112). -/
def rowVfma : OpRow :=
  { op := 0x183,
    d := .v,
    a := .v,
    b := .v,
    c := .v,
    subs := [⟨0, 4, fun r => decide (mBits r.m 0 4 < 11)⟩, ⟨4, 3, fun r => if mBits r.m 0 4 < 8 then mBits r.m 4 3 == 0 else decide (mBits r.m 4 3 < 5)⟩, ⟨7, 1, fun r => mBits r.m 0 4 < 8 || mBits r.m 7 1 == 0⟩],
    build := fun r => .vfma (Guard.ofCode r.gd) (vOfCode r.d) (vOfCode r.a) (vOfCode r.b) (vOfCode r.c) (VArith.ofM r.m) }

/-- VMIN (R112). -/
def rowVmin : OpRow :=
  { op := 0x184,
    d := .v,
    a := .v,
    b := .v,
    subs := [⟨0, 4, fun r => decide (mBits r.m 0 4 < 11)⟩, ⟨4, 3, fun r => mBits r.m 4 3 == 0⟩, ⟨7, 1, fun r => mBits r.m 7 1 == 0⟩],
    build := fun r => .vmin (Guard.ofCode r.gd) (vOfCode r.d) (vOfCode r.a) (vOfCode r.b) (VType.ofCode (mBits r.m 0 4)) }

/-- VMAX (R112). -/
def rowVmax : OpRow :=
  { op := 0x185,
    d := .v,
    a := .v,
    b := .v,
    subs := [⟨0, 4, fun r => decide (mBits r.m 0 4 < 11)⟩, ⟨4, 3, fun r => mBits r.m 4 3 == 0⟩, ⟨7, 1, fun r => mBits r.m 7 1 == 0⟩],
    build := fun r => .vmax (Guard.ofCode r.gd) (vOfCode r.d) (vOfCode r.a) (vOfCode r.b) (VType.ofCode (mBits r.m 0 4)) }

/-- VABS (R112). -/
def rowVabs : OpRow :=
  { op := 0x186,
    d := .v,
    a := .v,
    subs := [⟨0, 4, fun r => decide (mBits r.m 0 4 < 11)⟩, ⟨7, 1, fun r => mBits r.m 0 4 < 8 || mBits r.m 7 1 == 0⟩],
    build := fun r => .vabs (Guard.ofCode r.gd) (vOfCode r.d) (vOfCode r.a) (VSign.ofM r.m) }

/-- VNEG (R112). -/
def rowVneg : OpRow :=
  { op := 0x187,
    d := .v,
    a := .v,
    subs := [⟨0, 4, fun r => decide (mBits r.m 0 4 < 11)⟩, ⟨7, 1, fun r => mBits r.m 0 4 < 8 || mBits r.m 7 1 == 0⟩],
    build := fun r => .vneg (Guard.ofCode r.gd) (vOfCode r.d) (vOfCode r.a) (VSign.ofM r.m) }

/-- VAND (R112). -/
def rowVand : OpRow :=
  { op := 0x188,
    d := .v,
    a := .v,
    b := .v,
    subs := [⟨0, 4, fun r => decide (mBits r.m 0 4 < 8)⟩],
    build := fun r => .vand (Guard.ofCode r.gd) (vOfCode r.d) (vOfCode r.a) (vOfCode r.b) (IType.ofCode (mBits r.m 0 4)) }

/-- VOR (R112). -/
def rowVor : OpRow :=
  { op := 0x189,
    d := .v,
    a := .v,
    b := .v,
    subs := [⟨0, 4, fun r => decide (mBits r.m 0 4 < 8)⟩],
    build := fun r => .vor (Guard.ofCode r.gd) (vOfCode r.d) (vOfCode r.a) (vOfCode r.b) (IType.ofCode (mBits r.m 0 4)) }

/-- VXOR (R112). -/
def rowVxor : OpRow :=
  { op := 0x18A,
    d := .v,
    a := .v,
    b := .v,
    subs := [⟨0, 4, fun r => decide (mBits r.m 0 4 < 8)⟩],
    build := fun r => .vxor (Guard.ofCode r.gd) (vOfCode r.d) (vOfCode r.a) (vOfCode r.b) (IType.ofCode (mBits r.m 0 4)) }

/-- VSHL (R112). -/
def rowVshl : OpRow :=
  { op := 0x18B,
    d := .v,
    a := .v,
    b := .vg,
    subs := [⟨0, 4, fun r => decide (mBits r.m 0 4 < 8)⟩],
    x := .shift,
    build := fun r => .vshl (Guard.ofCode r.gd) (vOfCode r.d) (vOfCode r.a) (ShCount.ofRaw r.b r.x) (IType.ofCode (mBits r.m 0 4)) }

/-- VSHR (R112). -/
def rowVshr : OpRow :=
  { op := 0x18C,
    d := .v,
    a := .v,
    b := .vg,
    subs := [⟨0, 4, fun r => decide (mBits r.m 0 4 < 8)⟩],
    x := .shift,
    build := fun r => .vshr (Guard.ofCode r.gd) (vOfCode r.d) (vOfCode r.a) (ShCount.ofRaw r.b r.x) (IType.ofCode (mBits r.m 0 4)) }

/-- VSAR (R112). -/
def rowVsar : OpRow :=
  { op := 0x18D,
    d := .v,
    a := .v,
    b := .vg,
    subs := [⟨0, 4, fun r => decide (mBits r.m 0 4 < 8)⟩],
    x := .shift,
    build := fun r => .vsar (Guard.ofCode r.gd) (vOfCode r.d) (vOfCode r.a) (ShCount.ofRaw r.b r.x) (IType.ofCode (mBits r.m 0 4)) }

/-- VCMP (R113). -/
def rowVcmp : OpRow :=
  { op := 0x18E,
    d := .v,
    a := .v,
    b := .v,
    subs := [⟨0, 4, fun r => decide (mBits r.m 0 4 < 11)⟩, ⟨8, 4, fun r => if mBits r.m 0 4 < 8 then decide (mBits r.m 8 4 < 8) else decide (mBits r.m 8 4 < 7)⟩],
    build := fun r => .vcmp (Guard.ofCode r.gd) (vOfCode r.d) (vOfCode r.a) (vOfCode r.b) (VCond.ofM r.m) }

/-- VSEL (R113). -/
def rowVsel : OpRow :=
  { op := 0x18F,
    d := .v,
    a := .v,
    b := .v,
    c := .v,
    build := fun r => .vsel (Guard.ofCode r.gd) (vOfCode r.d) (vOfCode r.a) (vOfCode r.b) (vOfCode r.c) }

/-- VDOT (R114). -/
def rowVdot : OpRow :=
  { op := 0x1A0,
    d := .v,
    a := .v,
    b := .v,
    subs := [⟨0, 4, fun r => decide (mBits r.m 0 4 < 9)⟩, ⟨4, 3, fun r => if mBits r.m 0 4 < 7 then decide (mBits r.m 4 3 < 5) else mBits r.m 4 3 == 0⟩, ⟨7, 1, fun r => decide (7 ≤ mBits r.m 0 4) || mBits r.m 7 1 == 0⟩],
    build := fun r => .vdot (Guard.ofCode r.gd) (vOfCode r.d) (vOfCode r.a) (vOfCode r.b) (VDotArg.ofM r.m) }

/-- VCVT (R115). -/
def rowVcvt : OpRow :=
  { op := 0x1A1,
    d := .v,
    a := .v,
    subs := [⟨0, 4, fun _ => true⟩, ⟨4, 4, fun _ => true⟩, ⟨8, 3, fun r => decide (mBits r.m 8 3 < 5)⟩, ⟨11, 1, fun r => mBits r.m 11 1 == 0 || isOvfTarget (mBits r.m 0 4)⟩, ⟨12, 3, fun r => partOk (mBits r.m 0 4) (mBits r.m 4 4) (mBits r.m 12 3)⟩],
    build := fun r => .vcvt (Guard.ofCode r.gd) (vOfCode r.d) (vOfCode r.a) (CvtType.ofCode (mBits r.m 0 4)) (CvtType.ofCode (mBits r.m 4 4)) (Rnd.ofCode (mBits r.m 8 3)) (mBits r.m 11 1 == 1) (BitVec.ofNat 3 (mBits r.m 12 3)) }

/-- VPACK (R116). -/
def rowVpack : OpRow :=
  { op := 0x1A2,
    d := .v,
    a := .v,
    b := .pack,
    subs := [⟨0, 3, fun r => decide (mBits r.m 0 3 < 4)⟩, ⟨3, 4, fun r => if mBits r.m 0 3 == 0 then decide (mBits r.m 3 4 < 8) else mBits r.m 3 4 == 0⟩, ⟨7, 7, fun r => if mBits r.m 0 3 == 0 then decide (1 ≤ mBits r.m 7 7 ∧ mBits r.m 7 7 ≤ iWidthOf (mBits r.m 3 4)) else mBits r.m 7 7 == 0⟩, ⟨14, 1, fun r => mBits r.m 0 3 == 0 || mBits r.m 14 1 == 0⟩, ⟨15, 1, fun r => mBits r.m 0 3 ≠ 0 || mBits r.m 15 1 == 0⟩],
    x := .pack 127 0,
    build := fun r => .vpack (Guard.ofCode r.gd) (vOfCode r.d) (vOfCode r.a) (PackArg.ofRaw r.b r.m r.x) }

/-- VUNPK (R118). -/
def rowVunpk : OpRow :=
  { op := 0x1A3,
    d := .v,
    a := .v,
    subs := [⟨0, 3, fun r => decide (mBits r.m 0 3 < 4)⟩, ⟨3, 4, fun r => if mBits r.m 0 3 == 0 then decide (mBits r.m 3 4 < 8) else mBits r.m 3 4 == 0⟩, ⟨7, 7, fun r => if mBits r.m 0 3 == 0 then decide (1 ≤ mBits r.m 7 7 ∧ mBits r.m 7 7 ≤ iWidthOf (mBits r.m 3 4)) else mBits r.m 7 7 == 0⟩],
    x := .pack 127 3,
    build := fun r => .vunpk (Guard.ofCode r.gd) (vOfCode r.d) (vOfCode r.a) (UnpkArg.ofRaw r.m r.x) }

/-- VSPLAT (R119). -/
def rowVsplat : OpRow :=
  { op := 0x1A4,
    d := .v,
    a := .g,
    subs := [⟨0, 4, fun r => decide (mBits r.m 0 4 < 11)⟩],
    x := .any,
    build := fun r => .vsplat (Guard.ofCode r.gd) (vOfCode r.d) (GOp.ofCode r.a) (VType.ofCode (mBits r.m 0 4)) (BitVec.ofNat 38 r.x) }

/-- VEXT (R119). -/
def rowVext : OpRow :=
  { op := 0x1A5,
    d := .g,
    a := .v,
    b := .g,
    subs := [⟨0, 4, fun r => decide (mBits r.m 0 4 < 11)⟩],
    x := .any,
    build := fun r => .vext (Guard.ofCode r.gd) (GOp.ofCode r.d) (vOfCode r.a) (GOp.ofCode r.b) (VType.ofCode (mBits r.m 0 4)) (BitVec.ofNat 38 r.x) }

/-- VINS (R119). -/
def rowVins : OpRow :=
  { op := 0x1A6,
    d := .v,
    a := .g,
    b := .g,
    subs := [⟨0, 4, fun r => decide (mBits r.m 0 4 < 11)⟩],
    x := .any,
    build := fun r => .vins (Guard.ofCode r.gd) (vOfCode r.d) (GOp.ofCode r.a) (GOp.ofCode r.b) (VType.ofCode (mBits r.m 0 4)) (BitVec.ofNat 38 r.x) }

/-- VPERM (R120). -/
def rowVperm : OpRow :=
  { op := 0x1A7,
    d := .v,
    a := .v,
    b := .v,
    c := .v,
    subs := [⟨0, 4, fun r => decide (mBits r.m 0 4 < 11)⟩],
    build := fun r => .vperm (Guard.ofCode r.gd) (vOfCode r.d) (vOfCode r.a) (vOfCode r.b) (vOfCode r.c) (VType.ofCode (mBits r.m 0 4)) }

/-- VTBL (R121). -/
def rowVtbl : OpRow :=
  { op := 0x1A8,
    d := .v,
    a := .v,
    b := .v,
    subs := [⟨0, 3, fun _ => true⟩],
    x := .range 0 255,
    build := fun r => .vtbl (Guard.ofCode r.gd) (vOfCode r.d) (vOfCode r.a) (vOfCode r.b) (BitVec.ofNat 3 (mBits r.m 0 3)) (BitVec.ofNat 38 r.x) }

/-- VRED (R124). -/
def rowVred : OpRow :=
  { op := 0x1A9,
    d := .g,
    a := .v,
    subs := [⟨0, 4, fun r => decide (mBits r.m 0 4 < 11)⟩, ⟨4, 3, fun r => if mBits r.m 0 4 < 8 then decide (mBits r.m 4 3 < 6) else decide (mBits r.m 4 3 < 3)⟩, ⟨7, 3, fun r => if decide (8 ≤ mBits r.m 0 4) && mBits r.m 4 3 == 0 then decide (mBits r.m 7 3 < 5) else mBits r.m 7 3 == 0⟩],
    build := fun r => .vred (Guard.ofCode r.gd) (GOp.ofCode r.d) (vOfCode r.a) (VRedArg.ofM r.m) }

/-- CHAIN (R126). -/
def rowChain : OpRow :=
  { op := 0x1AA,
    d := .g,
    a := .g,
    b := .g,
    c := .v,
    subs := [⟨0, 4, fun _ => true⟩, ⟨4, 4, fun _ => true⟩, ⟨8, 3, fun r => decide (mBits r.m 8 3 < 5)⟩, ⟨11, 1, fun r => mBits r.m 11 1 == 0 || isOvfTarget (mBits r.m 4 4)⟩, ⟨12, 1, fun _ => true⟩, ⟨13, 1, fun _ => true⟩],
    build := fun r => .chain (Guard.ofCode r.gd) (GOp.ofCode r.d) (GOp.ofCode r.a) (GOp.ofCode r.b) (vOfCode r.c) (CvtType.ofCode (mBits r.m 0 4)) (CvtType.ofCode (mBits r.m 4 4)) (Rnd.ofCode (mBits r.m 8 3)) (mBits r.m 11 1 == 1) (mBits r.m 12 1 == 1) (mBits r.m 13 1 == 1) }

/-- LD (R135). -/
def rowLd : OpRow :=
  { op := 0x200,
    d := .g,
    a := .g,
    b := .g,
    subs := [⟨0, 6, fun _ => true⟩, ⟨6, 1, fun _ => true⟩, ⟨7, 3, fun r => isLoadOrd (mBits r.m 7 3)⟩, ⟨10, 4, fun r => decide (mBits r.m 10 4 < 10)⟩],
    x := .any,
    build := fun r => .ld (Guard.ofCode r.gd) (GOp.ofCode r.d) (GOp.ofCode r.a) (GOp.ofCode r.b) (BitVec.ofNat 6 (mBits r.m 0 6)) (mBits r.m 6 1 == 1) (LoadOrd.ofCode (mBits r.m 7 3)) (Scope.ofCode (mBits r.m 10 4)) (BitVec.ofNat 38 r.x) }

/-- LDP (R135). -/
def rowLdp : OpRow :=
  { op := 0x202,
    d := .g,
    a := .g,
    b := .g,
    subs := [⟨0, 6, fun _ => true⟩, ⟨6, 1, fun _ => true⟩, ⟨7, 3, fun r => isLoadOrd (mBits r.m 7 3)⟩, ⟨10, 4, fun r => decide (mBits r.m 10 4 < 10)⟩],
    x := .any,
    build := fun r => .ldp (Guard.ofCode r.gd) (GOp.ofCode r.d) (GOp.ofCode r.a) (GOp.ofCode r.b) (BitVec.ofNat 6 (mBits r.m 0 6)) (mBits r.m 6 1 == 1) (LoadOrd.ofCode (mBits r.m 7 3)) (Scope.ofCode (mBits r.m 10 4)) (BitVec.ofNat 38 r.x) }

/-- ST (R135). -/
def rowSt : OpRow :=
  { op := 0x201,
    d := .g,
    a := .g,
    b := .g,
    subs := [⟨0, 6, fun _ => true⟩, ⟨7, 3, fun r => isStoreOrd (mBits r.m 7 3)⟩, ⟨10, 4, fun r => decide (mBits r.m 10 4 < 10)⟩],
    x := .any,
    build := fun r => .st (Guard.ofCode r.gd) (GOp.ofCode r.d) (GOp.ofCode r.a) (GOp.ofCode r.b) (BitVec.ofNat 6 (mBits r.m 0 6)) (StoreOrd.ofCode (mBits r.m 7 3)) (Scope.ofCode (mBits r.m 10 4)) (BitVec.ofNat 38 r.x) }

/-- STP (R135). -/
def rowStp : OpRow :=
  { op := 0x203,
    d := .g,
    a := .g,
    b := .g,
    subs := [⟨0, 6, fun _ => true⟩, ⟨7, 3, fun r => isStoreOrd (mBits r.m 7 3)⟩, ⟨10, 4, fun r => decide (mBits r.m 10 4 < 10)⟩],
    x := .any,
    build := fun r => .stp (Guard.ofCode r.gd) (GOp.ofCode r.d) (GOp.ofCode r.a) (GOp.ofCode r.b) (BitVec.ofNat 6 (mBits r.m 0 6)) (StoreOrd.ofCode (mBits r.m 7 3)) (Scope.ofCode (mBits r.m 10 4)) (BitVec.ofNat 38 r.x) }

/-- VLD (R136). -/
def rowVld : OpRow :=
  { op := 0x204,
    d := .v,
    a := .g,
    b := .g,
    subs := [⟨7, 3, fun r => isLoadOrd (mBits r.m 7 3)⟩, ⟨10, 4, fun r => decide (mBits r.m 10 4 < 10)⟩],
    x := .any,
    build := fun r => .vld (Guard.ofCode r.gd) (vOfCode r.d) (GOp.ofCode r.a) (GOp.ofCode r.b) (LoadOrd.ofCode (mBits r.m 7 3)) (Scope.ofCode (mBits r.m 10 4)) (BitVec.ofNat 38 r.x) }

/-- VST (R136). -/
def rowVst : OpRow :=
  { op := 0x205,
    d := .v,
    a := .g,
    b := .g,
    subs := [⟨7, 3, fun r => isStoreOrd (mBits r.m 7 3)⟩, ⟨10, 4, fun r => decide (mBits r.m 10 4 < 10)⟩],
    x := .any,
    build := fun r => .vst (Guard.ofCode r.gd) (vOfCode r.d) (GOp.ofCode r.a) (GOp.ofCode r.b) (StoreOrd.ofCode (mBits r.m 7 3)) (Scope.ofCode (mBits r.m 10 4)) (BitVec.ofNat 38 r.x) }

/-- VLDP (R136). -/
def rowVldp : OpRow :=
  { op := 0x206,
    d := .v,
    a := .g,
    b := .g,
    subs := [⟨7, 3, fun r => isLoadOrd (mBits r.m 7 3)⟩, ⟨10, 4, fun r => decide (mBits r.m 10 4 < 10)⟩],
    x := .any,
    build := fun r => .vldp (Guard.ofCode r.gd) (vOfCode r.d) (GOp.ofCode r.a) (GOp.ofCode r.b) (LoadOrd.ofCode (mBits r.m 7 3)) (Scope.ofCode (mBits r.m 10 4)) (BitVec.ofNat 38 r.x) }

/-- VSTP (R136). -/
def rowVstp : OpRow :=
  { op := 0x207,
    d := .v,
    a := .g,
    b := .g,
    subs := [⟨7, 3, fun r => isStoreOrd (mBits r.m 7 3)⟩, ⟨10, 4, fun r => decide (mBits r.m 10 4 < 10)⟩],
    x := .any,
    build := fun r => .vstp (Guard.ofCode r.gd) (vOfCode r.d) (GOp.ofCode r.a) (GOp.ofCode r.b) (StoreOrd.ofCode (mBits r.m 7 3)) (Scope.ofCode (mBits r.m 10 4)) (BitVec.ofNat 38 r.x) }

/-- PREF (R137). -/
def rowPref : OpRow :=
  { op := 0x208,
    a := .g,
    b := .g,
    x := .any,
    build := fun r => .pref (Guard.ofCode r.gd) (GOp.ofCode r.a) (GOp.ofCode r.b) (BitVec.ofNat 38 r.x) }

/-- DEP (R150). -/
def rowDep : OpRow :=
  { op := 0x280,
    d := .g,
    a := .g,
    b := .g,
    subs := [⟨0, 2, fun r => decide (mBits r.m 0 2 < 3)⟩, ⟨2, 3, fun r => isStoreOrd (mBits r.m 2 3)⟩, ⟨5, 4, fun r => decide (mBits r.m 5 4 < 10)⟩],
    x := .any,
    build := fun r => .dep (Guard.ofCode r.gd) (GOp.ofCode r.d) (GOp.ofCode r.a) (GOp.ofCode r.b) (Cmb.ofCode (mBits r.m 0 2)) (StoreOrd.ofCode (mBits r.m 2 3)) (Scope.ofCode (mBits r.m 5 4)) (BitVec.ofNat 38 r.x) }

/-- MRD (R151). -/
def rowMrd : OpRow :=
  { op := 0x281,
    d := .g,
    a := .g,
    subs := [⟨2, 3, fun r => isLoadOrd (mBits r.m 2 3)⟩, ⟨5, 4, fun r => decide (mBits r.m 5 4 < 10)⟩],
    x := .any,
    build := fun r => .mrd (Guard.ofCode r.gd) (GOp.ofCode r.d) (GOp.ofCode r.a) (LoadOrd.ofCode (mBits r.m 2 3)) (Scope.ofCode (mBits r.m 5 4)) (BitVec.ofNat 38 r.x) }

/-- SENSE (R153). -/
def rowSense : OpRow :=
  { op := 0x282,
    d := .g,
    a := .g,
    subs := [⟨0, 3, fun r => decide (mBits r.m 0 3 < 4)⟩, ⟨3, 4, fun r => if mBits r.m 0 3 == 0 then mBits r.m 3 4 != 1 else mBits r.m 3 4 == 0⟩, ⟨7, 1, fun _ => true⟩, ⟨8, 3, fun r => isLoadOrd (mBits r.m 8 3)⟩, ⟨11, 4, fun r => decide (mBits r.m 11 4 < 10)⟩],
    x := .any,
    build := fun r => .sense (Guard.ofCode r.gd) (GOp.ofCode r.d) (GOp.ofCode r.a) (Window.ofM r.m) (mBits r.m 7 1 == 1) (LoadOrd.ofCode (mBits r.m 8 3)) (Scope.ofCode (mBits r.m 11 4)) (BitVec.ofNat 38 r.x) }

/-- TICKR (R154). -/
def rowTickr : OpRow :=
  { op := 0x283,
    d := .g,
    a := .g,
    x := .any,
    build := fun r => .tickr (Guard.ofCode r.gd) (GOp.ofCode r.d) (GOp.ofCode r.a) (BitVec.ofNat 38 r.x) }

/-- TADV (R154). -/
def rowTadv : OpRow :=
  { op := 0x284,
    d := .g,
    a := .g,
    x := .any,
    build := fun r => .tadv (Guard.ofCode r.gd) (GOp.ofCode r.d) (GOp.ofCode r.a) (BitVec.ofNat 38 r.x) }

/-- AMO (R139). -/
def rowAmo : OpRow :=
  { op := 0x2C0,
    d := .g,
    a := .g,
    b := .g,
    subs := [⟨0, 4, fun r => decide (mBits r.m 0 4 < 11)⟩, ⟨4, 4, fun r => if mBits r.m 0 4 < 8 then decide (mBits r.m 4 4 < 7) else decide (6 ≤ mBits r.m 4 4 ∧ mBits r.m 4 4 < 10)⟩, ⟨8, 3, fun r => isAnyOrd (mBits r.m 8 3)⟩, ⟨11, 4, fun r => decide (mBits r.m 11 4 < 10)⟩],
    x := .any,
    build := fun r => .amo (Guard.ofCode r.gd) (GOp.ofCode r.d) (GOp.ofCode r.a) (GOp.ofCode r.b) (AmoArg.ofM r.m) (Ord.ofCode (mBits r.m 8 3)) (Scope.ofCode (mBits r.m 11 4)) (BitVec.ofNat 38 r.x) }

/-- CAS (R140). -/
def rowCas : OpRow :=
  { op := 0x2C1,
    d := .g,
    a := .g,
    b := .g,
    c := .g,
    subs := [⟨0, 4, fun r => decide (mBits r.m 0 4 < 11)⟩, ⟨8, 3, fun r => isAnyOrd (mBits r.m 8 3)⟩, ⟨11, 4, fun r => decide (mBits r.m 11 4 < 10)⟩],
    x := .any,
    build := fun r => .cas (Guard.ofCode r.gd) (GOp.ofCode r.d) (GOp.ofCode r.a) (GOp.ofCode r.b) (GOp.ofCode r.c) (VType.ofCode (mBits r.m 0 4)) (Ord.ofCode (mBits r.m 8 3)) (Scope.ofCode (mBits r.m 11 4)) (BitVec.ofNat 38 r.x) }

/-- RED (R141). -/
def rowRed : OpRow :=
  { op := 0x2C2,
    a := .g,
    b := .g,
    subs := [⟨0, 4, fun r => decide (mBits r.m 0 4 < 11)⟩, ⟨4, 4, fun r => if mBits r.m 0 4 < 8 then decide (mBits r.m 4 4 < 7) else decide (6 ≤ mBits r.m 4 4 ∧ mBits r.m 4 4 < 10)⟩, ⟨8, 3, fun r => isAnyOrd (mBits r.m 8 3)⟩, ⟨11, 4, fun r => decide (mBits r.m 11 4 < 10)⟩],
    x := .any,
    build := fun r => .red (Guard.ofCode r.gd) (GOp.ofCode r.a) (GOp.ofCode r.b) (AmoArg.ofM r.m) (Ord.ofCode (mBits r.m 8 3)) (Scope.ofCode (mBits r.m 11 4)) (BitVec.ofNat 38 r.x) }

/-- FENCE (R143). -/
def rowFence : OpRow :=
  { op := 0x2C3,
    subs := [⟨0, 3, fun r => isAnyOrd (mBits r.m 0 3)⟩, ⟨3, 4, fun r => decide (mBits r.m 3 4 < 10)⟩],
    build := fun r => .fence (Guard.ofCode r.gd) (Ord.ofCode (mBits r.m 0 3)) (Scope.ofCode (mBits r.m 3 4)) }

/-- MARM (R144). -/
def rowMarm : OpRow :=
  { op := 0x2C4,
    a := .g,
    subs := [⟨0, 6, fun _ => true⟩, ⟨6, 2, fun _ => true⟩, ⟨8, 1, fun _ => true⟩],
    x := .any,
    build := fun r => .marm (Guard.ofCode r.gd) (GOp.ofCode r.a) (BitVec.ofNat 6 (mBits r.m 0 6)) (BitVec.ofNat 2 (mBits r.m 6 2)) (mBits r.m 8 1 == 1) (BitVec.ofNat 38 r.x) }

/-- WAITA (R145). -/
def rowWaita : OpRow :=
  { op := 0x2C5,
    d := .g,
    a := .g,
    x := .any,
    build := fun r => .waita (Guard.ofCode r.gd) (GOp.ofCode r.d) (GOp.ofCode r.a) (BitVec.ofNat 38 r.x) }

/-- MDIS (R147). -/
def rowMdis : OpRow :=
  { op := 0x2C6,
    subs := [⟨0, 2, fun _ => true⟩, ⟨2, 1, fun _ => true⟩],
    build := fun r => .mdis (Guard.ofCode r.gd) (BitVec.ofNat 2 (mBits r.m 0 2)) (mBits r.m 2 1 == 1) }

/-- COPY (R163). -/
def rowCopy : OpRow :=
  { op := 0x300,
    d := .g,
    a := .g,
    b := .g,
    c := .fwd,
    subs := [⟨0, 6, fun _ => true⟩, ⟨6, 2, fun r => decide (mBits r.m 6 2 < 3) && (mBits r.m 13 1 == 0 || mBits r.m 6 2 == 0)⟩, ⟨8, 4, fun r => decide (mBits r.m 8 4 < 10)⟩, ⟨12, 1, fun _ => true⟩, ⟨13, 1, fun _ => true⟩],
    e := some ⟨true, true, true, true, false, fun f => f.xo == 0⟩,
    x := .any,
    build := fun r => .copy (Guard.ofCode r.gd) (GOp.ofCode r.d) (GOp.ofCode r.a) (GOp.ofCode r.b) (CopyMode.ofRaw r.c r.m) (BitVec.ofNat 6 (mBits r.m 0 6)) (Scope.ofCode (mBits r.m 8 4)) (mBits r.m 12 1 == 1) (BitVec.ofNat 12 r.ta) (BitVec.ofNat 12 r.tb) (BitVec.ofNat 3 r.lm) (BitVec.ofNat 3 r.ln) }

/-- COPYV (R166). -/
def rowCopyv : OpRow :=
  { op := 0x301,
    d := .g,
    a := .g,
    b := .g,
    c := .g,
    subs := [⟨0, 6, fun _ => true⟩, ⟨8, 4, fun r => decide (mBits r.m 8 4 < 10)⟩, ⟨12, 1, fun _ => true⟩],
    e := some ⟨true, true, true, true, false, fun f => f.xo == 0⟩,
    x := .any,
    build := fun r => .copyv (Guard.ofCode r.gd) (GOp.ofCode r.d) (GOp.ofCode r.a) (GOp.ofCode r.b) (GOp.ofCode r.c) (BitVec.ofNat 6 (mBits r.m 0 6)) (Scope.ofCode (mBits r.m 8 4)) (mBits r.m 12 1 == 1) (BitVec.ofNat 12 r.ta) (BitVec.ofNat 12 r.tb) (BitVec.ofNat 3 r.lm) (BitVec.ofNat 3 r.ln) }

/-- CSTAGE (R168). -/
def rowCstage : OpRow :=
  { op := 0x302,
    d := .g,
    a := .g,
    x := .any,
    build := fun r => .cstage (Guard.ofCode r.gd) (GOp.ofCode r.d) (GOp.ofCode r.a) (BitVec.ofNat 38 r.x) }

/-- WMARK (R167). -/
def rowWmark : OpRow :=
  { op := 0x303,
    d := .g,
    a := .g,
    b := .g,
    subs := [⟨0, 6, fun _ => true⟩, ⟨6, 2, fun _ => true⟩, ⟨8, 4, fun r => decide (mBits r.m 8 4 < 10)⟩, ⟨12, 1, fun _ => true⟩],
    e := some ⟨true, true, true, true, false, fun f => f.xo == 0⟩,
    x := .any,
    build := fun r => .wmark (Guard.ofCode r.gd) (GOp.ofCode r.d) (GOp.ofCode r.a) (GOp.ofCode r.b) (BitVec.ofNat 6 (mBits r.m 0 6)) (BitVec.ofNat 2 (mBits r.m 6 2)) (Scope.ofCode (mBits r.m 8 4)) (mBits r.m 12 1 == 1) (BitVec.ofNat 12 r.ta) (BitVec.ofNat 12 r.tb) (BitVec.ofNat 3 r.lm) (BitVec.ofNat 3 r.ln) }

/-- TWAIT (R171). -/
def rowTwait : OpRow :=
  { op := 0x304,
    a := .g,
    x := .any,
    build := fun r => .twait (Guard.ofCode r.gd) (GOp.ofCode r.a) (BitVec.ofNat 38 r.x) }

/-- TFIND (R171). -/
def rowTfind : OpRow :=
  { op := 0x305,
    d := .g,
    a := .g,
    x := .any,
    build := fun r => .tfind (Guard.ofCode r.gd) (GOp.ofCode r.d) (GOp.ofCode r.a) (BitVec.ofNat 38 r.x) }

/-- TCLR (R171). -/
def rowTclr : OpRow :=
  { op := 0x306,
    a := .g,
    x := .any,
    build := fun r => .tclr (Guard.ofCode r.gd) (GOp.ofCode r.a) (BitVec.ofNat 38 r.x) }

/-- MDLD (R169). -/
def rowMdld : OpRow :=
  { op := 0x307,
    d := .g,
    a := .g,
    b := .g,
    subs := [⟨0, 6, fun _ => true⟩],
    e := some ⟨true, false, true, true, false, fun f => f.xo == 0⟩,
    x := .any,
    build := fun r => .mdld (Guard.ofCode r.gd) (GOp.ofCode r.d) (GOp.ofCode r.a) (GOp.ofCode r.b) (BitVec.ofNat 6 (mBits r.m 0 6)) (BitVec.ofNat 12 r.ta) (BitVec.ofNat 3 r.lm) (BitVec.ofNat 3 r.ln) }

/-- TDSET (R161). -/
def rowTdset : OpRow :=
  { op := 0x308,
    a := .v,
    e := some ⟨true, false, false, false, false, fun f => f.xo == 0⟩,
    x := .any,
    build := fun r => .tdset (Guard.ofCode r.gd) (vOfCode r.a) (BitVec.ofNat 12 r.ta) }

/-- TDGET (R161). -/
def rowTdget : OpRow :=
  { op := 0x309,
    d := .v,
    e := some ⟨true, false, false, false, false, fun f => f.xo == 0⟩,
    x := .any,
    build := fun r => .tdget (Guard.ofCode r.gd) (vOfCode r.d) (BitVec.ofNat 12 r.ta) }

/-- LSET (R162). -/
def rowLset : OpRow :=
  { op := 0x340,
    a := .g,
    subs := [⟨0, 1, fun _ => true⟩, ⟨1, 3, fun _ => true⟩],
    x := .any,
    build := fun r => .lset (Guard.ofCode r.gd) (GOp.ofCode r.a) (mBits r.m 0 1 == 1) (BitVec.ofNat 3 (mBits r.m 1 3)) (BitVec.ofNat 38 r.x) }

/-- MJOB (R173). -/
def rowMjob : OpRow :=
  { op := 0x341,
    d := .g,
    a := .g,
    b := .g,
    c := .g,
    subs := [⟨0, 3, fun _ => true⟩, ⟨3, 6, fun _ => true⟩, ⟨9, 2, fun r => mBits r.m 9 2 == 0⟩, ⟨11, 2, fun r => mBits r.m 11 2 == 0⟩, ⟨13, 1, fun _ => true⟩, ⟨14, 1, fun _ => true⟩],
    e := some ⟨true, true, true, true, true, fun f => mBits f.xo 2 1 == 0 && (mBits f.m 13 1 == 0 || mBits f.xo 1 1 == 0)⟩,
    x := .any,
    build := fun r => .mjob (Guard.ofCode r.gd) (GOp.ofCode r.d) (GOp.ofCode r.a) (GOp.ofCode r.b) (GOp.ofCode r.c) (BitVec.ofNat 3 (mBits r.m 0 3)) (BitVec.ofNat 6 (mBits r.m 3 6)) (mBits r.m 13 1 == 1) (mBits r.m 14 1 == 1) (BitVec.ofNat 12 r.ta) (BitVec.ofNat 12 r.tb) (BitVec.ofNat 3 r.lm) (BitVec.ofNat 3 r.ln) (BitVec.ofNat 3 r.lk) (BitVec.ofNat 5 r.xo) }

/-- MJOBR (R177). -/
def rowMjobr : OpRow :=
  { op := 0x342,
    d := .g,
    a := .g,
    b := .g,
    c := .g62,
    subs := [⟨0, 3, fun _ => true⟩, ⟨3, 6, fun _ => true⟩, ⟨9, 2, fun r => mBits r.m 9 2 == 0⟩, ⟨11, 2, fun r => mBits r.m 11 2 == 0⟩, ⟨13, 1, fun _ => true⟩, ⟨14, 1, fun _ => true⟩],
    e := some ⟨true, true, true, true, true, fun f => mBits f.xo 2 1 == 0 && (mBits f.m 13 1 == 0 || mBits f.xo 1 1 == 0)⟩,
    x := .any,
    build := fun r => .mjobr (Guard.ofCode r.gd) (GOp.ofCode r.d) (GOp.ofCode r.a) (GOp.ofCode r.b) (Fin.ofNat 63 r.c) (BitVec.ofNat 3 (mBits r.m 0 3)) (BitVec.ofNat 6 (mBits r.m 3 6)) (mBits r.m 13 1 == 1) (mBits r.m 14 1 == 1) (BitVec.ofNat 12 r.ta) (BitVec.ofNat 12 r.tb) (BitVec.ofNat 3 r.lm) (BitVec.ofNat 3 r.ln) (BitVec.ofNat 3 r.lk) (BitVec.ofNat 5 r.xo) }

/-- MPOLL (R176). -/
def rowMpoll : OpRow :=
  { op := 0x343,
    d := .g,
    build := fun r => .mpoll (Guard.ofCode r.gd) (GOp.ofCode r.d) }

/-- MWAIT (R176). -/
def rowMwait : OpRow :=
  { op := 0x344,
    d := .g,
    build := fun r => .mwait (Guard.ofCode r.gd) (GOp.ofCode r.d) }

/-- MCLR (R178). -/
def rowMclr : OpRow :=
  { op := 0x345,
    subs := [⟨0, 3, fun _ => true⟩],
    build := fun r => .mclr (Guard.ofCode r.gd) (BitVec.ofNat 3 (mBits r.m 0 3)) }

/-- MBURST (R179). -/
def rowMburst : OpRow :=
  { op := 0x346,
    e := some ⟨false, false, true, false, false, fun f => f.xo == 0⟩,
    x := .any,
    build := fun r => .mburst (Guard.ofCode r.gd) (BitVec.ofNat 3 r.lm) }

/-- ADDW (R183). -/
def rowAddw : OpRow :=
  { op := 0x350,
    a := .gv,
    subs := [⟨0, 4, fun r => decide (mBits r.m 0 4 < 5)⟩],
    build := fun r => .addw (Guard.ofCode r.gd) (GV.ofCode r.a) (AddwType.ofCode (mBits r.m 0 4)) }

/-- RNDW (R183). -/
def rowRndw : OpRow :=
  { op := 0x351,
    d := .g,
    subs := [⟨0, 1, fun _ => true⟩],
    build := fun r => .rndw (Guard.ofCode r.gd) (GOp.ofCode r.d) (mBits r.m 0 1 == 1) }

/-- CLRW (R183). -/
def rowClrw : OpRow :=
  { op := 0x352,
    build := fun r => .clrw (Guard.ofCode r.gd) }

/-- FORK (R188). -/
def rowFork : OpRow :=
  { op := 0x380,
    d := .g,
    a := .g,
    b := .g,
    subs := [⟨0, 4, fun r => decide (mBits r.m 0 4 < 9)⟩],
    x := .any,
    build := fun r => .fork (Guard.ofCode r.gd) (GOp.ofCode r.d) (GOp.ofCode r.a) (GOp.ofCode r.b) (PriSel.ofCode (mBits r.m 0 4)) (BitVec.ofNat 38 r.x) }

/-- JOIN (R193). -/
def rowJoin : OpRow :=
  { op := 0x381,
    a := .g,
    build := fun r => .join (Guard.ofCode r.gd) (GOp.ofCode r.a) }

/-- SPAWNR (R188). -/
def rowSpawnr : OpRow :=
  { op := 0x382,
    d := .g,
    a := .g,
    b := .g,
    c := .g,
    subs := [⟨0, 4, fun r => decide (mBits r.m 0 4 < 9)⟩, ⟨4, 6, fun r => decide (mBits r.m 4 6 < 63)⟩],
    x := .any,
    build := fun r => .spawnr (Guard.ofCode r.gd) (GOp.ofCode r.d) (GOp.ofCode r.a) (GOp.ofCode r.b) (GOp.ofCode r.c) (PriSel.ofCode (mBits r.m 0 4)) (BitVec.ofNat 6 (mBits r.m 4 6)) (BitVec.ofNat 38 r.x) }

/-- RNEXT (R189). -/
def rowRnext : OpRow :=
  { op := 0x383,
    d := .g,
    build := fun r => .rnext (Guard.ofCode r.gd) (GOp.ofCode r.d) }

/-- STEAL (R191). -/
def rowSteal : OpRow :=
  { op := 0x384,
    d := .g,
    subs := [⟨0, 3, fun r => decide (mBits r.m 0 3 < 4)⟩, ⟨3, 4, fun r => if mBits r.m 0 3 == 0 then mBits r.m 3 4 != 1 else mBits r.m 3 4 == 0⟩],
    build := fun r => .steal (Guard.ofCode r.gd) (GOp.ofCode r.d) (Window.ofM r.m) }

/-- YIELD (R192). -/
def rowYield : OpRow :=
  { op := 0x385,
    build := fun r => .yield (Guard.ofCode r.gd) }

/-- EXIT (R194). -/
def rowExit : OpRow :=
  { op := 0x386,
    build := fun r => .exit (Guard.ofCode r.gd) }

/-- LVLADD (R196). op= 3 is taken for an unassigned code, which raises 0x010 by the lowest-bit rule of R81, and not for one of R196's
breaches that raise 0x012 (DEDUCED, log 83). -/
def rowLvladd : OpRow :=
  { op := 0x388,
    d := .g,
    a := .g,
    b := .g,
    subs := [⟨0, 2, fun r => decide (mBits r.m 0 2 < 3)⟩, ⟨2, 3, fun r => if mBits r.m 0 2 == 1 then isOpenLevel (mBits r.m 2 3) else mBits r.m 2 3 == 0⟩],
    x := .any,
    build := fun r => 
    match mBits r.m 0 2 with
    | 0 => .lvladdAdd (Guard.ofCode r.gd) (GOp.ofCode r.d) (GOp.ofCode r.a) (GOp.ofCode r.b) (BitVec.ofNat 38 r.x)
    | 1 => .lvladdOpen (Guard.ofCode r.gd) (GOp.ofCode r.d) (GOp.ofCode r.a) (GOp.ofCode r.b) (OpenLevel.ofCode (mBits r.m 2 3)) (BitVec.ofNat 38 r.x)
    | _ => .lvladdDrain (Guard.ofCode r.gd) (GOp.ofCode r.d) (GOp.ofCode r.a) (GOp.ofCode r.b) (BitVec.ofNat 38 r.x) }

/-- LVLWAIT (R197). -/
def rowLvlwait : OpRow :=
  { op := 0x389,
    d := .g,
    a := .g,
    build := fun r => .lvlwait (Guard.ofCode r.gd) (GOp.ofCode r.d) (GOp.ofCode r.a) }

/-- CANCEL (R197). -/
def rowCancel : OpRow :=
  { op := 0x38A,
    a := .g,
    build := fun r => .cancel (Guard.ofCode r.gd) (GOp.ofCode r.a) }

/-- CLAMP (R198). -/
def rowClamp : OpRow :=
  { op := 0x38B,
    d := .g,
    a := .g,
    x := .any,
    build := fun r => .clamp (Guard.ofCode r.gd) (GOp.ofCode r.d) (GOp.ofCode r.a) (BitVec.ofNat 38 r.x) }

/-- LAUNCH (R199). -/
def rowLaunch : OpRow :=
  { op := 0x38C,
    d := .g,
    a := .g,
    b := .g,
    c := .g,
    build := fun r => .launch (Guard.ofCode r.gd) (GOp.ofCode r.d) (GOp.ofCode r.a) (GOp.ofCode r.b) (GOp.ofCode r.c) }

/-- DQPUSH (R200). -/
def rowDqpush : OpRow :=
  { op := 0x3C0,
    a := .g,
    b := .g,
    c := .g,
    subs := [⟨0, 5, fun _ => true⟩],
    build := fun r => .dqpush (Guard.ofCode r.gd) (GOp.ofCode r.a) (GOp.ofCode r.b) (GOp.ofCode r.c) (BitVec.ofNat 5 (mBits r.m 0 5)) }

/-- DQPOP (R201). -/
def rowDqpop : OpRow :=
  { op := 0x3C1,
    d := .v,
    subs := [⟨0, 5, fun _ => true⟩],
    build := fun r => .dqpop (Guard.ofCode r.gd) (vOfCode r.d) (BitVec.ofNat 5 (mBits r.m 0 5)) }

/-- ARRADD (R202). -/
def rowArradd : OpRow :=
  { op := 0x3C2,
    d := .g,
    a := .g,
    b := .g,
    c := .g,
    subs := [⟨0, 4, fun _ => true⟩],
    build := fun r => .arradd (Guard.ofCode r.gd) (GOp.ofCode r.d) (GOp.ofCode r.a) (GOp.ofCode r.b) (GOp.ofCode r.c) (BitVec.ofNat 4 (mBits r.m 0 4)) }

/-- ARRGET (R202). -/
def rowArrget : OpRow :=
  { op := 0x3C3,
    d := .g,
    a := .g,
    b := .g,
    c := .g,
    subs := [⟨0, 4, fun _ => true⟩],
    build := fun r => .arrget (Guard.ofCode r.gd) (GOp.ofCode r.d) (GOp.ofCode r.a) (GOp.ofCode r.b) (GOp.ofCode r.c) (BitVec.ofNat 4 (mBits r.m 0 4)) }

/-- QWAIT (R203). -/
def rowQwait : OpRow :=
  { op := 0x3C4,
    a := .g,
    b := .g,
    build := fun r => .qwait (Guard.ofCode r.gd) (GOp.ofCode r.a) (GOp.ofCode r.b) }

/-- TRAP (R208). -/
def rowTrap : OpRow :=
  { op := 0x3E0,
    x := .range 0 31,
    build := fun r => .trap (Guard.ofCode r.gd) (BitVec.ofNat 38 r.x) }

/-- RETT (R207). -/
def rowRett : OpRow :=
  { op := 0x3E1,
    build := fun r => .rett (Guard.ofCode r.gd) }

/-- CRR (R204). -/
def rowCrr : OpRow :=
  { op := 0x3E2,
    d := .g,
    subs := [⟨0, 1, fun r => mBits r.m 0 1 == 0 || crNarrowOk r.x⟩],
    x := .cr,
    build := fun r => .crr (Guard.ofCode r.gd) (GOp.ofCode r.d) (mBits r.m 0 1 == 1) (Cr.ofCode r.x) }

/-- CRW (R204). -/
def rowCrw : OpRow :=
  { op := 0x3E3,
    a := .g,
    subs := [⟨0, 1, fun r => mBits r.m 0 1 == 0 || crNarrowOk r.x⟩],
    x := .cr,
    build := fun r => .crw (Guard.ofCode r.gd) (GOp.ofCode r.a) (mBits r.m 0 1 == 1) (Cr.ofCode r.x) }

/-- TLBINV (R209). -/
def rowTlbinv : OpRow :=
  { op := 0x3E4,
    a := .g,
    b := .g,
    subs := [⟨0, 1, fun _ => true⟩],
    build := fun r => .tlbinv (Guard.ofCode r.gd) (GOp.ofCode r.a) (GOp.ofCode r.b) (mBits r.m 0 1 == 1) }

/-- REPLAY (R316). -/
def rowReplay : OpRow :=
  { op := 0x3E5,
    a := .g,
    build := fun r => .replay (Guard.ofCode r.gd) (GOp.ofCode r.a) }

/-- SEAL (R332). -/
def rowSeal : OpRow :=
  { op := 0x3E6,
    d := .g,
    a := .g,
    b := .g,
    c := .g,
    build := fun r => .seal (Guard.ofCode r.gd) (GOp.ofCode r.d) (GOp.ofCode r.a) (GOp.ofCode r.b) (GOp.ofCode r.c) }

/-- UNSEAL (R333). -/
def rowUnseal : OpRow :=
  { op := 0x3E7,
    d := .g,
    a := .g,
    b := .g,
    c := .g,
    build := fun r => .unseal (Guard.ofCode r.gd) (GOp.ofCode r.d) (GOp.ofCode r.a) (GOp.ofCode r.b) (GOp.ofCode r.c) }

/-- FEAT (R211). -/
def rowFeat : OpRow :=
  { op := 0x3E8,
    d := .k,
    a := .g,
    x := .any,
    build := fun r => .feat (Guard.ofCode r.gd) (kOfCode r.d) (GOp.ofCode r.a) (BitVec.ofNat 38 r.x) }

/-- The opcode map (R82), in pieces. -/
def opRows0 : List OpRow :=
  [rowBr, rowBri, rowCall, rowRet, rowLoop, rowAddR, rowSubR, rowMulR, rowMulhR, rowMulhnR, rowDivR, rowDivnR, rowRemR, rowRemnR, rowAndR, rowOrR, rowXorR, rowAndnR, rowOrnR, rowShlR, rowShrR, rowSarR, rowRolR, rowRorR]

def opRows1 : List OpRow :=
  [rowMinR, rowMaxR, rowMinnR, rowMaxnR, rowCmpR, rowAddI, rowSubI, rowMulI, rowMulhI, rowMulhnI, rowDivI, rowDivnI, rowRemI, rowRemnI, rowAndI, rowOrI, rowXorI, rowAndnI, rowOrnI, rowShlI, rowShrI, rowSarI, rowRolI, rowRorI]

def opRows2 : List OpRow :=
  [rowMinI, rowMaxI, rowMinnI, rowMaxnI, rowCmpI, rowClz, rowCtz, rowPopc, rowBrev, rowBext, rowBins, rowSext, rowZext, rowAbs, rowNeg, rowSel, rowMov, rowMovi, rowGand, rowGor, rowGxor, rowGnot, rowPadd, rowPdif]

def opRows3 : List OpRow :=
  [rowPaln, rowPblk, rowPchk, rowJset, rowJadd, rowFadd, rowFsub, rowFmul, rowFfma, rowFdiv, rowFsqrt, rowFmin, rowFmax, rowFcmp, rowFcvt, rowFclass, rowFneg, rowVadd, rowVsub, rowVmul, rowVfma, rowVmin, rowVmax, rowVabs]

def opRows4 : List OpRow :=
  [rowVneg, rowVand, rowVor, rowVxor, rowVshl, rowVshr, rowVsar, rowVcmp, rowVsel, rowVdot, rowVcvt, rowVpack, rowVunpk, rowVsplat, rowVext, rowVins, rowVperm, rowVtbl, rowVred, rowChain, rowLd, rowLdp, rowSt, rowStp]

def opRows5 : List OpRow :=
  [rowVld, rowVst, rowVldp, rowVstp, rowPref, rowDep, rowMrd, rowSense, rowTickr, rowTadv, rowAmo, rowCas, rowRed, rowFence, rowMarm, rowWaita, rowMdis, rowCopy, rowCopyv, rowCstage, rowWmark, rowTwait, rowTfind, rowTclr]

def opRows6 : List OpRow :=
  [rowMdld, rowTdset, rowTdget, rowLset, rowMjob, rowMjobr, rowMpoll, rowMwait, rowMclr, rowMburst, rowAddw, rowRndw, rowClrw, rowFork, rowJoin, rowSpawnr, rowRnext, rowSteal, rowYield, rowExit, rowLvladd, rowLvlwait, rowCancel, rowClamp]

def opRows7 : List OpRow :=
  [rowLaunch, rowDqpush, rowDqpop, rowArradd, rowArrget, rowQwait, rowTrap, rowRett, rowCrr, rowCrw, rowTlbinv, rowReplay, rowSeal, rowUnseal, rowFeat]

def opRows : List OpRow :=
  opRows0 ++ opRows1 ++ opRows2 ++ opRows3 ++ opRows4 ++ opRows5 ++ opRows6 ++ opRows7

/-- The row of an opcode; none where the map of R82 is empty. -/
def rowOf (op : Nat) : Option OpRow := opRows.find? (fun row => row.op == op)

/-- The layout and the fields of an instruction; a step of the device has none. -/
def Instr.raw : Instr → Option (Fmt × Fields)
  | .nop => some (.r, {})
  | .br gd off slot =>
    some (.b, { op := 0x001, gd := gd.code, off := off.toNat, slot := slot.toNat })
  | .bri gd a x =>
    some (.r, { op := 0x002, gd := gd.code, a := a.code, x := x.toNat })
  | .call gd a off slot =>
    some (.b, { op := 0x003, gd := gd.code, a := a.code, off := off.toNat, slot := slot.toNat })
  | .ret gd a =>
    some (.r, { op := 0x004, gd := gd.code, a := a.code })
  | .loop gd a off slot =>
    some (.b, { op := 0x005, gd := gd.code, a := a.code, off := off.toNat, slot := slot.toNat })
  | .addR gd d a b t =>
    some (.r, { op := 0x040, gd := gd.code, d := d.code, a := a.code, b := b.code, m := t.code })
  | .subR gd d a b t =>
    some (.r, { op := 0x041, gd := gd.code, d := d.code, a := a.code, b := b.code, m := t.code })
  | .mulR gd d a b t =>
    some (.r, { op := 0x042, gd := gd.code, d := d.code, a := a.code, b := b.code, m := t.code })
  | .mulhR gd d a b t =>
    some (.r, { op := 0x043, gd := gd.code, d := d.code, a := a.code, b := b.code, m := t.code })
  | .mulhnR gd d a b t =>
    some (.r, { op := 0x044, gd := gd.code, d := d.code, a := a.code, b := b.code, m := t.code })
  | .divR gd d a b t =>
    some (.r, { op := 0x045, gd := gd.code, d := d.code, a := a.code, b := b.code, m := t.code })
  | .divnR gd d a b t =>
    some (.r, { op := 0x046, gd := gd.code, d := d.code, a := a.code, b := b.code, m := t.code })
  | .remR gd d a b t =>
    some (.r, { op := 0x047, gd := gd.code, d := d.code, a := a.code, b := b.code, m := t.code })
  | .remnR gd d a b t =>
    some (.r, { op := 0x048, gd := gd.code, d := d.code, a := a.code, b := b.code, m := t.code })
  | .andR gd d a b t =>
    some (.r, { op := 0x049, gd := gd.code, d := d.code, a := a.code, b := b.code, m := t.code })
  | .orR gd d a b t =>
    some (.r, { op := 0x04A, gd := gd.code, d := d.code, a := a.code, b := b.code, m := t.code })
  | .xorR gd d a b t =>
    some (.r, { op := 0x04B, gd := gd.code, d := d.code, a := a.code, b := b.code, m := t.code })
  | .andnR gd d a b t =>
    some (.r, { op := 0x04C, gd := gd.code, d := d.code, a := a.code, b := b.code, m := t.code })
  | .ornR gd d a b t =>
    some (.r, { op := 0x04D, gd := gd.code, d := d.code, a := a.code, b := b.code, m := t.code })
  | .shlR gd d a b t =>
    some (.r, { op := 0x04E, gd := gd.code, d := d.code, a := a.code, b := b.code, m := t.code })
  | .shrR gd d a b t =>
    some (.r, { op := 0x04F, gd := gd.code, d := d.code, a := a.code, b := b.code, m := t.code })
  | .sarR gd d a b t =>
    some (.r, { op := 0x050, gd := gd.code, d := d.code, a := a.code, b := b.code, m := t.code })
  | .rolR gd d a b t =>
    some (.r, { op := 0x051, gd := gd.code, d := d.code, a := a.code, b := b.code, m := t.code })
  | .rorR gd d a b t =>
    some (.r, { op := 0x052, gd := gd.code, d := d.code, a := a.code, b := b.code, m := t.code })
  | .minR gd d a b t =>
    some (.r, { op := 0x053, gd := gd.code, d := d.code, a := a.code, b := b.code, m := t.code })
  | .maxR gd d a b t =>
    some (.r, { op := 0x054, gd := gd.code, d := d.code, a := a.code, b := b.code, m := t.code })
  | .minnR gd d a b t =>
    some (.r, { op := 0x055, gd := gd.code, d := d.code, a := a.code, b := b.code, m := t.code })
  | .maxnR gd d a b t =>
    some (.r, { op := 0x056, gd := gd.code, d := d.code, a := a.code, b := b.code, m := t.code })
  | .cmpR gd d a b t cc =>
    some (.r, { op := 0x057, gd := gd.code, d := kCode d, a := a.code, b := b.code, m := t.code + cc.code * 2 ^ 3 })
  | .addI gd d a t x =>
    some (.r, { op := 0x060, gd := gd.code, d := d.code, a := a.code, m := t.code, x := x.toNat })
  | .subI gd d a t x =>
    some (.r, { op := 0x061, gd := gd.code, d := d.code, a := a.code, m := t.code, x := x.toNat })
  | .mulI gd d a t x =>
    some (.r, { op := 0x062, gd := gd.code, d := d.code, a := a.code, m := t.code, x := x.toNat })
  | .mulhI gd d a t x =>
    some (.r, { op := 0x063, gd := gd.code, d := d.code, a := a.code, m := t.code, x := x.toNat })
  | .mulhnI gd d a t x =>
    some (.r, { op := 0x064, gd := gd.code, d := d.code, a := a.code, m := t.code, x := x.toNat })
  | .divI gd d a t x =>
    some (.r, { op := 0x065, gd := gd.code, d := d.code, a := a.code, m := t.code, x := x.toNat })
  | .divnI gd d a t x =>
    some (.r, { op := 0x066, gd := gd.code, d := d.code, a := a.code, m := t.code, x := x.toNat })
  | .remI gd d a t x =>
    some (.r, { op := 0x067, gd := gd.code, d := d.code, a := a.code, m := t.code, x := x.toNat })
  | .remnI gd d a t x =>
    some (.r, { op := 0x068, gd := gd.code, d := d.code, a := a.code, m := t.code, x := x.toNat })
  | .andI gd d a t x =>
    some (.r, { op := 0x069, gd := gd.code, d := d.code, a := a.code, m := t.code, x := x.toNat })
  | .orI gd d a t x =>
    some (.r, { op := 0x06A, gd := gd.code, d := d.code, a := a.code, m := t.code, x := x.toNat })
  | .xorI gd d a t x =>
    some (.r, { op := 0x06B, gd := gd.code, d := d.code, a := a.code, m := t.code, x := x.toNat })
  | .andnI gd d a t x =>
    some (.r, { op := 0x06C, gd := gd.code, d := d.code, a := a.code, m := t.code, x := x.toNat })
  | .ornI gd d a t x =>
    some (.r, { op := 0x06D, gd := gd.code, d := d.code, a := a.code, m := t.code, x := x.toNat })
  | .shlI gd d a t x =>
    some (.r, { op := 0x06E, gd := gd.code, d := d.code, a := a.code, m := t.code, x := x.toNat })
  | .shrI gd d a t x =>
    some (.r, { op := 0x06F, gd := gd.code, d := d.code, a := a.code, m := t.code, x := x.toNat })
  | .sarI gd d a t x =>
    some (.r, { op := 0x070, gd := gd.code, d := d.code, a := a.code, m := t.code, x := x.toNat })
  | .rolI gd d a t x =>
    some (.r, { op := 0x071, gd := gd.code, d := d.code, a := a.code, m := t.code, x := x.toNat })
  | .rorI gd d a t x =>
    some (.r, { op := 0x072, gd := gd.code, d := d.code, a := a.code, m := t.code, x := x.toNat })
  | .minI gd d a t x =>
    some (.r, { op := 0x073, gd := gd.code, d := d.code, a := a.code, m := t.code, x := x.toNat })
  | .maxI gd d a t x =>
    some (.r, { op := 0x074, gd := gd.code, d := d.code, a := a.code, m := t.code, x := x.toNat })
  | .minnI gd d a t x =>
    some (.r, { op := 0x075, gd := gd.code, d := d.code, a := a.code, m := t.code, x := x.toNat })
  | .maxnI gd d a t x =>
    some (.r, { op := 0x076, gd := gd.code, d := d.code, a := a.code, m := t.code, x := x.toNat })
  | .cmpI gd d a t cc x =>
    some (.r, { op := 0x077, gd := gd.code, d := kCode d, a := a.code, m := t.code + cc.code * 2 ^ 3, x := x.toNat })
  | .clz gd d a t =>
    some (.r, { op := 0x080, gd := gd.code, d := d.code, a := a.code, m := t.code })
  | .ctz gd d a t =>
    some (.r, { op := 0x081, gd := gd.code, d := d.code, a := a.code, m := t.code })
  | .popc gd d a t =>
    some (.r, { op := 0x082, gd := gd.code, d := d.code, a := a.code, m := t.code })
  | .brev gd d a t =>
    some (.r, { op := 0x083, gd := gd.code, d := d.code, a := a.code, m := t.code })
  | .bext gd d a b sx x =>
    some (.r, { op := 0x084, gd := gd.code, d := d.code, a := a.code, b := b.code, m := sx.toNat, x := x.toNat })
  | .bins gd d a b x =>
    some (.r, { op := 0x085, gd := gd.code, d := d.code, a := a.code, b := b.code, x := x.toNat })
  | .sext gd d a x =>
    some (.r, { op := 0x086, gd := gd.code, d := d.code, a := a.code, x := x.toNat })
  | .zext gd d a x =>
    some (.r, { op := 0x087, gd := gd.code, d := d.code, a := a.code, x := x.toNat })
  | .abs gd d a t =>
    some (.r, { op := 0x088, gd := gd.code, d := d.code, a := a.code, m := t.code })
  | .neg gd d a t =>
    some (.r, { op := 0x089, gd := gd.code, d := d.code, a := a.code, m := t.code })
  | .sel gd d a b c =>
    some (.r, { op := 0x08A, gd := gd.code, d := d.code, a := a.code, b := b.code, c := kCode c })
  | .mov gd d a =>
    some (.r, { op := 0x08B, gd := gd.code, d := d.code, a := a.code })
  | .movi gd d imm =>
    some (.w, { op := 0x08C, gd := gd.code, d := d.code, w := imm.toNat })
  | .gand gd d a b =>
    some (.r, { op := 0x0A0, gd := gd.code, d := kCode d, a := kCode a, b := kCode b })
  | .gor gd d a b =>
    some (.r, { op := 0x0A1, gd := gd.code, d := kCode d, a := kCode a, b := kCode b })
  | .gxor gd d a b =>
    some (.r, { op := 0x0A2, gd := gd.code, d := kCode d, a := kCode a, b := kCode b })
  | .gnot gd d a =>
    some (.r, { op := 0x0A3, gd := gd.code, d := kCode d, a := kCode a })
  | .padd gd d a b w x =>
    some (.r, { op := 0x100, gd := gd.code, d := d.code, a := a.code, b := b.code, m := w.toNat, x := x.toNat })
  | .pdif gd d a b w =>
    some (.r, { op := 0x101, gd := gd.code, d := d.code, a := a.code, b := b.code, m := w.toNat })
  | .paln gd d a w up =>
    some (.r, { op := 0x102, gd := gd.code, d := d.code, a := a.code, m := w.toNat + up.toNat * 2 ^ 10 })
  | .pblk gd d a b fmt =>
    some (.r, { op := 0x103, gd := gd.code, d := d.code, a := a.code, b := b.code, m := fmt.code })
  | .pchk gd d a w cls x =>
    some (.r, { op := 0x104, gd := gd.code, d := kCode d, a := a.code, m := w.toNat + cls.toNat * 2 ^ 10, x := x.toNat })
  | .jset gd d a x =>
    some (.r, { op := 0x108, gd := gd.code, d := jCode d, a := a.code, x := x.toNat })
  | .jadd gd d a b x =>
    some (.r, { op := 0x109, gd := gd.code, d := jCode d, a := jCode a, b := b.code, x := x.toNat })
  | .fadd gd d a b t rnd =>
    some (.r, { op := 0x140, gd := gd.code, d := d.code, a := a.code, b := b.code, m := t.code + rnd.code * 2 ^ 2 })
  | .fsub gd d a b t rnd =>
    some (.r, { op := 0x141, gd := gd.code, d := d.code, a := a.code, b := b.code, m := t.code + rnd.code * 2 ^ 2 })
  | .fmul gd d a b t rnd =>
    some (.r, { op := 0x142, gd := gd.code, d := d.code, a := a.code, b := b.code, m := t.code + rnd.code * 2 ^ 2 })
  | .ffma gd d a b c t rnd =>
    some (.r, { op := 0x143, gd := gd.code, d := d.code, a := a.code, b := b.code, c := c.code, m := t.code + rnd.code * 2 ^ 2 })
  | .fdiv gd d a b t rnd =>
    some (.r, { op := 0x144, gd := gd.code, d := d.code, a := a.code, b := b.code, m := t.code + rnd.code * 2 ^ 2 })
  | .fsqrt gd d a t rnd =>
    some (.r, { op := 0x145, gd := gd.code, d := d.code, a := a.code, m := t.code + rnd.code * 2 ^ 2 })
  | .fmin gd d a b t =>
    some (.r, { op := 0x146, gd := gd.code, d := d.code, a := a.code, b := b.code, m := t.code })
  | .fmax gd d a b t =>
    some (.r, { op := 0x147, gd := gd.code, d := d.code, a := a.code, b := b.code, m := t.code })
  | .fcmp gd d a b t cc =>
    some (.r, { op := 0x148, gd := gd.code, d := kCode d, a := a.code, b := b.code, m := t.code + cc.code * 2 ^ 2 })
  | .fcvt gd d a df sf rnd prop =>
    some (.r, { op := 0x149, gd := gd.code, d := d.code, a := a.code, m := df.code + sf.code * 2 ^ 4 + rnd.code * 2 ^ 8 + prop.toNat * 2 ^ 11 })
  | .fclass gd d a t =>
    some (.r, { op := 0x14A, gd := gd.code, d := d.code, a := a.code, m := t.code })
  | .fneg gd d a t =>
    some (.r, { op := 0x14B, gd := gd.code, d := d.code, a := a.code, m := t.code })
  | .vadd gd d a b ar =>
    some (.r, { op := 0x180, gd := gd.code, d := vCode d, a := vCode a, b := vCode b, m := ar.toM })
  | .vsub gd d a b ar =>
    some (.r, { op := 0x181, gd := gd.code, d := vCode d, a := vCode a, b := vCode b, m := ar.toM })
  | .vmul gd d a b ar =>
    some (.r, { op := 0x182, gd := gd.code, d := vCode d, a := vCode a, b := vCode b, m := ar.toM })
  | .vfma gd d a b c ar =>
    some (.r, { op := 0x183, gd := gd.code, d := vCode d, a := vCode a, b := vCode b, c := vCode c, m := ar.toM })
  | .vmin gd d a b t =>
    some (.r, { op := 0x184, gd := gd.code, d := vCode d, a := vCode a, b := vCode b, m := t.code })
  | .vmax gd d a b t =>
    some (.r, { op := 0x185, gd := gd.code, d := vCode d, a := vCode a, b := vCode b, m := t.code })
  | .vabs gd d a sg =>
    some (.r, { op := 0x186, gd := gd.code, d := vCode d, a := vCode a, m := sg.toM })
  | .vneg gd d a sg =>
    some (.r, { op := 0x187, gd := gd.code, d := vCode d, a := vCode a, m := sg.toM })
  | .vand gd d a b t =>
    some (.r, { op := 0x188, gd := gd.code, d := vCode d, a := vCode a, b := vCode b, m := t.code })
  | .vor gd d a b t =>
    some (.r, { op := 0x189, gd := gd.code, d := vCode d, a := vCode a, b := vCode b, m := t.code })
  | .vxor gd d a b t =>
    some (.r, { op := 0x18A, gd := gd.code, d := vCode d, a := vCode a, b := vCode b, m := t.code })
  | .vshl gd d a cnt t =>
    some (.r, { op := 0x18B, gd := gd.code, d := vCode d, a := vCode a, b := cnt.bCode, m := t.code, x := cnt.xCode })
  | .vshr gd d a cnt t =>
    some (.r, { op := 0x18C, gd := gd.code, d := vCode d, a := vCode a, b := cnt.bCode, m := t.code, x := cnt.xCode })
  | .vsar gd d a cnt t =>
    some (.r, { op := 0x18D, gd := gd.code, d := vCode d, a := vCode a, b := cnt.bCode, m := t.code, x := cnt.xCode })
  | .vcmp gd d a b cond =>
    some (.r, { op := 0x18E, gd := gd.code, d := vCode d, a := vCode a, b := vCode b, m := cond.toM })
  | .vsel gd d a b c =>
    some (.r, { op := 0x18F, gd := gd.code, d := vCode d, a := vCode a, b := vCode b, c := vCode c })
  | .vdot gd d a b dot =>
    some (.r, { op := 0x1A0, gd := gd.code, d := vCode d, a := vCode a, b := vCode b, m := dot.toM })
  | .vcvt gd d a df sf rnd prop part =>
    some (.r, { op := 0x1A1, gd := gd.code, d := vCode d, a := vCode a, m := df.code + sf.code * 2 ^ 4 + rnd.code * 2 ^ 8 + prop.toNat * 2 ^ 11 + part.toNat * 2 ^ 12 })
  | .vpack gd d a p =>
    some (.r, { op := 0x1A2, gd := gd.code, d := vCode d, a := vCode a, b := p.bCode, m := p.toM, x := p.xCode })
  | .vunpk gd d a p =>
    some (.r, { op := 0x1A3, gd := gd.code, d := vCode d, a := vCode a, m := p.toM, x := p.xCode })
  | .vsplat gd d a t x =>
    some (.r, { op := 0x1A4, gd := gd.code, d := vCode d, a := a.code, m := t.code, x := x.toNat })
  | .vext gd d a b t x =>
    some (.r, { op := 0x1A5, gd := gd.code, d := d.code, a := vCode a, b := b.code, m := t.code, x := x.toNat })
  | .vins gd d a b t x =>
    some (.r, { op := 0x1A6, gd := gd.code, d := vCode d, a := a.code, b := b.code, m := t.code, x := x.toNat })
  | .vperm gd d a b c t =>
    some (.r, { op := 0x1A7, gd := gd.code, d := vCode d, a := vCode a, b := vCode b, c := vCode c, m := t.code })
  | .vtbl gd d a b tn x =>
    some (.r, { op := 0x1A8, gd := gd.code, d := vCode d, a := vCode a, b := vCode b, m := tn.toNat, x := x.toNat })
  | .vred gd d a ra =>
    some (.r, { op := 0x1A9, gd := gd.code, d := d.code, a := vCode a, m := ra.toM })
  | .chain gd d a b c sty dty rnd prop ssp dsp =>
    some (.r, { op := 0x1AA, gd := gd.code, d := d.code, a := a.code, b := b.code, c := vCode c, m := sty.code + dty.code * 2 ^ 4 + rnd.code * 2 ^ 8 + prop.toNat * 2 ^ 11 + ssp.toNat * 2 ^ 12 + dsp.toNat * 2 ^ 13 })
  | .ld gd d a b w sx o sc x =>
    some (.r, { op := 0x200, gd := gd.code, d := d.code, a := a.code, b := b.code, m := w.toNat + sx.toNat * 2 ^ 6 + o.code * 2 ^ 7 + sc.code * 2 ^ 10, x := x.toNat })
  | .ldp gd d a b w sx o sc x =>
    some (.r, { op := 0x202, gd := gd.code, d := d.code, a := a.code, b := b.code, m := w.toNat + sx.toNat * 2 ^ 6 + o.code * 2 ^ 7 + sc.code * 2 ^ 10, x := x.toNat })
  | .st gd d a b w o sc x =>
    some (.r, { op := 0x201, gd := gd.code, d := d.code, a := a.code, b := b.code, m := w.toNat + o.code * 2 ^ 7 + sc.code * 2 ^ 10, x := x.toNat })
  | .stp gd d a b w o sc x =>
    some (.r, { op := 0x203, gd := gd.code, d := d.code, a := a.code, b := b.code, m := w.toNat + o.code * 2 ^ 7 + sc.code * 2 ^ 10, x := x.toNat })
  | .vld gd d a b o sc x =>
    some (.r, { op := 0x204, gd := gd.code, d := vCode d, a := a.code, b := b.code, m := o.code * 2 ^ 7 + sc.code * 2 ^ 10, x := x.toNat })
  | .vst gd d a b o sc x =>
    some (.r, { op := 0x205, gd := gd.code, d := vCode d, a := a.code, b := b.code, m := o.code * 2 ^ 7 + sc.code * 2 ^ 10, x := x.toNat })
  | .vldp gd d a b o sc x =>
    some (.r, { op := 0x206, gd := gd.code, d := vCode d, a := a.code, b := b.code, m := o.code * 2 ^ 7 + sc.code * 2 ^ 10, x := x.toNat })
  | .vstp gd d a b o sc x =>
    some (.r, { op := 0x207, gd := gd.code, d := vCode d, a := a.code, b := b.code, m := o.code * 2 ^ 7 + sc.code * 2 ^ 10, x := x.toNat })
  | .pref gd a b x =>
    some (.r, { op := 0x208, gd := gd.code, a := a.code, b := b.code, x := x.toNat })
  | .dep gd d a b cmb o sc x =>
    some (.r, { op := 0x280, gd := gd.code, d := d.code, a := a.code, b := b.code, m := cmb.code + o.code * 2 ^ 2 + sc.code * 2 ^ 5, x := x.toNat })
  | .mrd gd d a o sc x =>
    some (.r, { op := 0x281, gd := gd.code, d := d.code, a := a.code, m := o.code * 2 ^ 2 + sc.code * 2 ^ 5, x := x.toNat })
  | .sense gd d a win rot o sc x =>
    some (.r, { op := 0x282, gd := gd.code, d := d.code, a := a.code, m := win.toM + rot.toNat * 2 ^ 7 + o.code * 2 ^ 8 + sc.code * 2 ^ 11, x := x.toNat })
  | .tickr gd d a x =>
    some (.r, { op := 0x283, gd := gd.code, d := d.code, a := a.code, x := x.toNat })
  | .tadv gd d a x =>
    some (.r, { op := 0x284, gd := gd.code, d := d.code, a := a.code, x := x.toNat })
  | .amo gd d a b f o sc x =>
    some (.r, { op := 0x2C0, gd := gd.code, d := d.code, a := a.code, b := b.code, m := f.toM + o.code * 2 ^ 8 + sc.code * 2 ^ 11, x := x.toNat })
  | .cas gd d a b c t o sc x =>
    some (.r, { op := 0x2C1, gd := gd.code, d := d.code, a := a.code, b := b.code, c := c.code, m := t.code + o.code * 2 ^ 8 + sc.code * 2 ^ 11, x := x.toNat })
  | .red gd a b f o sc x =>
    some (.r, { op := 0x2C2, gd := gd.code, a := a.code, b := b.code, m := f.toM + o.code * 2 ^ 8 + sc.code * 2 ^ 11, x := x.toNat })
  | .fence gd o sc =>
    some (.r, { op := 0x2C3, gd := gd.code, m := o.code + sc.code * 2 ^ 3 })
  | .marm gd a w mon sp x =>
    some (.r, { op := 0x2C4, gd := gd.code, a := a.code, m := w.toNat + mon.toNat * 2 ^ 6 + sp.toNat * 2 ^ 8, x := x.toNat })
  | .waita gd d a x =>
    some (.r, { op := 0x2C5, gd := gd.code, d := d.code, a := a.code, x := x.toNat })
  | .mdis gd mon all =>
    some (.r, { op := 0x2C6, gd := gd.code, m := mon.toNat + all.toNat * 2 ^ 2 })
  | .copy gd d a b mode tag sc prop ta tb lm ln =>
    some (.r, { op := 0x300, gd := gd.code, d := d.code, a := a.code, b := b.code, c := mode.cCode, m := mode.toM + tag.toNat + sc.code * 2 ^ 8 + prop.toNat * 2 ^ 12, x := eBits ta.toNat tb.toNat lm.toNat ln.toNat 0 0 })
  | .copyv gd d a b c tag sc prop ta tb lm ln =>
    some (.r, { op := 0x301, gd := gd.code, d := d.code, a := a.code, b := b.code, c := c.code, m := tag.toNat + sc.code * 2 ^ 8 + prop.toNat * 2 ^ 12, x := eBits ta.toNat tb.toNat lm.toNat ln.toNat 0 0 })
  | .cstage gd d a x =>
    some (.r, { op := 0x302, gd := gd.code, d := d.code, a := a.code, x := x.toNat })
  | .wmark gd d a b tag ch sc prop ta tb lm ln =>
    some (.r, { op := 0x303, gd := gd.code, d := d.code, a := a.code, b := b.code, m := tag.toNat + ch.toNat * 2 ^ 6 + sc.code * 2 ^ 8 + prop.toNat * 2 ^ 12, x := eBits ta.toNat tb.toNat lm.toNat ln.toNat 0 0 })
  | .twait gd a x =>
    some (.r, { op := 0x304, gd := gd.code, a := a.code, x := x.toNat })
  | .tfind gd d a x =>
    some (.r, { op := 0x305, gd := gd.code, d := d.code, a := a.code, x := x.toNat })
  | .tclr gd a x =>
    some (.r, { op := 0x306, gd := gd.code, a := a.code, x := x.toNat })
  | .mdld gd d a b tag ta lm ln =>
    some (.r, { op := 0x307, gd := gd.code, d := d.code, a := a.code, b := b.code, m := tag.toNat, x := eBits ta.toNat 0 lm.toNat ln.toNat 0 0 })
  | .tdset gd a ta =>
    some (.r, { op := 0x308, gd := gd.code, a := vCode a, x := eBits ta.toNat 0 0 0 0 0 })
  | .tdget gd d ta =>
    some (.r, { op := 0x309, gd := gd.code, d := vCode d, x := eBits ta.toNat 0 0 0 0 0 })
  | .lset gd a cp lr x =>
    some (.r, { op := 0x340, gd := gd.code, a := a.code, m := cp.toNat + lr.toNat * 2 ^ 1, x := x.toNat })
  | .mjob gd d a b c hdr pro cvt prop ta tb lm ln lk xo =>
    some (.r, { op := 0x341, gd := gd.code, d := d.code, a := a.code, b := b.code, c := c.code, m := hdr.toNat + pro.toNat * 2 ^ 3 + cvt.toNat * 2 ^ 13 + prop.toNat * 2 ^ 14, x := eBits ta.toNat tb.toNat lm.toNat ln.toNat lk.toNat xo.toNat })
  | .mjobr gd d a b c hdr pro cvt prop ta tb lm ln lk xo =>
    some (.r, { op := 0x342, gd := gd.code, d := d.code, a := a.code, b := b.code, c := c.val, m := hdr.toNat + pro.toNat * 2 ^ 3 + cvt.toNat * 2 ^ 13 + prop.toNat * 2 ^ 14, x := eBits ta.toNat tb.toNat lm.toNat ln.toNat lk.toNat xo.toNat })
  | .mpoll gd d =>
    some (.r, { op := 0x343, gd := gd.code, d := d.code })
  | .mwait gd d =>
    some (.r, { op := 0x344, gd := gd.code, d := d.code })
  | .mclr gd hdr =>
    some (.r, { op := 0x345, gd := gd.code, m := hdr.toNat })
  | .mburst gd lm =>
    some (.r, { op := 0x346, gd := gd.code, x := eBits 0 0 lm.toNat 0 0 0 })
  | .addw gd a sf =>
    some (.r, { op := 0x350, gd := gd.code, a := a.code, m := sf.code })
  | .rndw gd d clr =>
    some (.r, { op := 0x351, gd := gd.code, d := d.code, m := clr.toNat })
  | .clrw gd =>
    some (.r, { op := 0x352, gd := gd.code })
  | .fork gd d a b pri x =>
    some (.r, { op := 0x380, gd := gd.code, d := d.code, a := a.code, b := b.code, m := pri.code, x := x.toNat })
  | .join gd a =>
    some (.r, { op := 0x381, gd := gd.code, a := a.code })
  | .spawnr gd d a b c pri grain x =>
    some (.r, { op := 0x382, gd := gd.code, d := d.code, a := a.code, b := b.code, c := c.code, m := pri.code + grain.toNat * 2 ^ 4, x := x.toNat })
  | .rnext gd d =>
    some (.r, { op := 0x383, gd := gd.code, d := d.code })
  | .steal gd d win =>
    some (.r, { op := 0x384, gd := gd.code, d := d.code, m := win.toM })
  | .yield gd =>
    some (.r, { op := 0x385, gd := gd.code })
  | .exit gd =>
    some (.r, { op := 0x386, gd := gd.code })
  | .lvladdAdd gd d a b x =>
    some (.r, { op := 0x388, gd := gd.code, d := d.code, a := a.code, b := b.code, m := 0, x := x.toNat })
  | .lvladdOpen gd d a b lvl x =>
    some (.r, { op := 0x388, gd := gd.code, d := d.code, a := a.code, b := b.code, m := 1 + lvl.code * 2 ^ 2, x := x.toNat })
  | .lvladdDrain gd d a b x =>
    some (.r, { op := 0x388, gd := gd.code, d := d.code, a := a.code, b := b.code, m := 2, x := x.toNat })
  | .lvlwait gd d a =>
    some (.r, { op := 0x389, gd := gd.code, d := d.code, a := a.code })
  | .cancel gd a =>
    some (.r, { op := 0x38A, gd := gd.code, a := a.code })
  | .clamp gd d a x =>
    some (.r, { op := 0x38B, gd := gd.code, d := d.code, a := a.code, x := x.toNat })
  | .launch gd d a b c =>
    some (.r, { op := 0x38C, gd := gd.code, d := d.code, a := a.code, b := b.code, c := c.code })
  | .dqpush gd a b c q =>
    some (.r, { op := 0x3C0, gd := gd.code, a := a.code, b := b.code, c := c.code, m := q.toNat })
  | .dqpop gd d q =>
    some (.r, { op := 0x3C1, gd := gd.code, d := vCode d, m := q.toNat })
  | .arradd gd d a b c arr =>
    some (.r, { op := 0x3C2, gd := gd.code, d := d.code, a := a.code, b := b.code, c := c.code, m := arr.toNat })
  | .arrget gd d a b c arr =>
    some (.r, { op := 0x3C3, gd := gd.code, d := d.code, a := a.code, b := b.code, c := c.code, m := arr.toNat })
  | .qwait gd a b =>
    some (.r, { op := 0x3C4, gd := gd.code, a := a.code, b := b.code })
  | .trap gd x =>
    some (.r, { op := 0x3E0, gd := gd.code, x := x.toNat })
  | .rett gd =>
    some (.r, { op := 0x3E1, gd := gd.code })
  | .crr gd d hi cr =>
    some (.r, { op := 0x3E2, gd := gd.code, d := d.code, m := hi.toNat, x := cr.code })
  | .crw gd a hi cr =>
    some (.r, { op := 0x3E3, gd := gd.code, a := a.code, m := hi.toNat, x := cr.code })
  | .tlbinv gd a b all =>
    some (.r, { op := 0x3E4, gd := gd.code, a := a.code, b := b.code, m := all.toNat })
  | .replay gd a =>
    some (.r, { op := 0x3E5, gd := gd.code, a := a.code })
  | .seal gd d a b c =>
    some (.r, { op := 0x3E6, gd := gd.code, d := d.code, a := a.code, b := b.code, c := c.code })
  | .unseal gd d a b c =>
    some (.r, { op := 0x3E7, gd := gd.code, d := d.code, a := a.code, b := b.code, c := c.code })
  | .feat gd d a x =>
    some (.r, { op := 0x3E8, gd := gd.code, d := kCode d, a := a.code, x := x.toNat })
  | .handlerRecordPush _ _ => none
  | .waitaWake _ _ => none
  | .waitaTimeout _ _ => none
  | .twaitWake _ _ => none
  | .mwaitWake _ _ => none
  | .commandPlaceWake _ _ => none
  | .watermarkStallEnd _ _ => none
  | .lvlwaitWake _ _ => none
  | .dqpopWake _ _ => none
  | .qwaitWake _ _ => none
  | .tlbinvDone _ _ => none
  | .sealComplete _ _ _ _ => none
  | .unsealComplete _ _ _ _ _ => none
  | .homeSliceAccess _ _ _ => none
  | .redPerform _ _ _ => none
  | .loadReturn _ _ => none
  | .lineParityRefetch _ _ => none
  | .groupOpenDeferred _ _ => none
  | .pageWalkComplete _ _ _ => none
  | .retryWalk _ _ _ => none
  | .faultBufferClr _ => none
  | .faultBufferDropClear _ => none
  | .errorLogEntry _ _ _ => none
  | .engineSchedule _ _ => none
  | .copyStep _ _ => none
  | .copyComplete _ => none
  | .forwardReservation _ => none
  | .forwardReservationTimeout _ => none
  | .scheduleEntryStart _ => none
  | .matrixStep _ _ => none
  | .matrixJobComplete _ => none
  | .resultRecordEnter _ => none
  | .mjobrArrival _ _ => none
  | .remotePlaceGrant _ => none
  | .mburstTimeout _ => none
  | .rampDown _ => none
  | .budgetReserve _ => none
  | .commandAging _ _ _ => none
  | .slotFill _ => none
  | .recordAging _ _ => none
  | .implicitSteal _ => none
  | .stealRequestServe _ => none
  | .stealReply _ => none
  | .heldRecordPush _ _ => none
  | .cancelPropagate _ _ => none
  | .progressCheckReport _ _ => none
  | .deltaConsolidate _ _ => none
  | .bufferTimedDrain _ _ => none
  | .drainRingRoom _ _ => none
  | .stageBatchForm _ _ => none
  | .clampArrive _ _ => none
  | .clampWake _ _ => none
  | .tickAdvance _ _ => none
  | .fieldTimerTick _ _ => none
  | .fettlerNormalise _ _ _ => none
  | .fieldFreeze _ _ => none
  | .fieldThaw _ _ => none
  | .launchPlacement _ _ => none
  | .launchRetire _ _ => none
  | .lateCaptureReplay _ _ => none
  | .budgetDivision _ _ _ _ => none
  | .thermalReport _ => none
  | .capWrite _ => none
  | .snapshotTrigger => none
  | .snapshotLatch => none
  | .heartbeatWrite _ => none
  | .heartbeatMiss => none
  | .enjClear _ _ => none
  | .gateBegin _ => none
  | .gateWake _ => none
  | .clockRestart _ => none
  | .powerGood _ _ _ _ _ => none
  | .unitRedo _ => none
  | .portEnable _ => none
  | .portDisable _ => none
  | .portTrained _ _ _ => none
  | .trainingTimeout _ => none
  | .lossOfSignal _ => none
  | .flitReplay _ _ _ => none
  | .peerResponse _ _ => none
  | .peerAccessTimeout _ => none
  | .collectivePost _ => none
  | .collectiveComplete _ _ => none
  | .collectiveTimeout _ _ => none
  | .uePacketReceive _ _ => none
  | .rmaWriteComplete _ => none
  | .buildRequest _ _ => none
  | .freeRequest _ => none
  | .loadRequest _ _ _ _ _ _ => none
  | .unloadRequest _ _ => none
  | .launchRequest _ _ _ _ _ => none
  | .parkRequest _ _ => none
  | .contextParked _ => none
  | .resumeRequest _ => none
  | .resetRequest _ => none
  | .fatalFault _ => none
  | .resetComplete _ => none
  | .tagHoldExpiry _ => none
  | .sealRequest _ _ _ _ _ _ => none
  | .unsealRequest _ _ _ _ _ _ _ => none
  | .queryRequest _ => none
  | .groupSetupRequest _ _ _ => none
  | .handoffSend _ => none
  | .handoffReceive _ _ _ => none
  | .tenantToken _ => none
  | .chainRelease _ => none
  | .powerLoss => none
  | .clampReconfiguration _ _ => none
  | .engineEpochAdvance _ => none
  | .quotaChange _ _ _ => none
  | .memoryKeyInstall _ _ _ => none
  | .sealingRootInstall _ _ _ => none
  | .railVote _ _ _ => none

/-! ### The checks of R81, steps 2 to 8 -/

/-- A decoded slot: an instruction, or the code of the first check that fails. -/
inductive Decoded where
  | ok (i : Instr)
  | bad (code : Nat)
  deriving DecidableEq, Repr

/-- Step 4: fields A, B, C, D in this order. -/
def regFault (row : OpRow) (f : Fields) : Option Nat :=
  if !row.a.ok f f.a then some 0x004
  else if !row.b.ok f f.b then some 0x005
  else if !row.c.ok f f.c then some 0x006
  else if !row.d.ok f f.d then some 0x003
  else none

/-- Step 6: the M subfields and the reserved M bits in the order of their lowest bit. -/
def mFault (row : OpRow) (f : Fields) : Option Nat :=
  ((List.range 16).find? fun p =>
    match row.subs.find? (fun s => s.lo == p) with
    | some s => !s.ok f
    | none => mBits f.m p 1 == 1 && !row.subs.any (fun s => s.lo < p && p < s.lo + s.width)).map (0x010 + ·)

/-- Step 7: the E subfields in the order TA, TB, LM, LN, LK, XO. -/
def eFault (row : OpRow) (f : Fields) : Option Nat :=
  match row.e with
  | none => none
  | some e =>
    if !e.ta && f.ta != 0 then some 0x020
    else if !e.tb && f.tb != 0 then some 0x021
    else if !e.lm && f.lm != 0 then some 0x022
    else if !e.ln && f.ln != 0 then some 0x023
    else if !e.lk && f.lk != 0 then some 0x024
    else if !e.xo f then some 0x025
    else none

/-- Steps 3 to 8 on a slot of an assigned opcode. -/
def rowFault (row : OpRow) (f : Fields) : Option Nat :=
  if f.gd = 8 then some 0x002
  else match regFault row f with
    | some c => some c
    | none =>
      if f.r1 != 0 || f.r2 != 0 then some 0x007
      else match mFault row f with
        | some c => some c
        | none => match eFault row f with
          | some c => some c
          | none => if row.x.ok f then none else some 0x026

/-- Decode a slot, given as a 96-bit number (R81 steps 2 to 8). -/
def decodeSlot (n : Nat) : Decoded :=
  if mBits n 86 10 = 0 then (if mBits n 0 86 = 0 then .ok .nop else .bad 0x008)
  else match rowOf (mBits n 86 10) with
    | none => .bad 0x001
    | some row =>
      match rowFault row (unpack row.fmt n) with
      | some c => .bad c
      | none => .ok (row.build (unpack row.fmt n))

/-- The slot of an instruction; a step of the device has none. -/
def encode (i : Instr) : Nat :=
  match i.raw with
  | some (fmt, f) => pack fmt f
  | none => 0

/-- The instruction of a slot whose bits are numbered as the opcode table numbers them. A slot is 96 bits; the bits the
host does not give are 0. -/
def decodeTableWord (_nbits w : Nat) : Option Instr :=
  match decodeSlot (w % 2 ^ 96) with
  | .ok i => some i
  | .bad _ => none

end Sys2Proof
end

