-- ==== Sys2Proof/Machine/Bits.lean ====
section
/-! DEFINITION. Bit fields, two's complement readings and saturation over natural numbers and integers (02 R23,
05 R87, R91, R92; 06 R108). -/

namespace Sys2Proof.Machine

/-- Bits [lo + w - 1 : lo] of n. -/
def bitsAt (n lo w : Nat) : Nat := n / 2 ^ lo % 2 ^ w

/-- n with bits [lo + w - 1 : lo] replaced by the low w bits of v. -/
def setBits (n lo w v : Nat) : Nat :=
  n % 2 ^ lo + v % 2 ^ w * 2 ^ lo + n / 2 ^ (lo + w) * 2 ^ (lo + w)

/-- Signed(x, w) of R87 on the low w bits of x. -/
def signedOf (w x : Nat) : Int :=
  if 2 * (x % 2 ^ w) < 2 ^ w then (x % 2 ^ w : Nat) else (x % 2 ^ w : Nat) - (2 ^ w : Nat)

/-- The natural below 2^w that an integer wraps to. -/
def wrapTo (w : Nat) (r : Int) : Nat := (r % ((2 ^ w : Nat) : Int)).toNat

/-- Clamp(r, lo, hi). -/
def clampInt (lo hi r : Int) : Int := if r < lo then lo else if hi < r then hi else r

/-- The least and the greatest value of a w-bit integer, two's complement or natural. -/
def intLo (sgn : Bool) (w : Nat) : Int := if sgn then -((2 ^ (w - 1) : Nat) : Int) else 0
def intHi (sgn : Bool) (w : Nat) : Int := if sgn then ((2 ^ (w - 1) : Nat) : Int) - 1 else ((2 ^ w : Nat) : Int) - 1

/-- Clamp to the range of a w-bit integer. -/
def satInt (sgn : Bool) (w : Nat) (r : Int) : Int := clampInt (intLo sgn w) (intHi sgn w) r

/-- The i types are two's complement, the n types natural (R23). -/
def itypeSigned : IType → Bool
  | .i64 | .i32 | .i16 | .i8 => true
  | _ => false

/-- An operand of type t, read from the low bits of a register: signed for an i type, natural for an n type (R87). -/
def readTyped (t : IType) (x : Nat) : Int :=
  if itypeSigned t then signedOf t.width x else (x % 2 ^ t.width : Nat)

/-- Extend(r mod 2^w, w, t) of R87: 64 bits, sign-extended for an i type and zero-extended for an n type. -/
def extendTyped (t : IType) (r : Int) : Nat :=
  if itypeSigned t then wrapTo 64 (signedOf t.width (wrapTo t.width r)) else wrapTo t.width r

/-- Sign-extend the low w bits of x to 64 bits. -/
def sextTo64 (w x : Nat) : Nat := wrapTo 64 (signedOf w x)

/-- X of format R as a signed number (R70). -/
def dispOf (x : BitVec 38) : Int := x.toInt

/-- X of format R sign-extended to 64 bits (R83). -/
def immOf (x : BitVec 38) : Nat := wrapTo 64 x.toInt

/-- Bitwise complement within w bits. -/
def notW (w x : Nat) : Nat := 2 ^ w - 1 - x % 2 ^ w

/-- Number of set bits among the low w bits. -/
def popCount : Nat → Nat → Nat
  | 0, _ => 0
  | w + 1, x => x % 2 + popCount w (x / 2)

/-- Zero bits below the lowest set bit of the low w bits; w when there is none. -/
def trailZeros : Nat → Nat → Nat
  | 0, _ => 0
  | w + 1, x => if x % 2 = 1 then 0 else 1 + trailZeros w (x / 2)

/-- Zero bits above the highest set bit of the low w bits; w when there is none. -/
def leadZeros (w x : Nat) : Nat := if x % 2 ^ w = 0 then w else w - 1 - (x % 2 ^ w).log2

/-- The low w bits with bit i moved to bit w - 1 - i. -/
def bitReverse : Nat → Nat → Nat
  | 0, _ => 0
  | w + 1, x => x % 2 * 2 ^ w + bitReverse w (x / 2)

/-- Element i of width w of a v register (R108). -/
def laneOf (w : Nat) (v : Nat) (i : Nat) : Nat := bitsAt v (w * i) w

/-- A v register with element i of width w replaced (R108). -/
def setLane (w : Nat) (v i x : Nat) : Nat := setBits v (w * i) w x

/-- Write elements i, i + 1, … in turn: unused bits and elements not written keep their values (R108). -/
def writeLanes (w : Nat) (v : Nat) : Nat → List Nat → Nat
  | _, [] => v
  | i, x :: xs => writeLanes w (setLane w v i x) (i + 1) xs

/-- The elements of a v register, in ascending order. -/
def lanes (w v : Nat) : List Nat := (List.range (lanesOf w)).map (laneOf w v)

end Sys2Proof.Machine
end

