-- ==== Sys2Proof/Machine/Alu.lean ====
section
/-! DEFINITION. What the integer, bit and pointer instructions compute, as functions of a width and natural operands
(05 R89 to R98). Results are integers; the writer of the destination reduces them (R87). -/

namespace Sys2Proof.Machine

/-- ADD: ia + ib (R89). -/
def aluAdd (_w ia ib : Nat) : Int := (ia : Int) + ib
/-- SUB: ia - ib (R89). -/
def aluSub (_w ia ib : Nat) : Int := (ia : Int) - ib
/-- MUL: ia × ib (R89). -/
def aluMul (_w ia ib : Nat) : Int := (ia * ib : Nat)
/-- MULH: Floor(sa × sb / 2^w) (R89). -/
def aluMulh (w ia ib : Nat) : Int := (signedOf w ia * signedOf w ib).fdiv ((2 ^ w : Nat) : Int)
/-- MULHN: Floor(ia × ib / 2^w) (R89). -/
def aluMulhn (w ia ib : Nat) : Int := (ia * ib / 2 ^ w : Nat)
/-- DIV: all ones for a zero divisor, else Trunc(sa / sb) (R89). -/
def aluDiv (w ia ib : Nat) : Int :=
  if ib = 0 then (2 ^ w - 1 : Nat) else (signedOf w ia).tdiv (signedOf w ib)
/-- DIVN: all ones for a zero divisor, else Floor(ia / ib) (R89). -/
def aluDivn (w ia ib : Nat) : Int := if ib = 0 then (2 ^ w - 1 : Nat) else (ia / ib : Nat)
/-- REM: ia for a zero divisor, else sa - Trunc(sa / sb) × sb (R89). -/
def aluRem (w ia ib : Nat) : Int :=
  if ib = 0 then (ia : Nat) else signedOf w ia - (signedOf w ia).tdiv (signedOf w ib) * signedOf w ib
/-- REMN: ia for a zero divisor, else ia - Floor(ia / ib) × ib (R89). -/
def aluRemn (_w ia ib : Nat) : Int := if ib = 0 then (ia : Nat) else (ia % ib : Nat)
/-- AND (R89). -/
def aluAnd (_w ia ib : Nat) : Int := (ia &&& ib : Nat)
/-- OR (R89). -/
def aluOr (_w ia ib : Nat) : Int := (ia ||| ib : Nat)
/-- XOR (R89). -/
def aluXor (_w ia ib : Nat) : Int := (ia ^^^ ib : Nat)
/-- ANDN: ia and not ib, within w bits (R89). -/
def aluAndn (w ia ib : Nat) : Int := (ia &&& notW w ib : Nat)
/-- ORN: ia or not ib, within w bits (R89). -/
def aluOrn (w ia ib : Nat) : Int := (ia ||| notW w ib : Nat)
/-- SHL: ia × 2^(ib mod w) (R89). -/
def aluShl (w ia ib : Nat) : Int := (ia * 2 ^ (ib % w) : Nat)
/-- SHR: Floor(ia / 2^(ib mod w)) (R89). -/
def aluShr (w ia ib : Nat) : Int := (ia / 2 ^ (ib % w) : Nat)
/-- SAR: Floor(sa / 2^(ib mod w)) (R89). -/
def aluSar (w ia ib : Nat) : Int := (signedOf w ia).fdiv ((2 ^ (ib % w) : Nat) : Int)
/-- ROL (R89). -/
def aluRol (w ia ib : Nat) : Int := ((ia * 2 ^ (ib % w) + ia / 2 ^ (w - ib % w)) % 2 ^ w : Nat)
/-- ROR (R89). -/
def aluRor (w ia ib : Nat) : Int := ((ia / 2 ^ (ib % w) + ia * 2 ^ (w - ib % w)) % 2 ^ w : Nat)
/-- MIN, signed whatever t= is (R89). -/
def aluMin (w ia ib : Nat) : Int := min (signedOf w ia) (signedOf w ib)
/-- MAX, signed whatever t= is (R89). -/
def aluMax (w ia ib : Nat) : Int := max (signedOf w ia) (signedOf w ib)
/-- MINN, natural (R89). -/
def aluMinn (_w ia ib : Nat) : Int := (min ia ib : Nat)
/-- MAXN, natural (R89). -/
def aluMaxn (_w ia ib : Nat) : Int := (max ia ib : Nat)

/-- CLZ (R91). -/
def aluClz (w ia : Nat) : Int := (leadZeros w ia : Nat)
/-- CTZ (R91). -/
def aluCtz (w ia : Nat) : Int := (trailZeros w ia : Nat)
/-- POPC (R91). -/
def aluPopc (w ia : Nat) : Int := (popCount w ia : Nat)
/-- BREV (R91). -/
def aluBrev (w ia : Nat) : Int := (bitReverse w ia : Nat)
/-- ABS: |sa| (R91). -/
def aluAbs (w ia : Nat) : Int := ((signedOf w ia).natAbs : Nat)
/-- NEG: -ia (R91). -/
def aluNeg (_w ia : Nat) : Int := -(ia : Int)

/-- The position and the length that a control word of BEXT and BINS names (R92). -/
def fieldPos (c : Nat) : Nat := bitsAt c 0 6
def fieldLen (c : Nat) : Nat := bitsAt c 8 6 + 1

/-- BEXT: extract under control word c, sign-extended from bit len - 1 when sx (R92). -/
def bitExtract (sx : Bool) (a c : Nat) : Nat :=
  let f := a / 2 ^ fieldPos c % 2 ^ fieldLen c
  if sx then sextTo64 (fieldLen c) f else f

/-- BINS: insert a into d under control word c (R92). -/
def bitInsert (d a c : Nat) : Nat :=
  let m := (2 ^ fieldLen c - 1) * 2 ^ fieldPos c % 2 ^ 64
  (d &&& notW 64 m) ||| (a * 2 ^ fieldPos c &&& m)

/-- PADD: a + b × w + X (R97). -/
def ptrAdd (a b w : Nat) (x : Int) : Nat := wrapTo 64 (a + signedOf 64 b * w + x)

/-- The difference PDIF divides, as a natural and as signed (R97). -/
def ptrDiffRaw (a b : Nat) : Nat := wrapTo 64 ((a : Int) - b)
def ptrDiff (a b : Nat) : Int := signedOf 64 (ptrDiffRaw a b)

/-- PALN: align a to a multiple of w, down or up (R97). -/
def ptrAlign (up : Bool) (a w : Nat) : Nat :=
  if up then (a + (w - a % w) % w) % 2 ^ 64 else a - a % w

/-- Block and element width of a BQ format (R32). -/
def bqBlock : BqFmt → Nat
  | .bq3 => 72 | .bq5 => 104 | .bq8 => 152
def bqElem : BqFmt → Nat
  | .bq3 => 3 | .bq5 => 5 | .bq8 => 8
def bqMant : BqFmt → Nat
  | .bq3 => 2 | .bq5 => 4 | .bq8 => 7

/-- PBLK: a + Floor(b / 16) × W + 24 + (b mod 16) × we (R97). -/
def ptrBlock (fmt : BqFmt) (a b : Nat) : Nat :=
  wrapTo 64 (a + (signedOf 64 b).fdiv 16 * bqBlock fmt + 24 + (b % 16 * bqElem fmt : Nat))

/-- The alignment class A0 to A3 of an access of w bits at a (R51). -/
def alignClass (a w : Nat) : Nat :=
  if w ≤ 512 && w == 2 ^ w.log2 && a % w == 0 then 0
  else if a / 64 = (a + w - 1) / 64 then 1
  else if a / 512 = (a + w - 1) / 512 then 2
  else 3

end Sys2Proof.Machine
end

