-- ==== Sys2Proof/Machine/Float.lean ====
section
/-! DEFINITION. Floating-point formats, rounding and conversion (02 R24 to R31; 05 R103 to R106). Every result is one
rounding of an exact value: values are exact dyadic numbers, and a quotient or a root is rounded from its exact
magnitude. -/

namespace Sys2Proof.Machine

/-- The floating-point formats (R24). -/
inductive FmtF where
  | f32 | fa26 | bf16 | f16 | e5m2 | e4m3 | e3m2 | e2m3 | e2m1
  deriving DecidableEq, Repr

/-- Exponent bits, fraction bits and bias (R24). -/
def FmtF.ebits : FmtF → Nat
  | .f32 | .fa26 | .bf16 => 8
  | .f16 | .e5m2 => 5
  | .e4m3 => 4
  | .e3m2 => 3
  | .e2m3 | .e2m1 => 2
def FmtF.fbits : FmtF → Nat
  | .f32 => 23 | .fa26 => 17 | .bf16 => 7 | .f16 => 10 | .e5m2 => 2 | .e4m3 => 3 | .e3m2 => 2 | .e2m3 => 3 | .e2m1 => 1
def FmtF.bias : FmtF → Nat
  | .f32 | .fa26 | .bf16 => 127
  | .f16 | .e5m2 => 15
  | .e4m3 => 7
  | .e3m2 => 3
  | .e2m3 | .e2m1 => 1
def FmtF.width (t : FmtF) : Nat := 1 + t.ebits + t.fbits

/-- Which encodings are infinities and NaNs (R24): as IEEE 754, e4m3 with its one NaN code, or none. -/
inductive FmtKind where
  | ieee | one | none
  deriving DecidableEq, Repr
def FmtF.kind : FmtF → FmtKind
  | .f32 | .fa26 | .bf16 | .f16 | .e5m2 => .ieee
  | .e4m3 => .one
  | .e3m2 | .e2m3 | .e2m1 => .none

/-- An exact value: (-1)^neg × m × 2^e, an infinity, or a NaN with its sign. -/
inductive FV where
  | nan (neg : Bool)
  | inf (neg : Bool)
  | fin (neg : Bool) (m : Nat) (e : Int)
  deriving DecidableEq, Repr

def FV.isNan : FV → Bool
  | .nan _ => true
  | _ => false
def FV.isInf : FV → Bool
  | .inf _ => true
  | _ => false
def FV.isFin : FV → Bool
  | .fin .. => true
  | _ => false
def FV.isZero : FV → Bool
  | .fin _ m _ => m == 0
  | _ => false
def FV.sign : FV → Bool
  | .nan s => s
  | .inf s => s
  | .fin s _ _ => s
def FV.neg : FV → FV
  | .nan s => .nan (!s)
  | .inf s => .inf (!s)
  | .fin s m e => .fin (!s) m e
def FV.abs : FV → FV
  | .nan _ => .nan false
  | .inf _ => .inf false
  | .fin _ m e => .fin false m e
/-- Exact scaling by 2^k. -/
def FV.scale (k : Int) : FV → FV
  | .fin s m e => .fin s m (e + k)
  | v => v

/-- The signed integer of a finite value in units of 2^k, where k is at most its exponent. -/
def FV.unitsAt (k : Int) : FV → Int
  | .fin s m e => (if s then -1 else 1) * ((m * 2 ^ (e - k).toNat : Nat) : Int)
  | _ => 0
def FV.expo : FV → Int
  | .fin _ _ e => e
  | _ => 0

/-- Order of the extended reals; a NaN is below nothing. -/
def FV.lt (a b : FV) : Bool :=
  match a, b with
  | .nan _, _ => false
  | _, .nan _ => false
  | .inf s, .inf t => s && !t
  | .inf s, .fin .. => s
  | .fin .., .inf t => !t
  | .fin .., .fin .. => decide (a.unitsAt (min a.expo b.expo) < b.unitsAt (min a.expo b.expo))
/-- Equality of values: the two zeros are equal (R105). -/
def FV.eqv (a b : FV) : Bool :=
  match a, b with
  | .nan _, _ => false
  | _, .nan _ => false
  | .inf s, .inf t => s == t
  | .fin .., .fin .. => decide (a.unitsAt (min a.expo b.expo) = b.unitsAt (min a.expo b.expo))
  | _, _ => false

/-- The code of +infinity in an IEEE format. -/
def FmtF.infCode (t : FmtF) : Nat := (2 ^ t.ebits - 1) * 2 ^ t.fbits
/-- The code of the largest finite magnitude (R24). -/
def FmtF.maxCode (t : FmtF) : Nat :=
  match t.kind with
  | .ieee => t.infCode - 1
  | .one => 2 ^ (t.ebits + t.fbits) - 2
  | .none => 2 ^ (t.ebits + t.fbits) - 1
/-- The canonical positive NaN (R26). -/
def FmtF.nanCode (t : FmtF) : Nat :=
  match t.kind with
  | .ieee => t.infCode + 2 ^ (t.fbits - 1)
  | .one => 2 ^ (t.ebits + t.fbits) - 1
  | .none => t.maxCode
/-- The sign bit over a magnitude code. -/
def FmtF.signed (t : FmtF) (neg : Bool) (code : Nat) : Nat := neg.toNat * 2 ^ (t.ebits + t.fbits) + code

/-- The value an encoding holds (R24). -/
def decodeF (t : FmtF) (bits : Nat) : FV :=
  let neg := bitsAt bits (t.ebits + t.fbits) 1 == 1
  let e := bitsAt bits t.fbits t.ebits
  let f := bitsAt bits 0 t.fbits
  let mag := bitsAt bits 0 (t.ebits + t.fbits)
  if t.kind = .ieee ∧ e = 2 ^ t.ebits - 1 then (if f = 0 then .inf neg else .nan neg)
  else if t.kind = .one ∧ mag = 2 ^ (t.ebits + t.fbits) - 1 then .nan neg
  else if e = 0 then .fin neg f (1 - (t.bias : Int) - t.fbits)
  else .fin neg (2 ^ t.fbits + f) ((e : Int) - t.bias - t.fbits)

/-- An exact positive magnitude: a rational times a power of two, or the root of a dyadic number. -/
inductive Mag where
  | rat (num den : Nat) (e : Int)
  | root (m : Nat) (e : Int)
  deriving DecidableEq, Repr

/-- n × 2^k rounded down. -/
def scaleNat (n : Nat) (k : Int) : Nat := if 0 ≤ k then n * 2 ^ k.toNat else n / 2 ^ (-k).toNat

/-- Floor of the square root, by bits from the top. -/
def isqrtBits : Nat → Nat → Nat → Nat
  | 0, _, r => r
  | k + 1, x, r => if (r + 2 ^ k) * (r + 2 ^ k) ≤ x then isqrtBits k x (r + 2 ^ k) else isqrtBits k x r
def isqrt (x : Nat) : Nat := isqrtBits (x.log2 / 2 + 1) x 0

/-- Floor(log2) of a magnitude. -/
def Mag.ilog : Mag → Int
  | .rat num den e =>
    let l : Int := (num.log2 : Int) - den.log2
    let ge := if 0 ≤ l then decide (den * 2 ^ l.toNat ≤ num) else decide (den ≤ num * 2 ^ (-l).toNat)
    e + (if ge then l else l - 1)
  | .root m e => ((m.log2 : Int) + e).fdiv 2

/-- The magnitude in units of 2^k, rounded down, and whether that is exact. -/
def Mag.floorAt (k : Int) : Mag → Nat × Bool
  | .rat num den e =>
    let n := if 0 ≤ e - k then num * 2 ^ (e - k).toNat else num
    let d := if 0 ≤ e - k then den else den * 2 ^ (k - e).toNat
    (n / d, n % d == 0)
  | .root m e =>
    let r := isqrt (scaleNat m (e - 2 * k))
    (r, if 0 ≤ e - 2 * k then r * r == m * 2 ^ (e - 2 * k).toNat else r * r * 2 ^ (2 * k - e).toNat == m)

/-- Round a magnitude to a multiple of 2^st, in units of 2^st (R27, R29); u is the LFSR's upper half. -/
def roundUnits (rnd : Rnd) (neg : Bool) (u : Nat) (st : Int) (mag : Mag) : Nat :=
  let (q16, exact) := mag.floorAt (st - 16)
  let q := q16 / 2 ^ 16
  let fr := q16 % 2 ^ 16
  let up := match rnd with
    | .rne => decide (2 ^ 15 < fr) || (fr == 2 ^ 15 && (!exact || q % 2 == 1))
    | .rtz => false
    | .rup => !neg && (fr != 0 || !exact)
    | .rdn => neg && (fr != 0 || !exact)
    | .rsr => decide (2 ^ 16 ≤ fr + u)
  q + up.toNat

/-- The magnitude code of a rounding to format t with the exponent range unbounded above (R27). -/
def roundCode (t : FmtF) (rnd : Rnd) (neg : Bool) (u : Nat) (mag : Mag) : Nat :=
  let st := max (mag.ilog - t.fbits) (1 - (t.bias : Int) - t.fbits)
  (st + t.fbits + t.bias - 1).toNat * 2 ^ t.fbits + roundUnits rnd neg u st mag

/-- What a rounded magnitude beyond the largest finite becomes (R27, R30). -/
def overflowCode (t : FmtF) (rnd : Rnd) (prop neg : Bool) : Nat :=
  match t with
  | .e4m3 => if prop then t.nanCode else t.maxCode
  | .e3m2 | .e2m3 | .e2m1 => t.maxCode
  | _ =>
    if t = .e5m2 ∧ !prop then t.maxCode
    else match rnd with
      | .rne | .rsr => t.infCode
      | .rtz => t.maxCode
      | .rup => if neg then t.maxCode else t.infCode
      | .rdn => if neg then t.infCode else t.maxCode

/-- Round a nonzero exact magnitude to format t; the flag says that it lies beyond the largest finite. -/
def encodeMag (t : FmtF) (rnd : Rnd) (prop : Bool) (u : Nat) (neg : Bool) (mag : Mag) : Nat × Bool :=
  let c := roundCode t rnd neg u mag
  if t.maxCode < c then (t.signed neg (overflowCode t rnd prop neg), true) else (t.signed neg c, false)

/-- What an infinite source becomes (R30). -/
def infTo (t : FmtF) (prop neg : Bool) : Nat :=
  match t with
  | .e4m3 => t.signed neg (if prop then t.nanCode else t.maxCode)
  | .e5m2 => t.signed neg (if prop then t.infCode else t.maxCode)
  | .e3m2 | .e2m3 | .e2m1 => t.signed neg t.maxCode
  | _ => t.signed neg t.infCode

/-- What a NaN source becomes (R26, R30). -/
def nanTo (t : FmtF) (neg : Bool) : Nat :=
  match t.kind with
  | .none => t.maxCode
  | _ => t.signed neg t.nanCode

/-- A value converted to format t under R27 and R30; the flag says that a finite value overflowed. -/
def encodeF (t : FmtF) (rnd : Rnd) (prop : Bool) (u : Nat) (v : FV) : Nat × Bool :=
  match v with
  | .nan s => (nanTo t s, false)
  | .inf s => (infTo t prop s, false)
  | .fin s 0 _ => (t.signed s 0, false)
  | .fin s m e => encodeMag t rnd prop u s (.rat m 1 e)

/-- The result of an arithmetic instruction: overflow under R27, every NaN the canonical positive NaN (R26). -/
def roundTo (t : FmtF) (rnd : Rnd) (u : Nat) (v : FV) : Nat :=
  match v with
  | .nan _ => t.nanCode
  | .inf s => t.signed s t.infCode
  | .fin .. => (encodeF t rnd true u v).1

/-! ### Exact arithmetic -/

/-- A dyadic number of a signed integer in units of 2^k; a zero takes the sign given. -/
def ofUnits (k : Int) (zeroNeg : Bool) (n : Int) : FV :=
  if n = 0 then .fin zeroNeg 0 k else .fin (decide (n < 0)) n.natAbs k

/-- The exact sum of a list: NaN, infinities, and the sign of an exact zero sum (R27, R36, R114, R124). -/
def sumExact (rdn : Bool) (vs : List FV) : FV :=
  if vs.any (·.isNan) then .nan false
  else if vs.any (fun v => v.isInf && !v.sign) && vs.any (fun v => v.isInf && v.sign) then .nan false
  else if vs.any (fun v => v.isInf && !v.sign) then .inf false
  else if vs.any (fun v => v.isInf && v.sign) then .inf true
  else
    let k := vs.foldl (fun k v => min k v.expo) (vs.head?.map (·.expo) |>.getD 0)
    let zeroNeg := if vs.all (fun v => v.isZero && v.sign) then true
      else if vs.all (fun v => v.isZero && !v.sign) then false else rdn
    ofUnits k zeroNeg (vs.foldl (fun n v => n + v.unitsAt k) 0)

/-- The exact product; 0 × ∞ is NaN (R103). -/
def mulExact (a b : FV) : FV :=
  match a, b with
  | .nan _, _ => .nan false
  | _, .nan _ => .nan false
  | .inf s, .inf t => .inf (s != t)
  | .inf s, .fin t m _ => if m = 0 then .nan false else .inf (s != t)
  | .fin s m _, .inf t => if m = 0 then .nan false else .inf (s != t)
  | .fin s m e, .fin t n f => .fin (s != t) (m * n) (e + f)

def addExact (rnd : Rnd) (a b : FV) : FV := sumExact (rnd == .rdn) [a, b]

/-- FADD (R103). -/
def floatAdd (t : FmtF) (rnd : Rnd) (u a b : Nat) : Nat := roundTo t rnd u (addExact rnd (decodeF t a) (decodeF t b))
/-- FSUB (R103). -/
def floatSub (t : FmtF) (rnd : Rnd) (u a b : Nat) : Nat :=
  roundTo t rnd u (addExact rnd (decodeF t a) (decodeF t b).neg)
/-- FMUL (R103). -/
def floatMul (t : FmtF) (rnd : Rnd) (u a b : Nat) : Nat := roundTo t rnd u (mulExact (decodeF t a) (decodeF t b))
/-- FFMA: a × b + c, rounded once (R103). -/
def floatFma (t : FmtF) (rnd : Rnd) (u a b c : Nat) : Nat :=
  roundTo t rnd u (addExact rnd (mulExact (decodeF t a) (decodeF t b)) (decodeF t c))
/-- FDIV (R103). -/
def floatDiv (t : FmtF) (rnd : Rnd) (u a b : Nat) : Nat :=
  match decodeF t a, decodeF t b with
  | .nan _, _ => t.nanCode
  | _, .nan _ => t.nanCode
  | .inf _, .inf _ => t.nanCode
  | .inf s, .fin r _ _ => t.signed (s != r) t.infCode
  | .fin s _ _, .inf r => t.signed (s != r) 0
  | .fin s m e, .fin r n f =>
    if n = 0 then (if m = 0 then t.nanCode else t.signed (s != r) t.infCode)
    else if m = 0 then t.signed (s != r) 0
    else (encodeMag t rnd true u (s != r) (.rat m n (e - f))).1
/-- FSQRT (R103). -/
def floatSqrt (t : FmtF) (rnd : Rnd) (u a : Nat) : Nat :=
  match decodeF t a with
  | .nan _ => t.nanCode
  | .inf s => if s then t.nanCode else t.signed false t.infCode
  | .fin s m e =>
    if m = 0 then t.signed s 0
    else if s then t.nanCode
    else (encodeMag t rnd true u false (.root m e)).1

/-- The order of FMIN and FMAX: -0 is below +0 (R104). -/
def FV.below (a b : FV) : Bool := a.lt b || (a.isZero && b.isZero && a.sign && !b.sign)
/-- FMIN (R104). -/
def floatMin (t : FmtF) (a b : Nat) : Nat :=
  if (decodeF t a).isNan || (decodeF t b).isNan then t.nanCode
  else if (decodeF t b).below (decodeF t a) then b % 2 ^ t.width else a % 2 ^ t.width
/-- FMAX (R104). -/
def floatMax (t : FmtF) (a b : Nat) : Nat :=
  if (decodeF t a).isNan || (decodeF t b).isNan then t.nanCode
  else if (decodeF t a).below (decodeF t b) then b % 2 ^ t.width else a % 2 ^ t.width
/-- FNEG: bit w - 1 inverted (R104). -/
def floatNeg (t : FmtF) (a : Nat) : Nat := (a % 2 ^ t.width) ^^^ 2 ^ (t.width - 1)
/-- The float form of VABS: bit w - 1 cleared (R112). -/
def floatAbsBits (t : FmtF) (a : Nat) : Nat := a % 2 ^ (t.width - 1)
/-- FCLASS: one bit set (R104). -/
def floatClass (t : FmtF) (a : Nat) : Nat :=
  match decodeF t a with
  | .nan _ => 2 ^ 8
  | .inf s => if s then 2 ^ 0 else 2 ^ 7
  | .fin s m _ =>
    if m = 0 then (if s then 2 ^ 3 else 2 ^ 4)
    else if m < 2 ^ t.fbits then (if s then 2 ^ 2 else 2 ^ 5)
    else (if s then 2 ^ 1 else 2 ^ 6)

/-! ### Types of the instructions and conversion -/

/-- The format of a scalar or lane float type (R102). -/
def ftypeFmt : FType → FmtF
  | .f32 => .f32 | .bf16 => .bf16 | .f16 => .f16

/-- What a conversion type names: a float format, or an integer of a width and signedness (R106). -/
inductive CvtKind where
  | flt (t : FmtF)
  | int (sgn : Bool) (w : Nat)
  deriving DecidableEq, Repr
def cvtKind : CvtType → CvtKind
  | .f32 => .flt .f32 | .bf16 => .flt .bf16 | .f16 => .flt .f16 | .e4m3 => .flt .e4m3 | .e5m2 => .flt .e5m2
  | .e3m2 => .flt .e3m2 | .e2m3 => .flt .e2m3 | .e2m1 => .flt .e2m1
  | .i8 => .int true 8 | .i16 => .int true 16 | .i32 => .int true 32 | .i64 => .int true 64
  | .n8 => .int false 8 | .n16 => .int false 16 | .n32 => .int false 32 | .n64 => .int false 64

/-- The value an element of a conversion type holds. -/
def cvtValue (t : CvtType) (bits : Nat) : FV :=
  match cvtKind t with
  | .flt f => decodeF f bits
  | .int true w => ofUnits 0 false (signedOf w bits)
  | .int false w => ofUnits 0 false (bits % 2 ^ w : Nat)

/-- A value rounded to an integer with the range unbounded (R31). -/
def roundInt (rnd : Rnd) (u : Nat) : FV → Int
  | .fin s m e => if m = 0 then 0 else (if s then -1 else 1) * ((roundUnits rnd s u 0 (.rat m 1 e) : Nat) : Int)
  | _ => 0

/-- A value converted to an element of a conversion type (R30, R31); the flag says that a finite value lies beyond the
target's range (R37). -/
def cvtEncode (t : CvtType) (rnd : Rnd) (prop : Bool) (u : Nat) (v : FV) : Nat × Bool :=
  match cvtKind t with
  | .flt f => encodeF f rnd prop u v
  | .int sgn w =>
    match v with
    | .nan _ => (0, false)
    | .inf s => (wrapTo w (if s then intLo sgn w else intHi sgn w), false)
    | .fin .. =>
      let n := roundInt rnd u v
      (wrapTo w (satInt sgn w n), n != satInt sgn w n)

/-- Convert one element (R30, R31, R106). -/
def convert (df sf : CvtType) (rnd : Rnd) (prop : Bool) (u bits : Nat) : Nat :=
  (cvtEncode df rnd prop u (cvtValue sf bits)).1

/-- The LFSR's next state (R28). -/
def lfsrStep (s : Nat) : Nat := if s % 2 = 1 then (s / 2) ^^^ 0x80200003 else s / 2
/-- u of a stochastic rounding, from the new state (R29). -/
def lfsrU (s : Nat) : Nat := bitsAt s 16 16
/-- The state after an instruction that rounds once: it steps only under rsr (R29). -/
def lfsrAfter (rnd : Rnd) (s : Nat) : Nat := if rnd = .rsr then lfsrStep s else s

end Sys2Proof.Machine
end

