-- ==== Sys2Proof/Machine/Block.lean ====
section
/-! DEFINITION. BQ blocks, matrix accumulation, the window accumulator and the mark word (02 R32 to R43; 07 R149 to R153;
08 R183). -/

namespace Sys2Proof.Machine

/-! ### BQ blocks (R32 to R35) -/

/-- DecodeBq: element i of a block (R34). R34 gives an element of a NaN block no sign, though R26 would keep a source's: it decodes to a
positive NaN (DESIGN CHOICE, log 79). -/
def bqDecode (fmt : BqFmt) (block i : Nat) : FV :=
  let e := bitsAt block 0 8
  let p := i / 2
  let w := bqElem fmt
  let el := bitsAt block (24 + w * i) w
  if e = 255 then .nan false
  else if bitsAt block (16 + p) 1 = 1 then .fin false 0 0
  else .fin (bitsAt el (w - 1) 1 == 1) (bitsAt el 0 (w - 1))
    ((e : Int) - 127 - (bitsAt block (8 + p) 1 : Nat) - ((bqMant fmt : Nat) - 1))

/-- Whether element i of a block reads as zero through its pair-zero bit (R33). -/
def bqPairZero (block i : Nat) : Bool := bitsAt block (16 + i / 2) 1 == 1

/-- |x| ≤ 2^k for a finite x. -/
def magLePow (k : Int) : FV → Bool
  | .fin _ m e => decide (m * 2 ^ (e - k).toNat ≤ 2 ^ (k - e).toNat)
  | _ => false

/-- The larger of two finite magnitudes. -/
def maxMag (a b : FV) : FV := if a.abs.lt b.abs then b else a

/-- Floor(Log2(a)) of a nonzero finite magnitude. -/
def ilogFV : FV → Int
  | .fin _ m e => (m.log2 : Int) + e
  | _ => 0

/-- RoundRne(|x| / 2^k) of a finite x. -/
def rneUnits (k : Int) : FV → Nat
  | .fin _ m e => if m = 0 then 0 else roundUnits .rne false 0 k (.rat m 1 e)
  | _ => 0

/-- One element's magnitude in the block's unit, clamped to the mantissa (R35). -/
def bqMag (mb : Nat) (k : Int) (x : FV) : Nat :=
  if x.isInf then 2 ^ mb - 1 else min (rneUnits k x) (2 ^ mb - 1)

/-- The shared exponent of a block (R35). -/
def bqExp (xs : List FV) : Nat :=
  let a := xs.foldl (fun a x => if x.isFin then maxMag a x else a) (.fin false 0 0)
  if xs.any (·.isInf) then 254
  else if a.isZero then 0
  else (clampInt 0 254 (ilogFV a + 127)).toNat

/-- The bits that pair p of a block sets (R35). -/
def bqPair (fmt : BqFmt) (e p : Nat) (x y : FV) : Nat :=
  let mb := bqMant fmt
  let w := bqElem fmt
  let small := fun v : FV => !v.isInf && magLePow ((e : Int) - 128) v
  let mu := if 1 ≤ e ∧ small x ∧ small y then 1 else 0
  let k : Int := (e : Int) - 127 - (mu : Nat) - ((mb : Nat) - 1)
  let mx := bqMag mb k x
  let my := bqMag mb k y
  if mx = 0 ∧ my = 0 then 2 ^ (16 + p)
  else mu * 2 ^ (8 + p)
    + (x.sign.toNat * 2 ^ mb + mx) * 2 ^ (24 + w * (2 * p))
    + (y.sign.toNat * 2 ^ mb + my) * 2 ^ (24 + w * (2 * p + 1))

/-- EncodeBq of 16 values (R35). -/
def bqEncode (fmt : BqFmt) (prop : Bool) (xs : List FV) : Nat :=
  if xs.any (fun x => x.isNan || (prop && x.isInf)) then 255
  else
    let e := bqExp xs
    (List.range 8).foldl
      (fun blk p => blk + bqPair fmt e p (xs.getD (2 * p) (.fin false 0 0)) (xs.getD (2 * p + 1) (.fin false 0 0))) e

/-! ### Matrix accumulation (R36, R37) -/

/-- ExactGroupSum: an exact zero sum is +0 (R36). -/
def groupSum (ps : List (FV × FV)) : FV :=
  match sumExact false (ps.map fun p => mulExact p.1 p.2) with
  | .fin _ 0 e => .fin false 0 e
  | v => v

/-- RoundFa26 and RoundF32 of an exact sum of two values (R36). -/
def accFa26 (a b : FV) : FV := decodeF .fa26 (roundTo .fa26 .rne 0 (sumExact false [a, b]))
def accF32 (a : Nat) (b : FV) : Nat := roundTo .f32 .rne 0 (sumExact false [decodeF .f32 a, b])

/-- The sticky counters of a tile header: NANC in [31:16] and OVFC in [15:0], both saturating (R37). -/
def stickyAdd (th nans ovfs : Nat) : Nat :=
  min 65535 (bitsAt th 16 16 + nans) * 2 ^ 16 + min 65535 (bitsAt th 0 16 + ovfs)

/-- CountSticky: what one promotion adds to NANC and OVFC (R37). -/
def countSticky (old acc : Nat) (partial_ : FV) : Nat × Nat :=
  let o := decodeF .f32 old
  let a := decodeF .f32 acc
  ((!o.isNan && a.isNan).toNat, (a.isInf && o.isFin && partial_.isFin).toNat)

/-- State of the accumulation of one element: the f32 accumulator, the FA26 partial sum, the groups since the last
promotion, and the two counts (R36). -/
structure AccSt where
  acc : Nat
  part : FV
  count : Nat
  nans : Nat
  ovfs : Nat
  deriving DecidableEq, Repr

/-- One group of the accumulation; `last` marks the last group (R36). -/
def accStep (P : Nat) (last : Bool) (st : AccSt) (g : List (FV × FV)) : AccSt :=
  let p := accFa26 st.part (groupSum g)
  if st.count + 1 = P ∨ last = true then
    let acc := accF32 st.acc p
    let (n, o) := countSticky st.acc acc p
    { acc := acc, part := .fin false 0 0, count := 0, nans := st.nans + n, ovfs := st.ovfs + o }
  else { st with part := p, count := st.count + 1 }

/-- All groups in ascending k (R36). -/
def accGroups (P : Nat) : AccSt → List (List (FV × FV)) → AccSt
  | st, [] => st
  | st, [g] => accStep P true st g
  | st, g :: gs => accGroups P (accStep P false st g) gs

/-! ### The window accumulator (R38, R39) -/

/-- W as a signed multiple of 2^-160, and its three sticky bits (R38). -/
structure WinAcc where
  w : BitVec 384
  nan : Bool
  pinf : Bool
  minf : Bool
  deriving DecidableEq, Repr

def WinAcc.clear : WinAcc := ⟨0, false, false, false⟩

/-- The 512-bit image a window is saved as (R38). -/
def WinAcc.image (a : WinAcc) : Nat :=
  a.w.toNat + a.nan.toNat * 2 ^ 384 + a.pinf.toNat * 2 ^ 385 + a.minf.toNat * 2 ^ 386

/-- The window that an image holds. -/
def WinAcc.ofImage (n : Nat) : WinAcc :=
  ⟨BitVec.ofNat 384 n, bitsAt n 384 1 == 1, bitsAt n 385 1 == 1, bitsAt n 386 1 == 1⟩

/-- ADDW of one value (R39). -/
def WinAcc.add (a : WinAcc) (v : FV) : WinAcc :=
  match v with
  | .nan _ => { a with nan := true }
  | .inf s => if s then { a with minf := true } else { a with pinf := true }
  | .fin .. => { a with w := a.w + BitVec.ofInt 384 (v.scale 160 |>.unitsAt 0) }

/-- RNDW (R39). -/
def WinAcc.round (a : WinAcc) : Nat :=
  if a.nan || (a.pinf && a.minf) then FmtF.f32.nanCode
  else if a.pinf then FmtF.f32.infCode
  else if a.minf then FmtF.f32.signed true FmtF.f32.infCode
  else roundTo .f32 .rne 0 (ofUnits (-160) false a.w.toInt)

/-- The type of an ADDW operand (R157). -/
def addwFmt : AddwType → FmtF
  | .f32 => .f32 | .bf16 => .bf16 | .f16 => .f16 | .e4m3 => .e4m3 | .e5m2 => .e5m2

/-! ### The mark word (R40 to R43) -/

/-- Fade_k (R41). -/
def fade (k v : Nat) : Nat := v * (16 - k) / 16

/-- Fade_k applied n times (R41). -/
def fadeN (k : Nat) : Nat → Nat → Nat
  | 0, v => v
  | n + 1, v => fadeN k n (fade k v)

/-- MarkAt(word, T, k) (R42). -/
def markAt (word T k : Nat) : Nat :=
  let e := wrapTo 16 ((T : Int) - bitsAt word 0 16)
  let v := bitsAt word 16 16
  if k = 0 then v else if 255 ≤ e then 0 else fadeN k e v

/-- A mark word of magnitude v stamped with tick T (R40). -/
def markWord (v T : Nat) : Nat := v % 2 ^ 16 * 2 ^ 16 + T % 2 ^ 16

/-- Combine (R43). -/
def markCombine (c : Cmb) (v d : Nat) : Nat :=
  match c with
  | .add => min (v + d) 65535
  | .max => max v d
  | .set => d

/-- The result layout of DEP, MRD and SENSE (R149). -/
def markResult (cnt idx T val : Nat) : Nat :=
  cnt % 2 ^ 16 * 2 ^ 48 + idx % 2 ^ 16 * 2 ^ 32 + T % 2 ^ 16 * 2 ^ 16 + val % 2 ^ 16

/-- The number of positions of a window (R152). -/
def windowSize : Window → Nat
  | .run len => if len = 0 then 16 else len.val
  | .cross => 5 | .box3 => 9 | .box5 => 25

/-- The row and column offset of position i of a window (R152). -/
def windowOffset (w : Window) (i : Nat) : Int × Int :=
  match w with
  | .run _ => (0, (i : Int))
  | .cross => (match i with | 0 => (-1, 0) | 1 => (0, -1) | 2 => (0, 0) | 3 => (0, 1) | _ => (1, 0))
  | .box3 => ((i / 3 : Nat) - 1, (i % 3 : Nat) - 1)
  | .box5 => ((i / 5 : Nat) - 2, (i % 5 : Nat) - 2)

/-- The cell a position names: absent outside a field that does not wrap (R152). -/
def windowCell (rows cols : Nat) (wrapF : Bool) (row col : Nat) (off : Int × Int) : Option (Nat × Nat) :=
  let r := (row : Int) + off.1
  let c := (col : Int) + off.2
  if wrapF then some ((r % (rows : Int)).toNat, (c % (cols : Int)).toNat)
  else if 0 ≤ r ∧ r < rows ∧ 0 ≤ c ∧ c < cols then some (r.toNat, c.toNat)
  else none

/-- The choice among the positions of a window: the best value, how many positions hold it, and the index chosen,
scanning from `start` (R153). Absent positions are none. -/
def senseChoose (vals : List (Option Nat)) (start : Nat) : Nat × Nat × Nat :=
  let present := vals.filterMap id
  let best := present.foldl max 0
  let cnt := (present.filter (· == best)).length
  let n := vals.length
  let order := (List.range n).map fun i => (start + i) % n
  let idx := (order.find? fun i => vals.getD i none == some best).getD 0
  (best, cnt, idx)

end Sys2Proof.Machine
end

