-- ==== Sys2Proof/Config.lean ====
section
/-! DEFINITION. What the spec leaves to an implementation or leaves without a value: opaque constants, so that nothing can
be proved about their values. The counter `draw` that most of them are applied to is a field of State (log 3). -/

namespace Sys2Proof

/-- What a peer device does to a line that is homed on this device, through a page of its own, under the key slot that its page
names (13 R246; 21 R338). -/
inductive PeerAccess where
  | read (key pa w : Nat)
  | write (key pa w v : Nat)
  | amo (key pa : Nat) (f : AmoArg) (b : Nat)
  | cas (key pa : Nat) (t : VType) (cmp new : Nat)
  deriving DecidableEq, Repr, Inhabited

/-- A virtual range that a tenant has reserved for first touch: its granules, the key slot of their frames, and the bytes of the
backing images that it has registered for some of them (27 R368). -/
structure TouchRange where
  first : Nat
  count : Nat
  key : Nat
  images : List (Nat × List Nat)
  deriving DecidableEq, Repr, Inhabited

/-- What happens next (log 2): a cycle of a core, in which an access may stay in flight and may meet an uncorrectable soft
error; a reference tick; a step of the device; an access by a peer device; a change that the service makes of the cores and
granules of a partition (20 R326); a session that it sets up (21 R343); or its watch over a partition's fault buffer: set up, woken by its
monitor, and its pass over the first-touch faults (27 R368). -/
inductive Choice where
  | cycle (core : Nat) (inFlight err : Bool)
  | tick
  | event (e : Instr)
  | peer (a : PeerAccess)
  | recore (ptag : Nat) (cores : List Nat) (granules : List (Nat × Nat))
  | uePost (p core slot pa key w : Nat)
  | ueSend (p : Nat)
  | session (tenant nonce : Nat)
  | watch (ptag : Nat)
  | touchWake (ptag : Nat)
  | firstTouch (ptag : Nat) (ranges : List TouchRange) (copies : List (Nat × Nat)) (frames tables : List Nat)
  deriving DecidableEq, Repr, Inhabited

/-- FREE VALUE (log 2): what happens next when the agenda names nothing. The spec orders cycles, ticks and steps only where
a rule says so. -/
opaque Config.choice (draw : Nat) : Choice

/-- FREE VALUE (log 3): the mark of a line as contended by its home slice's predictor (07 R142). -/
opaque Config.contended (draw line : Nat) : Bool

/-- FREE VALUE (log 3): the home slice of a line (01 R18 gives no address map). -/
opaque Config.homeSlice (line : Nat) : Fin 256

/-- FREE VALUE (log 3): crossbar waits counted at one access (06 R122, R123). -/
opaque Config.crossbarWaits (draw : Nat) : Nat

/-- FREE VALUE (log 3): a value the spec leaves open, by counter and place. -/
opaque Config.freeWord (draw i : Nat) : Nat

/-- FREE VALUE (log 9): what a tile element holds after a matrix job that stopped on a fault: 0 its value before the
job, 1 the value zi gave it, otherwise the value the job completed (08 R372). -/
opaque Config.faultedElement (draw i j : Nat) : Nat

/-- FREE VALUE (log 10): the bytes of an ingot's plaintext, whose layout the spec does not give (20 R330). -/
opaque Config.ingotByte (draw i : Nat) : Byte

/-- FREE VALUE (log 11): the public key a tenant has registered for an identifier, if it has registered one; algorithm 0 is
Ed25519 and 1 is ML-DSA-65 (10 R225, 20 R334). -/
opaque Config.publicKey (alg tenant keyId : Nat) : Option Nat

/-- FREE VALUE (log 11): the public keys whose digests are fused in the root of trust, by algorithm (23 R359). -/
opaque Config.firmwareKey (alg : Nat) : Nat

/-- FREE VALUE (log 11): the public keys of this device's two identity key pairs, by algorithm (23 R360). -/
opaque Config.identityKey (alg : Nat) : Nat

/-- FREE VALUE (log 11): the signature over some bits under this device's identity key pair, by algorithm (23 R360). -/
opaque Config.identitySignature (alg bits : Nat) : Nat

/-- FREE VALUE (log 11): the fused minimum of the firmware's security version (23 R359). -/
opaque Config.minSvn : Nat

/-- FREE VALUE (log 11): this device's number in the fabric less 1, which the resident service assigns (21 R335). -/
opaque Config.deviceIndex : Fin 255

/-- This device's number in the fabric, 1 to 255 (21 R335). -/
def Config.deviceNumber : Nat := Config.deviceIndex.val + 1

end Sys2Proof
end

