-- ==== Sys2Proof/Machine/Map.lean ====
section
/-! DEFINITION. Finite maps as plain data: lists of key and value, and memory as a list of bytes in canonical form
(03 R44). -/

namespace Sys2Proof.Machine

/-- A finite map by natural key; the first entry of a key counts. -/
abbrev NMap (α : Type) := List (Nat × α)

/-- The value at a key. -/
def nget? {α : Type} : NMap α → Nat → Option α
  | [], _ => none
  | (i, a) :: m, k => if i = k then some a else nget? m k

/-- The value at a key, or a default. -/
def nget {α : Type} (m : NMap α) (d : α) (k : Nat) : α := (nget? m k).getD d

/-- The map with a value at a key; keys of a map built by it rise. -/
def nset {α : Type} : NMap α → Nat → α → NMap α
  | [], k, v => [(k, v)]
  | (i, a) :: m, k, v => if i = k then (k, v) :: m else if k < i then (k, v) :: (i, a) :: m else (i, a) :: nset m k v

/-- The map without a key. -/
def nerase {α : Type} (m : NMap α) (k : Nat) : NMap α := m.filter fun e => e.1 != k

/-- Memory: bytes by byte address. An unlisted byte reads 0. -/
abbrev Memory := List Host.Cell

/-- The byte at a byte address. What an unlisted byte reads as is the model's choice (log 4). -/
def Memory.read (m : Memory) (a : Nat) : Byte := nget m 0 a

/-- A byte written; writing 0 removes the entry, so that equal memories are equal data. -/
def Memory.write (m : Memory) (a : Nat) (b : Byte) : Memory := if b = 0 then nerase m a else nset m a b

/-- Addresses strictly rising, and no listed byte equal to what an unlisted byte reads as. -/
def Memory.wf : Memory → Bool
  | [] => true
  | [(_, b)] => b != 0
  | (a, b) :: (a', b') :: m => b != 0 && decide (a < a') && Memory.wf ((a', b') :: m)

/-- n bytes from byte address b as a natural number, the first byte lowest (R44). -/
def Memory.bytes (m : Memory) (b : Nat) : Nat → Nat
  | 0 => 0
  | n + 1 => (m.read b).toNat + 2 ^ 8 * Memory.bytes m (b + 1) n

/-- n bytes written from byte address b. -/
def Memory.setBytes (m : Memory) (b : Nat) : Nat → Nat → Memory
  | 0, _ => m
  | n + 1, v => Memory.setBytes (m.write b (BitVec.ofNat 8 v)) (b + 1) n (v / 2 ^ 8)

/-- How many bytes hold the w bits at bit address a. -/
def byteSpan (a w : Nat) : Nat := (a % 8 + w + 7) / 8

/-- The w bits at bit address a: bit i of the result is memory bit a + i (R44). -/
def Memory.bits (m : Memory) (a w : Nat) : Nat := bitsAt (m.bytes (a / 8) (byteSpan a w)) (a % 8) w

/-- The w bits at bit address a written with the low bits of v, and no other bit (R44). -/
def Memory.setBits (m : Memory) (a w v : Nat) : Memory :=
  m.setBytes (a / 8) (byteSpan a w) (Machine.setBits (m.bytes (a / 8) (byteSpan a w)) (a % 8) w v)

end Sys2Proof.Machine
end

