-- ==== Sys2Proof/Machine/State.lean ====
section
/-! DEFINITION. The state of the package, as plain data: everything the spec gives the machine, and the few fields the
model adds (each said to be the MODEL'S OWN, with the log entry that names it). State.reset is the machine at power-good,
before start-up (23 R356). -/

namespace Sys2Proof.Machine

/-- Why the machine stops. -/
inductive Fault where
  /-- The package has no supply: thermal state OFF or a power loss (22 R354). Raised by `step` alone. SAFE: without
  supply nothing runs. -/
  | supplyOff
  deriving DecidableEq, Repr

/-- Why the model gives no meaning. -/
inductive Refusal where
  /-- An instruction without a meaning yet, by its mnemonic. Raised by the dispatch alone. SAFE. -/
  | notModelled (mnemonic : String)
  deriving DecidableEq, Repr

/-! ### Records of work -/

/-- KIND of a continuation record (R186). -/
inductive RecKind where
  | plain | range | stage
  deriving DecidableEq, Repr

/-- What a stage strand holds from its spawn to its exit (R290): partition tag is its core's. -/
structure StageHold where
  queue : Nat
  epoch : Nat
  area  : Nat
  deriving DecidableEq, Repr

/-- A continuation record (R186). `checkTgt` marks a record whose TGT bit is checked when first resident (R69);
`agedAt` is when its wait, or its last aging, began (R265); `joinCore` is where its strand issued the JOIN (R193).
`sid` and `stage` are the MODEL'S OWN (log 7): the strand's identity and what a stage strand holds. -/
structure Rec where
  pc    : Word := 0
  fp    : Word := 0
  g1    : Word := 0
  g2    : Word := 0
  g3    : Word := 0
  g4    : Word := 0
  g5    : Word := 0
  node  : Nat := 0
  grain : Nat := 0
  pri   : Nat := 0
  kind  : RecKind := .plain
  waiting : Bool := false
  kidx  : Nat := 0
  checkTgt : Bool := false
  agedAt : Nat := 0
  joinCore : Nat := 0
  sid   : Nat := 0
  stage : Option StageHold := none
  deriving DecidableEq, Repr

/-- Place of a strand: core and slot. -/
structure Place where
  core : Nat
  slot : Nat
  deriving DecidableEq, Repr

/-! ### Memory operations that may wait -/

/-- Where a value read from memory goes. -/
inductive Dst where
  | none
  | g (r : Fin 64)
  | v (r : Fin 32)
  deriving DecidableEq, Repr

/-- An atomic: AMO or RED with its operand, or CAS with comparand and new value (R139, R140). -/
inductive AtomicFn where
  | amo (f : AmoArg) (b : Nat)
  | cas (t : VType) (cmp new : Nat)
  deriving DecidableEq, Repr

/-- The element types, conversion and program of a CHAIN element, and its value once it is loaded (R125, R126). -/
structure ChainOp where
  d : Fin 64
  a : Fin 64
  b : Fin 64
  sty : CvtType
  dty : CvtType
  rnd : Rnd
  prop : Bool
  srcPool : Bool
  dstPool : Bool
  prog : List Nat
  got : Option Nat := none
  deriving DecidableEq, Repr

/-- One single-copy-atomic part of an access: physical bit address, width, key slot, and the leaf entry it went through
(R53, R308). -/
structure Part where
  pa : Nat
  w  : Nat
  key : Nat
  leaf : Nat
  deriving DecidableEq, Repr

/-- A part of an access that lies in part on this device and in part on peers, or on several peers (R53, R246): its
effective address, where it is, the peer that holds it, and what is stored there. -/
structure Leg where
  ea : Nat
  part : Part
  dev : Option Nat
  val : Nat := 0
  deriving DecidableEq, Repr

/-- What follows when the last leg is done. -/
inductive AfterLegs where
  | load (w : Nat) (sx : Bool) (dst : Dst)
  | store (ea w : Nat)
  | chainLoad (c : ChainOp)
  | chainStore (c : ChainOp)
  | arrget (dst : Dst) (n ea k : Nat)
  deriving DecidableEq, Repr

/-- What a strand asks of memory, with every operand read (07, 06 R126, 09 R202, 04 R66). `legs` is an access whose parts
lie in several places, with the values its parts have given so far. -/
inductive MemOp where
  | load (ea w : Nat) (sx : Bool) (dst : Dst)
  | store (ea w val : Nat)
  | atomic (ea w : Nat) (fn : AtomicFn) (dst : Dst)
  | red (ea w : Nat) (fn : AtomicFn)
  | dep (ea d : Nat) (cmb : Cmb) (dst : Dst)
  | mrd (ea : Nat) (dst : Dst)
  | sense (ea : Nat) (win : Window) (rot : Bool) (dst : Dst)
  | tickr (ea : Nat) (dst : Dst)
  | tadv (ea : Nat) (dst : Dst)
  | marm (ea w mon : Nat)
  | chain (c : ChainOp)
  | arrget (arr key ea max : Nat) (dst : Dst)
  | fetch (pc : Nat) (again : Bool)
  | legs (ea : Nat) (todo : List Leg) (got : List (Nat × Nat)) (k : AfterLegs)
  deriving DecidableEq, Repr

/-- A memory operation with its ordering and its space: global, or the core's pool (R131, R132). `err` says of one that waits
whether what it reads will meet an uncorrectable soft error (R134; log 18), and `fails` of a CAS on its way to a peer that its
comparand will not match there (R140; log 84). -/
structure MemReq where
  op : MemOp
  ord : Ord := .rlx
  sc : Scope := .pa
  pool : Bool := false
  err : Bool := false
  fails : Bool := false
  deriving DecidableEq, Repr

/-- A page translation, as a TLB holds it (R308, R310): the virtual page `base` of `size` bits, the frame, the key's
slot, kind 0 so, 1 rc, 2 un, the rights, the peer device, and where its leaf lies. -/
structure Xlat where
  tag  : Nat
  base : Nat
  size : Nat
  frame : Nat
  key  : Nat
  kind : Nat
  xr : Bool
  wr : Bool
  rd : Bool
  peer : Bool
  dev : Nat
  leaf : Nat
  dirty : Bool
  deriving DecidableEq, Repr

/-- What an access in flight does at the home slice, or in its core's pool. A load holds the values of the parts it has
read, a store of w bits the values of the parts that are still to be written, and `ack` says that the strand waits for it
(R53). A mark operation names its field and the launch the field belongs to, and a SENSE its cells by address and part. -/
inductive ReqOp where
  | read (w : Nat) (sx : Bool) (dst : Dst) (got : List (Option Nat))
  | write (w : Nat) (vals : List Nat) (ack : Bool)
  | poolRead (w : Nat) (sx : Bool) (dst : Dst) (parts : List (Nat × Nat)) (got : List (Option Nat))
  | poolWrite (todo : List (Nat × Nat × Nat))
  | atomic (fn : AtomicFn) (dst : Dst)
  | dep (tag fid launch d : Nat) (cmb : Cmb) (dst : Dst)
  | mrd (tag fid launch : Nat) (dst : Dst)
  | sense (tag fid launch : Nat) (pinned : Option Nat) (todo : List (Option (Nat × Part))) (vals : List (Option Nat))
      (start : Nat) (dst : Dst)
  deriving DecidableEq, Repr

/-- A release that passed an access in flight: its scope and the strand that made it (R236, R237). -/
structure Mark where
  sc : Scope
  core : Nat
  sid : Nat
  deriving DecidableEq, Repr

/-- The copy-unit command whose element an access under way writes: its core, number, tag and scope. The write is visible once it is
performed, at the latest when a wait on the tag acquires it (13 R249; log 39). -/
structure CopyMark where
  core : Nat
  id : Nat
  tag : Nat
  sc : Scope
  deriving DecidableEq, Repr

/-- An access on its way to its home slice (01 R15, R18), with the scope it was made at, the releases that have passed it,
and the strands that have read it in the core's L1 (12 R232, R236, R237). `acq` says of a RED that its strand's later accesses come
after it (R236), and `copy` marks a write of an engine. -/
structure Req where
  slot : Nat
  sid  : Nat
  ea   : Nat
  parts : List Part
  op   : ReqOp
  unPage : Bool
  sc : Scope := .pa
  acq : Bool := false
  copy : Option CopyMark := none
  marks : List Mark := []
  readBy : List Nat := []
  deriving DecidableEq, Repr

/-- How a peer request ends: a value, or a trap's code (R338). -/
inductive PeerEnd where
  | value (v : Nat)
  | trap (code : Nat)
  deriving DecidableEq, Repr

/-- A reply on its way to its core, or in its inbox (R328): a value, which a clamp's wake-up is too, a trap, the end of an access to
a peer, or a steal's reply with the record it brings. -/
inductive Reply where
  | value (slot sid : Nat) (dst : Dst) (val : Nat)
  | trap (slot sid : Nat) (code tval : Nat)
  | peer (slot sid : Nat) (q : MemReq) (r : PeerEnd)
  | steal (slot : Option (Nat × Nat)) (out : Nat) (r : Option Rec)
  deriving DecidableEq, Repr

/-! ### Engine commands -/

/-- A tensor descriptor (R159). -/
structure TDesc where
  base : Nat := 0
  rstr : Nat := 0
  rows : Nat := 0
  cols : Nat := 0
  core : Nat := 0
  sexp : Int := 0
  space : Nat := 0
  fmt : Nat := 0
  rsvd : Nat := 0
  valid : Bool := false
  deriving DecidableEq, Repr

/-- The class of an engine command (08). -/
inductive CmdKind where
  | copy | copyv | wmark | mdld | mac | cvt
  deriving DecidableEq, Repr

/-- State of a command place (R281). -/
inductive CmdSt where
  | held | running | done | parked
  deriving DecidableEq, Repr

/-- Where a remote matrix job stands (R177): its way to the engine, waiting for a remote place, holding one. -/
inductive Remote where
  | no
  | onWay (cluster : Nat) (cap : Nat)
  | waiting (cluster : Nat) (cap : Nat)
  | placed (cluster : Nat) (cap : Nat)
  deriving DecidableEq, Repr

/-- What a command has done so far: elements written, or the row block and groups of a matrix job with the partial sums of
its rows and the tile as the job found it, or the record a completed one leaves, or of a copy the source elements of the blocks it
has yet to write; the peer answers its present element has had, and the peer request it waits for; `pos` is the tile position of the
element that a command stalled at; `ended` when its last step has
ended, with the fault that stopped it as code, row and column, or `failed` for a COPYV whose compare failed. -/
structure Progress where
  started : Bool := false
  compared : Bool := false
  element : Nat := 0
  rowBlock : Nat := 0
  group : Nat := 0
  reserved : Bool := false
  reserveFrom : Option Nat := none
  ended : Bool := false
  failed : Bool := false
  fault : Option (Nat × Nat × Nat) := none
  saved : List Nat := []
  answers : List Nat := []
  asked : Option Nat := none
  pos : Nat × Nat := (0, 0)
  deriving DecidableEq, Repr

/-- A command in a place of q0 or q1, with everything it captured at issue (R158, R182). `id` counts the core's commands
of the class without wrapping; the job identifier is its low 16 bits. -/
structure Cmd where
  kind : CmdKind
  id   : Nat
  core : Nat
  slot : Nat
  sid  : Nat
  node : Nat
  launch : Nat
  kidx : Nat
  pri  : Nat
  tag  : Nat := 0
  op   : Nat
  m    : Nat
  xo   : Nat := 0
  ta   : Nat
  tb   : Nat := 0
  opa  : Nat
  opb  : Nat
  opc  : Nat := 0
  lm   : Nat
  ln   : Nat
  lk   : Nat := 0
  vlm  : Nat := 0
  vln  : Nat := 0
  vlk  : Nat := 0
  da   : TDesc := {}
  db   : TDesc := {}
  pc   : Nat
  sc   : Scope := .co
  remote : Remote := .no
  entry : Option (Nat × Nat) := none
  chGen : Nat := 0
  st   : CmdSt := .held
  prog : Progress := {}
  aged : Nat := 0
  agedAt : Nat := 0
  readyAt : Nat := 0
  ready : Bool := false
  prop : Bool := false
  failSince : Option Nat := none
  stalled : Bool := false
  deriving DecidableEq, Repr

/-- A delayed fault with its operand record, pending against the strand `sid` (R180 to R182, R200). `tag` is the tag of a
copy-unit command, `job` the command number of a matrix job; both none for a delta fault. -/
structure Pending where
  core : Nat
  sid  : Nat
  tag  : Option Nat
  job  : Option Nat
  code : Nat
  tval : Nat
  record : Nat
  recordBits : Nat
  deriving DecidableEq, Repr

/-- A result record in q0's result side (R176). -/
structure Result where
  sid : Nat
  job : Nat
  word : Nat
  deriving DecidableEq, Repr

/-- A delta record (R200). -/
structure DRec where
  epoch : Nat
  mult  : Int
  value : Nat
  key   : Nat
  deriving DecidableEq, Repr

/-- A push in a place of q2, on its way to the buffer (R200), with its place among its strand's (R367). -/
structure Push where
  sid  : Nat
  slot : Nat
  node : Nat
  kidx : Nat
  tag  : Nat
  queue : Nat
  drec : DRec
  seq : Nat := 0
  deriving DecidableEq, Repr

/-! ### Strands -/

/-- A monitor (R144): its space (global physical, or the core's pool), bit address and width. -/
inductive Monitor where
  | disarmed
  | armed (pool : Bool) (a w : Nat)
  | fired
  deriving DecidableEq, Repr

/-- What a resident strand sleeps at. Its pc stays at the instruction. At `reds` it waits for REDs under way, and at `retire` it
retires, with its cause, once its REDs at peers are performed (R141, R194). -/
inductive Wait where
  | waita (since timeout : Nat) (d : Fin 64)
  | twait (mask : Nat)
  | mwait (d : Fin 64)
  | commandPlace (cmd : Cmd) (d : Fin 64)
  | pushPlace (p : Push)
  | watermark (q : MemReq)
  | translate (q : MemReq)
  | access
  | peer (q : MemReq) (id : Nat)
  | lvlwait (node : Nat) (d : Fin 64) (res : Option Nat)
  | clamp (c : Nat) (d : Fin 64) (rel : Option Word)
  | launch (launch : Nat) (d : Fin 64)
  | dqpop (queue : Nat) (d : Fin 32)
  | qwait (node epoch : Nat)
  | mclr (hdr : Nat) (jobs : List Nat)
  | tlbinv (tag : Nat) (page : Option Nat)
  | seal (d : Fin 64) (tag root chain : Nat) (ea : Nat)
  | unseal (d : Fin 64) (tag root chain : Nat) (ea : Nat)
  | steal (d : Fin 64) (idx tck val : Nat)
  | tadv (fid : Nat) (d : Fin 64)
  | refetch (line : Nat)
  | reds
  | retire (cause : Option (Nat × Nat))
  deriving DecidableEq, Repr

inductive Status where
  | ready
  | asleep (w : Wait)
  deriving DecidableEq, Repr

/-- A resident strand (01 R15, 04 R77, 09 R187, R204, R205). A strand that is not `live` is an empty slot. `readySince` is
the core cycle in which it became ready or last issued, `issued` whether it has issued in this reference tick, `eligible`
the ticks its progress check has counted and `reported` whether it has reported (14 R267, R268); `tgtPending` marks a TGT check left to the fetch, and `badLine` is a target's line on a peer that failed parity
twice (R69). `redFault` is a fault of a RED at a peer that the strand has still to take, as code, address and PC (R338;
log 20). -/
structure Strand where
  live : Bool := false
  pc   : Word := 0
  g    : Vector Word 64 := Vector.replicate 64 0
  v    : Vector VWord 32 := Vector.replicate 32 0
  k    : Vector Bool 8 := Vector.replicate 8 false
  j    : Vector (BitVec 16) 8 := Vector.replicate 8 0
  frame : Word := 0
  node  : Nat := 0
  rlo   : Word := 0
  rhi   : Word := 0
  srstate : BitVec 32 := 1
  intrap : Bool := false
  cause : BitVec 10 := 0
  epc   : Word := 0
  tval  : VWord := 0
  tvec  : Word := 0
  eopd  : Word := 0
  kind  : RecKind := .plain
  pri   : Nat := 0
  kidx  : Nat := 0
  grain : Nat := 0
  entry : Rec := {}
  stage : Option StageHold := none
  mon   : Vector Monitor 4 := Vector.replicate 4 .disarmed
  status : Status := .ready
  readySince : Nat := 0
  eligible : Nat := 0
  tgtPending : Bool := false
  badLine : Option Nat := none
  redFault : Option (Nat × Nat × Word) := none
  issued : Bool := false
  reported : Bool := false
  sid   : Nat := 0
  deriving DecidableEq, Repr

/-! ### Cores, clusters and dies -/

/-- A watermark channel (R167). `written` holds the bits written since the last write of the register, as ranges; `gen`
tells WMARKs issued before that write. -/
structure Channel where
  base : Nat := 0
  len  : Nat := 0
  fill : Nat := 0
  gen  : Nat := 0
  written : List (Nat × Nat) := []
  deriving DecidableEq, Repr

/-- The run of a static copy schedule (R168): its slots, the passes released and started of each entry. -/
structure Schedule where
  slots : List Nat := []
  released : NMap Nat := []
  started : Nat := 0
  deriving DecidableEq, Repr

/-- A burst declared by MBURST (R179): jobs left and the tick since which none was pending. -/
structure Burst where
  left : Nat
  idleSince : Nat
  deriving DecidableEq, Repr

/-- A core (01 R15) with its FDUTY and the duty in effect in this group of 16 cycles (22 R345), its pool, queues and per-core registers. A core's number is its key. `simd` names
the strand whose CHAIN holds the SIMD unit, with the CHAIN's PC (06 R127). -/
structure CoreSt where
  tag  : Nat := 0
  launch : Nat := 0
  pword : BitVec 32 := 0
  gcount : Nat := 64
  vcount : Nat := 32
  spc  : Nat := 0
  srseed : Nat := 0
  tvec : Word := 0
  eopd : Word := 0
  kidx : Nat := 0
  fduty : Nat := 16
  fdutyNow : Nat := 16
  cycles : Nat := 0
  clockPaused : Bool := true
  pool : Memory := []
  side : Memory := []
  tags : BitVec 64 := 0
  out  : NMap Nat := []
  vfail : BitVec 64 := 0
  xbwait : Word := 0
  acnt : Word := 0
  wch  : Vector Channel 4 := Vector.replicate 4 {}
  th   : Vector (BitVec 32) 8 := Vector.replicate 8 0
  lmat : Vector (BitVec 32) 8 := Vector.replicate 8 0
  lcp  : Vector (BitVec 32) 8 := Vector.replicate 8 0
  win  : WinAcc := WinAcc.clear
  deque : List Rec := []
  ring : List Rec := []
  q0   : List Cmd := []
  res  : List Result := []
  doneQ : List Result := []
  q1   : List Cmd := []
  q2   : List Push := []
  nextMat : Nat := 0
  nextCp : Nat := 0
  sched : Schedule := {}
  tlb  : List Xlat := []
  icache : NMap Nat := []
  requests : List Req := []
  reds : List Req := []
  inbox : List Reply := []
  parked : Bool := false
  privc : Nat := 0
  lastSteal : Option Nat := none
  stealing : Bool := false
  burst : Option Burst := none
  simd : Option (Nat × Word) := none
  filling : Nat := 0
  vcore : Nat := 800
  terr : Nat := 0
  deriving DecidableEq, Repr

/-- A cluster: B store, granule holders, copy unit and matrix engine (01 R13, 08 R177, 14 R269 to R271). `runCopy` and
`runMat` name the command chosen for the next step: issuing core and command number; `noPass` that no job passed the
budget check since the last division. -/
structure Cluster where
  bstore : Memory := []
  granules : NMap Nat := []
  epoch : Nat := 0
  capKey : BitVec 256 := 0
  remoteQ : List (Nat × Nat) := []
  remotePlaces : List (Nat × Nat) := []
  runCopy : Option (Nat × Nat) := none
  runMat : Option (Nat × Nat) := none
  rampClass : Option Nat := none
  noPass : Bool := false
  deriving DecidableEq, Repr

/-- An access that waits on a page (R311): a strand, or an engine command of a core. -/
inductive Member where
  | strand (core slot sid : Nat)
  | engine (core : Nat) (mat : Bool) (id : Nat)
  deriving DecidableEq, Repr

/-- A miss group of a die's second-level TLB (R311, R312): partition tag, 64 KiB granule, its accesses in order of
arrival, what the first one asked, its walk, and whether it holds a page-request entry: only a group whose walk has missed does
(R312). -/
structure Group where
  tag  : Nat
  granule : Nat
  va   : Nat
  core : Nat
  src  : Nat
  job  : Nat
  members : List Member
  walking : Bool
  retry : Bool
  held : Bool := false
  deriving DecidableEq, Repr

/-- An entry of an error log or of a fault buffer (R314, R321). -/
structure LogEntry where
  va  : Nat := 0
  core : Nat := 0
  src : Nat := 0
  wlvl : Nat := 0
  bad : Bool := false
  job : Nat := 0
  seq : Nat := 0
  deriving DecidableEq, Repr

/-- A fault buffer or an error log (R313, R321): the entries as last written, how many count, and the header's flags. -/
structure FaultBuf where
  entries : NMap LogEntry := []
  nrec : Nat := 0
  drop : Bool := false
  lost : Nat := 0
  seq  : Nat := 0
  deriving DecidableEq, Repr

/-- A Grimet die: second-level TLB, page-request queue, misses waiting for an entry, error log, engine-pool budget
(19 R310 to R312, R321; 14 R271). -/
structure Die where
  tlb : List Xlat := []
  groups : List Group := []
  waiting : List Group := []
  log : FaultBuf := {}
  grant : Nat := 0
  deriving DecidableEq, Repr

/-! ### Partitions -/

/-- STATUS of a level node (R273). -/
inductive NodeSt where
  | opened | draining | complete | cancelled
  deriving DecidableEq, Repr

/-- A level node (R273). LVL: 0 unit, 1 launch, 2 graph, 3 phase, 4 job. `held` are the records waiting at JOIN, and
`room` and `handlers` the records that wait for room on a deque, with their cores (R193, R284). `line` is the nearest ancestor whose
entry remains, once the parent's has been returned; `owed` says that a cancel flag is on its way from an ancestor whose entry has been
returned, and `cfCore` which core issued the CANCEL that set the flag (R193, R276, R278). -/
structure Node where
  hpc : Word := 0
  ftval : Nat := 0
  cnt : Nat := 0
  parent : Nat := 0
  lvl : Nat := 0
  status : NodeSt := .opened
  cf : Bool := false
  cfCore : Option Nat := none
  owed : Bool := false
  line : Nat := 0
  fcause : Nat := 0
  ncause : Nat := 0
  held : List Rec := []
  room : List (Nat × Rec) := []
  handlers : List (Nat × Rec) := []
  deriving DecidableEq, Repr

/-- The jig of a kernel (R223), its tables as the raw entries of the section. -/
structure Jig where
  feat : Nat := 0
  entry : Word := 0
  tvec : Word := 0
  eopd : Word := 0
  pword : BitVec 32 := 0
  srseed : Nat := 0
  gcount : Nat := 8
  vcount : Nat := 0
  spc : Nat := 1
  rsvd : Bool := false
  recs : List Nat := []
  tensors : List Nat := []
  fields : List Nat := []
  queues : List Nat := []
  sched : List Nat := []
  deriving DecidableEq, Repr

/-- State of a kernel (R255); one that is absent has no entry. -/
inductive KernelSt where
  | loaded | active | unloading
  deriving DecidableEq, Repr

/-- A loaded kernel: its state and live launches, its jig, its sections' pages and its measurement (R224, R255). -/
structure Kernel where
  st : KernelSt := .loaded
  live : Nat := 0
  jig : Jig := {}
  pages : List Nat := []
  meas : Nat := 0
  deriving DecidableEq, Repr

/-- State of a launch (R263). -/
inductive LaunchSt where
  | pending | running | retiring | retired
  deriving DecidableEq, Repr

/-- A launch: kernel, cores as physical numbers, nodes, and who asked for it: a strand, or a request of a session (14 R257 to R263). -/
structure Launch where
  kidx : Nat
  st : LaunchSt := .pending
  n : Nat
  cores : List Nat := []
  node : Nat
  parent : Nat
  fp : Word := 0
  waiter : Option Place := none
  waiterSid : Nat := 0
  reqid : Option (Nat × Nat) := none
  graph : Option Nat := none
  deriving DecidableEq, Repr

/-- A clamp (R293): the cores counted in the open episode (KIND 1) and the strands that joined it. -/
structure Clamp where
  rel : Word := 0
  kind : Nat := 0
  need : Nat := 0
  arr : Nat := 0
  root : Nat := 0
  counted : List Nat := []
  joined : List (Nat × Nat × Nat) := []
  deriving DecidableEq, Repr

/-- State of a field (R302); one that is retired has no entry. -/
inductive FieldSt where
  | created | live | frozen
  deriving DecidableEq, Repr

/-- A mark field: descriptor (R300), state and tick count (R297), advances that wait, and when cells were last
normalised (R304). -/
structure Field where
  base : Nat := 0
  rows : Nat := 0
  cols : Nat := 0
  fade : Nat := 0
  wrapF : Bool := false
  tsrc : Nat := 0
  targ : Nat := 0
  satv : Nat := 65535
  st : FieldSt := .created
  tick : Nat := 0
  launch : Nat := 0
  due : Nat := 0
  timerAt : Nat := 0
  waiters : List (Nat × Nat × Nat × Fin 64) := []
  norm : NMap Nat := []
  deriving DecidableEq, Repr

/-- A delta queue (16 R287 to R290): buffer entries with the tick of their insertion, ring, batch areas with their
addresses and holders, epochs of live stage strands, whether it carries 1 in its launch node, and its home slice. -/
structure Queue where
  launch : Nat := 0
  stagePc : Nat := 0
  buf : List (DRec × Nat) := []
  ring : List DRec := []
  areas : List Nat := []
  busy : List Nat := []
  live : List Nat := []
  carry : Bool := false
  draining : Bool := false
  home : Nat := 0
  deriving DecidableEq, Repr

/-- An arrangement (R291). -/
structure Arr where
  launch : Nat := 0
  entries : List (Nat × Nat × Int) := []
  deriving DecidableEq, Repr

/-- State of a context (R325). -/
inductive CtxSt where
  | free | empty | idle | active | parking | parked | sealed | resetting
  deriving DecidableEq, Repr

/-- A partition and its context (15 to 20, 21 R339, 22 R347, R348). The logical-core table lists physical numbers in
logical order (R322). `lines` holds, for a node whose entry has been returned, the nearest ancestor whose entry remains, which takes the
causes recorded against it (R280). -/
structure Partn where
  st : CtxSt := .free
  tenant : Nat := 0
  key : Nat := 0
  cores : List Nat := []
  root : Nat := 0
  holdUntil : Nat := 0
  parkReq : Option (Nat × Nat) := none
  nodes : NMap Node := []
  nodeNext : Nat := 1
  nodeFree : List Nat := []
  lines : NMap Nat := []
  tensors : NMap Nat := []
  kernels : NMap Kernel := []
  launches : NMap Launch := []
  launchNext : Nat := 1
  clamps : NMap Clamp := []
  arrivals : List (Nat × Nat × Nat × Nat) := []
  fields : NMap Field := []
  queues : NMap Queue := []
  arrs : NMap Arr := []
  fbuf : FaultBuf := {}
  lfbase : Word := 0
  dbell : Word := 0
  posts : List (Nat × Bool) := []
  vote : NMap Nat := []
  enj : Word := 0
  deriving DecidableEq, Repr

/-- A tenant's quotas and keys (20 R371, R322 to R324). -/
structure Tenant where
  nodeQuota : Nat := 256
  bufferQuota : Nat := 32
  fieldQuota : Nat := 16
  tlbQuota : Nat := 64
  pageQuota : Nat := 2
  active : Bool := false
  deriving DecidableEq, Repr

/-! ### Links, power and start-up -/

/-- State of a scale-up port (R336). -/
inductive PortSt where
  | off | training | up | retrain | failed
  deriving DecidableEq, Repr

/-- A scale-up port (R336, R337): its status word's fields, the replays of one flit in a row, and when it entered its
state. -/
structure Port where
  st : PortSt := .off
  pdev : Nat := 0
  pport : Nat := 0
  rply : Nat := 0
  crce : Nat := 0
  run : Nat := 0
  since : Nat := 0
  deriving DecidableEq, Repr

/-- An Ultra Ethernet port (R342): ready, its drop counter, how many packets of each unfinished message have been delivered, the
messages delivered whole that it has still to report, those it has reported complete (R247), the sends delivered to it, as
whether tagged and payload, the messages posted to it that have not read their buffers, as address, key slot and width, and what has
left it, answers to RMA reads and messages, as width and bits (log 85). -/
structure UePort where
  ready : Bool := false
  drops : Nat := 0
  parts : NMap Nat := []
  pending : Nat := 0
  done : Nat := 0
  received : List (Bool × Nat) := []
  posted : List (Nat × Nat × Nat) := []
  sent : List (Nat × Nat) := []
  deriving DecidableEq, Repr

/-- A request sent to a peer device (R338): the strand it is for, or the command with the tile position of the element, when it
left, and the port that holds it until it has been acknowledged (R336). A strand does not wait for a RED (R141); `pc` is where the
strand stood. -/
structure PeerReq where
  core : Nat
  slot : Nat
  sid : Nat
  engine : Option (Bool × Nat)
  pos : Nat × Nat := (0, 0)
  dev : Nat
  q : MemReq
  at_ : Nat
  red : Bool := false
  pc : Word := 0
  port : Nat := 0
  deriving DecidableEq, Repr

/-- A posted collective of one partition of this device (R339). -/
structure Post where
  tag : Nat
  desc : Nat
  at_ : Nat
  deriving DecidableEq, Repr

/-- A collective group (R339 to R341): its participants by rank, each a device and a partition tag, the SEQ each local
participant posts next, the posts taken, the ranks whose post of a SEQ has ended by itself (WHY 3 or 5), and the ranks whose
collective has failed before they posted to it, with the WHY and DEV that their posts will end with. -/
structure CollGroup where
  ranks : List (Nat × Nat) := []
  nextSeq : NMap Nat := []
  posts : List Post := []
  ended : List (Nat × Nat) := []
  owed : List (Nat × Nat × Nat) := []
  deriving DecidableEq, Repr

/-- Thermal state (R354). -/
inductive Thermal where
  | normal | warn | hot | crit | off
  deriving DecidableEq, Repr

/-- What the I3C port tells the board controller (01 R21; 22 R353, R354). -/
inductive BoardNotice where
  | thermalAlert | alertCleared | heartbeatMissed | supplyRemoved
  deriving DecidableEq, Repr

/-- Power and heat of the package (22): `alert` says that the thermal alert on I3C stands, and `notices` holds what the board
controller has been told, in order. -/
structure Power where
  cap : Nat := 2600
  capNext : Nat := 2600
  thermal : Thermal := .normal
  alert : Bool := false
  notices : List BoardNotice := []
  coolCount : Nat := 0
  halved : Bool := false
  lastDivision : Nat := 0
  lastReport : Nat := 0
  enj0 : Word := 0
  hbWord : Word := 0
  heartbeat : Nat := 0
  deriving DecidableEq, Repr

/-- One entry of the start record (R358). -/
structure StartEntry where
  step : Nat
  unit : Nat
  res : Nat
  tries : Nat
  det : Nat
  tick : Nat
  deriving DecidableEq, Repr

/-- Start-up (23 R356 to R359): whether it has begun and failed into recovery, the ready word, the start record, the outcomes
still to come, the tick of power-good, the firmware's strands and tables, its measurement and security version. -/
structure Boot where
  started : Bool := false
  recovery : Bool := false
  ready : Word := 0
  record : List StartEntry := []
  todo : List UnitOutcome := []
  startAt : Nat := 0
  mgmt : List (Nat × Nat) := []
  svcRoot : Nat := 0
  fwMeasure : Nat := 0
  svn : Nat := 0
  deriving DecidableEq, Repr

/-- The snapshot unit (R362): sequence number, a trigger that waits for its boundary, the boundary
whose values are being latched and those values, and the snapshot that reads show, as pairs of word number and word. -/
structure Snap where
  seq : Nat := 0
  pending : Bool := false
  latchedAt : Option Nat := none
  shadow : NMap Nat := []
  words : NMap Nat := []
  deriving DecidableEq, Repr

/-- State of a counter chain (R332). -/
inductive ChainSt where
  | unbound | held | handed
  deriving DecidableEq, Repr

/-- A SEAL that has written its ingot and not yet committed its counter (R332): its n, its partition, and who issued it: a strand, or
a request. -/
structure SealJob where
  n : Nat
  tag : Nat
  sid : Nat
  reqid : Option (Nat × Nat)
  deriving DecidableEq, Repr

/-- A counter chain (R332), with the SEAL on it that is between its writes and its commit. -/
structure Chain where
  st : ChainSt := .unbound
  hw : Word := 0
  tenant : Nat := 0
  writing : Option SealJob := none
  deriving DecidableEq, Repr

/-- A request of a thief on its way to its victim, and the reply on its way back (R191). -/
structure StealReq where
  thief : Nat
  slot : Option (Nat × Nat)
  victim : Nat
  kidx : Nat
  reply : Option (Nat × Option Rec)
  deriving DecidableEq, Repr

/-- A cause reported to the resident service (15 R280, 22 R346, R354). -/
structure Report where
  code : Nat
  tval : Nat
  tag : Nat
  node : Nat
  deriving DecidableEq, Repr

/-- A response of the resident service (R343): request number, cause and body. -/
structure Response where
  reqid : Nat
  cause : Nat
  body : Nat
  deriving DecidableEq, Repr

/-- A request of a session whose response has not left: whether it has been performed, so that the session's next one may be, and its
cause and body once it has them (R343). -/
structure Asked where
  session : Nat
  reqid : Nat
  performed : Bool
  answer : Option (Nat × Nat) := none
  deriving DecidableEq, Repr

/-- The service's watch over a partition's fault buffer (27 R368): its monitor has fired, and when it woke from it; neither while the
monitor is armed. -/
structure Watch where
  fired : Bool := false
  wokeAt : Option Nat := none
  deriving DecidableEq, Repr

/-- A leaf as an ingot carries it (R330): page address, level, entry, key material, and the bytes of its frame that are not
zero, by offset. -/
structure LeafImg where
  va : Nat
  lvl : Nat
  bits : Nat
  material : Nat
  content : Memory
  deriving DecidableEq, Repr

/-- What an ingot holds of a context (R330): its header and size, and the parts of the state that it restores.
The bit layout of the plaintext is not the spec's, so that the model holds the parts themselves, by the draw that
plaintext was written with (log 10). `shape` gives for each logical core the first logical core of its cluster and its
number within it; `cores` and `strands` go by logical number, and `windows` holds the cores' window accumulators as they are saved
(R38). -/
structure Ingot where
  header : Nat
  size : Nat
  part : Partn
  shape : List (Nat × Nat)
  phys : List Nat
  cores : List CoreSt
  windows : List Nat
  strands : List (Nat × Strand)
  granules : List (Nat × Nat × Memory)
  steals : List StealReq
  pending : List Pending
  leaves : List LeafImg
  deriving DecidableEq, Repr

/-- MODEL'S OWN (log 2): the strand whose turn it is, whether an access it makes stays in flight, and whether what it reads
meets an uncorrectable soft error. -/
structure Turn where
  core : Nat := 0
  slot : Nat := 0
  inFlight : Bool := false
  err : Bool := false
  deriving DecidableEq, Repr

/-- The whole package. -/
structure State where
  now : Nat := 0
  supply : Bool := true
  cur : Turn := {}
  agenda : List Choice := []
  draw : Nat := 0
  nextSid : Nat := 1
  mem : Memory := []
  keyOf : NMap Nat := []
  leases : NMap Nat := []
  corrected : NMap Nat := []
  steals : List StealReq := []
  peers : NMap PeerReq := []
  nextPeer : Nat := 0
  pending : List Pending := []
  svcRoot : Nat := 0
  keys : NMap (Nat × Nat) := [(0, (0, 0))]
  roots : NMap (Nat × Nat) := []
  chains : NMap Chain := []
  ingots : NMap Ingot := []
  reports : List Report := []
  responses : List Response := []
  asked : List Asked := []
  sessions : List Nat := []
  watches : NMap Watch := []
  strands : NMap Strand := []
  cores : NMap CoreSt := []
  clusters : NMap Cluster := []
  dies : NMap Die := []
  parts : NMap Partn := []
  tenants : NMap Tenant := []
  ports : NMap Port := []
  ues : NMap UePort := []
  groups : NMap CollGroup := []
  power : Power := {}
  boot : Boot := {}
  gated : List GateUnit := []
  snap : Snap := {}
  deriving DecidableEq, Repr

/-- The package at power-good, before start-up (23 R356): every field at the value the spec gives for reset, or at the
value that a log entry names. -/
def State.reset : State := {}

end Sys2Proof.Machine
end

