-- ==== Sys2Proof/Machine/Access.lean ====
section
/-! DEFINITION. Reading and changing one part of the state: a strand, a core, a cluster, a die, a partition and what it
holds; and where a unit stands on the package (01 R13). -/

namespace Sys2Proof.Machine

/-! ### Strands and cores -/

/-- The strand in slot l of core c. -/
def getStrand (s : State) (c l : Nat) : Strand := nget s.strands {} (c * 8 + l)
def putStrand (s : State) (c l : Nat) (t : Strand) : State := { s with strands := nset s.strands (c * 8 + l) t }
def onStrand (s : State) (c l : Nat) (f : Strand → Strand) : State := putStrand s c l (f (getStrand s c l))

def getCore (s : State) (c : Nat) : CoreSt := nget s.cores {} c
def putCore (s : State) (c : Nat) (k : CoreSt) : State := { s with cores := nset s.cores c k }
def onCore (s : State) (c : Nat) (f : CoreSt → CoreSt) : State := putCore s c (f (getCore s c))

def getCluster (s : State) (i : Nat) : Cluster := nget s.clusters {} i
def putCluster (s : State) (i : Nat) (x : Cluster) : State := { s with clusters := nset s.clusters i x }
def onCluster (s : State) (i : Nat) (f : Cluster → Cluster) : State := putCluster s i (f (getCluster s i))

def getDie (s : State) (i : Nat) : Die := nget s.dies {} i
def putDie (s : State) (i : Nat) (x : Die) : State := { s with dies := nset s.dies i x }
def onDie (s : State) (i : Nat) (f : Die → Die) : State := putDie s i (f (getDie s i))

/-! ### Partitions and what they hold -/

def getPart (s : State) (tag : Nat) : Partn := nget s.parts {} tag
def putPart (s : State) (tag : Nat) (p : Partn) : State := { s with parts := nset s.parts tag p }
def onPart (s : State) (tag : Nat) (f : Partn → Partn) : State := putPart s tag (f (getPart s tag))

def getTenant (s : State) (t : Nat) : Tenant := nget s.tenants {} t
def onTenant (s : State) (t : Nat) (f : Tenant → Tenant) : State := { s with tenants := nset s.tenants t (f (getTenant s t)) }

def getNode? (s : State) (tag n : Nat) : Option Node := nget? (getPart s tag).nodes n
def putNode (s : State) (tag n : Nat) (x : Node) : State := onPart s tag fun p => { p with nodes := nset p.nodes n x }
def onNode (s : State) (tag n : Nat) (f : Node → Node) : State :=
  match getNode? s tag n with
  | some x => putNode s tag n (f x)
  | none => s

def getField? (s : State) (tag fid : Nat) : Option Field := nget? (getPart s tag).fields fid
def putField (s : State) (tag fid : Nat) (x : Field) : State := onPart s tag fun p => { p with fields := nset p.fields fid x }
def onField (s : State) (tag fid : Nat) (f : Field → Field) : State :=
  match getField? s tag fid with
  | some x => putField s tag fid (f x)
  | none => s

def getQueue? (s : State) (tag q : Nat) : Option Queue := nget? (getPart s tag).queues q
def putQueue (s : State) (tag q : Nat) (x : Queue) : State := onPart s tag fun p => { p with queues := nset p.queues q x }
def onQueue (s : State) (tag q : Nat) (f : Queue → Queue) : State :=
  match getQueue? s tag q with
  | some x => putQueue s tag q (f x)
  | none => s

def getLaunch? (s : State) (tag i : Nat) : Option Launch := nget? (getPart s tag).launches i
def putLaunch (s : State) (tag i : Nat) (x : Launch) : State := onPart s tag fun p => { p with launches := nset p.launches i x }
def onLaunch (s : State) (tag i : Nat) (f : Launch → Launch) : State :=
  match getLaunch? s tag i with
  | some x => putLaunch s tag i (f x)
  | none => s

def getKernel? (s : State) (tag i : Nat) : Option Kernel := nget? (getPart s tag).kernels i
def putKernel (s : State) (tag i : Nat) (x : Kernel) : State := onPart s tag fun p => { p with kernels := nset p.kernels i x }

def getPort (s : State) (i : Nat) : Port := nget s.ports {} i
def putPort (s : State) (i : Nat) (x : Port) : State := { s with ports := nset s.ports i x }
def getUe (s : State) (i : Nat) : UePort := nget s.ues {} i
def getChain (s : State) (i : Nat) : Chain := nget s.chains {} i
def putChain (s : State) (i : Nat) (x : Chain) : State := { s with chains := nset s.chains i x }

/-! ### Numbers of the units (R13) -/

/-- Management cores are 0x1000 to 0x1007 (R13). -/
def isMgmt (c : Nat) : Bool := 0x1000 ≤ c
def coreRow (c : Nat) : Nat := c / 32 % 32
def coreCol (c : Nat) : Nat := c % 32
def dieOf (c : Nat) : Nat := c / 1024 % 4
def clusterOf (c : Nat) : Nat := dieOf c * 128 + coreRow c / 2 * 8 + coreCol c / 4
def inCluster (c : Nat) : Nat := coreRow c % 2 * 4 + coreCol c % 4
def regionOf (c : Nat) : Nat := dieOf c * 8 + coreRow c / 8 * 2 + coreCol c / 16
/-- The home slice of the 4 × 4 block of cores that a core stands in. -/
def sliceOf (c : Nat) : Nat := dieOf c * 64 + coreRow c / 4 * 8 + coreCol c / 4
/-- The cores of a home slice's block, row by row (R12). -/
def sliceCores (n : Nat) : List Nat :=
  (List.range 16).map fun i => n / 64 * 1024 + (n % 64 / 8 * 4 + i / 4) * 32 + (n % 8 * 4 + i % 4)
/-- The die on which a home slice stands. -/
def sliceDie (n : Nat) : Nat := n / 64 % 4
def meshX (c : Nat) : Nat := 32 * (dieOf c % 2) + coreCol c
def meshY (c : Nat) : Nat := 32 * (dieOf c / 2) + coreRow c
/-- The core at a place within a cluster. -/
def coreAt (cluster i : Nat) : Nat :=
  cluster / 128 * 1024 + (cluster % 128 / 8 * 2 + i / 4) * 32 + (cluster % 8 * 4 + i % 4)

/-- The partition tag of a core; a management core belongs to none (R13, R322). -/
def tagOf (s : State) (c : Nat) : Nat := if isMgmt c then 0 else (getCore s c).tag

/-- The logical number of a core in its partition (R322). -/
def logicalOf (s : State) (c : Nat) : Nat := ((getPart s (tagOf s c)).cores.idxOf? c).getD 0
/-- The physical core of a logical number (R322). -/
def physicalOf (s : State) (tag lc : Nat) : Option Nat := (getPart s tag).cores[lc]?

/-- The strand number that STRAND returns: logical core in [14:3], slot in [2:0] (R204). -/
def strandNumber (s : State) (c l : Nat) : Nat := logicalOf s c * 8 + l

/-- The slots of a core that hold a strand. -/
def liveSlots (s : State) (c : Nat) : List Nat := (List.range 8).filter fun l => (getStrand s c l).live

/-! ### Scopes (12 R235, 13 R244) -/

/-- Whether strand y of core d lies in the instance of a scope for strand x of core c. The agents of a management core's own
scopes are that core's. -/
def inInstance (s : State) (sc : Scope) (c x d y : Nat) : Bool :=
  let alone (same : Bool) : Bool := if isMgmt c || isMgmt d then c == d else same
  match sc with
  | .st => c == d && x == y
  | .co => c == d
  | .cl => alone (clusterOf c == clusterOf d)
  | .rg => alone (regionOf c == regionOf d)
  | .di => alone (dieOf c == dieOf d)
  | .pa => alone (tagOf s c == tagOf s d && tagOf s c != 0)
  | .te => alone ((getPart s (tagOf s c)).tenant == (getPart s (tagOf s d)).tenant && tagOf s c != 0 && tagOf s d != 0)
  | .pk | .fa | .sy => true

/-- Scope a includes scope b: for every strand the instance of b lies in that of a. -/
def scopeIncludes (a b : Scope) : Bool :=
  match a, b with
  | .sy, _ => true
  | .fa, b => b != .te && b != .sy
  | .te, b => b == .st || b == .co || b == .pa || b == .te
  | .pk, b => b != .te && b != .fa && b != .sy
  | .di, b => b == .st || b == .co || b == .cl || b == .rg || b == .di
  | .rg, b => b == .st || b == .co || b == .cl || b == .rg
  | .cl, b => b == .st || b == .co || b == .cl
  | .pa, b => b == .st || b == .co || b == .pa
  | .co, b => b == .st || b == .co
  | .st, b => b == .st

/-! ### What is divided among tenants (20 R371) -/

/-- Whether a resource of some total still has one for a tenant: what all hold, with what is reserved to the other active tenants
and not held yet, leaves one (R371). -/
def leavesReserved (s : State) (total reserve tenant all : Nat) (held : Nat → Nat) : Bool :=
  decide (all + (s.tenants.filter fun e => e.1 != tenant && e.2.active).foldl (fun n e => n + (reserve - held e.1)) 0 < total)

/-- The tenant of a partition tag, as a holder of shared entries. The resident service, tag 0, is none of the tenants, whose
numbers have 32 bits. -/
def holderOf (s : State) (tag : Nat) : Nat := if tag = 0 then 2 ^ 32 else (getPart s tag).tenant

/-! ### HBM (R11, R12) -/

/-- The bits of one HBM5 stack, 48 GiB, and of the package's eight. -/
def stackBits : Nat := 48 * 2 ^ 33
def hbmBits : Nat := 8 * stackBits
/-- The stack that holds a physical bit address, and the die whose outer edge it stands on: stack after stack from address 0, two
to a die (log 74). -/
def stackOf (pa : Nat) : Option Nat := if pa < hbmBits then some (pa / stackBits) else none
def stackDie (stack : Nat) : Nat := stack / 2
/-- A stack that has been trained, and may be used (R356, R357). -/
def stackTrained (s : State) (stack : Nat) : Bool := s.boot.ready.toNat / 2 ^ (56 + stack) % 2 == 1
/-- n bytes from byte address b lie in the package's HBM, in stacks that are trained: no leaf may name others (R12, R356). -/
def inHbm (s : State) (b n : Nat) : Bool :=
  decide ((b + n) * 8 ≤ hbmBits) && (List.range 8).all fun k =>
    stackTrained s k || decide ((b + n) * 8 ≤ k * stackBits) || decide ((k + 1) * stackBits ≤ b * 8)

/-! ### Lines and PCs (R61 to R63) -/

/-- The base of the line that holds a PC: the multiple of 512 at or below it. The formula printed in R72 differs from
R61, R63 and the encoded examples, which this follows (log 12, DEDUCED). -/
def lineBase (p : Nat) : Nat := p - p % 512
/-- Whether a PC is a slot position (R69). -/
def isSlotPos (p : Nat) : Bool := p % 512 == 32 || p % 512 == 128 || p % 512 == 224 || p % 512 == 320 || p % 512 == 416
/-- The slot number of a slot position. -/
def slotIndex (p : Nat) : Nat := (p % 512 - 32) / 96
/-- The PC that follows (R63). -/
def nextPc (p : Word) : Word := if p.toNat % 512 = 416 then p + 128 else p + 96

end Sys2Proof.Machine
end

