-- ==== Sys2Proof/Machine/Crypto.lean ====
section
/-! DEFINITION. The algorithms the spec names by their standards: AES-256 with CMAC (08 R177; FIPS 197, NIST SP 800-38B), XTS
(19 R308; IEEE 1619) and GCM (20 R330; NIST SP 800-38D), SHA-384 and SHA-512 (10 R224, 23 R359; FIPS 180-4) and
HKDF-SHA-384 (20 R331; RFC 5869). -/

namespace Sys2Proof.Machine

/-! ### AES-256 -/

/-- Multiplication by x in the field of AES. -/
def gfDouble (a : Nat) : Nat := if a < 128 then 2 * a else (2 * a - 256) ^^^ 0x1B

/-- Multiplication in the field of AES, bit by bit of b. -/
def gfMul : Nat → Nat → Nat → Nat
  | 0, _, _ => 0
  | n + 1, a, b => (if b % 2 = 1 then a else 0) ^^^ gfMul n (gfDouble a) (b / 2)

/-- The inverse in the field, as the power 254; 0 stays 0. -/
def gfInv (a : Nat) : Nat :=
  let m := gfMul 8
  let a2 := m a a
  let a3 := m a2 a
  let a12 := m (m a3 a3) (m a3 a3)
  let a15 := m a12 a3
  let a240 := m (m (m a15 a15) (m a15 a15)) (m (m a15 a15) (m a15 a15))
  let a240 := m a240 a240
  m (m a240 a12) a2

/-- Rotation of a byte to the left. -/
def rotByte (a k : Nat) : Nat := (a * 2 ^ k + a / 2 ^ (8 - k)) % 256

/-- The S-box. -/
def aesSub (a : Nat) : Nat :=
  let b := gfInv a
  b ^^^ rotByte b 1 ^^^ rotByte b 2 ^^^ rotByte b 3 ^^^ rotByte b 4 ^^^ 0x63

def xorBytes (a b : List Nat) : List Nat := List.zipWith (· ^^^ ·) a b

/-- The next word of the expanded key; i is its number. -/
def aesNextWord (i : Nat) (prev : List Nat) (old : List Nat) (rcon : Nat) : List Nat :=
  if i % 8 = 0 then
    xorBytes (xorBytes ((prev.drop 1 ++ prev.take 1).map aesSub) [rcon, 0, 0, 0]) old
  else if i % 8 = 4 then xorBytes (prev.map aesSub) old
  else xorBytes prev old

/-- The words of the expanded key from word i on; `ws` holds the last eight words, the latest first. -/
def aesExpand : Nat → Nat → Nat → List (List Nat) → List (List Nat)
  | 0, _, _, _ => []
  | n + 1, i, rcon, ws =>
    let w := aesNextWord i (ws.headD []) (ws.getD 7 []) rcon
    w :: aesExpand n (i + 1) (if i % 8 = 0 then gfDouble rcon else rcon) ((w :: ws).take 8)

/-- The key's words, four bytes each. -/
def chunk4 : Nat → List Nat → List (List Nat)
  | 0, _ => []
  | n + 1, bs => bs.take 4 :: chunk4 n (bs.drop 4)

/-- The fifteen round keys of sixteen bytes. -/
def aesRoundKeys (key : List Nat) : List (List Nat) :=
  let ws := chunk4 8 key
  let all := ws ++ aesExpand 52 8 1 ws.reverse
  (List.range 15).map fun r => ((all.drop (4 * r)).take 4).flatten

/-- ShiftRows on a state whose byte 4c + r stands in row r, column c. -/
def aesShift (st : List Nat) : List Nat :=
  (List.range 16).map fun i => st.getD ((i + 4 * (i % 4)) % 16) 0

/-- MixColumns on one column. -/
def aesMixColumn (c : List Nat) : List Nat :=
  (List.range 4).map fun r =>
    let x := fun k => c.getD ((r + k) % 4) 0
    gfDouble (x 0) ^^^ (gfDouble (x 1) ^^^ x 1) ^^^ x 2 ^^^ x 3
def aesMix (st : List Nat) : List Nat := (chunk4 4 st).flatMap aesMixColumn

/-- The rounds after the first key addition. -/
def aesRounds : List (List Nat) → List Nat → List Nat
  | [], st => st
  | [k], st => xorBytes (aesShift (st.map aesSub)) k
  | k :: ks, st => aesRounds ks (xorBytes (aesMix (aesShift (st.map aesSub))) k)

/-- AES-256 of one block, over bytes. -/
def aesEncrypt (key block : List Nat) : List Nat :=
  match aesRoundKeys key with
  | k :: ks => aesRounds ks (xorBytes block k)
  | [] => block

/-! ### AES-256 backwards -/

/-- The inverse of the S-box. -/
def aesUnsub (a : Nat) : Nat := gfInv (rotByte a 1 ^^^ rotByte a 3 ^^^ rotByte a 6 ^^^ 0x05)

def aesUnshift (st : List Nat) : List Nat :=
  (List.range 16).map fun i => st.getD ((i + 12 * (i % 4)) % 16) 0

def aesUnmixColumn (c : List Nat) : List Nat :=
  (List.range 4).map fun r =>
    let x := fun k => c.getD ((r + k) % 4) 0
    gfMul 4 (x 0) 14 ^^^ gfMul 4 (x 1) 11 ^^^ gfMul 4 (x 2) 13 ^^^ gfMul 4 (x 3) 9
def aesUnmix (st : List Nat) : List Nat := (chunk4 4 st).flatMap aesUnmixColumn

/-- The rounds backwards: every key but the last one of encryption, from the latest to the first. -/
def aesUnrounds : List (List Nat) → List Nat → List Nat
  | [], st => st
  | [k], st => xorBytes ((aesUnshift st).map aesUnsub) k
  | k :: ks, st => aesUnrounds ks (aesUnmix (xorBytes ((aesUnshift st).map aesUnsub) k))

/-- The inverse of AES-256 on one block. -/
def aesDecrypt (key block : List Nat) : List Nat :=
  match (aesRoundKeys key).reverse with
  | k :: ks => aesUnrounds ks (xorBytes block k)
  | [] => block

/-! ### CMAC -/

/-- Bytes, the first most significant, as a number, and back. -/
def bytesToNat (bs : List Nat) : Nat := bs.foldl (fun n b => n * 256 + b) 0
def natToBytes : Nat → Nat → List Nat
  | 0, _ => []
  | n + 1, v => natToBytes n (v / 256) ++ [v % 256]

/-- The n bytes of a number, the first least significant. -/
def leBytes : Nat → Nat → List Nat
  | 0, _ => []
  | n + 1, v => v % 256 :: leBytes n (v / 256)
/-- A number from bytes, the first least significant. -/
def ofLeBytes : List Nat → Nat
  | [] => 0
  | b :: bs => b + 256 * ofLeBytes bs

/-- A subkey of CMAC. -/
def cmacDouble (l : List Nat) : List Nat :=
  let n := bytesToNat l
  natToBytes 16 ((2 * n) % 2 ^ 128 ^^^ (if n < 2 ^ 127 then 0 else 0x87))

/-- AES-CMAC of a message shorter than a block. -/
def cmacShort (key msg : List Nat) : List Nat :=
  let k2 := cmacDouble (cmacDouble (aesEncrypt key (List.replicate 16 0)))
  aesEncrypt key (xorBytes (msg ++ 0x80 :: List.replicate (15 - msg.length) 0) k2)

/-! ### XTS on a data unit of one line -/

/-- The tweak of the next block: multiplied by x, bytes least significant first. -/
def xtsNext (t : Nat) : Nat := (2 * t) % 2 ^ 128 ^^^ (if t < 2 ^ 127 then 0 else 0x87)

/-- n blocks from the least significant on, each through a block cipher between two additions of its tweak. -/
def xtsBlocks (cipher : List Nat → List Nat) : Nat → Nat → Nat → Nat
  | 0, _, _ => 0
  | n + 1, t, v =>
    (ofLeBytes (cipher (leBytes 16 (v % 2 ^ 128 ^^^ t))) ^^^ t) + 2 ^ 128 * xtsBlocks cipher n (xtsNext t) (v / 2 ^ 128)

/-- The first tweak of a data unit. -/
def xtsTweak (material unit : Nat) : Nat :=
  ofLeBytes (aesEncrypt (leBytes 32 (material / 2 ^ 256)) (leBytes 16 unit))

/-- A 512-bit data unit enciphered and deciphered. The low 256 bits of the material are the data key, the high 256 bits the
tweak key. -/
def xtsEncrypt (material unit v : Nat) : Nat :=
  xtsBlocks (aesEncrypt (leBytes 32 material)) 4 (xtsTweak material unit) v
def xtsDecrypt (material unit v : Nat) : Nat :=
  xtsBlocks (aesDecrypt (leBytes 32 material)) 4 (xtsTweak material unit) v

/-! ### GCM with a 96-bit IV -/

/-- Multiplication in GCM's field, where the first bit of a block is its most significant: n bits of x are left. -/
def gcmTimes : Nat → Nat → Nat → Nat
  | 0, _, _ => 0
  | n + 1, x, y =>
    (if x / 2 ^ n % 2 = 1 then y else 0) ^^^ gcmTimes n x (y / 2 ^ 1 ^^^ (if y % 2 = 1 then 0xE1 * 2 ^ 120 else 0))

/-- GHASH over n blocks of bytes, the last one filled up with zeros. -/
def ghash (h : Nat) : Nat → List Nat → Nat → Nat
  | 0, _, y => y
  | n + 1, bs, y =>
    let b := bytesToNat ((List.range 16).map fun i => bs.getD i 0)
    ghash h n (bs.drop 16) (gcmTimes 128 (y ^^^ b) h)

/-- n blocks of keystream from counter i on, added to bytes. -/
def gcmStream (key iv : List Nat) : Nat → Nat → List Nat → List Nat
  | 0, _, _ => []
  | n + 1, i, bs => xorBytes (bs.take 16) (aesEncrypt key (iv ++ natToBytes 4 i)) ++ gcmStream key iv n (i + 1) (bs.drop 16)

def gcmCrypt (key iv bs : List Nat) : List Nat := gcmStream key iv ((bs.length + 15) / 16) 2 bs

/-- The tag over additional data and ciphertext. -/
def gcmTag (key iv aad ct : List Nat) : List Nat :=
  let h := bytesToNat (aesEncrypt key (List.replicate 16 0))
  let y := ghash h ((ct.length + 15) / 16) ct (ghash h ((aad.length + 15) / 16) aad 0)
  let y := gcmTimes 128 (y ^^^ (8 * aad.length * 2 ^ 64 + 8 * ct.length)) h
  xorBytes (natToBytes 16 y) (aesEncrypt key (iv ++ natToBytes 4 1))

/-! ### SHA-2: SHA-384 and SHA-512 -/

/-- The largest n with n ^ k ≤ v and no bit above `b`, bit by bit from `b - 1` down; `n` is what is found so far. -/
def rootBits (k v : Nat) : Nat → Nat → Nat
  | 0, n => n
  | b + 1, n => rootBits k v b (if (n + 2 ^ b) ^ k ≤ v then n + 2 ^ b else n)

/-- The first 64 bits of the fractional part of the k-th root of p, which is below 8. -/
def rootFraction (k p : Nat) : Nat := rootBits k (p * 2 ^ (64 * k)) 69 0 % 2 ^ 64

/-- The first eighty primes, by the gaps between them. -/
def primesFrom : Nat → List Nat → List Nat
  | _, [] => []
  | p, d :: ds => (p + d) :: primesFrom (p + d) ds
def firstPrimes : List Nat :=
  2 :: primesFrom 2 ([1, 2, 2, 4, 2, 4, 2, 4, 6, 2, 6, 4, 2, 4, 6, 6, 2, 6, 4, 2, 6, 4, 6, 8, 4, 2, 4, 2, 4, 14]
    ++ [4, 6, 2, 10, 2, 6, 6, 4, 6, 6, 2, 10, 2, 4, 2, 12, 12, 4, 2, 4, 6, 2, 10, 6, 6, 6, 2, 6, 4]
    ++ [2, 10, 14, 4, 2, 4, 14, 6, 10, 2, 4, 6, 8, 6, 6, 4, 6, 8, 4, 8])

/-- FIPS 180-4, 4.2.3: the cube roots of the first eighty primes. -/
def shaConstants : List Nat := firstPrimes.map (rootFraction 3)
/-- FIPS 180-4, 5.3.4 and 5.3.5: the square roots of the ninth to sixteenth primes start SHA-384, those of the first eight
SHA-512. -/
def sha384Start : List Nat := ((firstPrimes.drop 8).take 8).map (rootFraction 2)
def sha512Start : List Nat := (firstPrimes.take 8).map (rootFraction 2)

/-- A 64-bit word turned right by each of three amounts, combined. -/
def turned (x : Nat) (ks : List Nat) : Nat :=
  ks.foldl (fun r k => r ^^^ (x / 2 ^ k + x * 2 ^ (64 - k)) % 2 ^ 64) 0

/-- One step of the message schedule: the word that leaves the window of sixteen, and the window after it. -/
def shaShift (win : List Nat) : Nat × List Nat :=
  let x := win.getD 1 0
  let y := win.getD 14 0
  let next := win.getD 0 0 + (turned x [1, 8] ^^^ x / 2 ^ 7) + win.getD 9 0 + (turned y [19, 61] ^^^ y / 2 ^ 6)
  (win.getD 0 0, win.drop 1 ++ [next % 2 ^ 64])

/-- One round on the working variables a to h with the round's constant and word. -/
def shaRound (v : List Nat) (k w : Nat) : List Nat :=
  match v with
  | [a, b, c, d, e, f, g, h] =>
    let choose := g ^^^ (e &&& (f ^^^ g))
    let most := (a &&& (b ||| c)) ||| (b &&& c)
    let t := h + turned e [14, 18, 41] + choose + k + w
    [(t + turned a [28, 34, 39] + most) % 2 ^ 64, a, b, c, (d + t) % 2 ^ 64, e, f, g]
  | _ => v

/-- The rounds, one for each constant. -/
def shaRounds : List Nat → List Nat → List Nat → List Nat
  | [], _, v => v
  | k :: ks, win, v =>
    let (w, win) := shaShift win
    shaRounds ks win (shaRound v k w)

/-- A block's words, each from eight bytes with the first most significant. -/
def bigWords : Nat → List Nat → List Nat
  | 0, _ => []
  | n + 1, bs => bytesToNat (bs.take 8) :: bigWords n (bs.drop 8)

/-- The hash value after n blocks of a padded message. -/
def shaAbsorb : Nat → List Nat → List Nat → List Nat
  | 0, _, h => h
  | n + 1, bs, h =>
    shaAbsorb n (bs.drop 128) (List.zipWith (fun x y => (x + y) % 2 ^ 64) h (shaRounds shaConstants (bigWords 16 bs) h))

/-- The message with a one bit, zeros and its length in bits, to whole blocks of 128 bytes. The message is `n` bits, its last
byte filled from its most significant bit (FIPS 180-4, 5.1.2). -/
def shaPadded (msg : List Nat) (n : Nat) : List Nat :=
  let whole := msg.take (n / 8)
  let r := n % 8
  let tail := if r = 0 then 0x80 else msg.getD (n / 8) 0 / 2 ^ (8 - r) * 2 ^ (8 - r) + 2 ^ (7 - r)
  whole ++ tail :: List.replicate ((239 - whole.length % 128) % 128) 0 ++ natToBytes 16 n

def sha2 (start : List Nat) (msg : List Nat) (n : Nat) : List Nat :=
  let p := shaPadded msg n
  (shaAbsorb (p.length / 128) p start).flatMap (natToBytes 8)

/-- SHA-384 as 48 bytes, SHA-512 as 64. -/
def sha384 (msg : List Nat) : List Nat := (sha2 sha384Start msg (8 * msg.length)).take 48
def sha512 (msg : List Nat) : List Nat := sha2 sha512Start msg (8 * msg.length)

/-! ### HMAC and HKDF over SHA-384 (RFC 2104, RFC 5869) -/

def hmacSha384 (key msg : List Nat) : List Nat :=
  let k := if 128 < key.length then sha384 key else key
  let pad (b : Nat) : List Nat := (List.range 128).map fun i => k.getD i 0 ^^^ b
  sha384 (pad 0x5C ++ sha384 (pad 0x36 ++ msg))

/-- HKDF with an output of at most 48 bytes. -/
def hkdfSha384 (salt ikm info : List Nat) (n : Nat) : List Nat :=
  (hmacSha384 (hmacSha384 salt ikm) (info ++ [1])).take n

end Sys2Proof.Machine
end

