-- ==== Sys2Proof/Machine/Phys.lean ====
section
/-! DEFINITION. Physical memory: the bytes of HBM, the device-internal range, keys, leases and monitors (03 R44, R45, R55;
07 R142, R144; 19 R308, R313 to R315; 23 R355). -/

namespace Sys2Proof.Machine

/-! ### The device-internal range (R355) -/

def internalBase : Nat := 0x3F0000000000
/-- The whole of 0x3F00_0000_0000 to 0x3F00_FFFF_FFFF: what no region holds reads as zero and ignores writes. -/
def isInternal (pa : Nat) : Bool := internalBase ≤ pa && pa < internalBase + 2 ^ 32

/-- An entry of a fault buffer or an error log (R314). -/
def logEntryBits (e : LogEntry) : Nat :=
  e.va % 2 ^ 64 * 2 ^ 64 + e.core % 2 ^ 12 * 2 ^ 52 + e.src % 4 * 2 ^ 50 + e.wlvl % 4 * 2 ^ 48 + e.bad.toNat * 2 ^ 47
    + e.job % 2 ^ 16 * 2 ^ 16 + e.seq % 2 ^ 16

/-- The header of a fault buffer or an error log (R313). An error log holds up to 64 entries, of whose number NREC has room for the
low four bits: the bits above are reserved and read as zero (log 19). -/
def faultHeader (f : FaultBuf) : Nat := f.drop.toNat * 2 ^ 63 + f.lost % 2 ^ 16 * 2 ^ 32 + f.nrec % 2 ^ 4

/-- 64-bit word i of a fault buffer or error log of n entries (R313, R321). -/
def faultBufWord (f : FaultBuf) (n i : Nat) : Nat :=
  if i = 0 then faultHeader f
  else if i = 1 ∨ 2 * n + 2 ≤ i then 0
  else bitsAt (logEntryBits (nget f.entries {} (i / 2 - 1))) (64 * (i % 2)) 64

def portStCode : PortSt → Nat
  | .off => 0 | .training => 1 | .up => 2 | .retrain => 3 | .failed => 4

/-- A port's status word (R337). -/
def portWord (p : Port) : Nat :=
  let peer := p.st == .up || p.st == .retrain
  portStCode p.st * 2 ^ 61 + (if peer then p.pdev % 2 ^ 8 * 2 ^ 53 else 0) + (if peer then p.pport % 2 ^ 7 * 2 ^ 46 else 0)
    + p.rply % 2 ^ 16 * 2 ^ 16 + p.crce % 2 ^ 16

/-- The rail level of a region: the highest vote of the partitions with cores in it, or 2 (R347). -/
def railLevel (s : State) (region : Nat) : Nat :=
  let votes := s.parts.filterMap fun e =>
    if e.2.cores.any fun c => regionOf c == region then nget? e.2.vote region else none
  match votes with
  | [] => 2
  | v :: vs => vs.foldl max v

def railVolts (level : Nat) : Nat := 700 + 50 * min level 3

/-- The voltage of a core: its regulator's own, at the rail at most (R347). -/
def coreVolts (s : State) (c : Nat) : Nat := min (getCore s c).vcore (railVolts (railLevel s (regionOf c)))

/-- A core's status word (R350). -/
def coreWord (s : State) (c : Nat) : Nat :=
  (getCore s c).terr % 2 ^ 32 * 2 ^ 32 + coreVolts s c % 2 ^ 16 * 2 ^ 16 + (getCore s c).fduty % 32

/-- An entry of the start record (R358). -/
def startWord (e : StartEntry) : Nat :=
  e.step % 2 ^ 8 * 2 ^ 56 + e.unit % 16 * 2 ^ 52 + e.res % 4 * 2 ^ 50 + e.tries % 4 * 2 ^ 48 + e.det % 2 ^ 16 * 2 ^ 32
    + e.tick % 2 ^ 32

/-- The 64-bit word at offset 64 × i of the device-internal range (R355). -/
def internalWord (s : State) (i : Nat) : Nat :=
  let a := 64 * i
  if a < 0x20000 then faultBufWord (getPart s (a / 2048)).fbuf 8 (i % 32)
  else if a < 0x60000 then faultBufWord (getDie s ((a - 0x20000) / 2 ^ 16)).log 64 (i % 1024)
  else if a < 0x64000 then
    (if a % 256 = 0 then (if (a - 0x60000) / 256 = 0 then s.power.enj0 else (getPart s ((a - 0x60000) / 256)).enj).toNat else 0)
  else if a < 0x6D000 then (if a % 512 = 0 then portWord (getPort s ((a - 0x64000) / 512)) else 0)
  else if a < 0x70000 then 0
  else if a < 0xB0000 then coreWord s ((a - 0x70000) / 64)
  else if a < 0xB0040 then s.boot.ready.toNat
  else if a < 0xB0840 then
    (match s.boot.record[(a - 0xB0040) / 64]? with | some e => startWord e | none => 0)
  else if 0xC0000 ≤ a ∧ a < 0x140000 then nget s.snap.words 0 ((a - 0xC0000) / 64)
  else 0

/-- n words of the range from word i. -/
def internalWords (s : State) (i : Nat) : Nat → Nat
  | 0 => 0
  | n + 1 => internalWord s i + 2 ^ 64 * internalWords s (i + 1) n

def internalBits (s : State) (pa w : Nat) : Nat :=
  let o := pa - internalBase
  bitsAt (internalWords s (o / 64) ((o % 64 + w + 63) / 64)) (o % 64) w

/-! ### Keys (R308, R324) -/

/-- The material of a key slot; an empty slot has none. -/
def keyMaterial? (s : State) (slot : Nat) : Option Nat := (nget? s.keys slot).map (·.2)

/-- The material an access under a key slot is made with; an empty slot, which no leaf may name, counts as material 0
(log 5). -/
def materialOf (s : State) (slot : Nat) : Nat := (keyMaterial? s slot).getD 0

/-- Line n as material k deciphers it. Memory holds a line's bytes as the material it was last written under reads them,
`keyOf`; other material reads what its own XTS makes of the ciphertext, the line's physical bit address being the tweak
(R308; log 5). A line that nothing was written to under a key reads the same under every key. -/
def lineUnder (s : State) (k n : Nat) : Nat :=
  let plain := s.mem.bytes (64 * n) 64
  match nget? s.keyOf n with
  | none => plain
  | some m => if m = k then plain else xtsDecrypt k (512 * n) (xtsEncrypt m (512 * n) plain) % 2 ^ 512

/-- A byte read under a key. -/
def keyedByte (s : State) (key b : Nat) : Byte :=
  match nget? s.keyOf (b / 64) with
  | none => s.mem.read b
  | some m =>
    if m = materialOf s key then s.mem.read b
    else BitVec.ofNat 8 (lineUnder s (materialOf s key) (b / 64) / 2 ^ (8 * (b % 64)))

/-- n bytes read under a key. -/
def keyedBytes (s : State) (key b : Nat) : Nat → Nat
  | 0 => 0
  | n + 1 => (keyedByte s key b).toNat + 2 ^ 8 * keyedBytes s key (b + 1) n

/-- Line n is enciphered anew under material k: what k reads of it stays, and k is its material from now on. -/
def rekeyLine (s : State) (k n : Nat) : State :=
  let foreign := match nget? s.keyOf n with
    | some m => m != k
    | none => false
  { s with
    mem := if foreign then s.mem.setBytes (64 * n) 64 (lineUnder s k n) else s.mem
    keyOf := nset s.keyOf n k }

/-- The lines from byte b on that n bytes lie in, under material k. -/
def rekeyLines (s : State) (k line : Nat) : Nat → State
  | 0 => s
  | n + 1 => rekeyLines (rekeyLine s k line) k (line + 1) n

/-- n bytes written from byte b on under material k: each line they lie in is read, changed and enciphered under it. -/
def keyedWrite (s : State) (k b n v : Nat) : State :=
  let s := rekeyLines s k (b / 64) ((b % 64 + n + 63) / 64)
  { s with mem := s.mem.setBytes b n v }

/-! ### Monitors (R144) -/

/-- Whether [a, a + w) and [b, b + v) share a bit. -/
def overlaps (a w b v : Nat) : Bool := decide (a < b + v) && decide (b < a + w)

def fireMonitor (pool : Bool) (a w : Nat) : Monitor → Monitor
  | .armed p b v => if p == pool && overlaps a w b v then .fired else .armed p b v
  | m => m

/-- A global write of [pa, pa + w) fires every monitor armed over one of its bits. -/
def fireGlobal (s : State) (pa w : Nat) : State :=
  { s with strands := s.strands.map fun e => (e.1, { e.2 with mon := e.2.mon.map (fireMonitor false pa w) }) }

/-- A pool write on core c fires the monitors of that core's strands. -/
def firePool (s : State) (c a w : Nat) : State :=
  { s with strands := s.strands.map fun e =>
      if e.1 / 8 = c then (e.1, { e.2 with mon := e.2.mon.map (fireMonitor true a w) }) else e }

/-! ### Leases (R142, R241) -/

def lineOf (pa : Nat) : Nat := pa / 512

/-- Whether a unit is power gated (R352). -/
def isGated (s : State) (u : GateUnit) : Bool := s.gated.contains u

/-- A unit that something reaches is awake (R352). -/
def wakeUnit (s : State) (u : GateUnit) : State := if isGated s u then { s with gated := s.gated.filter (· != u) } else s

/-- A request that reaches a gated home slice wakes it, and is served (R20, R352). -/
def wakeBank (s : State) (slice : Nat) : State := wakeUnit s (.bank slice)

/-- Writes that the resident service makes of n bytes from byte b reach their home slices (R352). -/
def wakeRange (s : State) (b n : Nat) : State :=
  if s.gated.isEmpty then s
  else (List.range ((b % 64 + n + 63) / 64)).foldl (fun s i => wakeBank s (Config.homeSlice (b / 64 + i)).val) s

/-- A request to a line from another core recalls a lease on it (R241). -/
def recallLease (s : State) (core line : Nat) : State :=
  match nget? s.leases line with
  | some h => if h = core then s else { s with leases := nerase s.leases line }
  | none => s

/-- A request of core c reaches the home slice of a line: the slice is awake, and another core's lease on the line is recalled
(R241, R352). -/
def reachLine (s : State) (c line : Nat) : State := recallLease (wakeBank s (Config.homeSlice line).val) c line

/-- Requests to several lines. -/
def reachLines (s : State) (c : Nat) (lines : List Nat) : State := lines.foldl (fun s x => reachLine s c x) s

/-! ### Reading and writing -/

/-- The w bits at a physical bit address, read under a key slot. -/
def physRead (s : State) (key pa w : Nat) : Nat :=
  if isInternal pa then internalBits s pa w
  else bitsAt (keyedBytes s key (pa / 8) (byteSpan pa w)) (pa % 8) w

/-- A write of the header word of a fault buffer or of an error log: DROP is cleared by 1, CLR empties (R313, R369). -/
def clearFaults (f : FaultBuf) (v : Nat) : FaultBuf :=
  let f := if bitsAt v 62 1 = 1 then { f with nrec := 0, lost := 0 } else f
  if bitsAt v 63 1 = 1 then { f with drop := false } else f

/-- The frames that an error log's entries name. -/
def loggedFrames (f : FaultBuf) : List Nat := (List.range f.nrec).map fun i => (nget f.entries {} i).va / 2 ^ 19

/-- A write of an error log's header: CLR also starts the counts of the frames it named anew (R321; log 19). -/
def clearLog (s : State) (die v : Nat) : State :=
  let d := getDie s die
  let s := putDie s die { d with log := clearFaults d.log v }
  if bitsAt v 62 1 = 1 then
    { s with corrected := s.corrected.filter fun e => !(loggedFrames d.log).contains e.1 }
  else s

/-- A write under a mask into the device-internal range: only W1C and WO bits act (R9, R313, R321, R348, R355). `v` is the
written value shifted to the word's bits, `mask` its bits. -/
def internalWriteWord (s : State) (i v : Nat) : State :=
  let a := 64 * i
  if a < 0x20000 then
    (if a % 2048 = 0 then onPart s (a / 2048) fun p => { p with fbuf := clearFaults p.fbuf v } else s)
  else if a < 0x60000 then
    (if (a - 0x20000) % 2 ^ 16 = 0 then clearLog s ((a - 0x20000) / 2 ^ 16) v else s)
  else if a < 0x64000 then
    (if a % 256 = 0 then
      (if a = 0x60000 then { s with power := { s.power with enj0 := s.power.enj0 &&& ~~~ BitVec.ofNat 64 v } }
       else onPart s ((a - 0x60000) / 256) fun p => { p with enj := p.enj &&& ~~~ BitVec.ofNat 64 v })
     else s)
  else s

/-- The words of a write into the range; bits outside the write are 0 and act on nothing. -/
def internalWriteWords (s : State) (i v : Nat) : Nat → State
  | 0 => s
  | n + 1 => internalWriteWords (internalWriteWord s i (v % 2 ^ 64)) (i + 1) (v / 2 ^ 64) n

/-- The w bits at a physical bit address written under a mask of exactly those bits (R55), by core c (0x2000 when no core
writes): the line's home slice wakes, leases of other cores are recalled and monitors fire. An address that lies neither in the
384 GiB of HBM nor in the device-internal range is written and read as memory here: the spec says nothing of it, and no page
that the service maps names one (DESIGN CHOICE, log 74). -/
def physWrite (s : State) (c key pa w v : Nat) : State :=
  let s := fireGlobal (reachLine s c (lineOf pa)) pa w
  if isInternal pa then
    internalWriteWords s ((pa - internalBase) / 64) (v % 2 ^ w * 2 ^ (pa % 64)) ((pa % 64 + w + 63) / 64)
  else
    let n := byteSpan pa w
    keyedWrite s (materialOf s key) (pa / 8) n (setBits (keyedBytes s key (pa / 8) n) (pa % 8) w v)

/-- The agent number of a write that no core makes. -/
def noCore : Nat := 0x2000

/-! ### Pools (R45, R47, R233) -/

def poolRead (s : State) (c a w : Nat) : Nat := (getCore s c).pool.bits a w
def poolWrite (s : State) (c a w v : Nat) : State :=
  firePool (onCore s c fun k => { k with pool := k.pool.setBits a w v }) c a w

/-- The range checks of a strand's pool access (R47): the code that fails. -/
def poolFault (k : CoreSt) (a w : Nat) : Option Nat :=
  if 2 ^ 20 < a + w then some 0x100
  else if a < bitsAt k.pword.toNat 0 6 * 2 ^ 15 then some 0x101
  else none

end Sys2Proof.Machine
end

