-- ==== Sys2Proof/Machine/Translate.lean ====
section
/-! DEFINITION. Translation: page-table entries, the walk, the two levels of TLB (19 R307 to R311, R318; 20 R324). -/

namespace Sys2Proof.Machine

/-- Bits [63:57] equal bit 56 (R46). -/
def canonical (va : Nat) : Bool := bitsAt va 56 8 == 0 || bitsAt va 56 8 == 255

/-- A 128-bit entry with its physical address (R308). -/
structure Pte where
  addr : Nat
  bits : Nat
  deriving DecidableEq, Repr

def Pte.type (e : Pte) : Nat := bitsAt e.bits 0 2
def Pte.next (e : Pte) : Nat := bitsAt e.bits 91 37 * 2 ^ 9
def Pte.pfn (e : Pte) : Nat := bitsAt e.bits 101 27
def Pte.key (e : Pte) : Nat := bitsAt e.bits 91 10
def Pte.kind (e : Pte) : Nat := bitsAt e.bits 89 2
def Pte.xr (e : Pte) : Bool := bitsAt e.bits 88 1 == 1
def Pte.wr (e : Pte) : Bool := bitsAt e.bits 87 1 == 1
def Pte.rd (e : Pte) : Bool := bitsAt e.bits 86 1 == 1
def Pte.peer (e : Pte) : Bool := bitsAt e.bits 85 1 == 1
def Pte.dev (e : Pte) : Nat := bitsAt e.bits 77 8
def Pte.dirty (e : Pte) : Bool := bitsAt e.bits 75 1 == 1

/-- Index of a walk at a level (R307). -/
def walkIndex (va lvl : Nat) : Nat :=
  match lvl with
  | 3 => bitsAt va 45 12
  | 2 => bitsAt va 33 12
  | 1 => bitsAt va 24 9
  | _ => bitsAt va 19 5

/-- Bits of the page that a leaf at a level maps (R307). -/
def leafBits (lvl : Nat) : Nat :=
  match lvl with
  | 0 => 19
  | 1 => 24
  | _ => 33

/-- Whether a key slot may stand in a leaf of a partition: it holds a key, and for a tenant's partition it is bound to
the tenant and is not slot 0 (R309, R324). Tag 0 stands for the resident service. -/
def keyUsable (s : State) (tag slot : Nat) : Bool :=
  match nget? s.keys slot with
  | none => false
  | some (owner, _) => tag == 0 || (slot != 0 && owner == (getPart s tag).tenant)

/-- A leaf at a level is malformed (R309). -/
def leafBad (s : State) (tag lvl : Nat) (e : Pte) : Bool :=
  lvl == 3 || bitsAt e.bits 2 73 != 0 || e.kind == 3 || e.pfn % 2 ^ (leafBits lvl - 19) != 0
    || (e.peer && e.dev == 0) || !keyUsable s tag e.key

/-- How a walk ends (R309): a translation; a miss with the level where it stopped and whether it is marked BAD; a
refusal. -/
inductive WalkEnd where
  | hit (x : Xlat)
  | miss (lvl : Nat) (bad : Bool)
  | refused
  deriving DecidableEq, Repr

/-- The translation a leaf gives. -/
def leafXlat (tag va lvl : Nat) (e : Pte) : Xlat :=
  { tag := tag, base := va - va % 2 ^ leafBits lvl, size := 2 ^ leafBits lvl, frame := e.pfn * 2 ^ 19, key := e.key,
    kind := e.kind, xr := e.xr, wr := e.wr, rd := e.rd, peer := e.peer, dev := e.dev, leaf := e.addr, dirty := e.dirty }

def readPte (s : State) (table va lvl : Nat) : Pte :=
  let a := table + walkIndex va lvl * 128
  ⟨a, s.mem.bits a 128⟩

/-- The walk from a table at a level (R307, R309); `fuel` is the level plus one. -/
def walkFrom (s : State) (tag va : Nat) : Nat → Nat → WalkEnd
  | 0, _ => .miss 0 true
  | lvl + 1, table =>
    let e := readPte s table va lvl
    match e.type with
    | 0 => .miss lvl false
    | 3 => .refused
    | 2 => if leafBad s tag lvl e then .miss lvl true else .hit (leafXlat tag va lvl e)
    | _ => if bitsAt e.bits 2 89 != 0 || lvl == 0 then .miss lvl true else walkFrom s tag va lvl e.next

/-- The root of a partition's tables; tag 0 stands for the resident service (R307, R313). -/
def rootOf (s : State) (tag : Nat) : Nat := if tag = 0 then s.svcRoot else (getPart s tag).root

def walk (s : State) (tag va : Nat) : WalkEnd := walkFrom s tag va 4 (rootOf s tag)

/-- The lines of the entries that a walk from a table reads, and those of a partition's walk. -/
def walkLinesFrom (s : State) (va : Nat) : Nat → Nat → List Nat
  | 0, _ => []
  | lvl + 1, table =>
    let e := readPte s table va lvl
    lineOf e.addr :: if e.type == 1 then walkLinesFrom s va lvl e.next else []

/-- A walk reads its entries at their home slices, which it wakes (R241, R309, R352). -/
def reachWalk (s : State) (tag va : Nat) : State := reachLines s noCore (walkLinesFrom s va 4 (rootOf s tag))

/-- A TLB entry covers an address of a partition. -/
def Xlat.covers (x : Xlat) (tag va : Nat) : Bool :=
  x.tag == tag && decide (x.base ≤ va) && decide (va < x.base + x.size)

/-- The physical bit address of a covered address; a peer's addresses lie above this device's 46 bits, by its device
number. -/
def Xlat.phys (x : Xlat) (va : Nat) : Nat := x.frame + (va - x.base) + (if x.peer then x.dev * 2 ^ 46 else 0)

/-- The translation that a core has cached, first level before second (R310). -/
def cached (s : State) (c va : Nat) : Option Xlat :=
  let tag := tagOf s c
  match (getCore s c).tlb.find? (fun x => x.covers tag va) with
  | some x => some x
  | none => (getDie s (dieOf c)).tlb.find? (fun x => x.covers tag va)

/-- The translation that a core has, or would find by a walk: what a check made without an access uses. -/
def peekXlat (s : State) (c va : Nat) : Option Xlat :=
  match cached s c va with
  | some x => some x
  | none =>
    match walk s (tagOf s c) va with
    | .hit x => some x
    | _ => none

/-- The second-level entries of a list that a tenant holds, over all its partitions. -/
def tlbHeld (s : State) (l : List Xlat) (tenant : Nat) : Nat := (l.filter fun y => holderOf s y.tag == tenant).length

/-- A list, newest first, without the oldest entry that may leave. -/
def dropOldest (may : Xlat → Bool) (l : List Xlat) : List Xlat :=
  match l.reverse.findIdx? may with
  | some i => l.eraseIdx (l.length - 1 - i)
  | none => l

/-- A die's second-level TLB makes room for an entry of a tenant. At its quota the tenant gives up its own oldest entry. When no
entry is left beside those reserved to other active tenants, one leaves that is the tenant's, the service's or above its holder's
64 (R310, R371; the order of replacement is the model's, log 13). -/
def tlbRoom (s : State) (tenant : Nat) (l : List Xlat) : List Xlat :=
  let quota := if tenant = 2 ^ 32 then 4096 else (getTenant s tenant).tlbQuota
  let l := if quota ≤ tlbHeld s l tenant then dropOldest (fun y => holderOf s y.tag == tenant) l else l
  if leavesReserved s 4096 64 tenant l.length (tlbHeld s l) then l
  else dropOldest (fun y => holderOf s y.tag == tenant || y.tag == 0 || decide (64 < tlbHeld s l (holderOf s y.tag))) l

/-- Put a translation into both levels: among the 32 entries of the core, the oldest of which leaves, and into its die's
(R310). -/
def fillTlb (s : State) (c : Nat) (x : Xlat) : State :=
  let s := onCore s c fun k => { k with tlb := (x :: k.tlb.filter (· != x)).take 32 }
  onDie s (dieOf c) fun d => { d with tlb := x :: tlbRoom s (holderOf s x.tag) (d.tlb.filter (· != x)) }

/-- One bit of a table entry set by an indivisible OR at its home slice, as a write at sy (R309). -/
def pteOr (s : State) (a : Nat) : State :=
  let s := reachLine s noCore (lineOf a)
  fireGlobal { s with mem := s.mem.setBits a 1 1 } a 1

/-- Set AC of the leaf when a walk fills a TLB (R308). -/
def setAccessed (s : State) (x : Xlat) : State := pteOr s (x.leaf + 76)

/-- Set DT of a leaf before the first write through it (R308). -/
def setDirty (s : State) (leaf : Nat) : State :=
  if s.mem.bits (leaf + 75) 1 = 1 then s else pteOr s (leaf + 75)

/-- The part of an access of w bits at a covered address. -/
def Xlat.part (x : Xlat) (va w : Nat) : Part := ⟨x.phys va, w, x.key, x.leaf⟩

end Sys2Proof.Machine
end

