-- ==== Sys2Proof/Machine/Home.lean ====
section
/-! DEFINITION. What a home slice does with one request: reads, masked writes, atomics and mark operations, each at one
point in the slice's order (01 R18; 03 R54 to R57; 07 R139 to R142, R148 to R153; 18 R301). -/

namespace Sys2Proof.Machine

/-! ### Atomics (R138 to R140) -/

/-- Width of a lane or atomic type (R109). -/
def vtypeWidth : VType → Nat
  | .i t => t.width
  | .f t => (ftypeFmt t).width

/-- The integer operations of an atomic on w-bit values (R139). -/
def amoInt (t : IType) (op : AmoI) (old b : Nat) : Nat :=
  match op with
  | .add => (old + b) % 2 ^ t.width
  | .and => old &&& b
  | .or => old ||| b
  | .xor => old ^^^ b
  | .min => if readTyped t b < readTyped t old then b else old
  | .max => if readTyped t old < readTyped t b then b else old
  | .swap => b

/-- The float operations of an atomic (R139): fadd rounds under rne. -/
def amoFloat (t : FType) (op : AmoF) (old b : Nat) : Nat :=
  match op with
  | .swap => b
  | .fadd => floatAdd (ftypeFmt t) .rne 0 old b
  | .fmin => floatMin (ftypeFmt t) old b
  | .fmax => floatMax (ftypeFmt t) old b

def amoWidth : AmoArg → Nat
  | .int t _ => t.width
  | .flt t _ => (ftypeFmt t).width

/-- op(old, b) of an AMO or RED (R139). -/
def amoNew (f : AmoArg) (old b : Nat) : Nat :=
  match f with
  | .int t op => amoInt t op (old % 2 ^ t.width) (b % 2 ^ t.width)
  | .flt t op => amoFloat t op (old % 2 ^ (ftypeFmt t).width) (b % 2 ^ (ftypeFmt t).width)

/-- The old value as gD receives it: extended for an integer type, zeros above for a float type (R139). -/
def oldExtended (t : VType) (old : Nat) : Nat :=
  match t with
  | .i t => extendTyped t old
  | .f t => old % 2 ^ (ftypeFmt t).width

def amoType : AmoArg → VType
  | .int t _ => .i t
  | .flt t _ => .f t

/-- The type of an atomic, and what it writes: nothing when a CAS fails (R140). -/
def atomicType : AtomicFn → VType
  | .amo f _ => amoType f
  | .cas t _ _ => t
def atomicNew (fn : AtomicFn) (old : Nat) : Option Nat :=
  match fn with
  | .amo f b => some (amoNew f old b)
  | .cas t cmp new => if old % 2 ^ vtypeWidth t = cmp % 2 ^ vtypeWidth t then some new else none

/-- An atomic performed under a lease, or at its home slice, which it reaches: counted in ACNT, and an uncontended line is leased to
the core (R142, R241). -/
def placeAtomic (s : State) (c line : Nat) : State :=
  if nget? s.leases line = some c then
    onCore s c fun k => { k with acnt := bumpAcnt k.acnt true }
  else
    let s := reachLine s c line
    if Config.contended s.draw line then onCore s c fun k => { k with acnt := bumpAcnt k.acnt false }
    else onCore { s with leases := nset s.leases line c } c fun k => { k with acnt := bumpAcnt k.acnt true }
where
  /-- One more atomic: ALEASE in [63:32] or AHOME in [31:0], each wrapping within its half. -/
  bumpAcnt (a : Word) (lease : Bool) : Word :=
    if lease then BitVec.ofNat 64 ((a.toNat / 2 ^ 32 + 1) % 2 ^ 32 * 2 ^ 32 + a.toNat % 2 ^ 32)
    else BitVec.ofNat 64 (a.toNat / 2 ^ 32 * 2 ^ 32 + (a.toNat % 2 ^ 32 + 1) % 2 ^ 32)

/-- One part written, its leaf marked dirty first (R55, R308). -/
def writePart (s : State) (c : Nat) (p : Part) (v : Nat) : State := physWrite (setDirty s p.leaf) c p.key p.pa p.w v

/-- An atomic on one part: the state after it and the old value (R57, R138). -/
def doAtomic (s : State) (c : Nat) (p : Part) (fn : AtomicFn) : State × Nat :=
  let old := physRead s p.key p.pa p.w
  let s := placeAtomic s c (lineOf p.pa)
  match atomicNew fn old with
  | some v => (writePart s c p v, old)
  | none => (s, old)

/-! ### Parts (R53) -/

/-- The value read part by part, the lower part in the low bits. -/
def readParts (s : State) : List Part → Nat
  | [] => 0
  | p :: ps => physRead s p.key p.pa p.w + 2 ^ p.w * readParts s ps

/-- A value written part by part. -/
def writeParts (s : State) (c : Nat) : List Part → Nat → State
  | [], _ => s
  | p :: ps, v => writeParts (writePart s c p v) c ps (v / 2 ^ p.w)

/-- A value cut into parts of some widths. -/
def cutParts : List Nat → Nat → List Nat
  | [], _ => []
  | w :: ws, v => v % 2 ^ w :: cutParts ws (v / 2 ^ w)

/-- The value that parts of some widths make, the lower part in the low bits; a part not read yet counts as 0. -/
def joinParts : List Nat → List (Option Nat) → Nat
  | w :: ws, v :: vs => v.getD 0 % 2 ^ w + 2 ^ w * joinParts ws vs
  | _, _ => 0

/-- The places of the values that are still to be read. -/
def unread (got : List (Option Nat)) : List Nat := (List.range got.length).filter fun i => got[i]? == some none

/-- The part performed next: where two are left, another agent may see either of them first (R53), so that a free value
chooses. -/
def nextPart (s : State) : List Nat → Nat
  | [i] => i
  | todo => (if Config.freeWord s.draw 0 % 2 = 0 then todo.head? else todo.getLast?).getD 0

/-! ### Peers (R246, R338) -/

/-- A port that is UP towards a device: the lowest-numbered. -/
def upPort (s : State) (dev : Nat) : Option Nat := (s.ports.find? fun e => e.2.st == .up && e.2.pdev == dev).map (·.1)
def portTo (s : State) (dev : Nat) : Bool := s.ports.any fun e => e.2.st == .up && e.2.pdev == dev

/-- A request leaves for a peer now. -/
def peerLeaves (s : State) (r : PeerReq) : State :=
  { s with peers := nset s.peers s.nextPeer { r with at_ := s.now, port := (upPort s r.dev).getD 0 }, nextPeer := s.nextPeer + 1 }

/-- A request for whose answer no strand waits: a RED, or a write by the hardware. -/
def postPeer (s : State) (c slot sid dev : Nat) (q : MemReq) : State :=
  peerLeaves s { core := c, slot := slot, sid := sid, engine := none, dev := dev, q := q, at_ := s.now, red := true,
                 pc := (getStrand s c slot).pc }

/-! ### The doorbell (R339) -/

/-- Posts of a partition that are outstanding: taken and not ended, or still to be taken, but for those that found the queue full. -/
def outstandingPosts (s : State) (tag : Nat) : Nat :=
  s.groups.foldl (fun n e => n + (e.2.posts.filter fun p => p.tag == tag).length)
    ((getPart s tag).posts.filter fun p => !p.2).length

/-- Every store that touches the partition's doorbell posts the address the doorbell then holds; a post that finds 64 outstanding finds
the queue full. -/
def ringDoorbell (s : State) (c ea w : Nat) : State :=
  let tag := tagOf s c
  let d := (getPart s tag).dbell.toNat
  if tag != 0 && d != 0 && overlaps ea w d 64 then
    match peekXlat s c d with
    | some x =>
      let full := decide (64 ≤ outstandingPosts s tag)
      onPart s tag fun p => { p with posts := p.posts ++ [(physRead s x.key (x.phys d) 64, full)] }
    | none => s
  else s

/-! ### Values -/

/-- A loaded value as its destination receives it (R135). -/
def loadedValue (w : Nat) (sx : Bool) (v : Nat) : Nat := if sx then sextTo64 w v else v

/-! ### Marks (R148 to R153, R301) -/

/-- The field of a partition that holds an address and is LIVE or FROZEN (R148). -/
def fieldOf (s : State) (tag ea : Nat) : Option (Nat × Field) :=
  (getPart s tag).fields.find? fun e =>
    e.2.st != .created && decide (e.2.base ≤ ea) && decide (ea < e.2.base + 32 * e.2.rows * e.2.cols)

/-- The mark checks of R148: the code that fails. `dep`, `tadv` say which instruction asks. -/
def markFault (s : State) (tag ea : Nat) (dep tadv : Bool) : Option Nat :=
  match fieldOf s tag ea with
  | none => some 0x240
  | some (fid, f) =>
    if (dep || tadv) && f.st == .frozen then some 0x241
    else if dep && fid == 0 then some 0x242
    else if tadv && f.tsrc != 0 then some 0x243
    else none

/-- A deposit on a cell at a field's tick: the word written and the magnitude (R150, R301). -/
def depositWord (f : Field) (word d : Nat) (cmb : Cmb) : Nat × Nat :=
  let v := min (markCombine cmb (markAt word f.tick f.fade) (d % 2 ^ 16)) f.satv
  (markWord v f.tick, v)

/-- DEP on a cell (R150). -/
def doDep (s : State) (c : Nat) (f : Field) (p : Part) (d : Nat) (cmb : Cmb) : State × Nat :=
  let (word, v) := depositWord f (physRead s p.key p.pa 32) d cmb
  (writePart s c p word, markResult 1 0 f.tick v)

/-- MRD of a cell (R151). -/
def doMrd (s : State) (f : Field) (p : Part) : Nat :=
  markResult 1 0 f.tick (markAt (physRead s p.key p.pa 32) f.tick f.fade)

/-- The result of a SENSE from the values of its positions at a tick (R153). -/
def senseResult (tick start : Nat) (vals : List (Option Nat)) : Nat :=
  let (best, cnt, idx) := senseChoose vals start
  markResult cnt idx tick best

/-! ### One request (R18, R54) -/

/-- What performing a request gives: the state, and the request still to be performed or the reply it makes. -/
inductive Performed where
  | done (s : State) (r : Option Reply)
  | more (s : State) (q : Req)
  deriving DecidableEq, Repr

/-- The field of a mark request, if it still belongs to the launch it belonged to when the request was made (R302). -/
def reqField (s : State) (tag fid launch : Nat) : Option Field :=
  (getField? s tag fid).filter fun f => f.launch == launch

/-- The next part of a load is read, from memory or the pool by `rd`. -/
def readNext (s : State) (q : Req) (w : Nat) (sx : Bool) (dst : Dst) (ws : List Nat) (got : List (Option Nat))
    (rd : Nat → Option Nat) (op : List (Option Nat) → ReqOp) : Performed :=
  let i := nextPart s (unread got)
  let got := got.set i (rd i)
  if (unread got).isEmpty || (rd i).isNone then
    .done s (some (.value q.slot q.sid dst (loadedValue w sx (joinParts ws got))))
  else .more s { q with op := op got }

/-- A request performed at its home slice, or in its core's pool, by core c: of a split access one part each time (R53), of a
SENSE one cell, pinned at the tick of its first (R153, R299). -/
def performReq (s : State) (c : Nat) (q : Req) : Performed :=
  match q.op with
  | .read w sx dst got =>
    let s := reachLines s c (q.parts.map fun p => lineOf p.pa)
    readNext s q w sx dst (q.parts.map (·.w)) got (fun i => (q.parts[i]?).map fun p => physRead s p.key p.pa p.w)
      fun got => .read w sx dst got
  | .write w vals ack =>
    let i := nextPart s (List.range q.parts.length)
    let s := match q.parts[i]?, vals[i]? with
      | some p, some v => writePart s c p v
      | _, _ => s
    if q.parts.length ≤ 1 then
      .done (if q.copy.isSome then s else ringDoorbell s c q.ea w) (if ack then some (.value q.slot q.sid .none 0) else none)
    else .more s { q with parts := q.parts.eraseIdx i, op := .write w (vals.eraseIdx i) ack }
  | .poolRead w sx dst parts got =>
    readNext s q w sx dst (parts.map (·.2)) got (fun i => (parts[i]?).map fun p => poolRead s c p.1 p.2)
      fun got => .poolRead w sx dst parts got
  | .poolWrite todo =>
    let i := nextPart s (List.range todo.length)
    let s := match todo[i]? with
      | some (a, w, v) => poolWrite s c a w v
      | none => s
    if todo.length ≤ 1 then .done s (if q.copy.isSome then none else some (.value q.slot q.sid .none 0))
    else .more s { q with op := .poolWrite (todo.eraseIdx i) }
  | .atomic fn dst =>
    match q.parts with
    | p :: _ =>
      let (s', old) := doAtomic s c p fn
      .done s' (some (.value q.slot q.sid dst (oldExtended (atomicType fn) old)))
    | [] => .done s none
  | .dep tag fid launch d cmb dst =>
    match reqField s tag fid launch, q.parts with
    | some f, p :: _ =>
      if f.st = .frozen then .done s (some (.trap q.slot q.sid 0x241 q.ea))
      else
        let (s', r) := doDep s c f p d cmb
        .done s' (some (.value q.slot q.sid dst r))
    | _, _ => .done s (some (.trap q.slot q.sid 0x240 q.ea))
  | .mrd tag fid launch dst =>
    match reqField s tag fid launch, q.parts with
    | some f, p :: _ =>
      let s := reachLine s c (lineOf p.pa)
      .done s (some (.value q.slot q.sid dst (doMrd s f p)))
    | _, _ => .done s (some (.trap q.slot q.sid 0x240 q.ea))
  | .sense tag fid launch pinned todo vals start dst =>
    match reqField s tag fid launch with
    | none => .done s (some (.trap q.slot q.sid 0x240 q.ea))
    | some f =>
      match todo with
      | [] => .done s (some (.value q.slot q.sid dst (senseResult f.tick start vals)))
      | o :: rest =>
        let s := match o with
          | some e => reachLine s c (lineOf e.2.pa)
          | none => s
        let v := o.map fun e => markAt (physRead s e.2.key e.2.pa 32) f.tick f.fade
        if rest.isEmpty then .done s (some (.value q.slot q.sid dst (senseResult f.tick start (vals ++ [v]))))
        else .more s { q with op := .sense tag fid launch (some (pinned.getD f.tick)) rest (vals ++ [v]) start dst }

/-- A request performed to its end at once: for a drain. -/
def performAll (s : State) (c : Nat) : Nat → Req → State × Option Reply
  | 0, _ => (s, none)
  | n + 1, q =>
    match performReq s c q with
    | .done s r => (s, r)
    | .more s q => performAll s c n q

/-- The address that a request's soft error is reported with: that of the cell a SENSE reads next, else the access's own, which
is that of its lower part (R53, R134). -/
def errorAddr (q : Req) : Nat :=
  match q.op with
  | .sense _ _ _ _ todo _ _ _ => ((todo.findSome? id).map (·.1)).getD q.ea
  | _ => q.ea

end Sys2Proof.Machine
end

