-- ==== Sys2Proof/Machine/Flags.lean ====
section
/-! DEFINITION. The conditions that write a guard register or a lane mask (05 R90, R98, R105; 06 R113): this machine has
no other flags. -/

namespace Sys2Proof.Machine

/-- The integer conditions (R90): operands compared as t= says, eq, ne, tst and ntst on the bits. -/
def intCond (t : IType) (cc : Cc) (a b : Nat) : Bool :=
  let ia := a % 2 ^ t.width
  let ib := b % 2 ^ t.width
  match cc with
  | .eq => ia == ib
  | .ne => ia != ib
  | .lt => decide (readTyped t a < readTyped t b)
  | .ge => decide (readTyped t b ≤ readTyped t a)
  | .le => decide (readTyped t a ≤ readTyped t b)
  | .gt => decide (readTyped t b < readTyped t a)
  | .tst => (ia &&& ib) != 0
  | .ntst => (ia &&& ib) == 0

/-- The float conditions (R105): with a NaN operand only un and ne hold. -/
def floatCond (t : FType) (cc : FCc) (a b : Nat) : Bool :=
  let x := decodeF (ftypeFmt t) a
  let y := decodeF (ftypeFmt t) b
  if x.isNan || y.isNan then (match cc with | .un | .ne => true | _ => false)
  else match cc with
    | .eq => x.eqv y
    | .lt => x.lt y
    | .le => x.lt y || x.eqv y
    | .un => false
    | .ne => !x.eqv y
    | .gt => y.lt x
    | .ge => y.lt x || x.eqv y

end Sys2Proof.Machine
end

