-- ==== Sys2Proof/Machine/Operands.lean ====
section
/-! DEFINITION. The register operands of an instruction: direct and relative names, guards, index registers, what each
form reads and writes, and the allocation checks (04 R77 to R80). -/

namespace Sys2Proof.Machine

/-! ### Reading registers -/

/-- g0 reads zero (R77). -/
def rdG (t : Strand) (n : Fin 64) : Word := if n = 0 then 0 else t.g[n]
def rdV (t : Strand) (n : Fin 32) : VWord := t.v[n]
/-- k0 reads true (R77). -/
def rdK (t : Strand) (n : Fin 8) : Bool := if n = 0 then true else t.k[n]
def rdJ (t : Strand) (n : Fin 8) : BitVec 16 := t.j[n]

/-! ### Writing registers -/

/-- g0 ignores writes (R77). -/
def wrG (t : Strand) (n : Fin 64) (x : Word) : Strand := if n = 0 then t else { t with g := t.g.set n x }
def wrV (t : Strand) (n : Fin 32) (x : VWord) : Strand := { t with v := t.v.set n x }
/-- k0 ignores writes (R77). -/
def wrK (t : Strand) (n : Fin 8) (x : Bool) : Strand := if n = 0 then t else { t with k := t.k.set n x }
def wrJ (t : Strand) (n : Fin 8) (x : BitVec 16) : Strand := { t with j := t.j.set n x }

/-! ### Operand forms -/

/-- The register a G operand names; a relative name reads its index register (R77, R79). -/
def gReg (t : Strand) : GOp → Fin 64
  | .g n => n
  | .rel j => Fin.ofNat 64 (rdJ t j).toNat

/-- The value of a G operand. -/
def gVal (t : Strand) (o : GOp) : Nat := (rdG t (gReg t o)).toNat
def vVal (t : Strand) (n : Fin 32) : Nat := (rdV t n).toNat

/-- Write a natural number, modulo 2^64, to a G operand's register. The register is the one named before any write of
the instruction (R79): `t0` is the strand as the instruction found it. -/
def setG (t0 t : Strand) (o : GOp) (x : Nat) : Strand := wrG t (gReg t0 o) (BitVec.ofNat 64 x)
def setV (t : Strand) (n : Fin 32) (x : Nat) : Strand := wrV t n (BitVec.ofNat 128 x)

/-- MOV's source value: a, j sign-extended, or 0 or 1 (R95). -/
def movSource (t : Strand) : GJK → Nat
  | .g o => gVal t o
  | .j n => wrapTo 64 (rdJ t n).toInt
  | .k n => (rdK t n).toNat
/-- MOV's destination: the low 16 bits for a J, nonzero or zero for a K (R95). -/
def movDest (t0 t : Strand) (d : GJK) (x : Nat) : Strand :=
  match d with
  | .g o => setG t0 t o x
  | .j n => wrJ t n (BitVec.ofNat 16 x)
  | .k n => wrK t n (x % 2 ^ 64 != 0)

/-! ### Allocation checks (R78) -/

/-- A register an instruction names, for the allocation checks: a G operand, a v register, or none. -/
inductive Named where
  | g (o : GOp)
  | v (n : Fin 32)
  | no
  deriving DecidableEq, Repr

def namedGJK : GJK → Named
  | .g o => .g o
  | _ => .no
def namedGJ : GJ → Named
  | .g o => .g o
  | _ => .no
def namedGV : GV → Named
  | .g o => .g o
  | .v n => .v n

/-- Step 10 on one operand: a direct name at or above the allocation, with its code and number (R78). -/
def directFault (gcount vcount : Nat) : Named → Option (Nat × Nat)
  | .g (.g n) => if gcount ≤ n.val then some (0x041, n.val) else none
  | .v n => if vcount ≤ n.val then some (0x042, n.val) else none
  | _ => none

/-- Step 12 on one operand: a relative index outside [0, gcount), with its code and the index sign-extended (R78). -/
def relativeFault (gcount : Nat) (t : Strand) : Named → Option (Nat × Nat)
  | .g (.rel j) =>
    let i := (rdJ t j).toInt
    if 0 ≤ i ∧ i < gcount then none else some (0x040, wrapTo 64 i)
  | _ => none

/-- The first failing operand in the order A, B, C, D (R78). -/
def firstFault (f : Named → Option (Nat × Nat)) (ns : List Named) : Option (Nat × Nat) :=
  (ns.findSome? f)

/-- A register used beyond the named ones, checked at step 13 (R111). -/
def extraV (vcount n : Nat) : Option (Nat × Nat) := if vcount ≤ n ∨ n = 32 then some (0x042, n) else none

/-- A register used beyond the named ones, by number (R111). -/
def vNum (st : Strand) (n : Nat) : Nat := if h : n < 32 then vVal st ⟨n, h⟩ else 0
def setVNum (st : Strand) (n x : Nat) : Strand := if h : n < 32 then setV st ⟨n, h⟩ x else st

/-! ### Guards (R80) -/

def guardHolds (t : Strand) (gd : Guard) : Bool := rdK t gd.k != gd.neg

end Sys2Proof.Machine
end

