-- ==== Sys2Proof/Machine/Nodes.lean ====
section
/-! DEFINITION. Deques and level nodes: pushes and pops, the load field's cell, counting, transitions, recorded causes
and handlers (15 R273 to R280; 16 R284 to R286; 18 R306; 09 R193). -/

namespace Sys2Proof.Machine

/-! ### Deques (R284) -/

/-- A push at the head: a full hardware part first moves its last record to the front of the ring. -/
def pushHead (k : CoreSt) (r : Rec) : CoreSt :=
  if k.deque.length < 32 then { k with deque := r :: k.deque }
  else { k with deque := r :: k.deque.dropLast, ring := k.deque.drop 31 ++ k.ring }

/-- A push at the tail: to the ring when it holds a record or the hardware part is full. -/
def pushTail (k : CoreSt) (r : Rec) : CoreSt :=
  if k.ring.isEmpty && decide (k.deque.length < 32) then { k with deque := k.deque ++ [r] }
  else { k with ring := k.ring ++ [r] }

/-- Stolen records that wait in a parked core's inbox: their places on the deque are taken (R284, R328). -/
def stolenInbox (k : CoreSt) : Nat :=
  k.inbox.countP fun r => match r with
    | .steal _ out (some _) => out != 0x206
    | _ => false

/-- Room for a push at the head, and for a push at the tail. -/
def roomHead (k : CoreSt) : Bool := k.deque.length + k.ring.length + stolenInbox k < 32 + 4096
def roomTail (k : CoreSt) : Bool := ((k.ring.isEmpty && k.deque.length < 32) || k.ring.length < 4096) && roomHead k

/-- The owner's pop, after a refill of up to 16 records when the hardware part is empty. -/
def popHead (k : CoreSt) : Option (Rec × CoreSt) :=
  let k := if k.deque.isEmpty then { k with deque := k.ring.take 16, ring := k.ring.drop 16 } else k
  match k.deque with
  | r :: rest => some (r, { k with deque := rest })
  | [] => none

/-! ### The load field (R191, R306) -/

/-- The split condition of a range (R190). -/
def splittable (lo hi grain : Nat) : Bool := 2 * 2 ^ grain ≤ hi - lo

/-- The sum of R191 of a core: records of deque and ring, and resident range strands that can be split. -/
def loadSum (s : State) (c : Nat) : Nat :=
  let k := getCore s c
  if k.parked then 0
  else min 65535 (k.deque.length + k.ring.length
    + ((List.range 8).filter fun l =>
        let t := getStrand s c l
        t.live && t.kind == .range && splittable t.rlo.toNat t.rhi.toNat t.grain).length)

/-- Where a field's cell lies in this device's memory, through the partition's tables; none for a cell in a peer's. -/
def cellPart (s : State) (tag : Nat) (f : Field) (row col : Nat) : Option Part :=
  let ea := f.base + 32 * (row * f.cols + col)
  match walk s tag ea with
  | .hit x => if x.peer then none else some (x.part ea 32)
  | _ => none

/-- The core's cell of its partition's load field takes its new value, stamped with the field's tick (R306). -/
def updateLoad (s : State) (c : Nat) : State :=
  let tag := tagOf s c
  match getField? s tag 0 with
  | none => s
  | some f =>
    match cellPart s tag f (meshY c) (meshX c) with
    | none => s
    | some p => writePart s noCore p (markWord (loadSum s c) f.tick)

/-- The cell of a core that no longer belongs to a partition reads 0: V and S (R306, R326). -/
def clearCell (s : State) (tag c : Nat) : State :=
  match getField? s tag 0 with
  | none => s
  | some f =>
    match cellPart s tag f (meshY c) (meshX c) with
    | none => s
    | some p => writePart s noCore p 0

def deqPushHead (s : State) (c : Nat) (r : Rec) : State :=
  updateLoad (onCore s c fun k => pushHead k { r with agedAt := s.now }) c
def deqPushTail (s : State) (c : Nat) (r : Rec) : State :=
  updateLoad (onCore s c fun k => pushTail k { r with agedAt := s.now }) c

/-! ### Nodes (R273 to R277) -/

def nodeEnded (n : Node) : Bool := n.status == .complete || n.status == .cancelled
/-- OPEN or DRAINING. -/
def nodeLives (n : Node) : Bool := !nodeEnded n

/-- A node of a partition that is OPEN or DRAINING. -/
def liveNode? (s : State) (tag n : Nat) : Option Node :=
  match getNode? s tag n with
  | some x => if nodeLives x then some x else none
  | none => none

/-- The parent index of a node whose parent's entry has been returned: no node has it. -/
def goneParent : Nat := 4096

/-- The node above a node: its parent, or the nearest ancestor whose entry remains; 0 for none. -/
def upOf (x : Node) : Nat := if x.parent = goneParent then x.line else x.parent

/-- The nearest ancestor, the node itself first, that satisfies a test (R280, R287). Levels rise, so six steps do. -/
def ancestor (s : State) (tag : Nat) (ok : Node → Bool) : Nat → Nat → Option Nat
  | 0, _ => none
  | fuel + 1, n =>
    match getNode? s tag n with
    | none => none
    | some x => if ok x then some n else if upOf x = 0 then none else ancestor s tag ok fuel (upOf x)

/-- Whether a node's cancel flag is set. -/
def nodeCancelled (s : State) (tag n : Nat) : Bool :=
  match getNode? s tag n with
  | some x => x.cf
  | none => false

/-- The launch of a node (R280): the launch whose node it or its nearest launch-level ancestor is. -/
def launchOfNode (s : State) (tag n : Nat) : Option (Nat × Launch) :=
  match ancestor s tag (fun x => x.lvl == 1) 6 n with
  | none => none
  | some ln => (getPart s tag).launches.find? fun e => e.2.node == ln

/-- Whether a node's parent has ended; a root node has none. -/
def parentEnded (s : State) (tag : Nat) (x : Node) : Bool :=
  x.parent == 0 || match getNode? s tag x.parent with
    | some p => nodeEnded p
    | none => true

/-- A node's entry returns to the quota. Nodes beneath it that remain lose it and stand beneath the next ancestor; a cancel flag that
is on its way to them through it is owed to them (R276, R278). Causes recorded against it go to that ancestor (R280). -/
def returnEntry (p : Partn) (n : Nat) (x : Node) : Partn :=
  let orphan := fun (y : Node) =>
    if upOf y = n then
      { y with parent := goneParent, line := upOf x, owed := y.owed || x.cf || x.owed, cfCore := if y.cf then y.cfCore else x.cfCore }
    else y
  let lines := p.lines.map fun e => if e.2 = n then (e.1, upOf x) else e
  { p with nodes := (nerase p.nodes n).map fun e => (e.1, orphan e.2), nodeFree := p.nodeFree ++ [n],
           lines := if upOf x = 0 then nerase lines n else nset lines n (upOf x) }

/-- A terminal node whose parent has ended, and that holds no record, returns its entry (R276). -/
def freeNode (s : State) (tag n : Nat) : State :=
  match getNode? s tag n with
  | some x =>
    if nodeEnded x && parentEnded s tag x && x.room.isEmpty then
      let s := onPart s tag fun p => returnEntry p n x
      if x.parent = 0 then
        { s with reports := s.reports ++ [⟨x.fcause, x.ftval, tag, n⟩] }
      else s
    else s
  | none => s

/-- Free the ended children of a node that has ended. -/
def freeChildren (s : State) (tag n : Nat) : State :=
  ((getPart s tag).nodes.filter fun e => e.2.parent == n && nodeEnded e.2).foldl (fun s e => freeNode s tag e.1) s

def nodeStCode : NodeSt → Nat
  | .opened => 0 | .draining => 1 | .complete => 2 | .cancelled => 3

/-- A sleeping LVLWAIT sees the status its node ends with (R276). -/
def wakeLvlwait (s : State) (tag n st : Nat) : State :=
  { s with strands := s.strands.map fun e =>
      match e.2.status with
      | .asleep (.lvlwait m d none) =>
        if m = n ∧ tagOf s (e.1 / 8) = tag then (e.1, { e.2 with status := .asleep (.lvlwait m d (some st)) }) else e
      | _ => e }

/-- Push one record at the head of a deque, or leave it at its node until there is room: older ones that wait there go first
(R284). -/
def pushOrHold (s : State) (tag n c : Nat) (r : Rec) : State :=
  if roomHead (getCore s c) && ((getNode? s tag n).map fun x => x.room.isEmpty).getD true then deqPushHead s c r
  else onNode s tag n fun x => { x with room := x.room ++ [(c, r)] }

/-- The records a node holds at JOIN become ready, oldest first, at the deque of the core the event chooses, or each at
the core where its strand issued the JOIN (R193). -/
def releaseHeld (s : State) (tag n : Nat) (core : Option Nat) : State :=
  match getNode? s tag n with
  | none => s
  | some x =>
    x.held.foldl (fun s r => pushOrHold s tag n (core.getD r.joinCore) { r with waiting := false })
      (onNode s tag n fun x => { x with held := [] })

/-- What a node becomes when its counter is 0 (R276): none when it stays. -/
def endStatus (x : Node) : Option NodeSt :=
  if x.lvl = 1 then none
  else if x.cf then some .cancelled
  else if x.status = .draining then some .complete
  else none

/-- A launch whose node's counter reached 0 moves to RETIRING (R263, R276). -/
def retireLaunchOf (s : State) (tag n : Nat) : State :=
  match (getPart s tag).launches.find? fun e => e.2.node == n with
  | some (i, l) => if l.st = .running then putLaunch s tag i { l with st := .retiring } else s
  | none => s

/-- A counter goes down by one; a change that would take it below 0 leaves the node as it is (R277). -/
def countDown (s : State) (tag n : Nat) : State := onNode s tag n fun x => if x.cnt = 0 then x else { x with cnt := x.cnt - 1 }

/-- A node ends, its sleepers see it, its parent's counter goes down, and what that brings about (R276); each level is
below its parent's, so six steps do. -/
def settleNode (tag : Nat) (core : Option Nat) : Nat → State → Nat → State
  | 0, s, _ => s
  | fuel + 1, s, n =>
    match getNode? s tag n with
    | none => s
    | some x =>
      if x.cnt ≠ 0 ∨ nodeEnded x then s
      else
        let s := releaseHeld s tag n core
        match endStatus x with
        | none => if x.lvl = 1 then retireLaunchOf s tag n else s
        | some st =>
          let s := wakeLvlwait (onNode s tag n fun x => { x with status := st }) tag n (nodeStCode st)
          let s := freeChildren s tag n
          if parentEnded s tag x then freeNode s tag n
          else settleNode tag core fuel (countDown s tag x.parent) x.parent

/-- A counter goes down by one, with what that brings about (R277). -/
def decNode (s : State) (tag n : Nat) (core : Option Nat) : State :=
  match getNode? s tag n with
  | none => s
  | some x =>
    if nodeEnded x || x.cnt == 0 then s
    else settleNode tag core 6 (countDown s tag n) n

/-- Whether a node counts nothing, so that a count down would take it below 0 (R277). -/
def counterEmpty (s : State) (tag n : Nat) : Bool :=
  match getNode? s tag n with
  | some x => x.cnt == 0
  | none => false

/-- Whether a node's counter would reach 2^32 (R277). -/
def counterFull (s : State) (tag n : Nat) : Bool :=
  match getNode? s tag n with
  | some x => decide (2 ^ 32 ≤ x.cnt + 1)
  | none => false

/-- A counter goes up by one; a change that would take it to 2^32 leaves the node as it is (R277). -/
def incNode (s : State) (tag n : Nat) : State :=
  onNode s tag n fun x => if 2 ^ 32 ≤ x.cnt + 1 then x else { x with cnt := x.cnt + 1 }

/-- A launch node ends when its launch is RETIRED (R276); the core is that of the instruction that ended it, if one did (R193). -/
def endLaunchNode (s : State) (tag n : Nat) (core : Option Nat) : State :=
  match getNode? s tag n with
  | none => s
  | some x =>
    let st := if x.cf then NodeSt.cancelled else .complete
    let s := wakeLvlwait (onNode s tag n fun x => { x with status := st }) tag n (nodeStCode st)
    let s := freeChildren s tag n
    if parentEnded s tag x then (if x.parent = 0 then s else freeNode s tag n)
    else settleNode tag core 6 (countDown s tag x.parent) x.parent

/-- The nodes a tenant holds, over all its partitions (R273). -/
def tenantNodes (s : State) (tenant : Nat) : Nat :=
  (s.parts.filter fun e => e.2.tenant == tenant).foldl (fun n e => n + e.2.nodes.length) 0

/-- The package-wide node store has an entry for a tenant (R273). -/
def nodeStoreRoom (s : State) (tenant : Nat) : Bool :=
  leavesReserved s 32768 256 tenant (s.parts.foldl (fun n e => n + e.2.nodes.length) 0) (tenantNodes s)

/-- A free node index: indices not used yet in rising order, then the oldest freed (R273, R276; the first part of that
order is the model's, log 14). Reused, it names the new node alone. -/
def pickNode (p : Partn) : Option (Nat × Partn) :=
  if p.nodeNext ≤ 4095 then some (p.nodeNext, { p with nodeNext := p.nodeNext + 1 })
  else match p.nodeFree with
    | n :: rest => some (n, { p with nodeFree := rest, lines := nerase p.lines n })
    | [] => none

/-- A node's entry as the resident service reads it (R273). -/
def nodeEntry (x : Node) : Nat :=
  x.hpc.toNat * 2 ^ 192 + x.ftval % 2 ^ 64 * 2 ^ 128 + x.cnt % 2 ^ 32 * 2 ^ 96 + x.parent % 2 ^ 12 * 2 ^ 84
    + x.lvl % 8 * 2 ^ 81 + nodeStCode x.status * 2 ^ 79 + x.cf.toNat * 2 ^ 78 + x.fcause % 2 ^ 10 * 2 ^ 68
    + x.ncause % 2 ^ 16 * 2 ^ 52

/-- Open a node beneath a parent (R274, R276); none when the tenant's quota, the node store or the table is used up. A node other than a
launch node that is opened under a set flag with counter 0 is CANCELLED at once. -/
def openNode (s : State) (tag parent lvl cnt : Nat) (st : NodeSt) (hpc : Option Word) : Option (State × Nat) :=
  let p := getPart s tag
  if (getTenant s p.tenant).nodeQuota ≤ tenantNodes s p.tenant || !nodeStoreRoom s p.tenant then none
  else match pickNode p with
    | none => none
    | some (n, p') =>
      let up := getNode? s tag parent
      let cf := (up.map (·.cf)).getD false
      let h := hpc.getD ((up.map (·.hpc)).getD 0)
      let x : Node := { hpc := h, cnt := cnt, parent := parent, lvl := lvl, status := st, cf := cf, cfCore := up.bind (·.cfCore) }
      let s := putNode (putPart s tag p') tag n x
      if cf && cnt == 0 && lvl != 1 then
        some (onNode s tag n fun x => { x with status := .cancelled }, n)
      else some (incNode s tag parent, n)

/-! ### Recorded causes and handlers (R280) -/

/-- A fresh identity for a strand (log 7). -/
def freshSid (s : State) : State × Nat := ({ s with nextSid := s.nextSid + 1 }, s.nextSid)

/-- The handler record of a cause taken by node n. -/
def handlerRec (s : State) (tag n : Nat) (x : Node) (code tval sid : Nat) : Rec :=
  { pc := x.hpc, g1 := BitVec.ofNat 64 code, g2 := BitVec.ofNat 64 tval, g3 := BitVec.ofNat 64 n, node := n, pri := 7,
    kidx := ((launchOfNode s tag n).map (·.2.kidx)).getD 0, sid := sid }

/-- The node that takes the causes recorded against a node: itself, or where its entry has been returned the nearest ancestor that has
one (R280). -/
def takerFrom (s : State) (tag node : Nat) : Nat :=
  if (getNode? s tag node).isSome then node else nget (getPart s tag).lines node node

/-- Record a cause against a node: taken by it, or by its nearest ancestor that lives; the first cause is kept; a handler
is pushed where the cause arose, or at the lowest-numbered placed core of the launch; without a handler the service is
told (R280), and so it is when the handler could not be counted in its node (R277; log 75). -/
def recordCause (s : State) (tag node : Nat) (core : Option Nat) (code tval : Nat) : State :=
  match ancestor s tag nodeLives 6 (takerFrom s tag node) with
  | none => { s with reports := s.reports ++ [⟨code, tval, tag, node⟩] }
  | some n =>
    let s := onNode s tag n fun x =>
      { x with
        fcause := if x.ncause = 0 then code else x.fcause
        ftval := if x.ncause = 0 then tval % 2 ^ 64 else x.ftval
        ncause := min 65535 (x.ncause + 1) }
    match getNode? s tag n with
    | none => s
    | some x =>
      if code = 0x3C3 ∨ x.hpc = 0 then { s with reports := s.reports ++ [⟨code, tval, tag, n⟩] }
      else if code = 0x200 then s
      else if counterFull s tag n then { s with reports := s.reports ++ [⟨code, tval, tag, n⟩] }
      else
        let (s, sid) := freshSid s
        let r := handlerRec s tag n x code tval sid
        let c := core.getD (((launchOfNode s tag n).bind (fun l => l.2.cores.head?)).getD 0)
        let s := incNode s tag n
        if roomHead (getCore s c) && x.handlers.isEmpty then deqPushHead s c r
        else onNode s tag n fun x => { x with handlers := x.handlers ++ [(c, r)] }

/-! ### Ends of strands and records -/

/-- A stage record or strand ends: its batch area is free and its epoch released (R290). -/
def releaseStage (s : State) (tag : Nat) (h : Option StageHold) : State :=
  match h with
  | none => s
  | some h => onQueue s tag h.queue fun q => { q with busy := q.busy.erase h.area, live := q.live.erase h.epoch }

/-- Whether a queue holds a record in its buffer, ring or batches (R289). -/
def queueHolds (q : Queue) : Bool := !q.buf.isEmpty || !q.ring.isEmpty || !q.busy.isEmpty

/-- The carry of a stage queue is added when it becomes non-empty and removed when it becomes empty (R289). -/
def settleCarry (s : State) (tag qn : Nat) (core : Option Nat) : State :=
  match getQueue? s tag qn with
  | none => s
  | some q =>
    if q.stagePc = 0 then s
    else match getLaunch? s tag q.launch with
      | none => s
      | some l =>
        if queueHolds q && !q.carry && !counterFull s tag l.node then
          incNode (putQueue s tag qn { q with carry := true }) tag l.node
        else if !queueHolds q && q.carry then decNode (putQueue s tag qn { q with carry := false }) tag l.node core
        else s

/-- Cause 0x200 of a retirement under a cancelled node (R195, R280). -/
def cancelCause : Nat := 0x200

/-- The TVAL of a recorded cause to which R212 gives none: a free value (log 24). -/
def openTval (s : State) : Nat := Config.freeWord s.draw 1

end Sys2Proof.Machine
end

