-- ==== Sys2Proof/Machine/Arrive.lean ====
section
/-! DEFINITION. Records written at EOPD, delayed faults, and delta pushes on their way to their buffers: consolidation and
drains (08 R181, R182; 09 R200; 16 R288, R289; 26 R367). -/

namespace Sys2Proof.Machine

/-! ### Writing a record at EOPD (R181, R182, R200) -/

/-- Write w bits at a global address of a core by a hardware write, line part by line part, each through the page that
holds it, to a peer when the page is a peer's; a part whose page is not mapped or not writable, or whose peer no port reaches,
is not written (log 15). -/
def hwWrite (s : State) (c ea w v : Nat) : Nat → State
  | 0 => s
  | n + 1 =>
    if w = 0 then s
    else
      let step := min w (512 - ea % 512)
      let s := if (cached s c ea).isNone then reachWalk s (tagOf s c) ea else s
      let s := match peekXlat s c ea with
        | some x =>
          if !canonical ea || !x.wr then s
          else if !x.peer then writePart s c (x.part ea step) (v % 2 ^ step)
          else if portTo s x.dev then
            postPeer (setDirty s x.leaf) c 0 0 x.dev { op := .store ea step (v % 2 ^ step), sc := .sy }
          else s
        | none => s
      hwWrite s c ((ea + step) % 2 ^ 64) (w - step) (v / 2 ^ step) n

/-! ### Delayed faults (R181, R200, R280) -/

/-- Whether a strand, resident or as a record, still exists. -/
def sidAlive (s : State) (sid : Nat) : Bool :=
  s.strands.any (fun e => e.2.live && e.2.sid == sid)
    || s.cores.any (fun e => e.2.deque.any (·.sid == sid) || e.2.ring.any (·.sid == sid))
    || s.parts.any (fun e => e.2.nodes.any fun n =>
        n.2.held.any (·.sid == sid) || n.2.room.any (·.2.sid == sid) || n.2.handlers.any (·.2.sid == sid))
    || s.steals.any (fun r => match r.reply with | some (_, some r) => r.sid == sid | _ => false)
    || s.cores.any (fun e => e.2.inbox.any fun r => match r with | .steal _ _ (some r) => r.sid == sid | _ => false)

/-- A delayed fault is left pending against its strand, or goes to the handler of the strand's node when the strand has
exited (R181, R200, R280). -/
def raiseDelayed (s : State) (f : Pending) (node : Nat) : State :=
  if sidAlive s f.sid then { s with pending := s.pending ++ [f] }
  else
    let s := hwWrite s f.core (getCore s f.core).eopd.toNat f.recordBits f.record 3
    recordCause s (tagOf s f.core) node (some f.core) f.code f.tval

/-! ### Delta queues: consolidation and drains (R200, R288) -/

/-- A delta record as 192 bits (R200). -/
def drecBits (r : DRec) : Nat :=
  r.epoch % 2 ^ 32 * 2 ^ 160 + wrapTo 32 r.mult * 2 ^ 128 + r.value % 2 ^ 64 * 2 ^ 64 + r.key % 2 ^ 64

/-- Entries of a buffer in drain order: by rising epoch, and within an epoch in order of insertion (R288). -/
def drainOrder (buf : List (DRec × Nat)) : List DRec :=
  (buf.map (·.1)).mergeSort fun x y => decide (x.epoch ≤ y.epoch)

/-- A drain, when the ring has room for every entry; otherwise it waits (R288). -/
def drained (q : Queue) : Option Queue :=
  if q.ring.length + q.buf.length ≤ 65536 then
    some { q with ring := q.ring ++ drainOrder q.buf, buf := [], draining := false }
  else none

/-- Drain a queue now, or mark that a drain waits. -/
def drainQueue (s : State) (tag qn : Nat) : State :=
  match getQueue? s tag qn with
  | none => s
  | some q => match drained q with
    | some q' => putQueue s tag qn q'
    | none => putQueue s tag qn { q with draining := true }

/-- What consolidation makes of a buffer (R200). -/
inductive Consolidated where
  | buffer (buf : List (DRec × Nat))
  | overflow
  | full
  deriving DecidableEq, Repr

/-- The same key, value and epoch. -/
def sameRecord (a b : DRec) : Bool := a.key == b.key && a.value == b.value && a.epoch == b.epoch

/-- The sum of two multiplicities lies outside 32 bits. -/
def multOverflow (x : Int) : Bool := decide (x < -(2 ^ 31 : Nat)) || decide ((2 ^ 31 : Nat) - 1 < x)

/-- Consolidate a record against a buffer (R200). -/
def consolidate (buf : List (DRec × Nat)) (r : DRec) (now : Nat) : Consolidated :=
  match buf.find? fun e => sameRecord e.1 r with
  | some e =>
    let x := e.1.mult + r.mult
    if multOverflow x then .overflow
    else if x = 0 then .buffer (buf.filter fun e => !sameRecord e.1 r)
    else .buffer (buf.map fun e => if sameRecord e.1 r then ({ e.1 with mult := x }, e.2) else e)
  | none =>
    if r.mult = 0 then .buffer buf
    else if 256 ≤ buf.length then .full
    else .buffer (buf ++ [(r, now)])

/-- The delayed fault of a push that overflowed (R200). -/
def overflowPending (c : Nat) (p : Push) : Pending :=
  { core := c, sid := p.sid, tag := none, job := none, code := 0x280, tval := p.queue, record := drecBits p.drec,
    recordBits := 192 }

/-- A push leaves its place of q2. -/
def dropPush (s : State) (c : Nat) (p : Push) : State := onCore s c fun k => { k with q2 := k.q2.erase p }

/-- A push reaches the buffer, whose home slice it wakes (R20): consolidated, or the buffer drained for it first; none while a drain
waits, and a drain that it finds no room for waits from then on (R200, R288). Where the consolidation leaves a stage queue empty, no
core's stage strand has emptied it, and the records that a node lets go then go each to the core of its JOIN (R193: DESIGN CHOICE,
log 83). -/
def pushArrives (s : State) (c : Nat) (p : Push) : Option State :=
  match getQueue? s p.tag p.queue with
  | none => some (dropPush s c p)
  | some q =>
    let s := wakeBank s q.home
    if q.draining then none
    else match consolidate q.buf p.drec s.now with
    | .buffer b => some (settleCarry (putQueue (dropPush s c p) p.tag p.queue { q with buf := b }) p.tag p.queue none)
    | .overflow => some (raiseDelayed (dropPush s c p) (overflowPending c p) p.node)
    | .full => match drained q with
      | none => some (putQueue s p.tag p.queue { q with draining := true })
      | some q' => match consolidate q'.buf p.drec s.now with
        | .buffer b => some (settleCarry (putQueue (dropPush s c p) p.tag p.queue { q' with buf := b }) p.tag p.queue none)
        | _ => none

/-- Whether any core's push on its way passes a test. -/
def pushOnWay (s : State) (which : Push → Bool) : Bool := s.cores.any fun e => e.2.q2.any which

/-- The place of a strand's next push among its own that are on their way, on whatever core it made them (R367). -/
def pushSeq (s : State) (sid : Nat) : Nat :=
  s.cores.foldl (fun n e => e.2.q2.foldl (fun n p => if p.sid = sid then max n (p.seq + 1) else n) n) 0

/-- A push is the first of its strand and queue of all on their way (R367). -/
def firstPush (s : State) (p : Push) : Bool :=
  !pushOnWay s fun x => x.sid == p.sid && x.tag == p.tag && x.queue == p.queue && decide (x.seq < p.seq)

/-- The pushes of all cores that a test takes arrive, each after the earlier ones of its strand and queue; those that wait stay
(R367). -/
def pushesArrive (s : State) (which : Push → Bool) : State :=
  let all := s.cores.flatMap fun e => (e.2.q2.filter which).map fun p => (e.1, p)
  (all.mergeSort fun a b => decide (a.2.seq ≤ b.2.seq)).foldl
    (fun s e => if firstPush s e.2 then (pushArrives s e.1 e.2).getD s else s) s

end Sys2Proof.Machine
end

