-- ==== Sys2Proof/Machine/Ops.lean ====
section
/-! DEFINITION. The shared operations: advancing, sleeping, the frame every instruction runs in (04 R81 steps 9 to 13),
taking a trap and returning from one (09 R206, R207), retiring (09 R194, R195), draining what is in flight, and the miss
groups of translation (19 R311, R312). -/

namespace Sys2Proof.Machine

/-! ### One strand -/

/-- After a slot that does not redirect control the pc moves to the next slot (R63). -/
def advanced (t : Strand) : Strand := { t with pc := nextPc t.pc, status := .ready }

def advance (s : State) (c l : Nat) : State := onStrand s c l advanced

/-- The strand sleeps with its pc at the instruction. -/
def sleep (s : State) (c l : Nat) (w : Wait) : State := onStrand s c l fun t => { t with status := .asleep w }

/-- The strand's status becomes ready, and it is ready from now (R267). -/
def wake (s : State) (c l : Nat) : State :=
  onStrand s c l fun t => { t with status := .ready, readySince := (getCore s c).cycles }

/-- A value written to its destination. -/
def setDst (t : Strand) (d : Dst) (v : Nat) : Strand :=
  match d with
  | .none => t
  | .g r => wrG t r (BitVec.ofNat 64 v)
  | .v r => setV t r v

/-- An instruction completes: its destination is written and the pc advances. -/
def finish (s : State) (c l : Nat) (d : Dst) (v : Nat) : State :=
  onStrand s c l fun t => { advanced (setDst t d v) with readySince := (getCore s c).cycles }

def disarmAll (t : Strand) : Strand := { t with mon := Vector.replicate 4 .disarmed }

/-! ### Accesses in flight (12 R231, R232, R236) -/

/-- A reply applied to its strand, if that strand still stands at the access (R328). -/
def applyValue (s : State) (c slot sid : Nat) (d : Dst) (v : Nat) : State :=
  let t := getStrand s c slot
  if t.live && t.sid == sid && t.status == .asleep .access then finish s c slot d v else s

/-- Perform one request of a core to its end, and put its reply on its way to the core. -/
def performNow (s : State) (c : Nat) (q : Req) : State :=
  let (s, r) := performAll s c 32 q
  match r with
  | some r => onCore s c fun k => { k with inbox := k.inbox ++ [r] }
  | none => s

/-- Perform, in order, the requests of a core that a test chooses, and keep the others. -/
def flush (s : State) (c : Nat) (which : Req → Bool) : State :=
  let rs := (getCore s c).requests
  if rs.any which then
    (rs.filter which).foldl (fun s q => performNow s c q)
      (onCore s c fun k => { k with requests := rs.filter fun q => !which q })
  else s

/-- The REDs of a list that a test chooses, with the earlier ones of the same strands, and those that are left: REDs of a strand are
performed in its order (R240). -/
def splitReds (which : Req → Bool) : List Req → List Req × List Req
  | [] => ([], [])
  | q :: rest =>
    let (now, later) := splitReds which rest
    if which q || rest.any fun r => r.sid == q.sid && which r then (q :: now, later) else (now, q :: later)

/-- Perform the core's outstanding REDs that a test chooses, and before each the earlier ones of its strand (R141, R240). A RED sends
no reply. -/
def flushReds (s : State) (c : Nat) (which : Req → Bool) : State :=
  let rs := (getCore s c).reds
  if rs.any which then
    (splitReds which rs).1.foldl (fun s q => (performAll s c 1 q).1)
      (onCore s c fun k => { k with reds := (splitReds which rs).2 })
  else s

/-- Perform the accesses of every core that a test chooses by core and request. -/
def flushAll (s : State) (which : Nat → Req → Bool) : State :=
  s.cores.foldl (fun s e => flushReds (flush s e.1 (which e.1)) e.1 (which e.1)) s

/-- Every access of a core that is under way. -/
def flushCore (s : State) (c : Nat) : State := flushReds (flush s c fun _ => true) c fun _ => true

/-- The lines a request touches. -/
def reqLines (q : Req) : List Nat := q.parts.map fun p => lineOf p.pa

/-- Whether a request touches one of some lines. -/
def touchesLine (lines : List Nat) (q : Req) : Bool := (reqLines q).any fun x => lines.contains x

/-- Earlier REDs of a strand to one of these lines are performed first (R228). -/
def flushRedLines (s : State) (c sid : Nat) (lines : List Nat) : State :=
  flushReds s c fun q => q.sid == sid && touchesLine lines q

/-- Earlier requests of the core, and REDs of the strand, to one of these lines are performed first (R228). -/
def flushLines (s : State) (c sid : Nat) (lines : List Nat) : State :=
  flushRedLines (flush s c (touchesLine lines)) c sid lines

/-! ### Permits (01 R15) -/

/-- The home slices that accesses to some lines need a permit for, each as often: both parts of a split access, and one for all the
cells that a SENSE finds at a slice, which it reads one after the other. -/
def slicesOf (lines : List Nat) : List Nat :=
  let hs := lines.map fun x => (Config.homeSlice x).val
  if hs.length ≤ 2 then hs else hs.eraseDups

/-- The home slices whose permits a request holds: those of the parts it has still to perform. An engine's write holds none of its
core's. -/
def permitsOf (q : Req) : List Nat :=
  if q.copy.isSome then []
  else match q.op with
  | .read _ _ _ got => slicesOf (((q.parts.zip got).filter fun e => e.2.isNone).map fun e => lineOf e.1.pa)
  | _ => slicesOf (reqLines q)

/-- Of the four permits between a core and a home slice, too few are free for an access that needs some (R15). -/
def crowded (k : CoreSt) (need : List Nat) (h : Nat) : Bool :=
  decide (4 < ((k.requests ++ k.reds).flatMap permitsOf).count h + need.count h)

/-! ### Releases and what they order (12 R235 to R240; log 39) -/

/-- Whether a release that has passed a request covers a strand: the strand lies in the release's instance (R237). -/
def markedFor (s : State) (c sid : Nat) (q : Req) : Bool := q.marks.any fun m => inInstance s m.sc m.core m.sid c sid

/-- The accesses under way that a release of a strand of core c orders before what follows it: its own, those it has read in
its core's L1, and those that an earlier release which covers it has passed (R237, R238). `c'` is their core. -/
def orderedBy (s : State) (c sid c' : Nat) (q : Req) : Bool :=
  (q.sid == sid && q.copy.isNone) || (c' == c && q.readBy.contains sid) || markedFor s c sid q

/-- Scopes whose instances hold every core of this device: what is performed there is performed at the home slice (R231,
R235, R244). -/
def scopeWhole : Scope → Bool
  | .pk | .fa | .sy => true
  | _ => false

/-- A release passes the requests that a test chooses: they are marked with its scope and strand. -/
def passRelease (s : State) (m : Mark) (which : Nat → Req → Bool) : State :=
  let f := fun c (q : Req) => if which c q && !q.marks.contains m then { q with marks := q.marks ++ [m] } else q
  if s.cores.any fun e => e.2.requests.any (which e.1) || e.2.reds.any (which e.1) then
    { s with cores := s.cores.map fun e =>
        (e.1, { e.2 with requests := e.2.requests.map (f e.1), reds := e.2.reds.map (f e.1) }) }
  else s

/-- A release by a strand of core c at a scope (R143, R236): its REDs within the scope are performed (R141), and of the other
accesses it orders each is performed at the scope: at its home slice where the scope holds every core of the device, else it is
marked, so that each agent of the scope's instance that touches its line meets it performed. `un` says that accesses to un pages
are ordered too, as a FENCE and a task release order them (R229, R230), and `all` that every RED is performed. -/
def releaseAt (s : State) (c sid : Nat) (sc : Scope) (un all : Bool) : State :=
  let mine := fun c' q => (un || !q.unPage) && orderedBy s c sid c' q
  let s := flushReds s c fun q => q.sid == sid && (all || scopeIncludes sc q.sc)
  if scopeWhole sc then flushAll s mine else passRelease s ⟨sc, c, sid⟩ mine

/-- The release of a task instruction, as that of a FENCE at pa (R230). -/
def releaseTask (s : State) (c l : Nat) : State := releaseAt s c (getStrand s c l).sid .pa true true

/-- What an acquire of a strand waits for: its REDs (R143, R230). Its loads, other atomics and mark operations have returned. -/
def acquireAt (s : State) (c sid : Nat) : State := flushReds s c fun q => q.sid == sid

/-- A strand that leaves its core: everything it orders is performed, and what its copies have written. -/
def performOwn (s : State) (c sid : Nat) : State := flushAll s fun c' q => q.sid == sid || orderedBy s c sid c' q

/-- The writes under way of the copies that a test takes are performed (R249). -/
def performCopies (s : State) (which : CopyMark → Nat → Bool) : State :=
  flushAll s fun _ q => q.copy.any fun m => which m q.sid

/-- A wait of a strand on some tags returns: it acquires, at the scope of each copy on them, what the copy has written (R249). -/
def acquireTags (s : State) (c sid mask : Nat) : State :=
  performCopies s fun m x => m.core == c && bitsAt mask m.tag 1 == 1 && inInstance s m.sc c x c sid

/-- A strand touches lines: accesses to them that a release covering it has passed are performed first (R237, R238). -/
def touch (s : State) (c sid : Nat) (lines : List Nat) : State :=
  flushAll s fun _ q => markedFor s c sid q && touchesLine lines q

/-- An engine touches lines for a strand: the strand's own accesses to them are performed too (R158, R249). -/
def touchFor (s : State) (c sid : Nat) (lines : List Nat) : State :=
  flushAll s fun _ q => (q.sid == sid || markedFor s c sid q) && touchesLine lines q

/-- Whether a strand sees a store under way in its core's L1: its own, one that a strand has read there, or one that has
reached the L1 by now, which is a free value (R231, R232). An engine's writes pass by the L1. -/
def seesInL1 (s : State) (sid : Nat) (q : Req) : Bool :=
  q.copy.isNone && (q.sid == sid || !q.readBy.isEmpty || Config.freeWord s.draw 2 % 2 == 0)

/-- Memory as a strand of core c sees it: with the stores under way in the core's L1 (R232). -/
def ownView (s : State) (c sid : Nat) : State :=
  (getCore s c).requests.foldl (fun s' q => match q.op with
    | .write _ vals _ =>
      if seesInL1 s sid q then (q.parts.zip vals).foldl (fun s' p => writePart s' c p.1 p.2) s' else s'
    | _ => s') s

/-- The strand has read lines through the L1: the stores it saw there are noted. -/
def noteRead (s : State) (c sid : Nat) (lines : List Nat) : State :=
  let met := fun (q : Req) => q.sid != sid && seesInL1 s sid q && touchesLine lines q && !q.readBy.contains sid
  if (getCore s c).requests.any met then
    let note := fun (q : Req) => if met q then { q with readBy := q.readBy ++ [sid] } else q
    onCore s c fun k => { k with requests := k.requests.map note }
  else s

/-- A RED of a strand that a test takes waits for a peer's answer (R141, R246). -/
def redsAtPeer (s : State) (sid : Nat) (which : MemReq → Bool) : Bool :=
  s.peers.any fun e => e.2.red && e.2.sid == sid && which e.2.q

/-- Go on once the strand's REDs at peers have been performed: until then it sleeps at the instruction (R141). -/
def afterReds (s : State) (c l : Nat) (which : MemReq → Bool) (k : State → State) : State :=
  if redsAtPeer s (getStrand s c l).sid which then sleep s c l .reds else k s

/-- The oldest access of a core that holds a permit towards a home slice, and may be performed, is performed, so that its permit is
free. A RED behind one that a peer has not performed yet may not be (R240). -/
def performOldest (s : State) (c h : Nat) : Option State :=
  let k := getCore s c
  match k.requests.find? fun q => (permitsOf q).contains h with
  | some q => some (flush s c (· == q))
  | none => (k.reds.find? fun q => (permitsOf q).contains h && !redsAtPeer s q.sid fun _ => true).map
      fun q => flushReds s c (· == q)

/-- An access waits until the permits it needs are free: what holds them is performed, oldest first. None while that waits for a peer
(R15). -/
def makeRoom (c : Nat) (need : List Nat) : Nat → State → Option State
  | 0, s => some s
  | n + 1, s =>
    let k := getCore s c
    if k.requests.isEmpty && k.reds.isEmpty then some s
    else match need.find? (crowded k need) with
      | none => some s
      | some h => (performOldest s c h).bind (makeRoom c need n)

/-- Go on with the permits that accesses to some lines need; while peers hold them up the strand sleeps at the instruction (R15). -/
def withPermits (s : State) (c l : Nat) (lines : List Nat) (k : State → State) : State :=
  match makeRoom c (slicesOf lines) 64 s with
  | some s => k s
  | none => sleep s c l .reds

/-- Make the release of a task instruction, and go on. -/
def released (s : State) (c l : Nat) (k : State → State) : State :=
  afterReds s c l (fun _ => true) fun s => k (releaseTask s c l)

/-- Make the acquire of a task instruction, and go on. -/
def acquired (s : State) (c l : Nat) (k : State → State) : State :=
  afterReds s c l (fun _ => true) fun s => k (acquireAt s c (getStrand s c l).sid)

/-! ### Retiring (R194, R195) -/

/-- Delayed faults still pending against a strand that ends go to its node's handler, their records to the jig's EOPD
(R181, R194, R280). -/
def flushFaults (s : State) (c sid tag node : Nat) : State :=
  let mine := s.pending.filter fun f => f.sid == sid
  mine.foldl
    (fun s f =>
      let s := hwWrite s c (getCore s c).eopd.toNat f.recordBits f.record 2
      recordCause s tag node (some c) f.code f.tval)
    { s with pending := s.pending.filter fun f => f.sid != sid }

/-- The result records of a strand that ends are discarded, on whatever core its jobs were issued (R281). -/
def dropResults (s : State) (sid : Nat) : State :=
  if s.cores.any fun e => e.2.res.any (·.sid == sid) then
    { s with cores := s.cores.map fun e => (e.1, { e.2 with res := e.2.res.filter (·.sid != sid) }) }
  else s

/-- A record retires without executing, at a core, with the effects of EXIT (R194, R195, R286). -/
def retireRec (s : State) (c : Nat) (r : Rec) : State :=
  let tag := tagOf s c
  let s := recordCause s tag r.node (some c) cancelCause (openTval s)
  let s := dropResults (flushFaults s c r.sid tag r.node) r.sid
  let s := releaseStage s tag r.stage
  let s := match r.stage with
    | some h => settleCarry s tag h.queue (some c)
    | none => s
  decNode s tag r.node (some c)

/-- The clock pauses when no strand is resident or all sleep at a blocking wait (R349). -/
def Wait.blocking : Wait → Bool
  | .waita .. | .twait .. | .mwait .. | .commandPlace .. | .pushPlace .. | .watermark .. | .lvlwait .. | .clamp ..
  | .launch .. | .dqpop .. | .qwait .. => true
  | .translate .. | .access | .peer .. | .mclr .. | .tlbinv .. | .seal .. | .unseal .. | .steal .. | .tadv ..
  | .refetch .. | .reds | .retire .. => false

/-- Waits that are interrupted, so that the strand stands ready at its instruction and executes it again (R327). A CLAMP executed again
adds another arrival, and a LAUNCH makes another request: a counted arrival is never withdrawn (R296), and no rule withdraws an accepted
request (log 33). -/
def interrupted (w : Wait) : Bool :=
  match w with
  | .waita .. | .twait .. | .mwait .. | .commandPlace .. | .pushPlace .. | .watermark .. | .dqpop .. | .qwait .. | .translate ..
  | .refetch .. | .reds | .lvlwait _ _ none | .clamp _ _ none | .launch .. => true
  | .retire .. | .lvlwait _ _ (some _) | .access | .peer .. | .clamp _ _ (some _) | .mclr .. | .tlbinv .. | .seal .. | .unseal ..
  | .steal .. | .tadv .. => false

def clockNeeded (s : State) (c : Nat) : Bool :=
  (List.range 8).any fun l =>
    let t := getStrand s c l
    t.live && (match t.status with | .ready => true | .asleep w => !w.blocking)

def pauseClock (s : State) (c : Nat) : State :=
  if clockNeeded s c then s else onCore s c fun k => { k with clockPaused := true }

/-- A strand retires at its core: outstanding accesses performed, its pushes consolidated, a cause recorded if there is one, pending faults and
unpopped records dealt with, the slot freed, its stage hold released and its node counted down (R194, R195, R176). -/
def retireNow (s : State) (c l : Nat) (cause : Option (Nat × Nat)) : State :=
  let t := getStrand s c l
  let tag := tagOf s c
  let s := pushesArrive (performOwn s c t.sid) fun p => p.sid == t.sid
  let s := match cause with
    | some (code, tval) => recordCause s tag t.node (some c) code tval
    | none => s
  let s := flushFaults s c t.sid tag t.node
  let s := dropResults s t.sid
  let s := updateLoad (putStrand s c l {}) c
  let s := releaseStage s tag t.stage
  let s := match t.stage with
    | some h => settleCarry s tag h.queue (some c)
    | none => s
  pauseClock (decNode s tag t.node (some c)) c

/-- A strand retires, once its REDs at peers have been performed (R141, R194, R195). -/
def retireStrand (s : State) (c l : Nat) (cause : Option (Nat × Nat)) : State :=
  if redsAtPeer s (getStrand s c l).sid fun _ => true then sleep s c l (.retire cause) else retireNow s c l cause

/-- Whether the strand's node has its cancel flag set. -/
def strandCancelled (s : State) (c l : Nat) : Bool := nodeCancelled s (tagOf s c) (getStrand s c l).node

/-- A reply put in a core's inbox. -/
def toInbox (s : State) (c : Nat) (r : Reply) : State := onCore s c fun k => { k with inbox := k.inbox ++ [r] }

/-! ### Taking a trap and returning (R206, R207) -/

/-- Whether a trap can enter a handler (R206 step 1). -/
def trapEnters (t : Strand) (code : Nat) : Bool :=
  !t.intrap && t.tvec != 0 && isSlotPos t.tvec.toNat && code != 0x3C2

/-- The strand after trap entry: the pc of the trapping instruction, the cause and the value saved, INTRAP set, all
monitors disarmed, and the pc at the handler (R206 steps 2 to 4). A TGT check that the fetch at this pc owed to an earlier transfer is
dropped, and RETT makes none: R69 has the check made when the line is first read, and does not say whether it stays owed across a
trap (DESIGN CHOICE, log 81). -/
def enterTrap (t : Strand) (code tval : Nat) : Strand :=
  { disarmAll t with
    epc := t.pc, cause := BitVec.ofNat 10 code, tval := BitVec.ofNat 128 tval, intrap := true, pc := t.tvec,
    status := .ready, tgtPending := false }

/-- A trap is taken: the handler is entered, or the strand retires with the cause, or with 0x3C1 inside a handler. -/
def takeTrap (s : State) (c l : Nat) (code tval : Nat) : State :=
  let t := getStrand s c l
  if trapEnters t code then putStrand s c l (enterTrap t code tval)
  else retireStrand s c l (some (if t.intrap then (0x3C1, openTval s) else (code, tval)))

/-- A strand under a cancelled node retires at a suspension point or blocking wait (R195); where its node counts nothing any more, the
instruction raises 0x206 (R277). -/
def cancelStrand (s : State) (c l : Nat) : State :=
  let node := (getStrand s c l).node
  if counterEmpty s (tagOf s c) node then takeTrap s c l 0x206 node
  else retireStrand s c l (some (cancelCause, openTval s))

/-- A blocking wait: the strand sleeps, or retires when its node is cancelled (R195). -/
def blockOn (s : State) (c l : Nat) (w : Wait) : State :=
  if strandCancelled s c l then cancelStrand s c l else pauseClock (sleep s c l w) c

/-- RETT: outside a handler it raises 0x3C2; an EPC that is no slot position raises 0x038 inside the handler; otherwise
INTRAP is cleared and the strand goes on at EPC (R207). -/
def returnFromTrap (s : State) (c l : Nat) : State :=
  let t := getStrand s c l
  if !t.intrap then takeTrap s c l 0x3C2 (openTval s)
  else if !isSlotPos t.epc.toNat then takeTrap s c l 0x038 t.epc.toNat
  else putStrand s c l { t with intrap := false, pc := t.epc, status := .ready }

/-! ### Accesses to peers (R246, R338) -/

/-- The fetch of a line, once or `again`. -/
def fetchReq (pc : Nat) (again : Bool) : MemReq := { op := .fetch pc again, sc := .sy }

/-- An access to a peer's page leaves the device, and the strand waits for the response. -/
def sendPeer (s : State) (c l dev ea : Nat) (q : MemReq) : State :=
  if portTo s dev then
    let r : PeerReq := { core := c, slot := l, sid := (getStrand s c l).sid, engine := none, dev := dev, q := q, at_ := s.now }
    sleep (peerLeaves s r) c l (.peer q s.nextPeer)
  else takeTrap s c l 0x341 ea

/-! ### The frame of an instruction (R81 steps 9 to 13) -/

/-- Steps 10 to 12 and the body: allocation of direct names, the guard, relative indices (R78, R80, R81). `names` are the
operands in the order A, B, C, D. -/
def frame (gd : Guard) (names : List Named) (body : Nat → Nat → State → State) (s : State) : State :=
  let c := s.cur.core
  let l := s.cur.slot
  let t := getStrand s c l
  let k := getCore s c
  match firstFault (directFault k.gcount k.vcount) names with
  | some (code, v) => takeTrap s c l code v
  | none =>
    if !guardHolds t gd then advance s c l
    else match firstFault (relativeFault k.gcount t) names with
      | some (code, v) => takeTrap s c l code v
      | none => body c l s

/-- An instruction of user privilege. -/
def guarded (gd : Guard) (names : List Named) (body : Nat → Nat → State → State) (s : State) :
    Host.Outcome State Fault Refusal := .next (frame gd names body s)

/-- An instruction that needs the system privilege: step 9 comes first (R81). `bits` are its slot's bits. -/
def sysGuarded (bits : Nat) (gd : Guard) (names : List Named) (body : Nat → Nat → State → State) (s : State) :
    Host.Outcome State Fault Refusal :=
  .next (if isMgmt s.cur.core then frame gd names body s else takeTrap s s.cur.core s.cur.slot 0x03A bits)

/-- An instruction that only changes its strand's registers. -/
def regOp (gd : Guard) (names : List Named) (f : Strand → Strand) (s : State) : Host.Outcome State Fault Refusal :=
  guarded gd names (fun c l s => onStrand s c l fun t => advanced (f t)) s

/-- One that makes a check of its own first (step 13). -/
def checkedOp (gd : Guard) (names : List Named) (check : CoreSt → Strand → Option (Nat × Nat)) (f : Strand → Strand)
    (s : State) : Host.Outcome State Fault Refusal :=
  guarded gd names (fun c l s => match check (getCore s c) (getStrand s c l) with
    | some (code, tval) => takeTrap s c l code tval
    | none => onStrand s c l fun t => advanced (f t)) s

/-! ### Miss groups (R311, R312) -/

/-- The page-request entries a tenant holds on a die. -/
def pageEntries (s : State) (d tenant : Nat) : Nat :=
  ((getDie s d).groups.filter fun g => g.held && holderOf s g.tag == tenant).length

/-- Whether a group of a partition may take an entry now: one is free within the tenant's quota, and those reserved to other
active tenants are left (R312, R371). -/
def entryFree (s : State) (d tag : Nat) : Bool :=
  let tenant := holderOf s tag
  leavesReserved s 256 2 tenant ((getDie s d).groups.filter (·.held)).length (pageEntries s d) &&
    (tag == 0 || decide (pageEntries s d tenant < (getTenant s tenant).pageQuota))

/-- An access that misses both TLB levels joins the group of its granule, or begins a walk with a group of its own, which takes an
entry only if that walk misses (R309, R311, R312). -/
def joinGroup (s : State) (d tag va core src job : Nat) (m : Member) : State :=
  let gr := va / 2 ^ 19
  let die := getDie s d
  if die.groups.any fun g => g.tag == tag && g.granule == gr then
    putDie s d { die with groups := die.groups.map fun g =>
      if g.tag == tag && g.granule == gr then { g with members := g.members ++ [m] } else g }
  else
    let g : Group := { tag := tag, granule := gr, va := va, core := core, src := src, job := job, members := [m],
                       walking := true, retry := false }
    putDie s d { die with groups := die.groups ++ [g] }

/-- A strand's access stalls on translation (R320): it joins its group and sleeps. -/
def stallOn (s : State) (c l va src : Nat) (q : MemReq) : State :=
  let sid := (getStrand s c l).sid
  sleep (joinGroup s (dieOf c) (tagOf s c) va (logicalOf s c) src 0 (.strand c l sid)) c l
    (.translate { q with err := s.cur.err })

end Sys2Proof.Machine
end

