-- ==== Sys2Proof/Machine/Fetch.lean ====
section
/-! DEFINITION. Lines and targets: a core's instruction cache, the line word, and the checks of a control transfer
(04 R61 to R69). -/

namespace Sys2Proof.Machine

/-! ### The line word (R61, R65, R67) -/

def lineTgt (line k : Nat) : Bool := bitsAt line k 1 == 1
def lineVer (line : Nat) : Nat := bitsAt line 12 4
/-- The 96 bits of slot k of a line (R62). -/
def lineSlot (line k : Nat) : Nat := bitsAt line (32 + 96 * k) 96

/-- PAR as the slot area of a line gives it: the XOR of its thirty halfwords (R61, R62). -/
def lineParity (line : Nat) : Nat := (List.range 30).foldl (fun p h => p ^^^ bitsAt line (32 + 16 * h) 16) 0
def parityOk (line : Nat) : Bool := bitsAt line 16 16 == lineParity line

/-- The side of a slot (R67). -/
inductive Side where
  | none | scalar | vector
  deriving DecidableEq, Repr
def slotSide (slot : Nat) : Side :=
  let op := bitsAt slot 86 10
  if op = 0 then .none else if 0x180 ≤ op ∧ op ≤ 0x1FF then .vector else .scalar

/-- The issue groups of a line as lists of its slots' sides (R67). -/
def lineGroups (line : Nat) : Nat → List Side → List (List Side)
  | 0, open_ => [open_]
  | n + 1, open_ =>
    let k := 4 - n
    let g := slotSide (lineSlot line k) :: open_
    if n = 0 then [g]
    else if bitsAt line (5 + k) 1 = 1 then g :: lineGroups line n [] else lineGroups line n g

/-- No group holds two slots of one side (R67). -/
def groupsOk (line : Nat) : Bool :=
  (lineGroups line 5 []).all fun g => g.count .scalar ≤ 1 && g.count .vector ≤ 1

/-- The checks of a line word in their order, with the code of the first that fails (R65). -/
def lineFault (line : Nat) : Option Nat :=
  if lineVer line ≠ 1 then some 0x031
  else if bitsAt line 9 3 ≠ 0 then some 0x030
  else if !groupsOk line then some 0x032
  else none

/-! ### Reading a line (R64, R66) -/

/-- A line is brought into the instruction cache of 128 lines; a full one drops a line, which one being a free value (R15). -/
def fillLine (s : State) (c base line : Nat) : State :=
  onCore s c fun k =>
    let kept := if (nget? k.icache base).isNone && 128 ≤ k.icache.length then
        k.icache.eraseIdx (Config.freeWord s.draw 3 % k.icache.length)
      else k.icache
    { k with icache := nset kept base line }

/-- Where a line's copy comes from: this device's memory, a peer, or nowhere while its page is not mapped or may not be fetched
from. -/
inductive LineSource where
  | here (line : Nat)
  | peer (dev : Nat)
  | unreadable
  deriving DecidableEq, Repr

/-- A line as memory holds it for a core. A peer that no port reaches cannot be read from: the transfer takes place, and the fetch at
the target raises 0x341, where a peer that refuses or does not answer the same read makes the transferring instruction trap. R69 lists
neither among the lines that are unreadable (DESIGN CHOICE, logs 12 and 49). -/
def lineSource (s : State) (c base : Nat) : LineSource :=
  match peekXlat s c base with
  | some x =>
    if !canonical base || !x.xr then .unreadable
    else if !x.peer then .here (physRead s x.key (x.phys base) 512)
    else if portTo s x.dev then .peer x.dev
    else .unreadable
  | none => .unreadable

/-- The read of a line at its home slice (R66, R241). -/
def reachSource (s : State) (c base : Nat) : State :=
  match peekXlat s c base with
  | some x => if x.peer then s else reachLine s c (lineOf (x.phys base))
  | none => s

/-- The line word's line as a core reads it for a check: its cached copy, or memory (R66, R69). A line that fails parity
counts as unreadable. -/
def readableLine (s : State) (c base : Nat) : LineSource :=
  match nget? (getCore s c).icache base with
  | some line => .here line
  | none => match lineSource s c base with
    | .here line => if parityOk line then .here line else .unreadable
    | r => r

/-! ### Targets (R69) -/

/-- How a target's checks end: they hold, they fail with a code, the line must first be read from a peer, or it cannot be read and
the TGT check falls to the fetch at the target. -/
inductive TargetCheck where
  | ok
  | fails (code : Nat)
  | ask (dev : Nat)
  | later
  deriving DecidableEq, Repr

/-- The slot-position check alone. -/
def checkPosition (T : Nat) : TargetCheck := if isSlotPos T then .ok else .fails 0x038

/-- Both checks of a target, for the strand in slot l. -/
def checkTarget (s : State) (c l T : Nat) : TargetCheck :=
  if !isSlotPos T then .fails 0x038
  else if (getStrand s c l).badLine = some (lineBase T) then .later
  else match readableLine s c (lineBase T) with
    | .unreadable => .later
    | .peer dev => .ask dev
    | .here line => if lineTgt line (slotIndex T) then .ok else .fails 0x039

end Sys2Proof.Machine
end

