-- ==== Sys2Proof/Machine/EngineOps.lean ====
section
/-! DEFINITION. Copy, matrix and window instructions: issue, tags, tables and waits (08 R157 to R184). What the engines do
with a command is in Copy.lean and Matrix.lean. -/

namespace Sys2Proof.Machine

/-! ### Descriptors and loop registers (R159, R161, R162) -/

/-- A tensor descriptor from its 256 bits (R159). -/
def tdescOf (n : Nat) : TDesc :=
  { base := bitsAt n 192 64, rstr := bitsAt n 152 40, rows := bitsAt n 136 16, cols := bitsAt n 120 16,
    core := bitsAt n 108 12, sexp := signedOf 8 (bitsAt n 100 8), space := bitsAt n 98 2, fmt := bitsAt n 93 5,
    rsvd := bitsAt n 1 92, valid := bitsAt n 0 1 == 1 }

/-- Whether TDSET refuses a valid descriptor (R161). -/
def tdescBad (d : TDesc) : Bool :=
  19 ≤ d.fmt || d.space == 3 || d.rows == 0 || d.cols == 0 || d.rsvd != 0
    || (d.space == 2 && (d.rstr != 0 || 128 < d.cols))
    || (d.space == 2 && 16 ≤ d.fmt && d.rows % 16 != 0)

/-- The raw descriptor of an identifier; one never set reads as zero. -/
def tensorBits (s : State) (tag id : Nat) : Nat := nget (getPart s tag).tensors 0 id

/-- The value of loop register i of the matrix or the copy bank. -/
def loopReg (k : CoreSt) (mat : Bool) (i : Nat) : Nat := ((if mat then k.lmat else k.lcp).toList.getD i 0).toNat

/-! ### Issue (R158) -/

def CmdKind.matrix : CmdKind → Bool
  | .mac | .cvt => true
  | _ => false

/-- A command as its instruction names it, before it captures tables: registers read, subfields taken from the slot. -/
def cmdOf (s : State) (c l : Nat) (i : Instr) (kind : CmdKind) (tag : Nat) (sc : Scope) (prop : Bool) (opa opb opc : Nat) :
    Cmd :=
  let t := getStrand s c l
  let k := getCore s c
  let f := (i.raw.map (·.2)).getD {}
  { kind := kind, id := 0, core := c, slot := l, sid := t.sid, node := t.node, launch := k.launch, kidx := t.kidx,
    pri := t.pri, tag := tag, op := f.op, m := f.m, xo := f.xo, ta := f.ta, tb := f.tb, opa := opa, opb := opb, opc := opc,
    lm := f.lm, ln := f.ln, lk := f.lk, pc := t.pc.toNat, sc := sc, prop := prop }

/-- Copy-unit commands beyond a core's first four HELD become ready when one of those leaves HELD, and wait from then
(R270, R283). -/
def markReady (now : Nat) : Nat → List Cmd → List Cmd
  | _, [] => []
  | 0, ms => ms
  | n + 1, m :: ms =>
    if m.st = .held then
      (if m.ready then m else { m with ready := true, readyAt := now, aged := m.pri, agedAt := now }) :: markReady now n ms
    else m :: markReady now (n + 1) ms

def readyCopies (s : State) (c : Nat) : State := onCore s c fun k => { k with q1 := markReady s.now 4 k.q1 }

/-- The lowest pass in which a schedule entry has not been released (R168). -/
def nextPass (k : CoreSt) (i : Nat) : Nat := nget k.sched.released 0 i + 1

/-- What a command captures when it takes its place: descriptors, loop registers, its number and its channel's age
(R158). -/
def captured (s : State) (cmd : Cmd) : Cmd :=
  let k := getCore s cmd.core
  let mat := cmd.kind.matrix
  let tag := tagOf s cmd.core
  { cmd with
    id := if mat then k.nextMat else k.nextCp
    vlm := loopReg k mat cmd.lm, vln := loopReg k mat cmd.ln, vlk := loopReg k mat cmd.lk
    da := tdescOf (tensorBits s tag cmd.ta), db := tdescOf (tensorBits s tag cmd.tb)
    entry := cmd.entry.map fun e => (e.1, nextPass k e.1)
    chGen := (k.wch.toList.getD (bitsAt cmd.m 6 2) {}).gen
    ready := mat && cmd.remote == .no, readyAt := s.now, aged := cmd.pri, agedAt := s.now }

/-- The job identifier (R158). -/
def jobId (cmd : Cmd) : Nat := cmd.id % 2 ^ 16 + (if cmd.kind.matrix then 0 else 2 ^ 16)

/-- Whether a core has a free place for a command. -/
def placeFree (k : CoreSt) (mat : Bool) : Bool := if mat then k.q0.length < 4 else k.q1.length < 8

/-- The launch node that a core's copy-unit commands count in (R264). -/
def launchNodeOf (s : State) (c : Nat) : Option Nat := (getLaunch? s (tagOf s c) (getCore s c).launch).map (·.node)

/-- A command takes its place and issues: earlier accesses performed at its scope, co for a matrix job, tables captured, the tag cleared and counted, the
launch node counted, the identifier written (R158, R170, R264). -/
def takePlace (s : State) (c l : Nat) (cmd : Cmd) (d : Fin 64) : State :=
  let s := releaseAt s c (getStrand s c l).sid (if cmd.kind.matrix then .co else cmd.sc) true true
  let cmd := captured s cmd
  let tag := tagOf s c
  let s := if cmd.kind.matrix then s else match launchNodeOf s c with
    | some n => incNode s tag n
    | none => s
  let s := match cmd.entry with
    | some (i, p) => onCore s c fun k => { k with sched := { k.sched with released := nset k.sched.released i p } }
    | none => s
  let s := onCore s c fun k =>
    if cmd.kind.matrix then { k with q0 := k.q0 ++ [cmd], nextMat := k.nextMat + 1 }
    else { k with q1 := k.q1 ++ [cmd], nextCp := k.nextCp + 1, tags := k.tags &&& ~~~ BitVec.ofNat 64 (2 ^ cmd.tag)
                  out := nset k.out cmd.tag (nget k.out 0 cmd.tag + 1) }
  finish (readyCopies s c) c l (.g d) (jobId cmd)

/-- The launch node of a copy-unit command can count no more (R277). -/
def launchFull (s : State) (c : Nat) (cmd : Cmd) : Bool :=
  match launchNodeOf s c with
  | some n => !cmd.kind.matrix && counterFull s (tagOf s c) n
  | none => false

/-- A command for which a place is free takes it, unless its launch node can count no more. -/
def countAndTake (s : State) (c l : Nat) (cmd : Cmd) (d : Fin 64) : State :=
  if launchFull s c cmd then takeTrap s c l 0x206 ((launchNodeOf s c).getD 0)
  else afterReds s c l (fun _ => true) fun s => takePlace s c l cmd d

/-- Issue a command, or sleep for a place (R158). -/
def issueCmd (s : State) (c l : Nat) (cmd : Cmd) (d : Fin 64) : State :=
  if launchFull s c cmd || placeFree (getCore s c) cmd.kind.matrix then countAndTake s c l cmd d
  else blockOn s c l (.commandPlace cmd d)

/-- The command of a copy-unit instruction, with the registers of a strand: an instruction or a schedule entry (R157,
R168). The issue of MDLD, which has no sc=, releases at co, the scope that R169 gives its completion (DESIGN CHOICE, log 79). -/
def copyCmd? (s : State) (c l : Nat) (i : Instr) : Option Cmd :=
  let t := getStrand s c l
  match i with
  | .copy _ _ a b mode tag sc prop _ _ _ _ =>
    let opc := match mode with
      | .plain _ => 0
      | .fwd o => gVal t o
    some (cmdOf s c l i .copy tag.toNat sc prop (gVal t a) (gVal t b) opc)
  | .copyv _ _ a b o tag sc prop _ _ _ _ => some (cmdOf s c l i .copyv tag.toNat sc prop (gVal t a) (gVal t b) (gVal t o))
  | .wmark _ _ a b tag _ sc prop _ _ _ _ => some (cmdOf s c l i .wmark tag.toNat sc prop (gVal t a) (gVal t b) 0)
  | .mdld _ _ a b tag _ _ _ => some (cmdOf s c l i .mdld tag.toNat .co false (gVal t a) (gVal t b) 0)
  | _ => none

/-- Issue the command of a copy-unit instruction. -/
def issueCopy (s : State) (c l : Nat) (i : Instr) (d : Fin 64) : State :=
  match copyCmd? s c l i with
  | some cmd => issueCmd s c l cmd d
  | none => s

/-- The names a forwarding chain adds. -/
def modeNames : CopyMode → List Named
  | .plain _ => []
  | .fwd o => [.g o]

/-- COPY (R163, R165). -/
def execCopy (gd : Guard) (d a b : GOp) (mode : CopyMode) (tag : BitVec 6) (sc : Scope) (prop : Bool) (ta tb : BitVec 12)
    (lm ln : BitVec 3) (s : State) : Host.Outcome State Fault Refusal :=
  guarded gd ([.g a, .g b] ++ modeNames mode ++ [.g d]) (fun c l s =>
    issueCopy s c l (.copy gd d a b mode tag sc prop ta tb lm ln) (gReg (getStrand s c l) d)) s
/-- COPYV (R166). -/
def execCopyv (gd : Guard) (d a b o : GOp) (tag : BitVec 6) (sc : Scope) (prop : Bool) (ta tb : BitVec 12) (lm ln : BitVec 3)
    (s : State) : Host.Outcome State Fault Refusal :=
  guarded gd [.g a, .g b, .g o, .g d] (fun c l s =>
    issueCopy s c l (.copyv gd d a b o tag sc prop ta tb lm ln) (gReg (getStrand s c l) d)) s
/-- WMARK (R167). -/
def execWmark (gd : Guard) (d a b : GOp) (tag : BitVec 6) (ch : BitVec 2) (sc : Scope) (prop : Bool) (ta tb : BitVec 12)
    (lm ln : BitVec 3) (s : State) : Host.Outcome State Fault Refusal :=
  guarded gd [.g a, .g b, .g d] (fun c l s =>
    issueCopy s c l (.wmark gd d a b tag ch sc prop ta tb lm ln) (gReg (getStrand s c l) d)) s
/-- MDLD (R169). -/
def execMdld (gd : Guard) (d a b : GOp) (tag : BitVec 6) (ta : BitVec 12) (lm ln : BitVec 3) (s : State) :
    Host.Outcome State Fault Refusal :=
  guarded gd [.g a, .g b, .g d] (fun c l s => issueCopy s c l (.mdld gd d a b tag ta lm ln) (gReg (getStrand s c l) d)) s

/-- CSTAGE: release an entry of the static schedule, for the lowest pass left to it; the identifier goes to CSTAGE's own gD
(R168). The entry's guard counts for nothing, and its register names are not checked against the allocation (DESIGN CHOICE,
log 79). -/
def execCstage (gd : Guard) (d a : GOp) (x : BitVec 38) (s : State) : Host.Outcome State Fault Refusal :=
  guarded gd [.g a, .g d] (fun c l s =>
    let t := getStrand s c l
    let i := wrapTo 64 ((gVal t a : Int) + dispOf x)
    let k := getCore s c
    match k.sched.slots[i]? with
    | none => takeTrap s c l 0x1D0 i
    | some slot =>
      match decodeSlot slot with
      | .bad _ => takeTrap s c l 0x1D0 i
      | .ok e => match copyCmd? s c l e with
        | none => takeTrap s c l 0x1D0 i
        | some cmd => issueCmd s c l { cmd with entry := some (i, 0) } (gReg t d)) s

/-! ### Delayed faults (R180, R181) -/

/-- Deliver a pending fault at the waiting instruction: the operand record is written at EOPD and the trap taken. -/
def deliver (s : State) (c l : Nat) (f : Pending) : State :=
  let s := { s with pending := s.pending.erase f }
  let s := hwWrite s c (getStrand s c l).eopd.toNat f.recordBits f.record 3
  takeTrap s c l f.code f.tval

/-- The pending fault of a strand on the lowest tag of a mask (R181). -/
def pendingOnTags (s : State) (c sid mask : Nat) : Option Pending :=
  (List.range 64).findSome? fun t =>
    if bitsAt mask t 1 = 1 then s.pending.find? fun f => f.core == c && f.sid == sid && f.tag == some t else none

/-- The pending fault of a strand on a matrix job (R181). -/
def pendingOnJob (s : State) (c sid job : Nat) : Option Pending :=
  s.pending.find? fun f => f.core == c && f.sid == sid && f.job == some job

/-! ### Tags (R170, R171) -/

/-- The mask of a tag instruction: gA or SignExtend(X, 38), bit by bit (R171). -/
def tagMask (t : Strand) (a : GOp) (x : BitVec 38) : Nat := gVal t a ||| immOf x

/-- What a TWAIT does whenever it is looked at: a delivery, a return, which acquires, or nothing yet (R171, R181, R249). -/
def tryTwait (s : State) (c l mask : Nat) : Option State :=
  match pendingOnTags s c (getStrand s c l).sid mask with
  | some f => some (deliver s c l f)
  | none =>
    if (getCore s c).tags.toNat &&& mask = mask then
      some (finish (acquireTags s c (getStrand s c l).sid mask) c l .none 0)
    else none

/-- TWAIT (R171). -/
def execTwait (gd : Guard) (a : GOp) (x : BitVec 38) (s : State) : Host.Outcome State Fault Refusal :=
  guarded gd [.g a] (fun c l s =>
    let m := tagMask (getStrand s c l) a x
    match tryTwait s c l m with
    | some s => s
    | none => blockOn s c l (.twait m)) s
/-- TFIND (R171). -/
def execTfind (gd : Guard) (d a : GOp) (x : BitVec 38) (s : State) : Host.Outcome State Fault Refusal :=
  guarded gd [.g a, .g d] (fun c l s =>
    let t := getStrand s c l
    let m := tagMask t a x
    match pendingOnTags s c t.sid m with
    | some f => deliver s c l f
    | none =>
      let i := trailZeros 64 ((getCore s c).tags.toNat &&& m)
      finish (if i < 64 then acquireTags s c t.sid (2 ^ i) else s) c l (.g (gReg t d)) i) s
/-- TCLR (R171). -/
def execTclr (gd : Guard) (a : GOp) (x : BitVec 38) (s : State) : Host.Outcome State Fault Refusal :=
  guarded gd [.g a] (fun c l s =>
    let m := tagMask (getStrand s c l) a x
    advance (onCore s c fun k => { k with tags := k.tags &&& ~~~ BitVec.ofNat 64 m }) c l) s

/-! ### The tensor table and loop registers (R161, R162) -/

/-- TDSET (R161). -/
def execTdset (gd : Guard) (a : Fin 32) (ta : BitVec 12) (s : State) : Host.Outcome State Fault Refusal :=
  guarded gd [.v a] (fun c l s =>
    let t := getStrand s c l
    match extraV (getCore s c).vcount (a.val + 1) with
    | some (code, v) => takeTrap s c l code v
    | none =>
      let bits := vVal t a + vNum t (a.val + 1) * 2 ^ 128
      let d := tdescOf bits
      if d.valid && tdescBad d then takeTrap s c l 0x1D1 ta.toNat
      else advance (onPart s (tagOf s c) fun p => { p with tensors := nset p.tensors ta.toNat bits }) c l) s
/-- TDGET (R161). -/
def execTdget (gd : Guard) (d : Fin 32) (ta : BitVec 12) (s : State) : Host.Outcome State Fault Refusal :=
  guarded gd [.v d] (fun c l s =>
    match extraV (getCore s c).vcount (d.val + 1) with
    | some (code, v) => takeTrap s c l code v
    | none =>
      let bits := tensorBits s (tagOf s c) ta.toNat
      onStrand s c l fun t => advanced (setVNum (setV t d (bits % 2 ^ 128)) (d.val + 1) (bits / 2 ^ 128))) s
/-- LSET (R162). -/
def execLset (gd : Guard) (a : GOp) (cp : Bool) (lr : BitVec 3) (x : BitVec 38) (s : State) :
    Host.Outcome State Fault Refusal :=
  guarded gd [.g a] (fun c l s =>
    let v := BitVec.ofNat 32 (wrapTo 64 ((gVal (getStrand s c l) a : Int) + dispOf x))
    advance (onCore s c fun k =>
      if cp then { k with lcp := k.lcp.set lr.toNat v } else { k with lmat := k.lmat.set lr.toNat v }) c l) s

/-! ### Matrix jobs (R173 to R179) -/

/-- MJOB (R173, R175). -/
def execMjob (gd : Guard) (d a b o : GOp) (hdr : BitVec 3) (pro : BitVec 6) (cvt prop : Bool) (ta tb : BitVec 12)
    (lm ln lk : BitVec 3) (xo : BitVec 5) (s : State) : Host.Outcome State Fault Refusal :=
  guarded gd [.g a, .g b, .g o, .g d] (fun c l s =>
    let t := getStrand s c l
    issueCmd s c l
      (cmdOf s c l (.mjob gd d a b o hdr pro cvt prop ta tb lm ln lk xo) (if cvt then .cvt else .mac) 0 .co prop
        (gVal t a) (gVal t b) (gVal t o)) (gReg t d)) s

/-- MJOBR: the job and its capability g(C + 1) are sent to the engine that the capability names (R177). -/
def execMjobr (gd : Guard) (d a b : GOp) (o : Fin 63) (hdr : BitVec 3) (pro : BitVec 6) (cvt prop : Bool) (ta tb : BitVec 12)
    (lm ln lk : BitVec 3) (xo : BitVec 5) (s : State) : Host.Outcome State Fault Refusal :=
  let oc : GOp := .g ⟨o.val, by omega⟩
  let cap : GOp := .g ⟨o.val + 1, by omega⟩
  guarded gd [.g a, .g b, .g oc, .g cap, .g d] (fun c l s =>
    let t := getStrand s c l
    let cmd := cmdOf s c l (.mjobr gd d a b o hdr pro cvt prop ta tb lm ln lk xo) (if cvt then .cvt else .mac) 0 .co prop
      (gVal t a) (gVal t b) (gVal t oc)
    issueCmd s c l { cmd with remote := .onWay (bitsAt (gVal t cap) 55 9) (gVal t cap) } (gReg t d)) s

/-- The job whose record a strand sees next: the earliest issued of those that run and those whose record waits (R176). -/
def nextJob (k : CoreSt) (sid : Nat) : Option Nat :=
  let jobs := ((k.q0.filter fun m => m.sid == sid).map (·.id)) ++ ((k.res.filter fun r => r.sid == sid).map (·.job))
  jobs.foldl (fun o j => match o with | none => some j | some i => some (min i j)) none

/-- The strand's next record, if it is present (R176). -/
def nextResult (k : CoreSt) (sid : Nat) : Option Result :=
  match nextJob k sid with
  | some j => k.res.find? fun r => r.sid == sid && r.job == j
  | none => none

/-- Pop a record into gD, or deliver its job's fault in its place (R176, R181). -/
def popResult (s : State) (c l : Nat) (d : Fin 64) (r : Result) : State :=
  let s := onCore s c fun k => { k with res := k.res.erase r }
  match pendingOnJob s c r.sid r.job with
  | some f => deliver s c l f
  | none => finish s c l (.g d) r.word

/-- MPOLL (R176). -/
def execMpoll (gd : Guard) (d : GOp) (s : State) : Host.Outcome State Fault Refusal :=
  guarded gd [.g d] (fun c l s =>
    let t := getStrand s c l
    match nextResult (getCore s c) t.sid with
    | some r => popResult s c l (gReg t d) r
    | none => finish s c l (.g (gReg t d)) (2 ^ 64 - 1)) s
/-- MWAIT (R176). -/
def execMwait (gd : Guard) (d : GOp) (s : State) : Host.Outcome State Fault Refusal :=
  guarded gd [.g d] (fun c l s =>
    let t := getStrand s c l
    match nextResult (getCore s c) t.sid with
    | some r => popResult s c l (gReg t d) r
    | none => blockOn s c l (.mwait (gReg t d))) s

/-- The core's own jobs that name a header and have not completed (R178). -/
def jobsNaming (k : CoreSt) (hdr : Nat) : List Nat :=
  (k.q0.filter fun m => m.remote == .no && m.st != .done && bitsAt m.m 0 3 == hdr).map (·.id)

/-- A tile header set to 0. -/
def clearHeader (k : CoreSt) (hdr : Nat) : CoreSt := { k with th := k.th.set (hdr % 8) 0 (by omega) }

/-- MCLR: at once, or when the jobs before it have completed (R178). It is no blocking wait. -/
def execMclr (gd : Guard) (hdr : BitVec 3) (s : State) : Host.Outcome State Fault Refusal :=
  guarded gd [] (fun c l s =>
    match jobsNaming (getCore s c) hdr.toNat with
    | [] => advance (onCore s c fun k => clearHeader k hdr.toNat) c l
    | js => sleep s c l (.mclr hdr.toNat js)) s

/-- MBURST: the engine ramps up, to the highest class, since the spec names none (R179; log 21). -/
def execMburst (gd : Guard) (lm : BitVec 3) (s : State) : Host.Outcome State Fault Refusal :=
  guarded gd [] (fun c l s =>
    let n := loopReg (getCore s c) true lm.toNat
    let s := if n = 0 || isMgmt c then s else onCluster s (clusterOf c) fun x => { x with rampClass := some 3 }
    advance (onCore s c fun k => { k with burst := if n = 0 then none else some ⟨n, s.now⟩ }) c l) s

/-! ### The window accumulator (R183) -/

/-- The values an ADDW adds. -/
def addwValues (t : Strand) (a : GV) (sf : AddwType) : List FV :=
  match a with
  | .g o => [decodeF (addwFmt sf) (gVal t o)]
  | .v n => (lanes (addwFmt sf).width (vVal t n)).map (decodeF (addwFmt sf))

/-- ADDW (R183). -/
def execAddw (gd : Guard) (a : GV) (sf : AddwType) (s : State) : Host.Outcome State Fault Refusal :=
  guarded gd [namedGV a] (fun c l s =>
    let vs := addwValues (getStrand s c l) a sf
    advance (onCore s c fun k => { k with win := vs.foldl WinAcc.add k.win }) c l) s
/-- RNDW (R183). -/
def execRndw (gd : Guard) (d : GOp) (clr : Bool) (s : State) : Host.Outcome State Fault Refusal :=
  guarded gd [.g d] (fun c l s =>
    let w := (getCore s c).win
    let s := if clr then onCore s c fun k => { k with win := WinAcc.clear } else s
    onStrand s c l fun t => advanced (setG t t d w.round)) s
/-- CLRW (R183). -/
def execClrw (gd : Guard) (s : State) : Host.Outcome State Fault Refusal :=
  guarded gd [] (fun c l s => advance (onCore s c fun k => { k with win := WinAcc.clear }) c l) s

end Sys2Proof.Machine
end

