-- ==== Sys2Proof/Machine/Complete.lean ====
section
/-! DEFINITION. The end of an engine command: tags and counts, delayed faults with their operand records, commands of
cancelled nodes (08 R166, R170, R176, R180 to R182; 14 R264; 15 R279, R280; 16 R281). -/

namespace Sys2Proof.Machine

/-! ### Delayed faults -/

/-- The operand record of a command that faulted (R182). -/
def operandRecord (cmd : Cmd) (eng code row col : Nat) : Nat :=
  cmd.pc % 2 ^ 64 * 2 ^ 448 + cmd.opa % 2 ^ 64 * 2 ^ 384 + cmd.opb % 2 ^ 64 * 2 ^ 320 + cmd.opc % 2 ^ 64 * 2 ^ 256
    + cmd.vlk % 2 ^ 32 * 2 ^ 224 + cmd.vln % 2 ^ 32 * 2 ^ 192 + cmd.vlm % 2 ^ 32 * 2 ^ 160 + jobId cmd % 2 ^ 32 * 2 ^ 128
    + cmd.op % 2 ^ 10 * 2 ^ 118 + cmd.m % 2 ^ 16 * 2 ^ 102 + cmd.ta % 2 ^ 12 * 2 ^ 90 + cmd.tb % 2 ^ 12 * 2 ^ 78
    + cmd.xo % 2 ^ 5 * 2 ^ 73 + (if cmd.kind.matrix then 0 else cmd.tag % 2 ^ 6 * 2 ^ 64) + eng % 2 ^ 9 * 2 ^ 48
    + row % 2 ^ 16 * 2 ^ 32 + col % 2 ^ 16 * 2 ^ 16 + code % 2 ^ 10

/-- The delayed fault of a command (R181). -/
def cmdPending (cmd : Cmd) (eng code row col : Nat) : Pending :=
  { core := cmd.core, sid := cmd.sid, tag := if cmd.kind.matrix then none else some cmd.tag,
    job := if cmd.kind.matrix then some cmd.id else none, code := code, tval := cmd.pc,
    record := operandRecord cmd eng code row col, recordBits := 512 }

/-! ### Copy-unit commands -/

/-- How a copy-unit command completes: in full; a COPYV whose compare failed; with no writes under a cancelled node; with
a fault at an element. -/
inductive CopyEnd where
  | done | compareFailed | noWrites
  | fault (code row col : Nat)
  deriving DecidableEq, Repr

/-- VFAIL after a completion on a tag (R166). A COPYV completed with no writes has not committed. -/
def vfailAfter (kind : CmdKind) (e : CopyEnd) (v : BitVec 64) (tag : Nat) : BitVec 64 :=
  let bit := BitVec.ofNat 64 (2 ^ tag)
  if kind = .copyv ∧ e ≠ .done then v ||| bit else v &&& ~~~ bit

/-- A tag's count goes down, and its bit is set at 0 (R170). -/
def tagDone (k : CoreSt) (tag : Nat) : CoreSt :=
  let n := nget k.out 0 tag - 1
  { k with out := if n = 0 then nerase k.out tag else nset k.out tag n
           tags := if n = 0 then k.tags ||| BitVec.ofNat 64 (2 ^ tag) else k.tags }

/-- A copy-unit command completes and frees its place (R170, R264, R281). Where its strand has ended, which nothing more waits for,
its writes are performed. -/
def completeCopy (s : State) (cmd : Cmd) (e : CopyEnd) : State :=
  let c := cmd.core
  let s := onCore s c fun k =>
    let k := tagDone { k with q1 := k.q1.filter fun m => m.id != cmd.id } cmd.tag
    { k with vfail := vfailAfter cmd.kind e k.vfail cmd.tag }
  let s := readyCopies s c
  let s := onCluster s (clusterOf c) fun x => { x with runCopy := if x.runCopy = some (c, cmd.id) then none else x.runCopy }
  let s := match e with
    | .fault code row col => raiseDelayed s (cmdPending cmd (clusterOf c) code row col) cmd.node
    | _ => s
  let s := if sidAlive s cmd.sid then s else performCopies s fun m _ => m.core == c && m.id == cmd.id
  match getLaunch? s (tagOf s c) cmd.launch with
  | some x => decNode s (tagOf s c) x.node (some c)
  | none => s

/-- HELD copy-unit commands of strands whose node is cancelled (R279). -/
def droppable (s : State) (c : Nat) : List Cmd :=
  (getCore s c).q1.filter fun m => m.st == .held && nodeCancelled s (tagOf s c) m.node

/-- They complete with no writes (R279, R281). -/
def dropCancelled (s : State) (tag : Nat) : State :=
  (s.cores.filter fun e => e.2.tag == tag).foldl
    (fun s e => (droppable s e.1).foldl (fun s m => completeCopy s m .noWrites) s) s

/-! ### Setting a cancel flag (R195, R263, R276, R278, R279) -/

/-- The strands of a node that sleep at a blocking wait. -/
def sleepersUnder (s : State) (tag n : Nat) : List (Nat × Nat) :=
  s.strands.filterMap fun e =>
    let blocked := match e.2.status with | .asleep w => w.blocking | .ready => false
    if e.2.live && e.2.node == n && blocked && tagOf s (e.1 / 8) == tag then some (e.1 / 8, e.1 % 8) else none

/-- They retire (R195). -/
def retireSleepers (s : State) (tag n : Nat) : State :=
  (sleepersUnder s tag n).foldl (fun s p => if strandCancelled s p.1 p.2 then cancelStrand s p.1 p.2 else s) s

/-- Records of a node that wait at a JOIN, each with the node that holds it. -/
def heldUnder (s : State) (tag n : Nat) : List (Nat × Rec) :=
  (getPart s tag).nodes.flatMap fun e => (e.2.held.filter fun r => r.node == n).map fun r => (e.1, r)

/-- They retire too: a waiting JOIN is a blocking wait (R195). -/
def retireHeld (s : State) (tag n : Nat) : State :=
  (heldUnder s tag n).foldl
    (fun s e => retireRec (onNode s tag e.1 fun x => { x with held := x.held.erase e.2 }) e.2.joinCore e.2) s

/-- A node's cancel flag is set, by a CANCEL that the core given issued: at counter 0 a node other than a launch node is CANCELLED at once, a launch that runs
moves to RETIRING, its unstarted copies complete with no writes, and its strands and records that wait retire. -/
def cancelNode (s : State) (tag n : Nat) (core : Option Nat) : State :=
  match liveNode? s tag n with
  | none => s
  | some x =>
    let s := onNode s tag n fun x => { x with cf := true, cfCore := core }
    let s := if x.lvl = 1 then retireLaunchOf s tag n else s
    let s := dropCancelled (settleNode tag core 6 s n) tag
    retireHeld (retireSleepers s tag n) tag n

end Sys2Proof.Machine
end

