-- ==== Sys2Proof/Machine/Delta.lean ====
section
/-! DEFINITION. Delta queues: pops and quiescence; and arrangements (09 R200 to R203; 16 R287 to R292; 26 R367). -/

namespace Sys2Proof.Machine

/-! ### Delta faults at an instruction (R200) -/

/-- The pending 0x280 of a strand. -/
def pendingDelta (s : State) (sid : Nat) : Option Pending :=
  s.pending.find? fun f => f.sid == sid && f.tag == none && f.job == none

/-! ### Pops (R201) -/

/-- A popped record written to vD and v(D + 1). -/
def setPopped (t : Strand) (d : Fin 32) (r : DRec) : Strand :=
  setVNum (setV t d (r.key % 2 ^ 64 + r.value % 2 ^ 64 * 2 ^ 64)) (d.val + 1)
    (wrapTo 32 r.mult + r.epoch % 2 ^ 32 * 2 ^ 32)

/-- The record a DQPOP takes, after a drain when the ring is empty: none when both are empty. -/
def popQueue (q : Queue) : Option (DRec × Queue) :=
  let q := if q.ring.isEmpty then (drained q).getD q else q
  match q.ring with
  | r :: rest => some (r, { q with ring := rest })
  | [] => none

/-- A DQPOP that finds a record completes (R201). -/
def tryDqpop (s : State) (c l qn : Nat) (d : Fin 32) : Option State :=
  match getQueue? s (tagOf s c) qn with
  | none => none
  | some q => match popQueue q with
    | none => none
    | some (r, q') =>
      some (onStrand (putQueue s (tagOf s c) qn q') c l fun t =>
        { advanced (setPopped t d r) with readySince := (getCore s c).cycles })

/-! ### Quiescence (R203, R289) -/

/-- The graph node of a queue: the nearest graph-level ancestor of its binding launch's node. -/
def graphOf (s : State) (tag : Nat) (q : Queue) : Option Nat :=
  match getLaunch? s tag q.launch with
  | none => none
  | some x => ancestor s tag (fun n => n.lvl == 2) 6 x.node

/-- The queues of a graph. -/
def graphQueues (s : State) (tag n : Nat) : List Nat :=
  ((getPart s tag).queues.filter fun e => graphOf s tag e.2 == some n).map (·.1)

/-- A queue holds nothing of epoch e or below. -/
def queueQuiet (q : Queue) (e : Nat) : Bool :=
  q.buf.all (fun r => e < r.1.epoch) && q.ring.all (fun r => e < r.epoch) && q.live.all (fun x => e < x)

/-- The check of a QWAIT: pushes on their way arrive, the buffers drain, and quiescence is tested at one point (R203,
R367). A push that a full ring keeps from its buffer keeps the QWAIT waiting, whatever its epoch and whoever made it: that every push
that happens before the QWAIT has arrived is R367's, and the model does not tell those from others (DEDUCED, log 83). -/
def qwaitCheck (s : State) (tag n e : Nat) : State × Bool :=
  let qs := graphQueues s tag n
  let s := pushesArrive s fun p => p.tag == tag && qs.contains p.queue
  let s := qs.foldl (fun s q => drainQueue s tag q) s
  let quiet := qs.all fun q => match getQueue? s tag q with | some x => queueQuiet x e | none => true
  (s, quiet && !pushOnWay s fun p => p.tag == tag && qs.contains p.queue)

/-! ### Arrangements (R202, R291) -/

/-- ARRADD on an arrangement: the new multiplicity and entries, or the code that stops it. -/
def arrAdd (a : Arr) (key value : Nat) (m : Int) : Except Nat (Int × Arr) :=
  match a.entries.find? fun e => e.1 == key && e.2.1 == value with
  | some e =>
    let x := e.2.2 + m
    if multOverflow x then .error 0x283
    else if x = 0 then .ok (0, { a with entries := a.entries.filter fun e => !(e.1 == key && e.2.1 == value) })
    else .ok (x, { a with entries := a.entries.map fun e => if e.1 == key && e.2.1 == value then (key, value, x) else e })
  | none =>
    if m = 0 then .ok (0, a)
    else if 65536 ≤ a.entries.length then .error 0x284
    else .ok (m, { a with entries := a.entries ++ [(key, value, m)] })

end Sys2Proof.Machine
end

