-- ==== Sys2Proof/Machine/Lanes.lean ====
section
/-! DEFINITION. What the vector instructions compute on a v register read as a natural number: lane arithmetic, dot
products, conversion, packing, moves and reductions (06 R108 to R124). -/

namespace Sys2Proof.Machine

/-! ### Lane by lane -/

/-- Apply a function to the lanes of two registers, in ascending order (R112). -/
def lanes2 (w : Nat) (f : Nat → Nat → Nat) (a b : Nat) : List Nat := List.zipWith f (lanes w a) (lanes w b)

/-- A register all of whose w-bit elements are given; its other bits keep their values (R108). -/
def allLanes (w old : Nat) (xs : List Nat) : Nat := writeLanes w old 0 xs

/-- How an exact integer result is written to an element (R112). -/
def laneInt (t : IType) (sat : Bool) (r : Int) : Nat :=
  wrapTo t.width (if sat then satInt (itypeSigned t) t.width r else r)

/-- Roundings in ascending order: under rsr the LFSR steps once for each (R29, R112). The results and the LFSR's last
state. -/
def mapRound {α : Type} (rnd : Rnd) (f : Nat → α → Nat) : Nat → List α → List Nat × Nat
  | st, [] => ([], st)
  | st, x :: xs =>
    let st' := lfsrAfter rnd st
    let (ys, last) := mapRound rnd f st' xs
    (f (lfsrU st') x :: ys, last)

/-- The lanes of two or three registers as pairs and triples. -/
def pairs (w a b : Nat) : List (Nat × Nat) := List.zip (lanes w a) (lanes w b)
def triples (w a b c : Nat) : List (Nat × Nat × Nat) := List.zip (lanes w a) (pairs w b c)

/-- VADD, VSUB, VMUL and VFMA: integer lanes by an exact function, float lanes by a rounding one (R112). -/
def vArith (ar : VArith) (fi : Int → Int → Int → Int) (ff : FmtF → Rnd → Nat → Nat → Nat → Nat → Nat)
    (lfsr old a b c : Nat) : Nat × Nat :=
  match ar with
  | .int t sat =>
    (allLanes t.width old ((triples t.width a b c).map fun x =>
      laneInt t sat (fi (readTyped t x.1) (readTyped t x.2.1) (readTyped t x.2.2))), lfsr)
  | .flt t rnd =>
    let w := (ftypeFmt t).width
    let (ys, last) := mapRound rnd (fun u x => ff (ftypeFmt t) rnd u x.1 x.2.1 x.2.2) lfsr (triples w a b c)
    (allLanes w old ys, last)

/-- VMIN and VMAX (R112). -/
def vMin (t : VType) (old a b : Nat) : Nat :=
  allLanes (vtypeWidth t) old (lanes2 (vtypeWidth t)
    (fun x y => match t with
      | .i t => if readTyped t y < readTyped t x then y else x
      | .f t => floatMin (ftypeFmt t) x y) a b)
def vMax (t : VType) (old a b : Nat) : Nat :=
  allLanes (vtypeWidth t) old (lanes2 (vtypeWidth t)
    (fun x y => match t with
      | .i t => if readTyped t x < readTyped t y then y else x
      | .f t => floatMax (ftypeFmt t) x y) a b)

/-- VABS (R112). -/
def vAbs (sg : VSign) (old a : Nat) : Nat :=
  match sg with
  | .int t sat => allLanes t.width old ((lanes t.width a).map fun x => laneInt t sat ((readTyped t x).natAbs : Nat))
  | .flt t => allLanes (ftypeFmt t).width old ((lanes (ftypeFmt t).width a).map (floatAbsBits (ftypeFmt t)))
/-- VNEG (R112). -/
def vNeg (sg : VSign) (old a : Nat) : Nat :=
  match sg with
  | .int t sat => allLanes t.width old ((lanes t.width a).map fun x => laneInt t sat (-(readTyped t x)))
  | .flt t => allLanes (ftypeFmt t).width old ((lanes (ftypeFmt t).width a).map (floatNeg (ftypeFmt t)))

/-- VAND, VOR and VXOR (R112). -/
def vBits (f : Nat → Nat → Nat) (t : IType) (old a b : Nat) : Nat := allLanes t.width old (lanes2 t.width f a b)

/-- One shifted lane: left, logical right, arithmetic right by s mod w (R112). -/
def laneShl (w x s : Nat) : Nat := x * 2 ^ (s % w) % 2 ^ w
def laneShr (w x s : Nat) : Nat := x / 2 ^ (s % w)
def laneSar (w x s : Nat) : Nat := wrapTo w ((signedOf w x).fdiv ((2 ^ (s % w) : Nat) : Int))

/-- VSHL, VSHR and VSAR with a list of counts, one for each lane (R112). -/
def vShift (f : Nat → Nat → Nat → Nat) (t : IType) (old a : Nat) (counts : List Nat) : Nat :=
  allLanes t.width old (List.zipWith (f t.width) (lanes t.width a) counts)

/-- VCMP: all ones or all zeros in each lane (R113). -/
def vCmp (cond : VCond) (old a b : Nat) : Nat :=
  match cond with
  | .int t cc => allLanes t.width old (lanes2 t.width (fun x y => if intCond t cc x y then 2 ^ t.width - 1 else 0) a b)
  | .flt t cc =>
    let w := (ftypeFmt t).width
    allLanes w old (lanes2 w (fun x y => if floatCond t cc x y then 2 ^ w - 1 else 0) a b)

/-- VSEL, bit by bit (R113). -/
def vSel (a b c : Nat) : Nat := (a &&& c) ||| (b &&& notW 128 c)

/-! ### Dot products (R114) -/

/-- Input format and group size of a float dot product. -/
def dotFmt : DotF → FmtF
  | .e4m3 => .e4m3 | .e5m2 => .e5m2 | .e3m2 => .e3m2 | .e2m3 => .e2m3 | .e2m1 => .e2m1 | .bf16 => .bf16 | .f16 => .f16
def dotGroup : DotF → Nat
  | .e4m3 | .e5m2 => 4
  | .e3m2 | .e2m3 => 5
  | .e2m1 => 8
  | .bf16 | .f16 => 2

/-- The products of group j of two registers. -/
def dotProducts (t : DotF) (a b j : Nat) : List FV :=
  (List.range (dotGroup t)).map fun i =>
    let n := dotGroup t * j + i
    mulExact (decodeF (dotFmt t) (laneOf (dotFmt t).width a n)) (decodeF (dotFmt t) (laneOf (dotFmt t).width b n))

/-- One integer result: the sum of four products and d, fitted to 32 bits. -/
def dotInt (nat sat : Bool) (d a b j : Nat) : Nat :=
  let r8 := fun x => readTyped (if nat then .n8 else .i8) x
  let r32 : IType := if nat then .n32 else .i32
  laneInt r32 sat ((List.range 4).foldl (fun s i => s + r8 (laneOf 8 a (4 * j + i)) * r8 (laneOf 8 b (4 * j + i)))
    (readTyped r32 d))

/-- VDOT: the four results and the LFSR's last state (R114). -/
def vDot (dot : VDotArg) (lfsr old a b : Nat) : Nat × Nat :=
  match dot with
  | .int nat sat => (allLanes 32 old ((List.range 4).map fun j => dotInt nat sat (laneOf 32 old j) a b j), lfsr)
  | .flt t rnd =>
    let (ys, last) := mapRound rnd (fun u j =>
      roundTo .f32 rnd u (sumExact (rnd == .rdn) (decodeF .f32 (laneOf 32 old j) :: dotProducts t a b j))) lfsr (List.range 4)
    (allLanes 32 old ys, last)

/-! ### Conversion (R115) -/

/-- The source and destination elements that a part of a VCVT converts, in ascending order. -/
def cvtPairs (es ed part : Nat) : List (Nat × Nat) :=
  ((List.range (min es ed)).map fun i =>
    if ed ≤ es then (part * min es ed + i, i) else (i, part * min es ed + i)).filter fun p => p.1 < es && p.2 < ed

/-- Write elements at places of their own. -/
def putLanes (w : Nat) (v : Nat) : List (Nat × Nat) → Nat
  | [] => v
  | (i, x) :: rest => putLanes w (setLane w v i x) rest

/-- VCVT: the register and the LFSR's last state (R115). -/
def vCvt (df sf : CvtType) (rnd : Rnd) (prop : Bool) (part lfsr old a : Nat) : Nat × Nat :=
  let ps := cvtPairs (lanesOf sf.width) (lanesOf df.width) part
  let (ys, last) := mapRound rnd (fun u p => convert df sf rnd prop u (laneOf sf.width a p.1)) lfsr ps
  (putLanes df.width old (List.zip (ps.map (·.2)) ys), last)

/-! ### Packing (R116 to R118) -/

/-- VPACK with fmt=int: w-bit fields from bit x on; bits beyond 127 are dropped (R116). -/
def vPackInt (t : IType) (w : Nat) (sat : Bool) (x old a : Nat) : Nat :=
  (List.range (lanesOf t.width)).foldl
    (fun v i =>
      let r := readTyped t (laneOf t.width a i)
      setBits v (x + w * i) w (wrapTo w (if sat then satInt (itypeSigned t) w r else r))) old % 2 ^ 128

/-- VPACK with a BQ format: the block of 16 bf16 values (R117). -/
def vPackBq (fmt : BqFmt) (prop : Bool) (a b : Nat) : Nat :=
  bqEncode fmt prop ((lanes 16 a ++ lanes 16 b).map (decodeF .bf16))

/-- VUNPK with fmt=int; bits beyond 127 read 0 (R118). -/
def vUnpkInt (t : IType) (w x old a : Nat) : Nat :=
  allLanes t.width old ((List.range (lanesOf t.width)).map fun i =>
    let f := bitsAt a (x + w * i) w
    if itypeSigned t then wrapTo t.width (signedOf w f) else f)

/-- VUNPK with a BQ format: part p of a block as four f32 elements (R118). -/
def vUnpkBq (fmt : BqFmt) (part old block : Nat) : Nat :=
  allLanes 32 old ((List.range 4).map fun i => (encodeF .f32 .rne true 0 (bqDecode fmt block (4 * part + i))).1)

/-! ### Moving lanes (R119 to R121) -/

/-- The lane index of VEXT and VINS, which wraps (R119). -/
def laneIndex (w b : Nat) (x : Int) : Nat := wrapTo 64 (b + x) % lanesOf w

/-- VPERM: elements of two registers by index (R120). -/
def vPerm (w old a b c : Nat) : Nat :=
  let table := lanes w a ++ lanes w b
  allLanes w old ((lanes w c).map fun i => table.getD (i % (2 * lanesOf w)) 0)

/-- VTBL: bytes of a table of n registers by index, or the fill byte (R121). -/
def vTbl (table : List Nat) (fill b : Nat) : Nat :=
  allLanes 8 0 ((lanes 8 b).map fun i => if i < 16 * table.length then laneOf 8 (table.getD (i / 16) 0) (i % 16) else fill % 2 ^ 8)

/-! ### Reductions (R124) -/

/-- The fold of a list from its first element. -/
def fold1 (f : Nat → Nat → Nat) : List Nat → Nat
  | [] => 0
  | x :: xs => xs.foldl f x

/-- VRED: the value written to gD (R124). -/
def vRed (ra : VRedArg) (u a : Nat) : Nat :=
  match ra with
  | .int t op =>
    let xs := lanes t.width a
    match op with
    | .add => wrapTo 64 (xs.foldl (fun s x => s + readTyped t x) 0)
    | .min => extendTyped t (fold1 (fun x y => if readTyped t y < readTyped t x then y else x) xs : Nat)
    | .max => extendTyped t (fold1 (fun x y => if readTyped t x < readTyped t y then y else x) xs : Nat)
    | .and => extendTyped t (fold1 (· &&& ·) xs : Nat)
    | .or => extendTyped t (fold1 (· ||| ·) xs : Nat)
    | .xor => extendTyped t (fold1 (· ^^^ ·) xs : Nat)
  | .fadd t rnd => roundTo (ftypeFmt t) rnd u (sumExact (rnd == .rdn) ((lanes (ftypeFmt t).width a).map (decodeF (ftypeFmt t))))
  | .fmin t => fold1 (floatMin (ftypeFmt t)) (lanes (ftypeFmt t).width a)
  | .fmax t => fold1 (floatMax (ftypeFmt t)) (lanes (ftypeFmt t).width a)

/-- The rounding mode of a reduction: only a float add rounds. -/
def vRedRnd : VRedArg → Rnd
  | .fadd _ rnd => rnd
  | _ => .rne

end Sys2Proof.Machine
end

