-- ==== Sys2Proof/Machine/Memory.lean ====
section
/-! DEFINITION. One access of a strand, from its checks to its completion: global and pool loads and stores, atomics, mark
operations, CHAIN elements and fetches (03 R51 to R57; 07 R131 to R156; 06 R125 to R127; 12 R228 to R233; 21 R338). It is
run by the instruction itself and run again when a translation that was missing is found. -/

namespace Sys2Proof.Machine

/-! ### Parts (R52, R53) -/

/-- The parts of an access of w bits at ea that is split at multiples of `unit`: at most two (R52). Bits past bit address 2^64 - 1
lie at 0 and up: addresses are taken modulo 2^64 (R60, R131), and of an access's own bits the spec says nothing (DESIGN CHOICE,
log 76). -/
def splitAt (unit ea w : Nat) : List (Nat × Nat) :=
  let room := unit - ea % unit
  if w ≤ room then [(ea, w)] else [(ea, room), ((ea + room) % 2 ^ 64, w - room)]

/-- The parts of a load or store: a scalar access splits at the first 64-bit boundary it crosses, a vector access at the
line (R52). -/
def accessParts (ea w : Nat) : List (Nat × Nat) := splitAt (if w ≤ 64 then 64 else 512) ea w

/-- The parts of a long write, cut at every line. -/
def lineParts : Nat → Nat → Nat → List (Nat × Nat)
  | 0, _, _ => []
  | n + 1, ea, w =>
    if w = 0 then []
    else
      let k := min w (512 - ea % 512)
      (ea, k) :: lineParts n ((ea + k) % 2 ^ 64) (w - k)

/-! ### Translation and rights (R133) -/

/-- How the location of a global access ends: translated, with a translation for each part; a part that misses; or a trap
code. -/
inductive Located where
  | found (xs : List (Xlat × Nat × Nat))
  | miss (va : Nat)
  | fault (code : Nat)
  deriving DecidableEq, Repr

/-- Translate parts in order from what the core has cached. -/
def locateParts (s : State) (c : Nat) : List (Nat × Nat) → Located
  | [] => .found []
  | (ea, w) :: ps =>
    match cached s c ea with
    | none => .miss ea
    | some x => match locateParts s c ps with
      | .found xs => .found ((x, ea, w) :: xs)
      | r => r

/-- Canonical form, translation and rights of every part: the read right over all parts first (R133 steps 2 and 3). -/
def locate (s : State) (c : Nat) (ps : List (Nat × Nat)) (rd wr : Bool) : Located :=
  if !ps.all fun p => canonical p.1 then .fault 0x0C0
  else match locateParts s c ps with
    | .found xs =>
      if rd && !xs.all fun x => x.1.rd then .fault 0x103
      else if wr && !xs.all fun x => x.1.wr then .fault 0x102
      else .found xs
    | r => r

def partsOf (xs : List (Xlat × Nat × Nat)) : List Part := xs.map fun x => x.1.part x.2.1 x.2.2
def linesOf (ps : List Part) : List Nat := ps.map fun p => lineOf p.pa

/-- The ordering kind of an access: the strongest of its pages' (R59). -/
def kindOf (xs : List (Xlat × Nat × Nat)) : Nat := xs.foldl (fun k x => min k x.1.kind) 2

/-- The ordering an access acts with, by its pages' kind (R229). -/
def actsAs (kind : Nat) (q : MemReq) : Ord × Scope :=
  match kind with
  | 0 => (.sc, .sy)
  | 1 => (q.ord, q.sc)
  | _ => (.rlx, q.sc)

/-- Release orders (R236). -/
def ordReleases : Ord → Bool
  | .rel | .ar | .sc => true
  | _ => false

/-- The REDs of a strand that a later access waits for: those within the scope of a release or sc access (R141), and every one for
an atomic or a mark operation, so that these stay in program order (R240). -/
def redsBefore (os : Ord × Scope) (rmw : Bool) (sc : Scope) : Bool := rmw || (ordReleases os.1 && scopeIncludes os.2 sc)

/-- Acquire orders (R236). -/
def ordAcquires : Ord → Bool
  | .acq | .ar | .sc => true
  | _ => false

/-- REDs of a strand under way here that an access comes after: while one waits for a peer to perform an earlier RED, the access waits
too. They are all, for a release, and those to its lines, for an access that is no RED (R228, R236). -/
def redsQueued (s : State) (c sid : Nat) (os : Ord × Scope) (red : Bool) (lines : List Nat) : Bool :=
  (getCore s c).reds.any fun q => q.sid == sid && (ordReleases os.1 || (!red && touchesLine lines q))

/-- An access takes its place among its strand's others (R141, R228, R236, R240): the REDs it waits for first, its release if it
writes, and what other releases that cover it have passed on its lines. An sc read has the stores that it sees in its core's L1
performed (R239). It then has its permits (R15). -/
def ordered (s : State) (c l : Nat) (os : Ord × Scope) (writes rmw red : Bool) (lines : List Nat) (k : State → State) : State :=
  let sid := (getStrand s c l).sid
  let queued := redsQueued s c sid os red lines
  afterReds s c l (fun q => redsBefore os rmw q.sc || ordAcquires q.ord || queued) fun s =>
    let s := flushReds s c fun q => q.sid == sid && (redsBefore os rmw q.sc || q.acq)
    let s := if writes && ordReleases os.1 then releaseAt s c sid os.2 false false else s
    let s := touch s c sid lines
    let s := if os.1 == .sc && !writes then flush s c fun q => touchesLine lines q && seesInL1 s sid q else s
    withPermits s c l lines k

/-- Whether an access may stay in flight: the agenda says so, and it is no sc operation, unless it is split, when its parts are seen
one by one (R53, R239). -/
def mayFly (s : State) (os : Ord × Scope) (ps : List Part) : Bool :=
  s.cur.inFlight && (os.1 != .sc || decide (2 ≤ ps.length))

/-! ### Global accesses -/

/-- Begin a global access: an ordered trap of R133, a stall on translation, a request to a peer, or `k` with the parts'
translations. `src` is the SRC of R314. -/
def globalAccess (s : State) (c l : Nat) (q : MemReq) (ea src : Nat) (ps : List (Nat × Nat)) (rd wr : Bool)
    (k : List (Xlat × Nat × Nat) → State) : State :=
  match locate s c ps rd wr with
  | .fault code => takeTrap s c l code ea
  | .miss va => stallOn s c l va src q
  | .found xs => k xs

/-- The peer that an access reaches, if one of its pages is a peer's. -/
def peerOf (xs : List (Xlat × Nat × Nat)) : Option Nat := (xs.find? fun x => x.1.peer).map (·.1.dev)

/-- Make a request of an access that stays in flight. -/
def mkReq (s : State) (c l ea : Nat) (sc : Scope) (xs : List (Xlat × Nat × Nat)) (op : ReqOp) : Req :=
  { slot := l, sid := (getStrand s c l).sid, ea := ea, parts := partsOf xs, op := op, unPage := kindOf xs == 2, sc := sc }

/-- Send a request towards its home slice. -/
def fly (s : State) (c : Nat) (q : Req) : State := onCore s c fun k => { k with requests := k.requests ++ [q] }

/-- A strand's value of some parts, through its core's L1 (R232). -/
def readHere (s : State) (c l : Nat) (ps : List Part) (k : State → Nat → State) : State :=
  let sid := (getStrand s c l).sid
  let v := readParts (ownView s c sid) ps
  k (noteRead (reachLines s c (linesOf ps)) c sid (linesOf ps)) v

/-- A global load with its parts located (R135, R136). -/
def loadNow (s : State) (c l ea w : Nat) (sx : Bool) (dst : Dst) (q : MemReq) (xs : List (Xlat × Nat × Nat)) : State :=
  let os := actsAs (kindOf xs) q
  let ps := partsOf xs
  ordered s c l os false false false (linesOf ps) fun s =>
    let sid := (getStrand s c l).sid
    let s := flushRedLines s c sid (linesOf ps)
    if s.cur.err then takeTrap s c l 0x141 ea
    else if mayFly s os ps then
      let op := ReqOp.read w sx dst (ps.map fun _ => none)
      sleep (fly (flushLines s c sid (linesOf ps)) c (mkReq s c l ea os.2 xs op)) c l .access
    else readHere s c l ps fun s v => finish s c l dst (loadedValue w sx v)

/-- A global store with its parts located (R135, R136). A split store with ord=sc that stays in flight is waited for. -/
def storeNow (s : State) (c l ea w val : Nat) (q : MemReq) (xs : List (Xlat × Nat × Nat)) : State :=
  let os := actsAs (kindOf xs) q
  let ps := partsOf xs
  ordered s c l os true false false (linesOf ps) fun s =>
    let s := flushLines s c (getStrand s c l).sid (linesOf ps)
    if mayFly s os ps then
      let s' := fly s c (mkReq s c l ea os.2 xs (.write w (cutParts (ps.map (·.w)) val) (os.1 == .sc)))
      if os.1 = .sc then sleep s' c l .access else finish s' c l .none 0
    else finish (ringDoorbell (writeParts s c ps val) c ea w) c l .none 0

/-- A RED with its part located (R141): under way behind its strand's earlier ones, or performed at once with them, unless a peer has
still to perform one. -/
def redNow (s : State) (c l ea : Nat) (fn : AtomicFn) (q : MemReq) (xs : List (Xlat × Nat × Nat)) : State :=
  let os := actsAs (kindOf xs) q
  let ps := partsOf xs
  ordered s c l os true false true (linesOf ps) fun s =>
    let sid := (getStrand s c l).sid
    if s.cur.err then takeTrap s c l 0x141 ea
    else
      let s := flush s c (touchesLine (linesOf ps))
      if s.cur.inFlight || redsAtPeer s sid fun _ => true then
        let r := { mkReq s c l ea os.2 xs (.atomic fn .none) with acq := ordAcquires os.1 }
        finish (onCore s c fun k => { k with reds := k.reds ++ [r] }) c l .none 0
      else match ps with
        | p :: _ => finish (doAtomic (flushReds s c fun q => q.sid == sid) c p fn).1 c l .none 0
        | [] => s

/-- A CAS whose comparand memory does not hold now writes nothing, and makes no release (R140). -/
def failsNow (s : State) (fn : AtomicFn) (ps : List Part) : Bool :=
  match ps with
  | p :: _ => (atomicNew fn (physRead s p.key p.pa p.w)).isNone
  | [] => false

/-- Whether an atomic is a CAS. -/
def isCas : AtomicFn → Bool
  | .cas .. => true
  | .amo .. => false

/-- An AMO or CAS with its part located (R138 to R140). A CAS that would release is made at once, so that it is known whether it
does. -/
def atomicNow (s : State) (c l ea : Nat) (fn : AtomicFn) (dst : Dst) (q : MemReq) (xs : List (Xlat × Nat × Nat)) : State :=
  let os := actsAs (kindOf xs) q
  let ps := partsOf xs
  ordered s c l os false true false (linesOf ps) fun s =>
    let sid := (getStrand s c l).sid
    if s.cur.err then takeTrap s c l 0x141 ea
    else
      let s := flushLines s c sid (linesOf ps)
      let s := if ordReleases os.1 && !failsNow s fn ps then releaseAt s c sid os.2 false false else s
      if mayFly s os ps && !(isCas fn && ordReleases os.1) then
        sleep (fly s c (mkReq s c l ea os.2 xs (.atomic fn dst))) c l .access
      else match ps with
        | p :: _ =>
          let (s', old) := doAtomic s c p fn
          finish s' c l dst (oldExtended (atomicType fn) old)
        | [] => s

/-- The address of an error that a read of one or several cells meets: of the cells the one a free value names is the lowest affected
(R134). -/
def errorAt (s : State) (ea : Nat) (xs : List (Xlat × Nat × Nat)) : Nat :=
  (xs.map fun x => x.2.1).getD (Config.freeWord s.draw 5 % xs.length) ea

/-- A request of a mark operation performed at once or sent on its way; `writes` is a DEP's. -/
def markNow (s : State) (c l : Nat) (q : MemReq) (writes : Bool) (xs : List (Xlat × Nat × Nat)) (op : ReqOp) (ea : Nat) :
    State :=
  let os := actsAs (kindOf xs) q
  let ps := partsOf xs
  ordered s c l os writes true false (linesOf ps) fun s =>
    let r := mkReq s c l ea os.2 xs op
    let s := flushLines s c (getStrand s c l).sid (linesOf ps)
    if s.cur.err then takeTrap s c l 0x141 (errorAt s ea xs)
    else if mayFly s os ps then sleep (fly s c r) c l .access
    else match performAll s c 32 r with
      | (s', some (.value _ _ dst v)) => finish s' c l dst v
      | (s', some (.trap _ _ code tval)) => takeTrap s' c l code tval
      | (s', _) => s'

/-! ### Accesses to peers (R59, R246, R338) -/

/-- DT of the leaves of peers' pages that an access writes through is set before the write leaves (R308). -/
def dirtyPeers (s : State) (xs : List (Xlat × Nat × Nat)) : State :=
  xs.foldl (fun s x => if x.1.peer then setDirty s x.1.leaf else s) s

/-- A RED leaves for a peer, behind its strand's earlier ones; its strand goes on (R141, R240). -/
def postRed (s : State) (c l dev : Nat) (os : Ord × Scope) (q : MemReq) : State :=
  let sid := (getStrand s c l).sid
  let queued := (getCore s c).reds.any (·.sid == sid)
  afterReds s c l (fun _ => queued) fun s =>
    finish (postPeer (flushReds s c fun r => r.sid == sid) c l sid dev { q with ord := os.1, sc := os.2 }) c l .none 0

/-- A global access all of which one peer holds: sent to the peer, or done here. Whether a CAS will fail at the peer, and so makes no
release, a free value says when it leaves (R140; log 84). -/
def hereOrPeer (s : State) (c l ea : Nat) (q : MemReq) (xs : List (Xlat × Nat × Nat)) (writes rmw : Bool) (here : State) :
    State :=
  match peerOf xs with
  | none => here
  | some dev =>
    let os := actsAs (kindOf xs) q
    let isRed := match q.op with
      | .red .. => true
      | _ => false
    let fails := match q.op with
      | .atomic _ _ fn _ => isCas fn && Config.freeWord s.draw 8 % 2 == 1
      | _ => false
    ordered s c l os (writes && !fails) (rmw && !isRed) isRed [] fun s =>
      if (rmw || !writes) && s.cur.err then takeTrap s c l 0x141 (errorAt s ea xs)
      else if !portTo s dev then takeTrap s c l 0x341 ea
      else
        let s := if writes && !fails then dirtyPeers s xs else s
        if isRed then postRed s c l dev os q else sendPeer s c l dev ea { q with fails := fails }

/-- The legs of an access at ea, with the values stored there. A free value says which of them a load reads first (R53); of a store
those of peers come first, since one of them may fail, when nothing of it is performed here (R53, R156, R338). -/
def legsOf (s : State) (xs : List (Xlat × Nat × Nat)) (val : Nat) (reads : Bool) : List Leg :=
  let ps := partsOf xs
  let legs := (xs.zip (cutParts (ps.map (·.w)) val)).map fun e =>
    { ea := e.1.2.1, part := e.1.1.part e.1.2.1 e.1.2.2, dev := if e.1.1.peer then some e.1.1.dev else none, val := e.2 : Leg }
  if reads then (if Config.freeWord s.draw 0 % 2 = 0 then legs else legs.reverse)
  else (legs.filter fun g => g.dev.isSome) ++ legs.filter fun g => g.dev.isNone

/-- Whether legs read or write. -/
def AfterLegs.reads : AfterLegs → Bool
  | .load .. | .chainLoad _ => true
  | _ => false

/-- The value that the legs of an access at ea gave, each at its bits. -/
def legsValue (ea : Nat) (got : List (Nat × Nat)) : Nat :=
  got.foldl (fun v e => v + e.2 * 2 ^ ((e.1 + 2 ^ 64 - ea) % 2 ^ 64)) 0

/-- A write that a peer has performed fires the monitors over its bits. -/
def firePeer (s : State) (c ea w : Nat) : State :=
  match peekXlat s c ea with
  | some x => if x.peer then fireGlobal s (x.phys ea) w else s
  | none => s

/-- The legs of an access in turn: those on this device are performed here, the others are sent to their peers, and the strand
waits for each answer; `k` follows the last. `got` holds what was read, or where peers hold what was stored: when all of them have
answered, the monitors over it fire (R53, R59, R144, R246). -/
def runLegs (s : State) (c l ea : Nat) (q : MemReq) (a : AfterLegs) (k : State → Nat → State) :
    List Leg → List (Nat × Nat) → State
  | [], got => k (if a.reads then s else got.foldl (fun s e => firePeer s c e.1 e.2) s) (legsValue ea got)
  | g :: rest, got =>
    match g.dev with
    | some dev => sendPeer s c l dev ea { q with op := .legs ea (g :: rest) got a }
    | none =>
      if a.reads then
        let v := physRead (ownView s c (getStrand s c l).sid) g.part.key g.part.pa g.part.w
        let s := noteRead (reachLine s c (lineOf g.part.pa)) c (getStrand s c l).sid [lineOf g.part.pa]
        runLegs s c l ea q a k rest (got ++ [(g.ea, v)])
      else runLegs (writePart s c g.part g.val) c l ea q a k rest got

/-- An access whose parts lie in several places, one of them a peer's. A port must be UP towards each peer before any part is
performed (R338). -/
def legsNow (s : State) (c l ea : Nat) (q : MemReq) (xs : List (Xlat × Nat × Nat)) (val : Nat) (a : AfterLegs)
    (k : State → Nat → State) : State :=
  let lines := linesOf ((xs.filter fun x => !x.1.peer).map fun x => x.1.part x.2.1 x.2.2)
  ordered s c l (actsAs (kindOf xs) q) (!a.reads) false false lines fun s =>
    let sid := (getStrand s c l).sid
    let s := if a.reads then flushRedLines s c sid lines else flushLines s c sid lines
    if a.reads && s.cur.err then takeTrap s c l 0x141 ea
    else if xs.any fun x => x.1.peer && !portTo s x.1.dev then takeTrap s c l 0x341 ea
    else runLegs (if a.reads then s else dirtyPeers s xs) c l ea q a k (legsOf s xs val a.reads) []

/-! ### Marks -/

/-- The cells of a SENSE at a cell of a field, by position (R152). -/
def senseCells (f : Field) (ea : Nat) (win : Window) : List (Option Nat) :=
  let i := (ea - f.base) / 32
  (List.range (windowSize win)).map fun p =>
    (windowCell f.rows f.cols f.wrapF (i / f.cols) (i % f.cols) (windowOffset win p)).map
      fun rc => f.base + 32 * (rc.1 * f.cols + rc.2)

/-- A mark operation located through its own cell: the checks of R148, then `k` with the field. On the load field, whose page gives
no write right, DEP and TADV raise the traps that R306 names: there the write right is not asked for (R133 would have it asked
first; log 77). -/
def markAccess (s : State) (c l : Nat) (q : MemReq) (ea : Nat) (wr dep tadv : Bool)
    (k : List (Xlat × Nat × Nat) → Nat → Field → State) : State :=
  if ea % 32 ≠ 0 then takeTrap s c l 0x081 ea
  else
    let onLoad := match fieldOf s (tagOf s c) ea with
      | some (fid, _) => fid == 0
      | none => false
    globalAccess s c l q ea 0 [(ea, 32)] true (wr && !onLoad) fun xs =>
    match markFault s (tagOf s c) ea dep tadv, fieldOf s (tagOf s c) ea with
    | some code, _ => takeTrap s c l code ea
    | none, some (fid, f) => k xs fid f
    | none, none => takeTrap s c l 0x240 ea

/-- A SENSE with its window: each present cell is translated and needs the read right (R133, R153). -/
def senseNow (s : State) (c l : Nat) (q : MemReq) (ea : Nat) (win : Window) (rot : Bool) (dst : Dst) (fid : Nat)
    (f : Field) : State :=
  let cells := senseCells f ea win
  globalAccess s c l q ea 0 ((cells.filterMap id).map fun a => (a, 32)) true false fun xs =>
    let todo := cells.map fun o => o.bind fun a => (xs.find? fun x => x.2.1 == a).map fun x => (a, x.1.part a 32)
    let start := if rot then strandNumber s c l % windowSize win else 0
    hereOrPeer s c l ea q xs false true
      (markNow s c l q false xs (.sense (tagOf s c) fid f.launch none todo [] start dst) ea)

/-! ### Pool accesses (R45, R47, R122, R167, R233) -/

/-- Whether a channel makes an access of [a, a + w) wait: it overlaps the bits still to come, of which there may be none (R167). -/
def channelStalls (ch : Channel) (a w : Nat) : Bool :=
  decide (ch.fill < ch.len) && overlaps a w (ch.base + ch.fill) (ch.len - ch.fill)
def watermarkStalls (k : CoreSt) (a w : Nat) : Bool := k.wch.toList.any fun ch => channelStalls ch a w

/-- Waits for the pool's crossbar added to XBWAIT; how many is a free value (R122, R123; log 3). -/
def countXbar (s : State) (c : Nat) : State :=
  onCore s c fun k => { k with xbwait := k.xbwait + BitVec.ofNat 64 (Config.crossbarWaits s.draw) }

/-- Begin a pool access: range checks, the watermark stall, the crossbar, then `k`. A CHAIN's pool elements go through the crossbar
and count their waits too; R122 does not name CHAIN (DESIGN CHOICE, log 78). -/
def poolAccess (s : State) (c l : Nat) (q : MemReq) (ea w : Nat) (k : State → State) : State :=
  match poolFault (getCore s c) ea w with
  | some code => takeTrap s c l code ea
  | none =>
    if watermarkStalls (getCore s c) ea w then blockOn s c l (.watermark { q with err := s.cur.err }) else k (countXbar s c)

/-- A pool access of two parts may take two places in the pool's order, its strand asleep between them (R52, R53, R233). -/
def poolSplits (s : State) (ea w : Nat) : Bool := s.cur.inFlight && (accessParts ea w).length == 2

/-- A split pool access is under way: `op` is its request. -/
def poolFly (s : State) (c l ea : Nat) (op : ReqOp) : State :=
  sleep (fly s c { slot := l, sid := (getStrand s c l).sid, ea := ea, parts := [], op := op, unPage := false }) c l .access

/-- A pool load past its checks (R135, R136). -/
def poolLoad (s : State) (c l ea w : Nat) (sx : Bool) (dst : Dst) : State :=
  if s.cur.err then takeTrap s c l 0x141 ea
  else if poolSplits s ea w then
    poolFly s c l ea (.poolRead w sx dst (accessParts ea w) [none, none])
  else finish s c l dst (loadedValue w sx (poolRead s c ea w))

/-- A pool store past its checks (R135, R136). -/
def poolStore (s : State) (c l ea w val : Nat) : State :=
  if poolSplits s ea w then
    let ps := accessParts ea w
    poolFly s c l ea (.poolWrite (((ps.zip (cutParts (ps.map (·.2)) val)).map fun e => (e.1.1, e.1.2, e.2))))
  else finish (poolWrite s c ea w val) c l .none 0

/-! ### CHAIN (R125 to R127) -/

/-- One operation of a CHAIN program on an f32, with its rounding's u; the flag says whether it rounds. -/
def chainOp (rnd : Rnd) (u opc kf x : Nat) : Nat :=
  match opc with
  | 1 => floatAdd .f32 rnd u x kf
  | 2 => floatMul .f32 rnd u x kf
  | 3 => floatMax .f32 x kf
  | 4 => floatMin .f32 x kf
  | 5 => floatSub .f32 rnd u kf x
  | 6 => floatAbsBits .f32 x
  | 7 => floatNeg .f32 x
  | 8 => floatDiv .f32 rnd u 0x3F800000 x
  | 9 => floatSqrt .f32 rnd u x
  | _ => floatMul .f32 rnd u x x
/-- ABS, NEG, MAX and MIN round nothing (R126). -/
def chainRounds (opc : Nat) : Bool := opc != 3 && opc != 4 && opc != 6 && opc != 7

/-- The slots of a program that run: up to its first END (R125). -/
def chainSlots : List Nat → List Nat
  | [] => []
  | x :: xs => if x / 2 ^ 28 = 0 then [] else x :: chainSlots xs

/-- The program slot that may not run, with its index (R125). -/
def chainBad (i : Nat) : List Nat → Option (Nat × Nat)
  | [] => none
  | x :: xs => if 11 ≤ x / 2 ^ 28 ∨ bitsAt x 16 12 ≠ 0 then some (i, x) else chainBad (i + 1) xs

/-- The eight slots of v(C + 1):vC; slots of v(C + 1) count only when v C holds no END (R125). -/
def chainProgram (lo hi : Nat) : List Nat :=
  let first := (List.range 4).map fun i => bitsAt lo (32 * i) 32
  if first.any fun x => x / 2 ^ 28 = 0 then first else first ++ (List.range 4).map fun i => bitsAt hi (32 * i) 32

/-- A program run on an f32 from an LFSR state: the value and the LFSR's last state. -/
def chainRun (rnd : Rnd) : Nat → Nat → List Nat → Nat × Nat
  | st, x, [] => (x, st)
  | st, x, s :: ss =>
    let opc := s / 2 ^ 28
    let st' := if chainRounds opc then lfsrAfter rnd st else st
    chainRun rnd st' (chainOp rnd (lfsrU st') opc (s % 2 ^ 16 * 2 ^ 16) x) ss

/-- Whether an element widens exactly to f32: a float format does, and an integer converts under R31, with a rounding
(R29, R126). -/
def widens (t : CvtType) : Bool :=
  match cvtKind t with
  | .flt _ => true
  | .int .. => false

/-- One element: source bits to destination bits, with the LFSR's last state (R126). A store conversion to f32 changes nothing and
counts as no rounding, so that it takes no step of the LFSR (DESIGN CHOICE, log 78). -/
def chainElement (e : ChainOp) (st bits : Nat) : Nat × Nat :=
  let st1 := if widens e.sty then st else lfsrAfter e.rnd st
  let x := convert .f32 e.sty e.rnd false (lfsrU st1) bits
  let (y, st2) := chainRun e.rnd st1 x (chainSlots e.prog)
  let st3 := if e.dty = .f32 then st2 else lfsrAfter e.rnd st2
  (convert e.dty .f32 e.rnd e.prop (lfsrU st3) y, st3)

/-- An element is done: gA and gB step on, gD counts down, and the pc stays until none is left (R126, R127). -/
def chainStep (e : ChainOp) (st' : Nat) (s : State) (c l : Nat) : State :=
  let s := onStrand s c l fun t =>
    let t := { t with srstate := BitVec.ofNat 32 st', status := .ready, readySince := (getCore s c).cycles }
    let t := wrG t e.a (rdG t e.a + BitVec.ofNat 64 e.sty.width)
    let t := wrG t e.b (rdG t e.b + BitVec.ofNat 64 e.dty.width)
    let t := wrG t e.d (rdG t e.d - 1)
    if rdG t e.d = 0 then advanced t else t
  if rdG (getStrand s c l) e.d = 0 then onCore s c fun k => { k with simd := none } else s

/-- Store an element of a CHAIN whose value is loaded (R126). -/
def chainStore (s : State) (c l : Nat) (q : MemReq) (e : ChainOp) (bits : Nat) : State :=
  let t := getStrand s c l
  let (y, st') := chainElement e t.srstate.toNat bits
  let ea := (rdG t e.b).toNat
  let w := e.dty.width
  let q := { q with op := .chain { e with got := some bits } }
  if e.dstPool then
    poolAccess s c l q ea w fun s => chainStep e st' (poolWrite s c ea w y) c l
  else
    globalAccess s c l q ea 1 (accessParts ea w) false true fun xs =>
      if (peerOf xs).isSome then
        legsNow s c l ea q xs y (.chainStore { e with got := some bits }) fun s _ => chainStep e st' (ringDoorbell s c ea w) c l
      else
        let ps := partsOf xs
        ordered s c l (actsAs (kindOf xs) q) true false false (linesOf ps) fun s =>
          chainStep e st' (ringDoorbell (writeParts (flushLines s c t.sid (linesOf ps)) c ps y) c ea w) c l

/-- One element of a CHAIN: its load, its program, its store; it holds the SIMD unit until its last (R126, R127). -/
def chainNow (s : State) (c l : Nat) (q : MemReq) (e : ChainOp) : State :=
  let t := getStrand s c l
  let s := onCore s c fun k => { k with simd := some (t.sid, t.pc) }
  match e.got with
  | some bits => chainStore s c l q e bits
  | none =>
    let ea := (rdG t e.a).toNat
    let w := e.sty.width
    if e.srcPool then
      poolAccess s c l q ea w fun s =>
        if s.cur.err then takeTrap s c l 0x141 ea else chainStore s c l q e (poolRead s c ea w)
    else
      globalAccess s c l q ea 0 (accessParts ea w) true false fun xs =>
        if (peerOf xs).isSome then
          legsNow s c l ea q xs 0 (.chainLoad e) fun s bits => chainStore s c l q e bits
        else
          let ps := partsOf xs
          ordered s c l (actsAs (kindOf xs) q) false false false (linesOf ps) fun s =>
            let s := flushRedLines s c t.sid (linesOf ps)
            if s.cur.err then takeTrap s c l 0x141 ea
            else readHere s c l ps fun s bits => chainStore s c l q e bits

/-! ### Arrangements (R202, R291) -/

/-- The live pairs of a key, by rising value. -/
def arrPairs (a : Arr) (key : Nat) : List (Nat × Int) :=
  ((a.entries.filter fun e => e.1 == key).map fun e => (e.2.1, e.2.2)).mergeSort fun x y => decide (x.1 ≤ y.1)

/-- Pairs as memory holds them, 128 bits each. -/
def pairBits : List (Nat × Int) → Nat
  | [] => 0
  | (v, m) :: ps => v % 2 ^ 64 + wrapTo 32 m * 2 ^ 64 + 2 ^ 128 * pairBits ps

/-- Each of n pairs from ea on that touches the doorbell posts, as every store to it does (R202, R339). -/
def ringPairs (s : State) (c ea n : Nat) : State :=
  (List.range n).foldl (fun s i => ringDoorbell s c ((ea + 128 * i) % 2 ^ 64) 128) s

/-- ARRGET with its arrangement: the pairs written with plain stores and the total returned (R202). -/
def arrgetNow (s : State) (c l : Nat) (q : MemReq) (arr key ea max : Nat) (dst : Dst) : State :=
  match nget? (getPart s (tagOf s c)).arrs arr with
  | none => takeTrap s c l 0x285 arr
  | some a =>
    let ps := arrPairs a key
    let out := ps.take max
    let w := 128 * out.length
    globalAccess s c l q ea 1 (lineParts (out.length + 2) ea w) false true fun xs =>
      if (peerOf xs).isSome then
        legsNow s c l ea q xs (pairBits out) (.arrget dst ps.length ea out.length) fun s _ =>
          finish (ringPairs s c ea out.length) c l dst ps.length
      else
        let parts := partsOf xs
        ordered s c l (actsAs (kindOf xs) q) true false false (linesOf parts) fun s =>
          let s := writeParts (flushLines s c (getStrand s c l).sid (linesOf parts)) c parts (pairBits out)
          finish (ringPairs s c ea out.length) c l dst ps.length

/-! ### What follows the legs of an access -/

/-- The access is complete. -/
def afterLegs (c l : Nat) (q : MemReq) (a : AfterLegs) (s : State) (v : Nat) : State :=
  match a with
  | .load w sx dst => finish s c l dst (loadedValue w sx v)
  | .store ea w => finish (ringDoorbell s c ea w) c l .none 0
  | .chainLoad e => chainStore s c l q e v
  | .chainStore e =>
    let t := getStrand s c l
    chainStep e (chainElement e t.srstate.toNat (e.got.getD 0)).2 (ringDoorbell s c (rdG t e.b).toNat e.dty.width) c l
  | .arrget dst n ea k => finish (ringPairs s c ea k) c l dst n

/-! ### Fetches (R64, R316) -/

/-- The line a strand waits for is fetched now that its page is mapped: at its home slice, into the instruction cache, with its
parity checked (R66, R241). -/
def fetchNow (s : State) (c l pc : Nat) : State :=
  let base := lineBase pc
  match cached s c base with
  | none => wake s c l
  | some x =>
    if !x.xr then takeTrap s c l 0x104 base
    else if x.peer then sendPeer s c l x.dev base (fetchReq pc false)
    else
      let line := physRead s x.key (x.phys base) 512
      let s := reachLine s c (lineOf (x.phys base))
      if parityOk line then wake (fillLine s c base line) c l else sleep s c l (.refetch base)

/-! ### One operation -/

/-- Run a memory operation of the strand in slot l of core c: its checks in the order of R133, then its effect, or a
stall. -/
def runMem (s : State) (c l : Nat) (q : MemReq) : State :=
  match q.op with
  | .load ea w sx dst =>
    if q.pool then poolAccess s c l q ea w fun s => poolLoad s c l ea w sx dst
    else globalAccess s c l q ea 0 (accessParts ea w) true false fun xs =>
      if 2 ≤ xs.length && (peerOf xs).isSome then
        legsNow s c l ea q xs 0 (.load w sx dst) (afterLegs c l q (.load w sx dst))
      else hereOrPeer s c l ea q xs false false (loadNow s c l ea w sx dst q xs)
  | .store ea w val =>
    if q.pool then poolAccess s c l q ea w fun s => poolStore s c l ea w val
    else globalAccess s c l q ea 1 (accessParts ea w) false true fun xs =>
      if 2 ≤ xs.length && (peerOf xs).isSome then
        legsNow s c l ea q xs val (.store ea w) (afterLegs c l q (.store ea w))
      else hereOrPeer s c l ea q xs true false (storeNow s c l ea w val q xs)
  | .atomic ea w fn dst =>
    if ea / 64 ≠ (ea + w - 1) / 64 then takeTrap s c l 0x080 ea
    else globalAccess s c l q ea 0 [(ea, w)] true true fun xs =>
      hereOrPeer s c l ea q xs true true (atomicNow s c l ea fn dst q xs)
  | .red ea w fn =>
    if ea / 64 ≠ (ea + w - 1) / 64 then takeTrap s c l 0x080 ea
    else globalAccess s c l q ea 0 [(ea, w)] true true fun xs =>
      hereOrPeer s c l ea q xs true true (redNow s c l ea fn q xs)
  | .dep ea d cmb dst =>
    markAccess s c l q ea true true false fun xs fid f =>
      hereOrPeer s c l ea q xs true true
        (markNow s c l q true xs (.dep (tagOf s c) fid f.launch d cmb dst) ea)
  | .mrd ea dst =>
    markAccess s c l q ea false false false fun xs fid f =>
      hereOrPeer s c l ea q xs false true (markNow s c l q false xs (.mrd (tagOf s c) fid f.launch dst) ea)
  | .sense ea win rot dst =>
    markAccess s c l q ea false false false fun _ fid f => senseNow s c l q ea win rot dst fid f
  | .tickr ea dst =>
    markAccess s c l q ea false false false fun _ _ f => finish s c l dst f.tick
  | .tadv ea dst =>
    markAccess s c l q ea true false true fun _ fid _ =>
      let t := getStrand s c l
      let d : Fin 64 := match dst with | .g r => r | _ => 0
      sleep (onField s (tagOf s c) fid fun f => { f with due := f.due + 1, waiters := f.waiters ++ [(c, l, t.sid, d)] })
        c l (.tadv fid d)
  | .marm ea w mon =>
    if ea / 64 ≠ (ea + w - 1) / 64 then takeTrap s c l 0x082 ea
    else if q.pool then
      match poolFault (getCore s c) ea w with
      | some code => takeTrap s c l code ea
      | none => onStrand s c l fun t => advanced { t with mon := t.mon.set (mon % 4) (.armed true ea w) (by omega) }
    else globalAccess s c l q ea 0 [(ea, w)] true false fun xs =>
      match partsOf xs with
      | p :: _ =>
        let s := reachLine (flushLines s c (getStrand s c l).sid [lineOf p.pa]) c (lineOf p.pa)
        onStrand s c l fun t => advanced { t with mon := t.mon.set (mon % 4) (.armed false p.pa p.w) (by omega) }
      | [] => s
  | .chain e => chainNow s c l q e
  | .arrget arr key ea max dst => arrgetNow s c l q arr key ea max dst
  | .fetch pc _ => fetchNow s c l pc
  | .legs ea todo got a => runLegs s c l ea q a (afterLegs c l q a) todo got

end Sys2Proof.Machine
end

