-- ==== Sys2Proof/Machine/Launch.lean ====
section
/-! DEFINITION. Launch requests: the checks of a jig and the acceptance of a request (03 R49; 09 R199; 14 R257 to R259).
Placement is in LaunchEvents.lean. -/

namespace Sys2Proof.Machine

/-! ### Responses (R343) -/

/-- Of the requests that wait for their responses, those that wait on, and the responses that leave: the responses of one session return
in the order in which its requests were delivered. `held` are the sessions with an earlier request that waits. -/
def splitAnswers (held : List Nat) : List Asked → List Asked × List Response
  | [] => ([], [])
  | a :: rest =>
    match a.answer with
    | some (cause, body) =>
      let (later, out) := splitAnswers held rest
      if held.contains a.session then (a :: later, out) else (later, ⟨a.reqid, cause, body⟩ :: out)
    | none =>
      let (later, out) := splitAnswers (a.session :: held) rest
      (a :: later, out)

/-- A request is answered as soon as it has been performed: its response leaves, or waits for those of its session's earlier requests. -/
def answerNow (s : State) (session reqid cause body : Nat) : State :=
  if s.asked.any fun a => a.session == session then
    { s with asked := s.asked ++ [⟨session, reqid, true, some (cause, body)⟩] }
  else { s with responses := s.responses ++ [⟨reqid, cause, body⟩] }

/-- A request is to be answered later; `performed` says that the session's next one may be performed meanwhile. -/
def answerLater (s : State) (key : Nat × Nat) (performed : Bool) : State :=
  { s with asked := s.asked ++ [⟨key.1, key.2, performed, none⟩] }

/-- The first request of a session and number that waits takes its answer. -/
def giveAnswer (key ans : Nat × Nat) : List Asked → List Asked
  | [] => []
  | a :: rest =>
    if a.session = key.1 ∧ a.reqid = key.2 ∧ a.answer = none then { a with performed := true, answer := some ans } :: rest
    else a :: giveAnswer key ans rest

/-- A request that has waited is answered. -/
def answerAsked (s : State) (key : Nat × Nat) (cause body : Nat) : State :=
  let (later, out) := splitAnswers [] (giveAnswer key (cause, body) s.asked)
  { s with asked := later, responses := s.responses ++ out }

/-! ### The checks of a request (R258, R259) -/

/-- CAPS: feature bits 0 to 13 (R259). -/
def capsBits : Nat := 2 ^ 14 - 1

/-- The lowest bit set in FEAT and not in CAPS (R258 step 2). -/
def missingFeature (feat : Nat) : Option Nat := (List.range 128).find? fun i => bitsAt feat i 1 = 1 && bitsAt capsBits i 1 = 0

/-- A jig's record: assigned KIND, STATE ready, GRAIN 0 to 62, reserved bits zero (R186, R258). -/
def recordOk (n : Nat) : Bool :=
  bitsAt n 85 2 != 3 && bitsAt n 83 2 == 0 && bitsAt n 90 6 != 63 && bitsAt n 80 3 == 0 && bitsAt n 108 20 == 0

/-- A jig's tensor entry: it passes TDSET's checks and its reserved bits are zero (R161, R223, R258). -/
def tensorEntryOk (n : Nat) : Bool := let d := tdescOf n; !(d.valid && tdescBad d) && bitsAt n 268 244 == 0

/-- A jig's queue binding: its reserved bits are zero (R223). -/
def bindingOk (n : Nat) : Bool := bitsAt n 5 27 == 0 && bitsAt n 48 16 == 0

/-- A schedule slot holds a COPY, COPYV, WMARK or MDLD (R168). A jig with another slot fails the launch with 0x385, which R258 step 3 does
not list (DESIGN CHOICE, log 83). -/
def scheduleSlotOk (n : Nat) : Bool :=
  match decodeSlot n with
  | .ok (.copy ..) | .ok (.copyv ..) | .ok (.wmark ..) | .ok (.mdld ..) => true
  | _ => false

/-- The jig's fields are valid (R258 step 3). -/
def jigOk (j : Jig) : Bool :=
  decide (8 ≤ j.gcount) && decide (j.gcount ≤ 64) && j.gcount % 8 == 0 && decide (j.vcount ≤ 32) && decide (1 ≤ j.spc)
    && decide (j.spc ≤ 8) && decide (j.tensors.length ≤ 4096) && decide (j.queues.length ≤ 32)
    && decide (j.sched.length ≤ 256) && !j.rsvd && j.tensors.all tensorEntryOk && j.recs.all recordOk
    && j.queues.all bindingOk && j.sched.all scheduleSlotOk

/-- Register-file demand in bits (R49). -/
def regDemand (j : Jig) : Nat := j.spc * (j.gcount * 64 + j.vcount * 128 + 128)

/-- The partition word meets R49. -/
def pwordOk (j : Jig) : Bool :=
  let p := j.pword.toNat
  let rfu := bitsAt p 0 6
  rfu + bitsAt p 8 6 + bitsAt p 16 6 == 32 && bitsAt p 6 2 == 0 && bitsAt p 14 2 == 0 && bitsAt p 22 10 == 0
    && decide ((regDemand j + 32767) / 32768 ≤ rfu)

/-- The number of cores a request asks for: 0 means all (R257). -/
def coresAsked (s : State) (tag n : Nat) : Nat := if n = 0 then (getPart s tag).cores.length else n

/-- Steps 1 to 5 of R258: the cause that ends the request, with its TVAL (R212). -/
def launchCheck (s : State) (tag kidx n : Nat) : Option (Nat × Nat) :=
  match getKernel? s tag kidx with
  | none => some (0x381, kidx)
  | some k =>
    if k.st = .unloading then some (0x381, kidx)
    else match missingFeature k.jig.feat with
      | some b => some (0x382, b)
      | none =>
        if !jigOk k.jig then some (0x385, kidx)
        else if !pwordOk k.jig then some (0x380, kidx)
        else if (getPart s tag).cores.length < coresAsked s tag n then some (0x386, coresAsked s tag n)
        else none

/-- Step 6: the parent is OPEN or DRAINING, of level graph, phase or job. -/
def launchParentOk (s : State) (tag parent : Nat) : Bool :=
  match liveNode? s tag parent with
  | some x => decide (2 ≤ x.lvl)
  | none => false

/-- A request is accepted: a launch node DRAINING with counter 0 is opened under the parent, and the launch is PENDING
(R199, R257, R276). None when the tenant's node quota is used up. -/
def acceptLaunch (s : State) (tag kidx n parent : Nat) (fp : Word) (waiter : Option Place) (sid : Nat)
    (reqid : Option (Nat × Nat)) (graph : Option Nat) : Option (State × Nat) :=
  let tvec := ((getKernel? s tag kidx).map (·.jig.tvec)).getD 0
  match openNode s tag parent 1 0 .draining (some tvec) with
  | none => none
  | some (s, node) =>
    let i := (getPart s tag).launchNext
    let x : Launch := { kidx := kidx, n := coresAsked s tag n, node := node, parent := parent, fp := fp, waiter := waiter,
                        waiterSid := sid, reqid := reqid, graph := graph }
    some (onPart s tag fun p => { p with launches := nset p.launches i x, launchNext := i + 1 }, i)

end Sys2Proof.Machine
end

