-- ==== Sys2Proof/Machine/Steal.lean ====
section
/-! DEFINITION. Stealing: the window of the load field, what a victim hands over, and what a thief receives (09 R190, R191;
14 R266; 16 R284 to R286). -/

namespace Sys2Proof.Machine

/-- The core at a package mesh coordinate (R13). -/
def coreAtMesh (y x : Nat) : Nat := (y / 32 * 2 + x / 32) * 1024 + y % 32 * 32 + x % 32

/-- The value of a cell of the load field, and of every absent or unreadable one 0. -/
def loadCell (s : State) (tag : Nat) (f : Field) (row col : Nat) : Nat :=
  match cellPart s tag f row col with
  | some p => markAt (physRead s p.key p.pa 32) f.tick f.fade
  | none => 0

/-- Position i of a steal window about core c: a run is centred on the core's own cell (R191). -/
def stealCell (f : Field) (c : Nat) (win : Window) (i : Nat) : Option (Nat × Nat) :=
  let off := windowOffset win i
  let shift : Int := match win with
    | .run _ => (((windowSize win - 1) / 2 : Nat) : Int)
    | _ => 0
  windowCell f.rows f.cols f.wrapF (meshY c) (meshX c) (off.1, off.2 - shift)

/-- The values of a steal window; the core's own cell reads as 0 (R191). -/
def stealVals (s : State) (tag : Nat) (f : Field) (c : Nat) (win : Window) : List (Option Nat) :=
  (List.range (windowSize win)).map fun i =>
    (stealCell f c win i).map fun rc =>
      if rc.1 = meshY c ∧ rc.2 = meshX c then 0 else loadCell s tag f rc.1 rc.2

/-- What a sense of the window chooses: value, index, tick and the victim; no victim when the value is 0 (R191). -/
def stealChoice (s : State) (c : Nat) (win : Window) (start : Nat) : Nat × Nat × Nat × Option Nat :=
  let tag := tagOf s c
  match getField? s tag 0 with
  | none => (0, 0, 0, none)
  | some f =>
    let (best, _, idx) := senseChoose (stealVals s tag f c win) start
    let victim := if best = 0 then none else (stealCell f c win idx).map fun rc => coreAtMesh rc.1 rc.2
    (best, idx, f.tick % 2 ^ 16, victim)

/-- The result of a STEAL (R191). -/
def stealResult (out idx tck val : Nat) : Nat :=
  out % 2 ^ 16 * 2 ^ 48 + idx % 2 ^ 16 * 2 ^ 32 + tck % 2 ^ 16 * 2 ^ 16 + val % 2 ^ 16

/-- The kernel index of the launch that holds a core (R191). -/
def kernelOf (s : State) (c : Nat) : Nat := (getCore s c).kidx

/-! ### The victim (R190, R191) -/

/-- A record of kernel k nearest the tail of the deque: of the ring first (R284). -/
def tailRecord (k : CoreSt) (kidx : Nat) : Option Rec :=
  match k.ring.reverse.find? fun r => r.kidx == kidx with
  | some r => some r
  | none => k.deque.reverse.find? fun r => r.kidx == kidx

/-- Remove the last occurrence of a record. -/
def eraseLast (rs : List Rec) (r : Rec) : List Rec := (rs.reverse.erase r).reverse

def removeRecord (k : CoreSt) (r : Rec) : CoreSt :=
  if k.ring.contains r then { k with ring := eraseLast k.ring r } else { k with deque := eraseLast k.deque r }

/-- A record put in the place of another. -/
def replaceRecord (k : CoreSt) (r r' : Rec) : CoreSt :=
  let f := fun x => if x == r then r' else x
  if k.ring.contains r then { k with ring := k.ring.map f } else { k with deque := k.deque.map f }

/-- Where a range is split (R190). -/
def splitMid (lo hi : Nat) : Nat := lo + (hi - lo) / 2

/-- The thief's piece of a range record. -/
def upperPiece (r : Rec) (lo hi : Word) (sid now : Nat) : Rec :=
  { r with g1 := BitVec.ofNat 64 (splitMid lo.toNat hi.toNat), g2 := hi, kind := .range, waiting := false, checkTgt := false,
           sid := sid, agedAt := now, stage := none }

/-- The lowest-numbered resident range strand of a kernel that can be split. -/
def splittableSlot (s : State) (v kidx : Nat) : Option Nat :=
  (List.range 8).find? fun l =>
    let t := getStrand s v l
    t.live && t.kind == .range && t.kidx == kidx && splittable t.rlo.toNat t.rhi.toNat t.grain

/-- The priority of a record at a time: one level for every 65,536 ticks on its deque, up to 7 (R265). -/
def agedRecord (now : Nat) (r : Rec) : Nat := max r.pri (min 7 (r.pri + (now - r.agedAt) / 65536))

/-- The answer that a split would take its node's counter to 2^32: nothing is taken, the record names the node, and a STEAL raises
0x206 (R277). It is no value of OUT. -/
def splitRefused : Nat := 0x206

/-- What a victim answers a request of a thief whose deque has room (R191, R284): the state, OUT, and the record handed over, at the
priority to which it has aged. A taken record whose node is cancelled retires, and the answer is an empty victim's. -/
def serveSteal (s : State) (thief v kidx : Nat) : State × Nat × Option Rec :=
  let k := getCore s v
  if !roomHead (getCore s thief) then (s, 3, none)
  else match tailRecord k kidx with
    | some r =>
      let aged := { r with pri := agedRecord s.now r }
      if nodeCancelled s (tagOf s v) r.node then
        (retireRec (updateLoad (onCore s v fun k => removeRecord k r) v) v r, 3, none)
      else if r.kind == .range && splittable r.g1.toNat r.g2.toNat r.grain then
        if counterFull s (tagOf s v) r.node then (s, splitRefused, some r)
        else
          let (s, sid) := freshSid s
          let piece := upperPiece aged r.g1 r.g2 sid s.now
          let s := onCore s v fun k => replaceRecord k r { r with g2 := piece.g1 }
          (updateLoad (incNode s (tagOf s v) r.node) v, 2, some piece)
      else (updateLoad (onCore s v fun k => removeRecord k r) v, 1, some aged)
    | none =>
      match splittableSlot s v kidx with
      | none => (s, 3, none)
      | some l =>
        let t := getStrand s v l
        let own := { t.entry with node := t.node, grain := t.grain, pri := t.pri, kidx := t.kidx }
        if counterFull s (tagOf s v) t.node then (s, splitRefused, some own)
        else
          let (s, sid) := freshSid s
          let piece := upperPiece own t.rlo t.rhi sid s.now
          let s := onStrand s v l fun t => { t with rhi := piece.g1 }
          (updateLoad (incNode s (tagOf s v) t.node) v, 2, some piece)

/-! ### The thief (R191, R284) -/

/-- A STEAL returns, if its strand still waits, or raises 0x206 where the split was refused; an implicit steal is over. -/
def finishSteal (s : State) (c : Nat) (slot : Option (Nat × Nat)) (out : Nat) (r : Option Rec) : State :=
  match slot with
  | none => onCore s c fun k => { k with stealing := false }
  | some (l, sid) =>
    let t := getStrand s c l
    match t.status with
    | .asleep (.steal d idx tck val) =>
      if t.live && t.sid == sid then
        if out = splitRefused then takeTrap s c l 0x206 ((r.map (·.node)).getD 0)
        else finish s c l (.g d) (stealResult out idx tck val)
      else s
    | _ => s

/-- A record handed over enters at the head of the thief's deque (R191). -/
def enterStolen (s : State) (c out : Nat) (r : Option Rec) : State :=
  match r with
  | some x => if out = splitRefused then s else deqPushHead s c x
  | none => s

/-- A reply that waited in a thief's inbox is applied: the record enters, and the steal returns (R191, R328). -/
def applySteal (s : State) (c : Nat) (slot : Option (Nat × Nat)) (out : Nat) (r : Option Rec) : State :=
  finishSteal (enterStolen s c out r) c slot out r

end Sys2Proof.Machine
end

