-- ==== Sys2Proof/Machine/TaskOps.lean ====
section
/-! DEFINITION. Task instructions: forks and ranges, suspension, level nodes, clamps and child launches (09 R185 to
R199). -/

namespace Sys2Proof.Machine

/-- The node index a register names (R185). -/
def nodeIndex (v : Nat) : Nat := v % 2 ^ 12

/-- The priority a child takes (R185). -/
def childPri (t : Strand) : PriSel → Nat
  | .same => t.pri
  | .pri p => p.val

/-! ### Forking and spawning (R188) -/

/-- Push a child record after the checks of R188, in their order: entry PC, node, own cancellation, room. FORK and SPAWNR
are suspension points, and disarm the strand's monitors (R146). -/
def pushChild (s : State) (c l : Nat) (node : Nat) (r : Rec) : State :=
  let tag := tagOf s c
  match checkTarget s c l r.pc.toNat with
  | .fails code => takeTrap s c l code r.pc.toNat
  | .ask dev => sendPeer s c l dev (lineBase r.pc.toNat) (fetchReq r.pc.toNat false)
  | chk =>
    match liveNode? s tag node with
    | none => takeTrap s c l 0x203 node
    | some _ =>
      if strandCancelled s c l then cancelStrand s c l
      else if !roomHead (getCore s c) then takeTrap s c l 0x201 node
      else if counterFull s tag node then takeTrap s c l 0x206 node
      else
        released s c l fun s =>
          let (s, sid) := freshSid s
          let s := incNode s tag node
          let s := deqPushHead s c { r with node := node, checkTgt := chk == .later, sid := sid }
          onStrand s c l fun t =>
            { advanced (disarmAll t) with badLine := if chk == .later then none else t.badLine }

/-- FORK (R188). -/
def execFork (gd : Guard) (d a b : GOp) (pri : PriSel) (x : BitVec 38) (s : State) : Host.Outcome State Fault Refusal :=
  guarded gd [.g a, .g b, .g d] (fun c l s =>
    let t := getStrand s c l
    pushChild s c l (nodeIndex (gVal t d))
      { pc := BitVec.ofInt 64 (gVal t a + dispOf x), fp := BitVec.ofNat 64 (gVal t b), g1 := rdG t 1, g2 := rdG t 2,
        g3 := rdG t 3, g4 := rdG t 4, g5 := rdG t 5, pri := childPri t pri, kidx := t.kidx }) s

/-- SPAWNR (R188). -/
def execSpawnr (gd : Guard) (d a b o : GOp) (pri : PriSel) (grain : BitVec 6) (x : BitVec 38) (s : State) :
    Host.Outcome State Fault Refusal :=
  guarded gd [.g a, .g b, .g o, .g d] (fun c l s =>
    let t := getStrand s c l
    pushChild s c l (nodeIndex (gVal t d))
      { pc := BitVec.ofInt 64 (gVal t a + dispOf x), fp := t.frame, g1 := BitVec.ofNat 64 (gVal t b),
        g2 := BitVec.ofNat 64 (gVal t o), g3 := rdG t 3, g4 := rdG t 4, g5 := rdG t 5, pri := childPri t pri,
        kidx := t.kidx, kind := .range, grain := grain.toNat }) s

/-! ### Ranges and stealing (R189, R191) -/

/-- RNEXT (R189). -/
def execRnext (gd : Guard) (d : GOp) (s : State) : Host.Outcome State Fault Refusal :=
  guarded gd [.g d] (fun c l s =>
    let s := onStrand s c l fun t =>
      if t.kind = .range ∧ t.rlo.toNat < t.rhi.toNat then
        advanced { setG t t d t.rlo.toNat with rlo := t.rlo + 1 }
      else advanced (setG t t d (2 ^ 64 - 1))
    updateLoad s c) s

/-- STEAL: sense the load field, and ask the chosen core (R191). -/
def execSteal (gd : Guard) (d : GOp) (win : Window) (s : State) : Host.Outcome State Fault Refusal :=
  guarded gd [.g d] (fun c l s =>
    let t := getStrand s c l
    let (val, idx, tck, victim) := stealChoice s c win 0
    match victim with
    | none => finish s c l (.g (gReg t d)) (stealResult 0 idx tck val)
    | some v =>
      let r : StealReq := { thief := c, slot := some (l, t.sid), victim := v, kidx := kernelOf s c, reply := none }
      sleep { s with steals := s.steals ++ [r] } c l (.steal (gReg t d) idx tck val)) s

/-! ### Suspending, waiting and exiting (R192 to R195) -/

/-- A strand as a record that resumes at a PC (R187). -/
def recordOf (t : Strand) (pc : Word) : Rec :=
  { pc := pc, fp := t.frame
    g1 := if t.kind = .range then t.rlo else rdG t 1
    g2 := if t.kind = .range then t.rhi else rdG t 2
    g3 := rdG t 3, g4 := rdG t 4, g5 := rdG t 5, node := t.node, grain := t.grain, pri := t.pri, kind := t.kind,
    kidx := t.kidx, sid := t.sid, stage := t.stage }

/-- The strand leaves its slot: its earlier accesses are performed first (R141). -/
def leaveSlot (s : State) (c l : Nat) : State :=
  updateLoad (putStrand (performOwn s c (getStrand s c l).sid) c l {}) c

/-- YIELD (R192, R284). -/
def execYield (gd : Guard) (s : State) : Host.Outcome State Fault Refusal :=
  guarded gd [] (fun c l s =>
    let t := getStrand s c l
    if strandCancelled s c l then cancelStrand s c l
    else if !roomTail (getCore s c) then advance s c l
    else afterReds s c l (fun _ => true) fun s =>
      pauseClock (deqPushTail (leaveSlot s c l) c (recordOf t (nextPc t.pc))) c) s

/-- JOIN (R193). A JOIN of a missing node traps with 0x203 before a strand under a cancelled node retires at it, the order that R188
gives FORK and SPAWNR (DESIGN CHOICE, log 83). -/
def execJoin (gd : Guard) (a : GOp) (s : State) : Host.Outcome State Fault Refusal :=
  guarded gd [.g a] (fun c l s =>
    let t := getStrand s c l
    let n := nodeIndex (gVal t a)
    match getNode? s (tagOf s c) n with
    | none => takeTrap s c l 0x203 n
    | some x =>
      if strandCancelled s c l then cancelStrand s c l
      else if x.cnt = 0 then acquired s c l fun s => advance s c l
      else afterReds s c l (fun _ => true) fun s =>
        let r := { recordOf t t.pc with waiting := true, joinCore := c }
        let s := leaveSlot s c l
        pauseClock (onNode s (tagOf s c) n fun x => { x with held := x.held ++ [r] }) c) s

/-- EXIT: it waits, and is issued again, while a push of the strand cannot yet reach its buffer (R194, R289). A strand whose node
counts nothing any more raises 0x206 there (R277). -/
def execExit (gd : Guard) (s : State) : Host.Outcome State Fault Refusal :=
  guarded gd [] (fun c l s =>
    let t := getStrand s c l
    if counterEmpty s (tagOf s c) t.node then takeTrap s c l 0x206 t.node
    else afterReds s c l (fun _ => true) fun s =>
      let s := pushesArrive (performOwn s c t.sid) fun p => p.sid == t.sid
      if pushOnWay s fun p => p.sid == t.sid then s else retireStrand s c l none) s

/-! ### Level nodes (R196, R197) -/

/-- LVLADD op=add (R196). -/
def execLvladdAdd (gd : Guard) (d a b : GOp) (x : BitVec 38) (s : State) : Host.Outcome State Fault Refusal :=
  guarded gd [.g a, .g b, .g d] (fun c l s =>
    let t := getStrand s c l
    let n := nodeIndex (gVal t a)
    match liveNode? s (tagOf s c) n with
    | none => takeTrap s c l 0x203 n
    | some nd =>
      let r := (nd.cnt : Int) + signedOf 64 (wrapTo 64 (gVal t b + dispOf x))
      if r < 0 ∨ 2 ^ 32 ≤ r then takeTrap s c l 0x206 n
      else released s c l fun s =>
        let s := onNode s (tagOf s c) n fun nd => { nd with cnt := r.toNat }
        finish (settleNode (tagOf s c) (some c) 6 s n) c l (.g (gReg t d)) r.toNat) s

/-- The codes of the levels LVLADD opens. -/
def openLevel : OpenLevel → Nat
  | .unit => 0 | .graph => 2 | .phase => 3 | .job => 4

/-- LVLADD op=open (R196, R274). Where the parent's counter is full and the quota is used up too, 0x206 is raised before 0x202, as in
LAUNCH (DESIGN CHOICE, log 83). -/
def execLvladdOpen (gd : Guard) (d a b : GOp) (lvl : OpenLevel) (x : BitVec 38) (s : State) :
    Host.Outcome State Fault Refusal :=
  guarded gd [.g a, .g b, .g d] (fun c l s =>
    let t := getStrand s c l
    let n := nodeIndex (gVal t a)
    match liveNode? s (tagOf s c) n with
    | none => takeTrap s c l 0x203 n
    | some nd =>
      if nd.lvl ≤ openLevel lvl then takeTrap s c l 0x203 n
      else if counterFull s (tagOf s c) n then takeTrap s c l 0x206 n
      else released s c l fun s =>
        match openNode s (tagOf s c) n (openLevel lvl) (wrapTo 32 (gVal t b + dispOf x)) .opened none with
        | none => takeTrap s c l 0x202 n
        | some (s, m) => finish s c l (.g (gReg t d)) m) s

/-- LVLADD op=drain (R196, R276). -/
def execLvladdDrain (gd : Guard) (d a b : GOp) (_x : BitVec 38) (s : State) : Host.Outcome State Fault Refusal :=
  guarded gd [.g a, .g b, .g d] (fun c l s =>
    let t := getStrand s c l
    let n := nodeIndex (gVal t a)
    match getNode? s (tagOf s c) n with
    | none => takeTrap s c l 0x203 n
    | some nd =>
      if nd.status ≠ .opened then takeTrap s c l 0x203 n
      else released s c l fun s =>
        let s := onNode s (tagOf s c) n fun nd => { nd with status := .draining }
        finish (settleNode (tagOf s c) (some c) 6 s n) c l (.g (gReg t d)) nd.cnt) s

/-- LVLWAIT (R197). -/
def execLvlwait (gd : Guard) (d a : GOp) (s : State) : Host.Outcome State Fault Refusal :=
  guarded gd [.g a, .g d] (fun c l s =>
    let t := getStrand s c l
    let n := nodeIndex (gVal t a)
    match getNode? s (tagOf s c) n with
    | none => takeTrap s c l 0x203 n
    | some x =>
      acquired s c l fun s =>
        if nodeEnded x then finish s c l (.g (gReg t d)) (nodeStCode x.status)
        else blockOn s c l (.lvlwait n (gReg t d) none)) s

/-- CANCEL (R197, R276, R278). -/
def execCancel (gd : Guard) (a : GOp) (s : State) : Host.Outcome State Fault Refusal :=
  guarded gd [.g a] (fun c l s =>
    let n := nodeIndex (gVal (getStrand s c l) a)
    match getNode? s (tagOf s c) n with
    | none => takeTrap s c l 0x203 n
    | some _ => released s c l fun s => advance (cancelNode s (tagOf s c) n (some c)) c l) s

/-! ### Clamps and child launches (R198, R199) -/

/-- CLAMP: the arrival sets out and the strand sleeps; one whose node is cancelled already retires and adds nothing (R198,
R296). -/
def execClamp (gd : Guard) (d a : GOp) (x : BitVec 38) (s : State) : Host.Outcome State Fault Refusal :=
  guarded gd [.g a, .g d] (fun c l s =>
    let t := getStrand s c l
    let n := wrapTo 64 (gVal t a + dispOf x) % 64
    let tag := tagOf s c
    if (nget (getPart s tag).clamps {} n).kind = 0 then takeTrap s c l 0x205 n
    else if strandCancelled s c l then cancelStrand s c l
    else released s c l fun s =>
      let s := onPart s tag fun p => { p with arrivals := p.arrivals ++ [(n, c, l, t.sid)] }
      blockOn s c l (.clamp n (gReg t d) none)) s

/-- LAUNCH: the checks of R258, acceptance, and a wait for placement (R199, R257); 0x206 comes before 0x202 (log 83). -/
def execLaunch (gd : Guard) (d a b o : GOp) (s : State) : Host.Outcome State Fault Refusal :=
  guarded gd [.g a, .g b, .g o, .g d] (fun c l s =>
    let t := getStrand s c l
    let tag := tagOf s c
    let kidx := gVal t a % 2 ^ 16
    let n := gVal t a / 2 ^ 16 % 2 ^ 16
    let parent := nodeIndex (gVal t o)
    match launchCheck s tag kidx n with
    | some (code, tval) => takeTrap s c l code tval
    | none =>
      if !launchParentOk s tag parent then takeTrap s c l 0x203 parent
      else if counterFull s tag parent then takeTrap s c l 0x206 parent
      else released s c l fun s =>
        match acceptLaunch s tag kidx n parent (BitVec.ofNat 64 (gVal t b)) (some ⟨c, l⟩) t.sid none none with
        | none => takeTrap s c l 0x202 parent
        | some (s, i) => blockOn s c l (.launch i (gReg t d))) s

end Sys2Proof.Machine
end

