-- ==== Sys2Proof/Machine/DeltaOps.lean ====
section
/-! DEFINITION. The delta-queue and arrangement instructions (09 R200 to R203; 26 R367). -/

namespace Sys2Proof.Machine

/-- After an instruction's own checks a pending 0x280 of the strand is delivered, before any other effect (R200). -/
def deliverDelta (s : State) (c l : Nat) (k : State → State) : State :=
  match pendingDelta s (getStrand s c l).sid with
  | some f => deliver s c l f
  | none => k s

/-- A push takes its place of q2 and is on its way (R200). -/
def takePushPlace (s : State) (c l : Nat) (p : Push) : State :=
  released s c l fun s =>
    finish (onCore s c fun k => { k with q2 := k.q2 ++ [{ p with seq := pushSeq s p.sid }] }) c l .none 0

/-- DQPUSH: the release of the strand's earlier accesses, and a place of q2 or a wait for one (R200). While a drain of the queue
waits for room in its ring, the push sleeps too (R288). -/
def execDqpush (gd : Guard) (a b o : GOp) (q : BitVec 5) (s : State) : Host.Outcome State Fault Refusal :=
  guarded gd [.g a, .g b, .g o] (fun c l s =>
    let t := getStrand s c l
    let tag := tagOf s c
    match getQueue? s tag q.toNat with
    | none => takeTrap s c l 0x281 q.toNat
    | some x => deliverDelta s c l fun s =>
      let r : DRec := { key := gVal t a, value := gVal t b, mult := signedOf 32 (gVal t o % 2 ^ 32),
                        epoch := gVal t o / 2 ^ 32 % 2 ^ 32 }
      let p : Push := { sid := t.sid, slot := l, node := t.node, kidx := t.kidx, tag := tag, queue := q.toNat, drec := r }
      if (getCore s c).q2.length < 4 && !x.draining then takePushPlace s c l p else blockOn s c l (.pushPlace p)) s

/-- DQPOP: its checks in the order of R200, then the oldest drained record or a wait (R201). -/
def execDqpop (gd : Guard) (d : Fin 32) (q : BitVec 5) (s : State) : Host.Outcome State Fault Refusal :=
  guarded gd [.v d] (fun c l s =>
    match getQueue? s (tagOf s c) q.toNat with
    | none => takeTrap s c l 0x281 q.toNat
    | some x =>
      if x.stagePc ≠ 0 then takeTrap s c l 0x282 q.toNat
      else match extraV (getCore s c).vcount (d.val + 1) with
        | some (code, v) => takeTrap s c l code v
        | none => deliverDelta s c l fun s =>
          match tryDqpop s c l q.toNat d with
          | some s => s
          | none => blockOn s c l (.dqpop q.toNat d)) s

/-- ARRADD: an indivisible sum, ordered as an atomic with ord=ar at pa scope (R202). -/
def execArradd (gd : Guard) (d a b o : GOp) (arr : BitVec 4) (s : State) : Host.Outcome State Fault Refusal :=
  guarded gd [.g a, .g b, .g o, .g d] (fun c l s =>
    let t := getStrand s c l
    let tag := tagOf s c
    match nget? (getPart s tag).arrs arr.toNat with
    | none => takeTrap s c l 0x285 arr.toNat
    | some x =>
      match arrAdd x (gVal t a) (gVal t b) (signedOf 32 (gVal t o % 2 ^ 32)) with
      | .error code => takeTrap s c l code arr.toNat
      | .ok (m, x') => released s c l fun s =>
        finish (onPart s tag fun p => { p with arrs := nset p.arrs arr.toNat x' }) c l (.g (gReg t d)) (wrapTo 64 m)) s

/-- ARRGET: the pairs of a key in one reading, written with plain stores (R202). -/
def execArrget (gd : Guard) (d a b o : GOp) (arr : BitVec 4) (s : State) : Host.Outcome State Fault Refusal :=
  guarded gd [.g a, .g b, .g o, .g d] (fun c l s =>
    let t := getStrand s c l
    runMem s c l ⟨.arrget arr.toNat (gVal t a) (gVal t b) (gVal t o) (.g (gReg t d)), .rlx, .pa, false, false, false⟩) s

/-- QWAIT: the graph-level node's check, then quiescence for an epoch or a wait (R203). -/
def execQwait (gd : Guard) (a b : GOp) (s : State) : Host.Outcome State Fault Refusal :=
  guarded gd [.g a, .g b] (fun c l s =>
    let t := getStrand s c l
    let tag := tagOf s c
    let n := nodeIndex (gVal t b)
    let e := gVal t a % 2 ^ 32
    match getNode? s tag n with
    | none => takeTrap s c l 0x203 n
    | some x =>
      if x.lvl ≠ 2 then takeTrap s c l 0x203 n
      else deliverDelta s c l fun s => acquired s c l fun s =>
        let (s, quiet) := qwaitCheck s tag n e
        if quiet then finish s c l .none 0 else blockOn s c l (.qwait n e)) s

end Sys2Proof.Machine
end

