-- ==== Sys2Proof/Machine/LoadStore.lean ====
section
/-! DEFINITION. Loads, stores, atomics, fences, monitors, mark instructions and CHAIN (06 R125 to R127; 07). The accesses
themselves are runMem's. -/

namespace Sys2Proof.Machine

/-- The access width a 6-bit w= names: 0 is 64 (R130). -/
def accessWidth (w : BitVec 6) : Nat := if w = 0 then 64 else w.toNat

/-- EA of an access with an index of z bits (R131). -/
def eaIndexed (t : Strand) (a b : GOp) (z : Nat) (x : BitVec 38) : Nat :=
  wrapTo 64 ((gVal t a : Int) + (gVal t b * z : Nat) + dispOf x)
/-- EA of an access without an index (R131). -/
def eaPlain (t : Strand) (a : GOp) (x : BitVec 38) : Nat := wrapTo 64 ((gVal t a : Int) + dispOf x)

/-- ord= of a load and of a store (R132). -/
def ordL : LoadOrd → Ord
  | .rlx => .rlx | .acq => .acq | .sc => .sc
def ordS : StoreOrd → Ord
  | .rlx => .rlx | .rel => .rel | .sc => .sc

/-- An instruction that runs one memory operation, made from the strand. -/
def memOp (gd : Guard) (names : List Named) (q : Strand → MemReq) (s : State) : Host.Outcome State Fault Refusal :=
  guarded gd names (fun c l s => runMem s c l (q (getStrand s c l))) s

/-! ### Loads and stores (R135, R136) -/

/-- LD (R135). -/
def execLd (gd : Guard) (d a b : GOp) (w : BitVec 6) (sx : Bool) (o : LoadOrd) (sc : Scope) (x : BitVec 38) (s : State) :
    Host.Outcome State Fault Refusal :=
  memOp gd [.g a, .g b, .g d]
    (fun t => ⟨.load (eaIndexed t a b (accessWidth w) x) (accessWidth w) sx (.g (gReg t d)), ordL o, sc, false, false, false⟩) s
/-- ST (R135). -/
def execSt (gd : Guard) (d a b : GOp) (w : BitVec 6) (o : StoreOrd) (sc : Scope) (x : BitVec 38) (s : State) :
    Host.Outcome State Fault Refusal :=
  memOp gd [.g a, .g b, .g d]
    (fun t => ⟨.store (eaIndexed t a b (accessWidth w) x) (accessWidth w) (gVal t d % 2 ^ accessWidth w), ordS o, sc, false, false, false⟩) s
/-- LDP (R135). -/
def execLdp (gd : Guard) (d a b : GOp) (w : BitVec 6) (sx : Bool) (o : LoadOrd) (sc : Scope) (x : BitVec 38) (s : State) :
    Host.Outcome State Fault Refusal :=
  memOp gd [.g a, .g b, .g d]
    (fun t => ⟨.load (eaIndexed t a b (accessWidth w) x) (accessWidth w) sx (.g (gReg t d)), ordL o, sc, true, false, false⟩) s
/-- STP (R135). -/
def execStp (gd : Guard) (d a b : GOp) (w : BitVec 6) (o : StoreOrd) (sc : Scope) (x : BitVec 38) (s : State) :
    Host.Outcome State Fault Refusal :=
  memOp gd [.g a, .g b, .g d]
    (fun t => ⟨.store (eaIndexed t a b (accessWidth w) x) (accessWidth w) (gVal t d % 2 ^ accessWidth w), ordS o, sc, true, false, false⟩) s
/-- VLD (R136). -/
def execVld (gd : Guard) (d : Fin 32) (a b : GOp) (o : LoadOrd) (sc : Scope) (x : BitVec 38) (s : State) :
    Host.Outcome State Fault Refusal :=
  memOp gd [.g a, .g b, .v d] (fun t => ⟨.load (eaIndexed t a b 128 x) 128 false (.v d), ordL o, sc, false, false, false⟩) s
/-- VST (R136). -/
def execVst (gd : Guard) (d : Fin 32) (a b : GOp) (o : StoreOrd) (sc : Scope) (x : BitVec 38) (s : State) :
    Host.Outcome State Fault Refusal :=
  memOp gd [.g a, .g b, .v d] (fun t => ⟨.store (eaIndexed t a b 128 x) 128 (vVal t d), ordS o, sc, false, false, false⟩) s
/-- VLDP (R136). -/
def execVldp (gd : Guard) (d : Fin 32) (a b : GOp) (o : LoadOrd) (sc : Scope) (x : BitVec 38) (s : State) :
    Host.Outcome State Fault Refusal :=
  memOp gd [.g a, .g b, .v d] (fun t => ⟨.load (eaIndexed t a b 128 x) 128 false (.v d), ordL o, sc, true, false, false⟩) s
/-- VSTP (R136). -/
def execVstp (gd : Guard) (d : Fin 32) (a b : GOp) (o : StoreOrd) (sc : Scope) (x : BitVec 38) (s : State) :
    Host.Outcome State Fault Refusal :=
  memOp gd [.g a, .g b, .v d] (fun t => ⟨.store (eaIndexed t a b 128 x) 128 (vVal t d), ordS o, sc, true, false, false⟩) s
/-- PREF: a hint without any effect but the pc's (R137). -/
def execPref (gd : Guard) (a b : GOp) (_x : BitVec 38) (s : State) : Host.Outcome State Fault Refusal :=
  guarded gd [.g a, .g b] (fun c l s => advance s c l) s

/-! ### Atomics and fences (R138 to R143) -/

/-- AMO (R139). -/
def execAmo (gd : Guard) (d a b : GOp) (f : AmoArg) (o : Ord) (sc : Scope) (x : BitVec 38) (s : State) :
    Host.Outcome State Fault Refusal :=
  memOp gd [.g a, .g b, .g d]
    (fun t => ⟨.atomic (eaPlain t a x) (amoWidth f) (.amo f (gVal t b)) (.g (gReg t d)), o, sc, false, false, false⟩) s
/-- CAS (R140). -/
def execCas (gd : Guard) (d a b c : GOp) (t : VType) (o : Ord) (sc : Scope) (x : BitVec 38) (s : State) :
    Host.Outcome State Fault Refusal :=
  memOp gd [.g a, .g b, .g c, .g d]
    (fun st => ⟨.atomic (eaPlain st a x) (vtypeWidth t) (.cas t (gVal st b) (gVal st c)) (.g (gReg st d)), o, sc, false, false, false⟩) s
/-- RED (R141). -/
def execRed (gd : Guard) (a b : GOp) (f : AmoArg) (o : Ord) (sc : Scope) (x : BitVec 38) (s : State) :
    Host.Outcome State Fault Refusal :=
  memOp gd [.g a, .g b] (fun t => ⟨.red (eaPlain t a x) (amoWidth f) (.amo f (gVal t b)), o, sc, false, false, false⟩) s
/-- FENCE: rlx acts as ar (R132, R143). Its REDs are performed first, and it waits for those at peers; its loads and other atomics
have completed when it issues, so that an acquire waits for nothing else. -/
def execFence (gd : Guard) (o : Ord) (sc : Scope) (s : State) : Host.Outcome State Fault Refusal :=
  guarded gd [] (fun c l s => afterReds s c l (fun _ => true) fun s =>
    let sid := (getStrand s c l).sid
    advance (if o = .acq then acquireAt s c sid else releaseAt s c sid sc true true) c l) s

/-! ### Monitors (R144 to R147) -/

/-- MARM (R144). -/
def execMarm (gd : Guard) (a : GOp) (w : BitVec 6) (mon : BitVec 2) (sp : Bool) (x : BitVec 38) (s : State) :
    Host.Outcome State Fault Refusal :=
  memOp gd [.g a] (fun t => ⟨.marm (eaPlain t a x) (accessWidth w) mon.toNat, .rlx, .pa, sp, false, false⟩) s

/-- The lowest-numbered fired monitor. -/
def firedMonitor (t : Strand) : Option (Fin 4) := (List.finRange 4).find? fun i => t.mon[i] == .fired
/-- A WAITA that returns monitor i. -/
def returnMonitor (t : Strand) (d : Fin 64) (i : Fin 4) : Strand :=
  advanced (wrG { t with mon := t.mon.set i .disarmed } d (BitVec.ofNat 64 i.val))

/-- WAITA: under a cancelled node the strand retires at it (R145, R195). -/
def execWaita (gd : Guard) (d a : GOp) (x : BitVec 38) (s : State) : Host.Outcome State Fault Refusal :=
  guarded gd [.g a, .g d] (fun c l s =>
    let t := getStrand s c l
    if strandCancelled s c l then cancelStrand s c l
    else if t.mon.toList.all (· == .disarmed) then onStrand s c l fun t => advanced (setG t t d 5)
    else match firedMonitor t with
      | some i => onStrand s c l fun t => returnMonitor t (gReg t d) i
      | none => blockOn s c l (.waita s.now (eaPlain t a x) (gReg t d))) s

/-- MDIS (R147). -/
def execMdis (gd : Guard) (mon : BitVec 2) (all : Bool) (s : State) : Host.Outcome State Fault Refusal :=
  regOp gd [] (fun t => if all then disarmAll t else { t with mon := t.mon.set mon.toNat .disarmed }) s

/-! ### Marks (R148 to R154) -/

/-- DEP (R150). -/
def execDep (gd : Guard) (d a b : GOp) (cmb : Cmb) (o : StoreOrd) (sc : Scope) (x : BitVec 38) (s : State) :
    Host.Outcome State Fault Refusal :=
  memOp gd [.g a, .g b, .g d] (fun t => ⟨.dep (eaPlain t a x) (gVal t b % 2 ^ 16) cmb (.g (gReg t d)), ordS o, sc, false, false, false⟩) s
/-- MRD (R151). -/
def execMrd (gd : Guard) (d a : GOp) (o : LoadOrd) (sc : Scope) (x : BitVec 38) (s : State) :
    Host.Outcome State Fault Refusal :=
  memOp gd [.g a, .g d] (fun t => ⟨.mrd (eaPlain t a x) (.g (gReg t d)), ordL o, sc, false, false, false⟩) s
/-- SENSE (R153). -/
def execSense (gd : Guard) (d a : GOp) (win : Window) (rot : Bool) (o : LoadOrd) (sc : Scope) (x : BitVec 38) (s : State) :
    Host.Outcome State Fault Refusal :=
  memOp gd [.g a, .g d] (fun t => ⟨.sense (eaPlain t a x) win rot (.g (gReg t d)), ordL o, sc, false, false, false⟩) s
/-- TICKR (R154). -/
def execTickr (gd : Guard) (d a : GOp) (x : BitVec 38) (s : State) : Host.Outcome State Fault Refusal :=
  memOp gd [.g a, .g d] (fun t => ⟨.tickr (eaPlain t a x) (.g (gReg t d)), .rlx, .pa, false, false, false⟩) s
/-- TADV (R154). -/
def execTadv (gd : Guard) (d a : GOp) (x : BitVec 38) (s : State) : Host.Outcome State Fault Refusal :=
  memOp gd [.g a, .g d] (fun t => ⟨.tadv (eaPlain t a x) (.g (gReg t d)), .rlx, .pa, false, false, false⟩) s

/-! ### CHAIN (R125 to R127) -/

/-- CHAIN: its own checks, then one element; the pc stays at the CHAIN while elements are left (R125 to R127). The spec does not say
whether v(C + 1) and the program's slots are checked when gD is 0, nor which of the two is checked first: here they are, the
register before the slots (DESIGN CHOICE, log 78). -/
def execChain (gd : Guard) (d a b : GOp) (c : Fin 32) (sty dty : CvtType) (rnd : Rnd) (prop : Bool) (ssp dsp : Bool)
    (s : State) : Host.Outcome State Fault Refusal :=
  guarded gd [.g a, .g b, .v c, .g d] (fun co l s =>
    let t := getStrand s co l
    let lo := vVal t c
    let needHi := !((List.range 4).any fun i => bitsAt lo (32 * i) 32 / 2 ^ 28 = 0)
    match if needHi then extraV (getCore s co).vcount (c.val + 1) else none with
    | some (code, v) => takeTrap s co l code v
    | none =>
      let prog := chainProgram lo (vNum t (c.val + 1))
      match chainBad 0 (chainSlots prog) with
      | some (i, x) => takeTrap s co l 0x181 (i * 2 ^ 32 + x)
      | none =>
        if gVal t d = 0 then advance s co l
        else runMem s co l ⟨.chain ⟨gReg t d, gReg t a, gReg t b, sty, dty, rnd, prop, ssp, dsp, prog, none⟩, .rlx, .pa, false, false, false⟩) s

end Sys2Proof.Machine
end

