-- ==== Sys2Proof/Machine/System.lean ====
section
/-! DEFINITION. Traps, control registers and the instructions of the resident service (09 R204 to R211; 19 R316, R318;
20 R332, R333). -/

namespace Sys2Proof.Machine

/-- TRAP (R208). -/
def execTrap (gd : Guard) (x : BitVec 38) (s : State) : Host.Outcome State Fault Refusal :=
  guarded gd [] (fun c l s => takeTrap s c l (0x3E0 + x.toNat) 0) s

/-- RETT (R207). -/
def execRett (gd : Guard) (s : State) : Host.Outcome State Fault Refusal :=
  guarded gd [] (fun c l s => returnFromTrap s c l) s

/-! ### Control registers (R204, R205) -/

/-- KIND of a record or strand (R186). -/
def kindCode : RecKind → Nat
  | .plain => 0 | .range => 1 | .stage => 2

/-- STATUS (R205). -/
def statusWord (c : Nat) (t : Strand) : Nat :=
  kindCode t.kind * 2 ^ 6 + t.pri % 8 * 2 ^ 3 + (isMgmt c).toNat * 2 + t.intrap.toNat

/-- A watermark channel register (R167). -/
def channelBits (x : Channel) : Nat := x.base % 2 ^ 64 * 2 ^ 64 + x.len % 2 ^ 32 * 2 ^ 32 + x.fill % 2 ^ 32

/-- All bits of a control register as a strand reads it (R204). -/
def crBits (s : State) (c l : Nat) (r : Cr) : Nat :=
  let t := getStrand s c l
  let k := getCore s c
  let p := getPart s (tagOf s c)
  match r with
  | .core => c
  | .strand => strandNumber s c l
  | .part => p.cores.length * 2 ^ 16 + tagOf s c
  | .pword => k.pword.toNat
  | .caps => capsBits
  | .fduty => k.fduty
  | .status => statusWord c t
  | .cause => t.cause.toNat
  | .epc => t.epc.toNat
  | .tval => t.tval.toNat
  | .tvec => t.tvec.toNat
  | .eopd => t.eopd.toNat
  | .frame => t.frame.toNat
  | .node => t.node
  | .rlo => t.rlo.toNat
  | .rhi => t.rhi.toNat
  | .srstate => t.srstate.toNat
  | .lfbase => p.lfbase.toNat
  | .dbell => p.dbell.toNat
  | .tags => k.tags.toNat
  | .vfail => k.vfail.toNat
  | .xbwait => k.xbwait.toNat
  | .acnt => k.acnt.toNat
  | .wch n => channelBits k.wch[n]
  | .th n => k.th[n].toNat
  | .privc => k.privc

/-- The half of a register that hi= selects (R204). -/
def crHalf (hi : Bool) (bits : Nat) : Nat := bitsAt bits (if hi then 64 else 0) 64

/-- A write of a channel register: its half is written, FILL becomes 0, and earlier WMARKs no longer count (R167). -/
def writeChannel (x : Channel) (hi : Bool) (v : Nat) : Channel :=
  { base := if hi then v else x.base, len := if hi then x.len else v / 2 ^ 32, fill := 0, gen := x.gen + 1, written := [] }

/-- SRSTATE takes [31:0]; 0 becomes 1 (R28). -/
def srstateOf (v : Nat) : BitVec 32 := if v % 2 ^ 32 = 0 then 1 else BitVec.ofNat 32 v

/-- A write of a control register; one that is read-only ignores it (R9, R204). -/
def writeCr (s : State) (c l : Nat) (r : Cr) (hi : Bool) (v : Nat) : State :=
  match r with
  | .epc => onStrand s c l fun t => { t with epc := BitVec.ofNat 64 v }
  | .tvec => onStrand s c l fun t => { t with tvec := BitVec.ofNat 64 v }
  | .eopd => onStrand s c l fun t => { t with eopd := BitVec.ofNat 64 v }
  | .frame => onStrand s c l fun t => { t with frame := BitVec.ofNat 64 v }
  | .srstate => onStrand s c l fun t => { t with srstate := srstateOf v }
  | .xbwait => onCore s c fun k => { k with xbwait := BitVec.ofNat 64 v }
  | .acnt => onCore s c fun k => { k with acnt := BitVec.ofNat 64 v }
  | .wch n => onCore s c fun k => { k with wch := k.wch.set n (writeChannel k.wch[n] hi v) }
  | .privc => onCore s c fun k => { k with privc := v % 2 ^ 6 }
  | .core | .strand | .part | .pword | .caps | .fduty | .status | .cause | .tval | .node | .rlo | .rhi | .lfbase | .dbell
  | .tags | .vfail | .th _ => s

/-- An access to a control register: one marked S needs the system privilege (R204, R81 step 9). -/
def crGuarded (r : Cr) (bits : Nat) (gd : Guard) (names : List Named) (body : Nat → Nat → State → State) (s : State) :
    Host.Outcome State Fault Refusal :=
  match r with
  | .privc => sysGuarded bits gd names body s
  | _ => guarded gd names body s

/-- CRR (R204). -/
def execCrr (gd : Guard) (d : GOp) (hi : Bool) (cr : Cr) (s : State) : Host.Outcome State Fault Refusal :=
  crGuarded cr (encode (.crr gd d hi cr)) gd [.g d]
    (fun c l s => onStrand s c l fun t => advanced (setG t t d (crHalf hi (crBits s c l cr)))) s

/-- CRW (R204). -/
def execCrw (gd : Guard) (a : GOp) (hi : Bool) (cr : Cr) (s : State) : Host.Outcome State Fault Refusal :=
  crGuarded cr (encode (.crw gd a hi cr)) gd [.g a]
    (fun c l s => advance (writeCr s c l cr hi (gVal (getStrand s c l) a)) c l) s

/-- FEAT (R211). -/
def execFeat (gd : Guard) (d : Fin 8) (a : GOp) (x : BitVec 38) (s : State) : Host.Outcome State Fault Refusal :=
  guarded gd [.g a] (fun c l s =>
    onStrand s c l fun t => advanced (wrK t d (bitsAt capsBits (wrapTo 7 ((gVal t a : Int) + dispOf x)) 1 == 1))) s

/-! ### Translations (R209, R316, R318) -/

/-- The translations that a TLBINV removes: those of a partition that cover an address, or all of them (R209). -/
def staleXlat (tag : Nat) (page : Option Nat) (x : Xlat) : Bool :=
  match page with
  | some va => x.covers tag va
  | none => x.tag == tag

/-- Remove them from both levels, in every core and on every die. -/
def dropXlats (s : State) (tag : Nat) (page : Option Nat) : State :=
  { s with
    cores := s.cores.map fun e => (e.1, { e.2 with tlb := e.2.tlb.filter fun x => !staleXlat tag page x })
    dies := s.dies.map fun e => (e.1, { e.2 with tlb := e.2.tlb.filter fun x => !staleXlat tag page x }) }

/-- TLBINV: what the issuer wrote before, its leaf entries among it, is performed, the translations leave both levels, and the strand
waits until none remains in use (R209, R318). -/
def execTlbinv (gd : Guard) (a b : GOp) (all : Bool) (s : State) : Host.Outcome State Fault Refusal :=
  sysGuarded (encode (.tlbinv gd a b all)) gd [.g a, .g b] (fun c l s =>
    let t := getStrand s c l
    if gVal t b ≠ 0 then takeTrap s c l 0x026 (encode (.tlbinv gd a b all))
    else
      let tag := (getCore s c).privc
      let page := if all then none else some (gVal t a)
      afterReds s c l (fun _ => true) fun s =>
        sleep (dropXlats (performOwn s c t.sid) tag page) c l (.tlbinv tag page)) s

/-- Every open group of a partition walks again (R316). -/
def retryGroups (s : State) (tag : Nat) : State :=
  { s with dies := s.dies.map fun e =>
      (e.1, { e.2 with groups := e.2.groups.map fun g => if g.tag == tag then { g with retry := true } else g }) }

/-- REPLAY: a release at sy, and a retry of every group that is open (R316). -/
def execReplay (gd : Guard) (a : GOp) (s : State) : Host.Outcome State Fault Refusal :=
  sysGuarded (encode (.replay gd a)) gd [.g a] (fun c l s =>
    afterReds s c l (fun _ => true) fun s =>
      advance (retryGroups (releaseAt s c (getStrand s c l).sid .sy true true) (gVal (getStrand s c l) a % 2 ^ 6)) c l) s

/-! ### Sealing (R210, R332, R333) -/

/-- Whether a sealing-root slot holds a root of a tenant (R324, R332). -/
def rootHeld (s : State) (slot tenant : Nat) : Bool :=
  match nget? s.roots slot with
  | some (owner, _) => owner == tenant
  | none => false

/-- The status a SEAL that may not begin returns: 1 for a context that is not parked, 3 for its chain or root (R332). -/
def sealRefused (s : State) (tag root chain : Nat) : Option Nat :=
  let p := getPart s tag
  let x := getChain s chain
  if p.st ≠ .parked ∧ p.st ≠ .sealed then some 1
  else if x.st ≠ .held ∨ x.tenant ≠ p.tenant ∨ x.hw.toNat = 2 ^ 64 - 1 ∨ !rootHeld s root p.tenant then some 3
  else none

/-- SEAL: it returns a status at once, or waits until the ingot is written and the counter committed (R210, R332). -/
def execSeal (gd : Guard) (d a b o : GOp) (s : State) : Host.Outcome State Fault Refusal :=
  sysGuarded (encode (.seal gd d a b o)) gd [.g a, .g b, .g o, .g d] (fun c l s =>
    let t := getStrand s c l
    let tag := (getCore s c).privc
    let root := gVal t a % 2 ^ 6
    let chain := gVal t b % 2 ^ 8
    match sealRefused s tag root chain with
    | some st => finish s c l (.g (gReg t d)) st
    | none => sleep s c l (.seal (gReg t d) tag root chain (gVal t o))) s

/-- UNSEAL: the strand sleeps until the checks of R333 are made and the context is restored (R210). -/
def execUnseal (gd : Guard) (d a b o : GOp) (s : State) : Host.Outcome State Fault Refusal :=
  sysGuarded (encode (.unseal gd d a b o)) gd [.g a, .g b, .g o, .g d] (fun c l s =>
    let t := getStrand s c l
    sleep s c l (.unseal (gReg t d) (getCore s c).privc (gVal t a % 2 ^ 6) (gVal t b % 2 ^ 8) (gVal t o))) s

end Sys2Proof.Machine
end

