-- ==== Sys2Proof/Machine/Wakes.lean ====
section
/-! DEFINITION. Steps that wake a sleeping strand, and those that push a record that waited for room (07 R145; 08 R158,
R167, R171, R176; 09 R197, R201, R203, R209; 16 R284). A step that is not due changes nothing. -/

namespace Sys2Proof.Machine

/-- The outcome of a step of the device: what it makes, or the state as it is when the step is not due (log 17). -/
def ifDue (s : State) (o : Option State) : Host.Outcome State Fault Refusal := .next (o.getD s)

/-- A core that is not parked (R327). -/
def coreAwake (s : State) (c : Nat) : Bool := !(getCore s c).parked

/-- What a sleeping strand waits at, on a core that is awake. -/
def waitOf (s : State) (c l : Nat) : Option Wait :=
  let t := getStrand s c l
  if t.live && coreAwake s c then (match t.status with | .asleep w => some w | .ready => none) else none

/-- A step that acts on a sleeping strand. -/
def onWait (s : State) (c l : Nat) (k : Wait → Option State) : Host.Outcome State Fault Refusal :=
  ifDue s ((waitOf s c l).bind k)

/-- An access that waited is made again, at once; it meets the soft error that it would have met (R134; log 18). -/
def resume (s : State) (c l : Nat) (q : MemReq) : State :=
  runMem { s with cur := ⟨c, l, false, q.err⟩ } c l q

/-! ### Wakes -/

/-- A monitor armed over a peer's memory, one of them by a free value: a write at the peer, its own or another device's, may fire it
at any time (R144; log 49). -/
def peerMonitor (s : State) (t : Strand) : Option (Fin 4) :=
  let far := (List.finRange 4).filter fun i => match t.mon[i] with
    | .armed false a _ => decide (2 ^ 46 ≤ a)
    | _ => false
  far[Config.freeWord s.draw 6 % far.length]?

/-- WAITA_WAKE: a fired monitor is returned; or the step is a peer's write under a monitor over its memory (R144, R145). -/
def execWaitaWake (c l : Nat) (s : State) : Host.Outcome State Fault Refusal :=
  onWait s c l fun w => match w with
    | .waita _ _ d =>
      let t := getStrand s c l
      ((firedMonitor t).or (peerMonitor s t)).map fun i =>
        onStrand s c l fun t => { returnMonitor t d i with readySince := (getCore s c).cycles }
    | _ => none

/-- WAITA_TIMEOUT (R145). -/
def execWaitaTimeout (c l : Nat) (s : State) : Host.Outcome State Fault Refusal :=
  onWait s c l fun w => match w with
    | .waita since timeout d =>
      if timeout ≠ 0 ∧ since + timeout ≤ s.now ∧ (firedMonitor (getStrand s c l)).isNone then
        some (finish s c l (.g d) 4)
      else none
    | _ => none

/-- TWAIT_WAKE (R171). -/
def execTwaitWake (c l : Nat) (s : State) : Host.Outcome State Fault Refusal :=
  onWait s c l fun w => match w with
    | .twait mask => tryTwait s c l mask
    | _ => none

/-- MWAIT_WAKE (R176). -/
def execMwaitWake (c l : Nat) (s : State) : Host.Outcome State Fault Refusal :=
  onWait s c l fun w => match w with
    | .mwait d => (nextResult (getCore s c) (getStrand s c l).sid).map fun r => popResult s c l d r
    | _ => none

/-- COMMAND_PLACE_WAKE: a place of q0, q1 or q2 (R158, R200). -/
def execCommandPlaceWake (c l : Nat) (s : State) : Host.Outcome State Fault Refusal :=
  onWait s c l fun w => match w with
    | .commandPlace cmd d => if placeFree (getCore s c) cmd.kind.matrix then some (countAndTake s c l cmd d) else none
    | .pushPlace p =>
      let waits := ((getQueue? s p.tag p.queue).map (·.draining)).getD false
      if (getCore s c).q2.length < 4 && !waits then some (takePushPlace s c l p) else none
    | _ => none

/-- WATERMARK_STALL_END: the access is made, unless it would stall again (R167). -/
def execWatermarkStallEnd (c l : Nat) (s : State) : Host.Outcome State Fault Refusal :=
  onWait s c l fun w => match w with
    | .watermark q =>
      let s' := resume s c l q
      if (getStrand s' c l).status = .asleep (.watermark q) then none else some s'
    | _ => none

/-- LVLWAIT_WAKE (R197). -/
def execLvlwaitWake (c l : Nat) (s : State) : Host.Outcome State Fault Refusal :=
  onWait s c l fun w => match w with
    | .lvlwait _ d (some st) => some (finish s c l (.g d) st)
    | _ => none

/-- DQPOP_WAKE (R201). -/
def execDqpopWake (c l : Nat) (s : State) : Host.Outcome State Fault Refusal :=
  onWait s c l fun w => match w with
    | .dqpop q d => tryDqpop s c l q d
    | _ => none

/-- QWAIT_WAKE: the check is made, and the strand returns when it holds (R203). -/
def execQwaitWake (c l : Nat) (s : State) : Host.Outcome State Fault Refusal :=
  onWait s c l fun w => match w with
    | .qwait n e =>
      let (s', quiet) := qwaitCheck s (tagOf s c) n e
      if quiet then some (finish s' c l .none 0) else none
    | _ => none

/-- What peers have answered under translations that are gone is asked again: the accesses in several parts whose answers wait in their
cores' inboxes are executed again, and the elements that engines are at begin again (R318). -/
def restartLegs (s : State) (tag : Nat) : State :=
  let isLegs := fun r => match r with
    | Reply.peer slot sid ⟨.legs .., _, _, _, _, _⟩ (.value _) => some (slot, sid)
    | _ => none
  (s.cores.map (·.1)).foldl
    (fun s c =>
      if tagOf s c != tag then s
      else
        let stale := (getCore s c).inbox.filterMap isLegs
        let again := fun (m : Cmd) => { m with prog := { m.prog with answers := [] } }
        let s := onCore s c fun k =>
          { k with inbox := k.inbox.filter fun r => (isLegs r).isNone, q1 := k.q1.map again, q0 := k.q0.map again }
        stale.foldl (fun s e => if (getStrand s c e.1).sid = e.2 then wake s c e.1 else s) s) s

/-- No access of a partition's cores is under way, here or at a peer (R209, R318). -/
def noneInFlight (s : State) (tag : Nat) : Bool :=
  (s.cores.all fun e => tagOf s e.1 != tag || (e.2.requests.isEmpty && e.2.reds.isEmpty))
    && s.peers.all fun e => tagOf s e.2.core != tag

/-- TLBINV_DONE: translations that were made anew meanwhile leave again, so that none made before is used (R209, R318). -/
def execTlbinvDone (c l : Nat) (s : State) : Host.Outcome State Fault Refusal :=
  onWait s c l fun w => match w with
    | .tlbinv tag page =>
      if noneInFlight s tag then some (finish (dropXlats (restartLegs s tag) tag page) c l .none 0) else none
    | _ => none

/-! ### Records that waited for room (R284) -/

/-- Push a record that waited: an initial record, whose target is still to be checked, at the tail; a handler record at the
head. None while there is no room. -/
def pushWaited (s : State) (c : Nat) (r : Rec) : Option State :=
  if r.checkTgt then (if roomTail (getCore s c) then some (deqPushTail s c r) else none)
  else if roomHead (getCore s c) then some (deqPushHead s c r) else none

/-- HANDLER_RECORD_PUSH (R284). -/
def execHandlerRecordPush (ptag node : Nat) (s : State) : Host.Outcome State Fault Refusal :=
  ifDue s (match getNode? s ptag node with
    | some x => match x.handlers with
      | (c, r) :: rest => pushWaited (onNode s ptag node fun x => { x with handlers := rest }) c r
      | [] => none
    | none => none)

/-- HELD_RECORD_PUSH: a node that has ended and held its last record may then be freed (R276, R284). -/
def execHeldRecordPush (ptag node : Nat) (s : State) : Host.Outcome State Fault Refusal :=
  ifDue s (match getNode? s ptag node with
    | some x => match x.room with
      | (c, r) :: rest =>
        if roomHead (getCore s c) then
          some (freeNode (deqPushHead (onNode s ptag node fun x => { x with room := rest }) c r) ptag node)
        else none
      | [] => none
    | none => none)

end Sys2Proof.Machine
end

