-- ==== Sys2Proof/Machine/FieldEvents.lean ====
section
/-! DEFINITION. Steps of clamps and mark fields: arrivals and releases, advances, timers, the fettler, freezing (07 R154;
09 R198; 17 R293 to R299; 18 R302 to R304). -/

namespace Sys2Proof.Machine

/-! ### Clamps (R293 to R296) -/

/-- The fields that a clamp of a partition drives advance once, if they are LIVE (R297). -/
def driveFields (p : Partn) (c : Nat) : Partn :=
  { p with fields := p.fields.map fun e =>
      (e.1, if e.2.tsrc == 1 && e.2.targ == c && e.2.st == .live then { e.2 with due := e.2.due + 1 } else e.2) }

/-- A release reaches a strand that joined the episode and still sleeps at the clamp. -/
def releaseJoined (s : State) (c l sid n : Nat) (rel : Word) : State :=
  let t := getStrand s c l
  match t.status with
  | .asleep (.clamp m d none) =>
    if t.live && t.sid == sid && m == n then onStrand s c l fun t => { t with status := .asleep (.clamp m d (some rel)) }
    else s
  | _ => s

/-- The release of an episode: a new one opens at once (R294). -/
def releaseClamp (s : State) (tag n : Nat) (x : Clamp) : State :=
  let rel := x.rel + 1
  let s := onPart s tag fun p =>
    driveFields { p with clamps := nset p.clamps n { x with rel := rel, arr := 0, counted := [], joined := [] } } n
  x.joined.foldl (fun s e => releaseJoined s e.1 e.2.1 e.2.2 n rel) s

/-- An arrival is counted (R294). -/
def countArrival (x : Clamp) (c l sid : Nat) : Clamp :=
  let x := { x with joined := x.joined ++ [(c, l, sid)] }
  if x.kind = 1 then
    if x.counted.contains c then x else { x with arr := x.arr + 1, counted := x.counted ++ [c] }
  else { x with arr := x.arr + 1 }

/-- CLAMP_ARRIVE: arrival j of a partition reaches its clamp's root (R294, R295). -/
def execClampArrive (ptag j : Nat) (s : State) : Host.Outcome State Fault Refusal :=
  ifDue s (((getPart s ptag).arrivals[j]?).map fun a =>
    let n := a.1
    let s := onPart s ptag fun p => { p with arrivals := p.arrivals.eraseIdx j }
    let x := countArrival (nget (getPart s ptag).clamps {} n) a.2.1 a.2.2.1 a.2.2.2
    if x.need ≤ x.arr then releaseClamp s ptag n x
    else onPart s ptag fun p => { p with clamps := nset p.clamps n x })

/-- Every field that a clamp drives has advanced (R297). -/
def clampFieldsDone (s : State) (tag n : Nat) : Bool :=
  (getPart s tag).fields.all fun e => e.2.tsrc != 1 || e.2.targ != n || e.2.due == 0

/-- The result of a wait reaches its core: a core that is parked keeps it in its inbox (R328). -/
def replyTo (s : State) (c l : Nat) (d : Fin 64) (v : Nat) : State :=
  if coreAwake s c then finish s c l (.g d) v
  else toInbox (sleep s c l .access) c (.value l (getStrand s c l).sid (.g d) v)

/-- CLAMP_WAKE (R294, R295, R297, R328). -/
def execClampWake (c l : Nat) (s : State) : Host.Outcome State Fault Refusal :=
  ifDue s (
    let t := getStrand s c l
    match t.status with
    | .asleep (.clamp n d (some rel)) =>
      if t.live && clampFieldsDone s (tagOf s c) n then some (replyTo s c l d rel.toNat) else none
    | _ => none)

/-- A strand of a partition sleeps at a clamp, or an arrival is on its way to it. -/
def clampInUse (s : State) (tag n : Nat) : Bool :=
  (getPart s tag).arrivals.any (fun a => a.1 == n)
    || s.strands.any fun e => e.2.live && tagOf s (e.1 / 8) == tag
        && (match e.2.status with | .asleep (.clamp m _ _) => m == n | _ => false)

/-- A configuration the service may write: KIND 0, cores, or count with NEED 1 to 65,535 (R293). -/
def clampOf (p : Partn) (cfg : ClampCfg) : Clamp :=
  { kind := cfg.kind % 4, need := if cfg.kind % 4 = 1 then p.cores.length else cfg.need % 2 ^ 16, root := cfg.root % 2 ^ 12 }

def clampCfgOk (cfg : ClampCfg) : Bool :=
  decide (cfg.num < 64) && decide (cfg.kind < 3) && (cfg.kind != 2 || (decide (1 ≤ cfg.need) && decide (cfg.need < 65536)))

/-- CLAMP_RECONFIGURATION: refused with 0x3C4 while a strand sleeps at the clamp (R293). -/
def execClampReconfiguration (ptag : Nat) (cfg : ClampCfg) (s : State) : Host.Outcome State Fault Refusal :=
  ifDue s (if !clampCfgOk cfg || (getPart s ptag).st == .free then none
    else if clampInUse s ptag cfg.num then some { s with responses := s.responses ++ [⟨0, 0x3C4, 0⟩] }
    else some (onPart s ptag fun p => { p with clamps := nset p.clamps cfg.num (clampOf p cfg) }))

/-! ### Advances (R297 to R299) -/

/-- A SENSE of a field that has read its first cell is in flight. -/
def sensePinned (s : State) (tag fid : Nat) : Bool :=
  s.cores.any fun e => e.2.requests.any fun q => match q.op with
    | .sense t f _ (some _) _ _ _ _ => t == tag && f == fid
    | _ => false

/-- The tick of a cell's last normalisation, or 0, the tick of the field's entry to LIVE (R304). -/
def lastNorm (f : Field) (cell : Nat) : Nat := nget f.norm 0 cell

/-- An advance would bring a cell to 16,384 ticks since its last normalisation (R304). -/
def advanceWaits (f : Field) : Bool :=
  f.fade != 0 && decide (16384 ≤ f.tick + 1)
    && (List.range (f.rows * f.cols)).any fun cell => decide (lastNorm f cell + 16384 ≤ f.tick + 1)

/-- A TADV returns its count; on a core that is parked the result waits in the inbox (R154, R328). -/
def finishTadv (s : State) (w : Nat × Nat × Nat × Fin 64) (fid tick : Nat) : State :=
  let (c, l, sid, d) := w
  let t := getStrand s c l
  match t.status with
  | .asleep (.tadv f e) =>
    if t.live && t.sid == sid && f == fid && e == d then replyTo s c l d tick else s
  | _ => s

/-- TICK_ADVANCE: hold and place, as one step (R298); it does not begin while a SENSE is pinned or a cell must first be
normalised (R299, R304). -/
def execTickAdvance (ptag fid : Nat) (s : State) : Host.Outcome State Fault Refusal :=
  ifDue s ((getField? s ptag fid).bind fun f =>
    if f.st != .live || f.due == 0 || sensePinned s ptag fid || advanceWaits f then none
    else
      let s := putField s ptag fid { f with tick := f.tick + 1, due := f.due - 1, waiters := f.waiters.drop 1 }
      some (match f.waiters with
        | w :: _ => finishTadv s w fid (f.tick + 1)
        | [] => s))

/-- A period of a LIVE field's timer has ended and is not yet counted (R297). -/
def periodEnded (now : Nat) (f : Field) : Bool := f.st == .live && f.tsrc == 2 && decide (f.timerAt + f.targ ≤ now)

/-- FIELD_TIMER_TICK: a period ends; no advance is merged or lost (R297). -/
def execFieldTimerTick (ptag fid : Nat) (s : State) : Host.Outcome State Fault Refusal :=
  ifDue s ((getField? s ptag fid).bind fun f =>
    if periodEnded s.now f then
      some (putField s ptag fid { f with due := f.due + 1, timerAt := f.timerAt + f.targ })
    else none)

/-! ### The fettler (R304) -/

/-- Bits written in place, seen by no monitor and no lease: a normalisation is no write (R304). -/
def rewritePart (s : State) (p : Part) (v : Nat) : State :=
  let n := byteSpan p.pa p.w
  keyedWrite s (materialOf s p.key) (p.pa / 8) n (setBits (keyedBytes s p.key (p.pa / 8) n) (p.pa % 8) p.w v)

/-- A field's cell, by its number in row order. -/
def fieldCell (s : State) (tag : Nat) (f : Field) (cell : Nat) : Option Part := cellPart s tag f (cell / f.cols) (cell % f.cols)

/-- FETTLER_NORMALISE (R304). -/
def execFettlerNormalise (ptag fid cell : Nat) (s : State) : Host.Outcome State Fault Refusal :=
  ifDue s ((getField? s ptag fid).bind fun f =>
    if f.st != .live || f.fade == 0 || !decide (cell < f.rows * f.cols) then none
    else
      let s := match fieldCell s ptag f cell with
        | some p => rewritePart s p (markWord (markAt (physRead s p.key p.pa 32) f.tick f.fade) f.tick)
        | none => s
      some (putField s ptag fid { f with norm := nset f.norm cell f.tick }))

/-! ### Freezing and thawing (R302) -/

def frozenField (f : Field) : Field := if f.st = .live then { f with st := .frozen } else f
def thawedField (now : Nat) (f : Field) : Field := if f.st = .frozen then { f with st := .live, timerAt := now } else f

/-- Every advance of a field that has fallen due has been made, those of its timer too (R297, R302). -/
def advancesMade (now : Nat) (f : Field) : Bool := f.due == 0 && !periodEnded now f

/-- FIELD_FREEZE: an advance in progress completes first (R302). -/
def execFieldFreeze (ptag fid : Nat) (s : State) : Host.Outcome State Fault Refusal :=
  ifDue s ((getField? s ptag fid).bind fun f =>
    if f.st == .live && advancesMade s.now f then some (putField s ptag fid (frozenField f)) else none)

/-- FIELD_THAW: a timer's period restarts (R302); the fields of a parked context wait for its resume. -/
def execFieldThaw (ptag fid : Nat) (s : State) : Host.Outcome State Fault Refusal :=
  ifDue s ((getField? s ptag fid).bind fun f =>
    let st := (getPart s ptag).st
    if f.st == .frozen && st != .parked && st != .sealed then some (putField s ptag fid (thawedField s.now f)) else none)

end Sys2Proof.Machine
end

