-- ==== Sys2Proof/Machine/Tables.lean ====
section
/-! DEFINITION. Page tables as the resident service writes them: mapping and unmapping pages, and frames zeroed and filled
(14 R255, R256; 19 R307, R308; 20 R324). -/

namespace Sys2Proof.Machine

/-- An entry written at a physical address. -/
def writePte (s : State) (a v : Nat) : State :=
  fireGlobal { wakeRange s (a / 8) 16 with mem := s.mem.setBits a 128 v } a 128

/-- n bytes from byte address b zeroed, whatever key they were written under; the lines that lie in them wholly are under no key
from now on. -/
def zeroBytes (s : State) (b n : Nat) : State :=
  { s with mem := s.mem.filter fun e => !(decide (b ≤ e.1) && decide (e.1 < b + n))
           keyOf := s.keyOf.filter fun e => !(decide (b ≤ 64 * e.1) && decide (64 * e.1 + 64 ≤ b + n)) }

/-- The bits of a leaf (R308); a page of a peer names its device. -/
def leafEntry (p : PageMap) : Nat :=
  p.pfn % 2 ^ 27 * 2 ^ 101 + p.key % 2 ^ 10 * 2 ^ 91 + p.kind % 4 * 2 ^ 89 + p.xr.toNat * 2 ^ 88 + p.wr.toNat * 2 ^ 87
    + p.rd.toNat * 2 ^ 86 + (p.dev != 0).toNat * 2 ^ 85 + p.dev % 2 ^ 8 * 2 ^ 77 + 2

/-- The bits of a table entry (R308). -/
def tableEntry (table : Nat) : Nat := table / 2 ^ 9 % 2 ^ 37 * 2 ^ 91 + 1

/-- Bytes of a table at a level (R307). -/
def tableBytes (lvl : Nat) : Nat :=
  match lvl with
  | 3 | 2 => 2 ^ 16
  | 1 => 2 ^ 13
  | _ => 2 ^ 9

/-! ### Every leaf of a partition's tables -/

/-- First address bit of a level's index (R307). -/
def levelShift (lvl : Nat) : Nat :=
  match lvl with
  | 3 => 45 | 2 => 33 | 1 => 24 | _ => 19

/-- The indices of a table's entries that are not zero throughout. -/
def usedEntries (s : State) (table lvl : Nat) : List Nat :=
  ((s.mem.filter fun e => decide (table / 8 ≤ e.1) && decide (e.1 < table / 8 + tableBytes lvl)).map
    fun e => (e.1 * 8 - table) / 128).eraseDups

/-- A leaf: the page's address, its level, and the entry. -/
structure Leaf where
  va : Nat
  lvl : Nat
  e : Pte
  deriving DecidableEq, Repr

/-- The leaves below a table at a level, the fuel less one. -/
def leavesFrom (s : State) : Nat → Nat → Nat → List Leaf
  | 0, _, _ => []
  | lvl + 1, table, va =>
    (usedEntries s table lvl).flatMap fun i =>
      let a := table + i * 128
      let e : Pte := ⟨a, s.mem.bits a 128⟩
      let va := va + i * 2 ^ levelShift lvl
      match e.type with
      | 2 => [⟨va, lvl, e⟩]
      | 1 => leavesFrom s lvl e.next va
      | _ => []

/-- An address in canonical form (R46). -/
def canonOf (va : Nat) : Nat := if bitsAt va 56 1 = 1 then va % 2 ^ 57 + (2 ^ 64 - 2 ^ 57) else va % 2 ^ 57

def leavesOf (s : State) (tag : Nat) : List Leaf :=
  (leavesFrom s 4 (rootOf s tag) 0).map fun x => { x with va := canonOf x.va }

/-! ### Memory in use -/

/-- The tables at and below a table at a level, as byte address and bytes, the fuel less one. -/
def tablesFrom (s : State) : Nat → Nat → List (Nat × Nat)
  | 0, _ => []
  | lvl + 1, table =>
    (table / 8, tableBytes lvl) :: (usedEntries s table lvl).flatMap fun i =>
      let e : Pte := ⟨table + i * 128, s.mem.bits (table + i * 128) 128⟩
      if e.type = 1 then tablesFrom s lvl e.next else []

/-- The bytes of this device's HBM that tables and pages of the service's or a partition's hold. -/
def heldRanges (s : State) : List (Nat × Nat) :=
  (0 :: (s.parts.filter fun e => e.2.st != .free).map (·.1)).flatMap fun tag =>
    tablesFrom s 4 (rootOf s tag) ++ ((leavesOf s tag).filter fun x => !x.e.peer).map fun x =>
      (x.e.pfn * 2 ^ 16, 2 ^ leafBits x.lvl / 8)

/-- Bytes that lie in trained HBM and that no table and no page holds (R12, R356). -/
def rangeFree (s : State) (b n : Nat) : Bool :=
  inHbm s b n && (heldRanges s).all fun r => !overlaps b n r.1 r.2

/-! ### Mapping pages -/

/-- Write a leaf at level `goal` below a table at a level, where none stands. Tables that are missing take the given addresses in turn,
each in free memory and outside the leaf's own frame; none when they do not suffice or a larger page stands in the way. -/
def mapBelow (va leaf goal : Nat) (frame : Nat × Nat) : Nat → State → Nat → List Nat → Option (State × List Nat)
  | 0, s, table, ts => some (writePte s (table + walkIndex va 0 * 128) leaf, ts)
  | lvl + 1, s, table, ts =>
    if lvl + 1 = goal then some (writePte s (table + walkIndex va goal * 128) leaf, ts)
    else
      let e := readPte s table va (lvl + 1)
      if e.type = 1 then mapBelow va leaf goal frame lvl s e.next ts
      else match ts with
        | [] => none
        | t :: rest =>
          if e.type = 0 && t % 512 == 0 && rangeFree s (t / 8) (tableBytes lvl)
              && !overlaps (t / 8) (tableBytes lvl) frame.1 frame.2 then
            let zeroed := zeroBytes (wakeRange s (t / 8) (tableBytes lvl)) (t / 8) (tableBytes lvl)
            mapBelow va leaf goal frame lvl (writePte zeroed e.addr (tableEntry t)) t rest
          else none

/-- Map a page of a partition; the tables still to be used are returned. -/
def mapPage (s : State) (tag : Nat) (p : PageMap) (ts : List Nat) : Option (State × List Nat) :=
  mapBelow p.va (leafEntry p) 0 (if p.dev = 0 then (p.pfn * 2 ^ 16, 2 ^ 16) else (0, 0)) 3 s (rootOf s tag) ts

/-- Pages mapped in turn, each by a step that may fail. -/
def mapAll {α : Type} (f : State → α → List Nat → Option (State × List Nat)) : State → List α → List Nat → Option State
  | s, [], _ => some s
  | s, a :: as, ts => (f s a ts).bind fun e => mapAll f e.1 as e.2

/-- A granule of a partition is mapped already (R255). -/
def pageMapped (s : State) (tag va : Nat) : Bool :=
  match walk s tag va with
  | .miss _ false => false
  | _ => true

/-- Unmap a granule: its leaf becomes TYPE 0, and TLBINV removes the translation (R209, R255). -/
def unmapPage (s : State) (tag va : Nat) : State :=
  match walk s tag va with
  | .hit x => dropXlats (writePte s x.leaf 0) tag (some va)
  | _ => s

/-- Zeroed bytes that are whole lines, under a material from now on. -/
def keyRange (s : State) (material b n : Nat) : State :=
  { s with keyOf := (s.keyOf.filter fun e => decide (e.1 < b / 64)) ++ (List.range (n / 64)).map (fun i => (b / 64 + i, material))
      ++ s.keyOf.filter fun e => decide (b / 64 + n / 64 ≤ e.1) }

/-- A frame zeroed and filled from its start, under a key throughout (R256, R368). -/
def fillFrame (s : State) (key pfn : Nat) (bytes : List Nat) : State :=
  let b := pfn * 2 ^ 16
  let s := keyRange (zeroBytes (wakeRange s b (2 ^ 16)) b (2 ^ 16)) (materialOf s key) b (2 ^ 16)
  { s with mem := s.mem.setBytes b bytes.length (bytes.foldr (fun x n => x % 256 + 256 * n) 0) }

end Sys2Proof.Machine
end

