-- ==== Sys2Proof/Machine/LaunchEvents.lean ====
section
/-! DEFINITION. Placement and retirement of launches (09 R199; 14 R260 to R263; 16 R287; 18 R302, R303; 26 R366). -/

namespace Sys2Proof.Machine

/-! ### Step 1 to 3: cores and tensors (R261) -/

/-- The cores of a partition that no live launch holds, in logical order (R260). -/
def freeCores (s : State) (tag : Nat) : List Nat := (getPart s tag).cores.filter fun c => (getCore s c).launch == 0

/-- A core taken for a launch: pools zeroed, caches invalidated, core registers reset, the jig's fields taken (R50, R261). -/
def placedCore (k : CoreSt) (j : Jig) (kidx launch : Nat) : CoreSt :=
  { k with
    launch := launch, kidx := kidx, pword := j.pword, gcount := j.gcount, vcount := j.vcount, spc := j.spc
    srseed := j.srseed, tvec := j.tvec, eopd := j.eopd, pool := [], icache := [], tags := 0, out := [], vfail := 0
    wch := k.wch.map fun x => { gen := x.gen + 1 }
    th := Vector.replicate 8 0, lmat := Vector.replicate 8 0, lcp := Vector.replicate 8 0, win := WinAcc.clear
    sched := { slots := j.sched }, terr := 0, filling := 0 }

/-- The jig's tensor entries written as TDSET would (R261 step 3). -/
def writeTensors (p : Partn) (ts : List Nat) : Partn :=
  { p with tensors := ts.foldl (fun m n => nset m (bitsAt n 256 12) (bitsAt n 0 256)) p.tensors }

/-! ### Step 4: fields (R300, R303) -/

/-- A field from its descriptor. -/
def fieldOfDesc (n launch : Nat) : Field :=
  { base := bitsAt n 192 64, rows := bitsAt n 176 16, cols := bitsAt n 160 16, fade := bitsAt n 156 4,
    wrapF := bitsAt n 155 1 == 1, tsrc := bitsAt n 153 2, targ := bitsAt n 128 25, satv := bitsAt n 112 16, launch := launch }
def descFid (n : Nat) : Nat := bitsAt n 106 6

/-- Bits a field occupies. -/
def fieldBits (f : Field) : Nat := 32 * f.rows * f.cols

/-- The tick source and its argument are as R300 gives. -/
def tickSourceOk (p : Partn) (f : Field) : Bool :=
  match f.tsrc with
  | 0 => f.targ == 0
  | 1 => decide (f.targ < 64) && (nget p.clamps {} f.targ).kind != 0
  | 2 => decide (256 ≤ f.targ) && decide (f.targ ≤ 2 ^ 24)
  | _ => false

/-- Every page that w bits from an address lie in is the partition's, and passes a test. -/
def pagesAll (s : State) (tag base w : Nat) (ok : Xlat → Bool) : Bool :=
  let first := base / 2 ^ 19
  let last := (base + w - 1) / 2 ^ 19
  (List.range (last - first + 1)).all fun i =>
    let va := (first + i) * 2 ^ 19
    canonical va && (match walk s tag va with
      | .hit x => ok x
      | _ => false)

/-- Every page of a field is the partition's, readable and writable, and not of kind un (R303). -/
def fieldPagesOk (s : State) (tag : Nat) (f : Field) : Bool :=
  pagesAll s tag f.base (fieldBits f) fun x => x.rd && x.wr && x.kind != 2

/-- The descriptor is valid (R300, R303). -/
def descOk (s : State) (tag n : Nat) : Bool :=
  let f := fieldOfDesc n 0
  f.base % 32 == 0 && decide (1 ≤ f.rows) && decide (1 ≤ f.cols) && decide (f.rows * f.cols ≤ 2 ^ 24)
    && decide (1 ≤ f.satv) && decide (1 ≤ descFid n) && bitsAt n 0 106 == 0 && canonical f.base
    && tickSourceOk (getPart s tag) f && fieldPagesOk s tag f

/-- Two fields share a bit. -/
def fieldsOverlap (a b : Field) : Bool := decide (a.base < b.base + fieldBits b) && decide (b.base < a.base + fieldBits a)

/-- The fields a tenant holds, load fields apart (log 25). -/
def tenantFields (s : State) (tenant : Nat) : Nat :=
  (s.parts.filter fun e => e.2.tenant == tenant).foldl (fun n e => n + (e.2.fields.filter fun f => f.1 != 0).length) 0

/-- The package's 1,024 entries have one for a tenant (R303, R371; log 25). -/
def fieldRoom (s : State) (tenant : Nat) : Bool :=
  leavesReserved s 1024 16 tenant
    (s.parts.foldl (fun n e => n + (e.2.fields.filter fun f => f.1 != 0).length) 0) (tenantFields s)

/-- The home slices of a field's cells take its state, so that they wake (R20, R302). -/
def wakeField (s : State) (tag : Nat) (f : Field) : State :=
  if s.gated.isEmpty then s
  else (List.range (f.rows * f.cols)).foldl
    (fun s cell => match fieldCell s tag f cell with
      | some p => wakeBank s (Config.homeSlice (lineOf p.pa)).val
      | none => s) s

/-- What a placement makes: the state, or the code and the value that it fails with. -/
abbrev Placed := Except (Nat × Nat) State

/-- One field installed, CREATED (R302, R303). -/
def installField (tag launch : Nat) (s : State) (n : Nat) : Placed :=
  let fid := descFid n
  let f := fieldOfDesc n launch
  let p := getPart s tag
  if !descOk s tag n then .error (0x389, fid)
  else if (nget? p.fields fid).isSome || p.fields.any (fun e => fieldsOverlap e.2 f) then .error (0x38A, fid)
  else if (getTenant s p.tenant).fieldQuota ≤ tenantFields s p.tenant || !fieldRoom s p.tenant then .error (0x38B, fid)
  else .ok (putField (wakeField s tag f) tag fid f)

/-! ### Step 4: queues (R287) -/

/-- The buffers a tenant holds. -/
def tenantBuffers (s : State) (tenant : Nat) : Nat :=
  (s.parts.filter fun e => e.2.tenant == tenant).foldl (fun n e => n + e.2.queues.length) 0

/-- The buffers that a home slice holds. -/
def sliceBuffers (s : State) (slice : Nat) : Nat :=
  s.parts.foldl (fun n e => n + (e.2.queues.filter fun q => q.2.home == slice).length) 0

/-- The home slice that the resident service chooses for a queue's buffer: one with fewer than 8, by a free value (log 3). -/
def chooseSlice (s : State) (q : Nat) : Nat :=
  let free := (List.range 256).filter fun n => decide (sliceBuffers s n < 8)
  free.getD (Config.freeWord s.draw (8 + q) % free.length) 0

/-- The package's 2,048 buffers have one for a tenant (R371). -/
def bufferRoom (s : State) (tenant : Nat) : Bool :=
  leavesReserved s 2048 32 tenant (s.parts.foldl (fun n e => n + e.2.queues.length) 0) (tenantBuffers s)

/-- A batch area: 64 records of 192 bits. -/
def areaBits : Nat := 64 * 192

/-- The batch areas for a number of queues: four for each, apart from one another and from those in use, in the partition's memory
(R287). -/
def areasOk (s : State) (tag queues : Nat) (areas : List Nat) : Bool :=
  let used := (getPart s tag).queues.flatMap (·.2.areas)
  areas.length == 4 * queues
    && areas.all (fun a => pagesAll s tag a areaBits fun x => x.rd && x.wr)
    && (areas ++ used).Pairwise (fun a b => a + areaBits ≤ b ∨ b + areaBits ≤ a)

/-- One binding installed with its batch areas: queue, then arrangements in rising order. An arrangement may be shared by
the bindings of one jig (log 26). -/
def installQueue (tag launch : Nat) (s : State) (b : Nat × List Nat) : Placed :=
  let (n, areas) := b
  let q := bitsAt n 0 5
  let mask := bitsAt n 32 16
  let p := getPart s tag
  let taken := (List.range 16).find? fun a => bitsAt mask a 1 == 1 && (match nget? p.arrs a with
    | some x => x.launch != launch
    | none => false)
  if (getTenant s p.tenant).bufferQuota ≤ tenantBuffers s p.tenant || !bufferRoom s p.tenant then .error (0x387, q)
  else if (nget? p.queues q).isSome then .error (0x388, q)
  else match taken with
    | some a => .error (0x388, a)
    | none =>
      let arrs := (List.range 16).foldl
        (fun m a => if bitsAt mask a 1 == 1 && (nget? m a).isNone then nset m a { launch := launch } else m) p.arrs
      let home := chooseSlice s q
      let x : Queue := { launch := launch, stagePc := bitsAt n 64 64, areas := areas, home := home }
      .ok (putPart (wakeBank s home) tag { p with queues := nset p.queues q x, arrs := arrs })

/-- Bindings with four batch areas each. -/
def withAreas : List Nat → List Nat → List (Nat × List Nat)
  | [], _ => []
  | b :: bs, as => (b, as.take 4) :: withAreas bs (as.drop 4)

/-- A list of steps, each of which may fail. -/
def foldPlaced {α : Type} (f : State → α → Placed) : State → List α → Placed
  | s, [] => .ok s
  | s, a :: as => match f s a with
    | .ok s => foldPlaced f s as
    | .error e => .error e

/-! ### Steps 5 and 6: records (R262, R366) -/

/-- A continuation record from its 512 bits (R186). -/
def recOfBits (n : Nat) : Rec :=
  { pc := BitVec.ofNat 64 n, fp := BitVec.ofNat 64 (n / 2 ^ 128), g1 := BitVec.ofNat 64 (n / 2 ^ 192),
    g2 := BitVec.ofNat 64 (n / 2 ^ 256), g3 := BitVec.ofNat 64 (n / 2 ^ 320), g4 := BitVec.ofNat 64 (n / 2 ^ 384),
    g5 := BitVec.ofNat 64 (n / 2 ^ 448), node := bitsAt n 96 12, grain := bitsAt n 90 6, pri := bitsAt n 87 3,
    kind := match bitsAt n 85 2 with | 1 => .range | 2 => .stage | _ => .plain
    kidx := bitsAt n 64 16 }

/-- The initial records with the cores they go to (R262). -/
def initialRecs (j : Jig) (x : Launch) (cores : List Nat) : List (Nat × Rec) :=
  let fix := fun r : Rec =>
    { r with
      node := x.node, kidx := x.kidx, checkTgt := true
      fp := if r.fp = 0 then x.fp else r.fp
      g5 := match x.graph with | some g => BitVec.ofNat 64 g | none => r.g5 }
  if j.recs.isEmpty then
    cores.mapIdx fun i c =>
      (c, fix { pc := j.entry, fp := x.fp, g1 := BitVec.ofNat 64 i, g2 := BitVec.ofNat 64 cores.length })
  else j.recs.mapIdx fun r n => (cores.getD (r % cores.length) 0, fix (recOfBits n))

/-- An initial record is pushed at the tail, or waits at its node (R262, R284). -/
def pushInitial (tag node : Nat) (s : State) (e : Nat × Rec) : State :=
  let (s, sid) := freshSid s
  let r := { e.2 with sid := sid }
  let waits := match getNode? s tag node with
    | some x => x.handlers.any fun h => h.1 == e.1
    | none => false
  if !waits && roomTail (getCore s e.1) then deqPushTail s e.1 r
  else onNode s tag node fun x => { x with handlers := x.handlers ++ [(e.1, r)] }

/-! ### Placement (R260 to R263) -/

/-- A field of the launch becomes LIVE: every stamp 0, magnitudes kept (R302). -/
def enterLive (s : State) (tag fid : Nat) (f : Field) : State :=
  let s := (List.range (f.rows * f.cols)).foldl
    (fun s cell => match fieldCell s tag f cell with
      | some p => rewritePart s { p with w := 16 } 0
      | none => s) s
  putField s tag fid { f with st := .live, timerAt := s.now }

/-- The first pending launch of a partition: the lowest number, in the order of acceptance. -/
def firstPending (s : State) (tag : Nat) : Option (Nat × Launch) :=
  (getPart s tag).launches.find? fun e => e.2.st == .pending

/-- A launch on one core with a slot for every initial record fills those slots before any issues: record r takes slot r (R365). -/
def fillFirst (s : State) (cores : List Nat) (j : Jig) (n : Nat) : State :=
  match cores with
  | [c] => if n ≤ j.spc then onCore s c fun k => { k with filling := n } else s
  | _ => s

/-- The whole of R261 on the cores chosen. -/
def placeOn (s : State) (tag i : Nat) (x : Launch) (j : Jig) (cores areas : List Nat) : Placed :=
  let s := cores.foldl (fun s c => onCore (wakeUnit s (.cluster (clusterOf c))) c fun k => placedCore k j x.kidx i) s
  let s := onPart s tag fun p => writeTensors p j.tensors
  match foldPlaced (installField tag i) s j.fields with
  | .error e => .error e
  | .ok s => match foldPlaced (installQueue tag i) s (withAreas j.queues areas) with
    | .error e => .error e
    | .ok s =>
      let recs := initialRecs j x cores
      let s := onNode s tag x.node fun n => { n with cnt := recs.length }
      let s := fillFirst (recs.foldl (pushInitial tag x.node) s) cores j recs.length
      let s := putLaunch s tag i { x with st := .running, cores := cores }
      .ok (((getPart s tag).fields.filter fun e => e.2.launch == i && e.2.st == .created).foldl
        (fun s e => enterLive s tag e.1 e.2) s)

/-- A launch that runs counts in its kernel and makes its context ACTIVE (R255, R325). -/
def countRunning (s : State) (tag kidx : Nat) : State :=
  let s := match getKernel? s tag kidx with
    | some k => putKernel s tag kidx { k with live := k.live + 1, st := if k.st = .loaded then .active else k.st }
    | none => s
  onPart s tag fun p => { p with st := if p.st = .idle then .active else p.st }

/-- The strand that waits in LAUNCH for a launch. -/
def launchWaiter (s : State) (i : Nat) (x : Launch) : Option (Place × Fin 64) :=
  match x.waiter with
  | none => none
  | some w =>
    let t := getStrand s w.core w.slot
    match t.status with
    | .asleep (.launch m d) => if t.live && t.sid == x.waiterSid && m == i then some (w, d) else none
    | _ => none

/-- A response to a job request (R343). -/
def respondLaunch (s : State) (x : Launch) (cause body : Nat) : State :=
  match x.reqid with
  | some r => answerAsked s r cause body
  | none => s

/-- A placed launch is reported: LAUNCH returns its node (R199). -/
def reportPlaced (s : State) (i : Nat) (x : Launch) : State :=
  let s := respondLaunch s x 0 x.node
  match launchWaiter s i x with
  | some (w, d) => finish s w.core w.slot (.g d) x.node
  | none => s

/-- The launch and its node are gone, and the count in the parent is withdrawn (R199). -/
def withdrawLaunch (s : State) (tag i : Nat) (x : Launch) : State :=
  let s := onPart s tag fun p =>
    { p with launches := nerase p.launches i, nodes := nerase p.nodes x.node, nodeFree := p.nodeFree ++ [x.node] }
  decNode s tag x.parent none

/-- A placement that fails leaves nothing, and the request ends with the cause (R199, R287, R303). -/
def failPlacement (s : State) (tag i : Nat) (x : Launch) (code tval : Nat) : State :=
  let w := launchWaiter s i x
  let s := respondLaunch (withdrawLaunch s tag i x) x code tval
  match w with
  | some (w, _) => takeTrap s w.core w.slot code tval
  | none => s

/-- LAUNCH_PLACEMENT: the first pending launch, once n cores are free (R260, R261); one that is pending when a park begins is still placed
(R325). -/
def execLaunchPlacement (ptag : Nat) (areas : List Nat) (s : State) : Host.Outcome State Fault Refusal :=
  ifDue s ((firstPending s ptag).bind fun e =>
    let (i, x) := e
    let st := (getPart s ptag).st
    let free := freeCores s ptag
    if nodeCancelled s ptag x.parent || nodeCancelled s ptag x.node || (st != .idle && st != .active && st != .parking)
        || decide (free.length < x.n) then none
    else ((getKernel? s ptag x.kidx).filter fun k => areasOk s ptag k.jig.queues.length areas).map fun k =>
      match placeOn s ptag i x k.jig (free.take x.n) areas with
      | .ok s => reportPlaced (countRunning s ptag x.kidx) i x
      | .error (code, tval) => failPlacement s ptag i x code tval)

/-! ### Retirement (R255, R263) -/

/-- Every matrix job that a launch's cores hold has completed. -/
def jobsDone (s : State) (cores : List Nat) : Bool :=
  cores.all fun c => (getCore s c).q0.all fun m => m.st == .done

/-- A core released: its records are discarded (R176, R263). -/
def releasedCore (k : CoreSt) : CoreSt :=
  { k with launch := 0, q0 := [], res := [], doneQ := [], sched := {}, burst := none, spc := 0 }

/-- What a launch bound is removed (R287, R302). -/
def unbind (p : Partn) (i : Nat) : Partn :=
  { p with fields := p.fields.filter fun e => e.1 == 0 || e.2.launch != i
           queues := p.queues.filter fun e => e.2.launch != i
           arrs := p.arrs.filter fun e => e.2.launch != i }

/-- A kernel is gone: index freed, sections unmapped (R255). -/
def dropKernel (s : State) (tag kidx : Nat) : State :=
  match getKernel? s tag kidx with
  | none => s
  | some k => k.pages.foldl (fun s va => unmapPage s tag va) (onPart s tag fun p => { p with kernels := nerase p.kernels kidx })

/-- One launch fewer of a kernel (R255). -/
def countRetired (s : State) (tag kidx : Nat) : State :=
  match getKernel? s tag kidx with
  | none => s
  | some k =>
    let n := k.live - 1
    if n = 0 ∧ k.st = .unloading then dropKernel s tag kidx
    else putKernel s tag kidx { k with live := n, st := if n = 0 then .loaded else k.st }

/-- A launch of a partition runs or retires. -/
def anyLive (p : Partn) : Bool := p.launches.any fun e => e.2.st == .running || e.2.st == .retiring

/-- The TADVs that wait for an advance of a field of this launch stand ready again: executed, they find no field (R302). -/
def wakeTadvs (s : State) (tag i : Nat) : State :=
  ((getPart s tag).fields.filter fun e => e.1 != 0 && e.2.launch == i).foldl
    (fun s e => e.2.waiters.foldl
      (fun s w =>
        let t := getStrand s w.1 w.2.1
        if t.live && t.sid == w.2.2.1 && t.status == .asleep (.tadv e.1 w.2.2.2) then wake s w.1 w.2.1 else s) s) s

/-- RETIRING to RETIRED (R263). -/
def retireLaunch (s : State) (tag i : Nat) (x : Launch) : State :=
  let s := x.cores.foldl (fun s c => onCore s c releasedCore) s
  let s := onPart (wakeTadvs s tag i) tag fun p => { unbind p i with launches := nerase p.launches i }
  let s := countRetired (endLaunchNode s tag x.node none) tag x.kidx
  onPart s tag fun p => { p with st := if p.st = .active && !anyLive p then .idle else p.st }

/-- The core that issued the CANCEL under which a pending launch ends (R193). -/
def pendingCanceller (s : State) (tag : Nat) (x : Launch) : Option Nat :=
  let core := fun n => ((getNode? s tag n).filter (·.cf)).bind (·.cfCore)
  ((core x.node).or (core x.parent)).filter fun c => tagOf s c == tag

/-- PENDING to RETIRED when the parent is cancelled: nothing is placed, and LAUNCH retires its strand, a job request ends without
success (R263, R343). -/
def retirePending (s : State) (tag i : Nat) (x : Launch) : State :=
  let w := launchWaiter s i x
  let core := pendingCanceller s tag x
  let s := respondLaunch s x cancelCause 0
  let s := onNode s tag x.node fun n => { n with cf := true }
  let s := endLaunchNode (onPart s tag fun p => { p with launches := nerase p.launches i }) tag x.node core
  match w with
  | some (w, _) => cancelStrand s w.core w.slot
  | none => s

/-- LAUNCH_RETIRE (R263). -/
def execLaunchRetire (ptag j : Nat) (s : State) : Host.Outcome State Fault Refusal :=
  ifDue s ((getLaunch? s ptag j).bind fun x =>
    let cnt := ((getNode? s ptag x.node).map (·.cnt)).getD 0
    match x.st with
    | .retiring => if cnt = 0 && jobsDone s x.cores then some (retireLaunch s ptag j x) else none
    | .pending => if nodeCancelled s ptag x.parent || nodeCancelled s ptag x.node then some (retirePending s ptag j x) else none
    | _ => none)

end Sys2Proof.Machine
end

