-- ==== Sys2Proof/Machine/Engine.lean ====
section
/-! DEFINITION. What copy units and matrix engines share: addresses of tensor elements, the checks of a command's extent,
and element accesses that may stall on a page or wait for a peer (08 R159, R160, R163, R164, R180, R372; 19 R320;
21 R338). -/

namespace Sys2Proof.Machine

/-! ### Tensors (R159, R160) -/

def TDesc.isBq (d : TDesc) : Bool := 16 ≤ d.fmt
def TDesc.bq (d : TDesc) : BqFmt := BqFmt.ofCode (d.fmt - 16)
def TDesc.scalar (d : TDesc) : CvtType := CvtType.ofCode d.fmt
/-- Width of an element. -/
def TDesc.elem (d : TDesc) : Nat := if d.isBq then bqElem d.bq else d.scalar.width

/-- Address of the block that holds element (r, c) of a BQ tensor. -/
def blockAddr (d : TDesc) (r c : Nat) : Nat :=
  let W := bqBlock d.bq
  (if d.space = 2 then c * 2 ^ 17 + d.base + r / 16 * W else d.base + r * d.rstr + c / 16 * W) % 2 ^ 64

/-- Index of element (r, c) in its block. -/
def blockIndex (d : TDesc) (r c : Nat) : Nat := if d.space = 2 then r % 16 else c % 16

/-- Bit address of element (r, c) (R160). -/
def elemAddr (d : TDesc) (r c : Nat) : Nat :=
  if d.isBq then (blockAddr d r c + 24 + blockIndex d r c * bqElem d.bq) % 2 ^ 64
  else
    let w := d.scalar.width
    (if d.space = 2 then c * 2 ^ 17 + d.base + r * w else d.base + r * d.rstr + c * w) % 2 ^ 64

/-- Row and column of an origin operand (R157). -/
def originRow (op : Nat) : Nat := bitsAt op 16 16
def originCol (op : Nat) : Nat := bitsAt op 0 16

/-- A tile of a tensor: origin, rows and columns. -/
structure Tile where
  d : TDesc
  r : Nat
  c : Nat
  nr : Nat
  nc : Nat
  deriving DecidableEq, Repr

def Tile.empty (t : Tile) : Bool := t.nr == 0 || t.nc == 0

/-! ### Checks of the first stage (R164, R372) -/

/-- 0x1C1: the tile lies in its tensor, and a BQ tile on block boundaries (R164). -/
def tileBad (t : Tile) : Bool :=
  !t.empty && (decide (t.d.rows < t.r + t.nr) || decide (t.d.cols < t.c + t.nc)
    || (t.d.isBq && (if t.d.space = 2 then t.r % 16 != 0 || t.nr % 16 != 0 else t.c % 16 != 0 || t.nc % 16 != 0)))

/-- First bit of a row of a tile, and its extent. -/
def rowStart (t : Tile) (i : Nat) : Nat :=
  if t.d.isBq then blockAddr t.d (t.r + i) t.c else elemAddr t.d (t.r + i) t.c
def rowSpan (t : Tile) : Nat := if t.d.isBq then (t.nc + 15) / 16 * bqBlock t.d.bq else t.nc * t.d.elem

/-- 0x1C2 of a pool tile: every row lies in a core's scratchpad or accumulator partition. -/
def poolTileBad (k : CoreSt) (t : Tile) : Bool :=
  !t.empty && (List.range t.nr).any fun i => (poolFault k (rowStart t i) (rowSpan t)).isSome

/-- Offsets of a tile within its B-store columns. -/
def sliceLo (t : Tile) : Nat := t.d.base + (if t.d.isBq then t.r / 16 * bqBlock t.d.bq else t.r * t.d.elem)
def sliceHi (t : Tile) : Nat :=
  t.d.base + (if t.d.isBq then (t.r + t.nr + 15) / 16 * bqBlock t.d.bq else (t.r + t.nr) * t.d.elem)

/-- 0x1C2 of a B-store tile (R160). -/
def storeTileBad (t : Tile) : Bool := !t.empty && (decide (2 ^ 17 < sliceHi t) || decide (128 < t.c + t.nc))

/-- The partition that holds a granule of a cluster's B store; 0 none (R323). -/
def granuleHolder (s : State) (cl g : Nat) : Nat := nget (getCluster s cl).granules 0 g

/-- 0x1C3 of slice offsets [lo, hi): a granule is not the partition's. -/
def granulesBad (s : State) (cl tag lo hi : Nat) : Bool :=
  (List.range 8).any fun g => decide (lo < (g + 1) * 2 ^ 14) && decide (g * 2 ^ 14 < hi) && granuleHolder s cl g != tag

/-! ### Element accesses -/

/-- An engine at work: the state, the command, the peer answers its present element has still to use, how many elements
before the present one the element stands whose bits are written, and whether what it writes into memory and pools stays under way. -/
structure Eng where
  s : State
  cmd : Cmd
  ans : List Nat
  back : Nat := 0
  late : Bool := false

/-- Why an element does not go on: a page that misses, a request to a peer, or a fault. -/
inductive Stop where
  | page (va : Nat)
  | peer (dev : Nat) (q : MemReq)
  | fault (code : Nat)
  deriving DecidableEq, Repr

/-- An element access's end: a value, or a stop. -/
inductive EngR (α : Type) where
  | ok (e : Eng) (a : α)
  | stop (e : Eng) (y : Stop)

/-- One access after another. -/
def andThen {α β : Type} (r : EngR α) (k : Eng → α → EngR β) : EngR β :=
  match r with
  | .ok e a => k e a
  | .stop e y => .stop e y

/-- Where an element lies: the partition's global space, a core's pool, or a cluster's B store. -/
inductive Spot where
  | glob
  | pool (c : Nat)
  | store (cl : Nat)
  deriving DecidableEq, Repr

def spotOf (d : TDesc) (poolCore cl : Nat) : Spot :=
  if d.space = 0 then .glob else if d.space = 1 then .pool poolCore else .store cl

/-- Translate one part for an engine. What is cached nowhere joins a group of the die, whose walk decides (R164, R180, R311,
R320). -/
def engXlat (e : Eng) (ea : Nat) (rd wr : Bool) : EngR Xlat :=
  if !canonical ea then .stop e (.fault 0x1C5)
  else match cached e.s e.cmd.core ea with
    | some x => if (rd && !x.rd) || (wr && !x.wr) then .stop e (.fault 0x1C6) else .ok e x
    | none => .stop e (.page ea)

/-- Translate the parts of an access in order. -/
def engLocate (e : Eng) (rd wr : Bool) : List (Nat × Nat) → EngR (List (Xlat × Nat × Nat))
  | [] => .ok e []
  | (ea, w) :: ps =>
    andThen (engXlat e ea rd wr) fun e x =>
      andThen (engLocate e rd wr ps) fun e xs => .ok e ((x, ea, w) :: xs)

/-- An access to a peer: its answer, when the element has had it, or a request (R338). -/
def engPeer (e : Eng) (dev : Nat) (op : MemOp) : EngR Nat :=
  match e.ans with
  | v :: rest => .ok { e with ans := rest } v
  | [] => if portTo e.s dev then .stop e (.peer dev { op := op, sc := e.cmd.sc }) else .stop e (.fault 0x341)

/-- The engine comes to a line on this device: what its strand has under way there, and what a release that covers the strand
has passed, is performed first (R158, R249), and the request reaches the home slice. -/
def engTouch (e : Eng) (line : Nat) : Eng :=
  { e with s := reachLine (touchFor e.s e.cmd.core e.cmd.sid [line]) noCore line }

/-- The parts of a global read, each on this device or at its peer (R59, R246). -/
def engReadParts (e : Eng) : List (Xlat × Nat × Nat) → EngR Nat
  | [] => .ok e 0
  | (x, ea, w) :: rest =>
    let p := x.part ea w
    let e' := engTouch e (lineOf p.pa)
    andThen (if x.peer then engPeer e x.dev (.load ea w false .none) else .ok e' (physRead e'.s p.key p.pa p.w)) fun e v =>
      andThen (engReadParts e rest) fun e vs => .ok e (v % 2 ^ w + 2 ^ w * vs)

/-- A write of the command that stays under way, towards memory or a core's pool (R249). -/
def engLater (e : Eng) (ea : Nat) (parts : List Part) (op : ReqOp) : Req :=
  { slot := e.cmd.slot, sid := e.cmd.sid, ea := ea, parts := parts, op := op, unPage := false, sc := e.cmd.sc,
    copy := some ⟨e.cmd.core, e.cmd.id, e.cmd.tag, e.cmd.sc⟩ }

/-- The parts of a global write. DT of a peer's page is set before the write leaves (R308). -/
def engWriteParts (e : Eng) (v : Nat) : List (Xlat × Nat × Nat) → EngR Unit
  | [] => .ok e ()
  | (x, ea, w) :: rest =>
    let p := x.part ea w
    let s := (engTouch e (lineOf p.pa)).s
    let s := if e.late then fly s e.cmd.core (engLater e ea [p] (.write w [v % 2 ^ w] false)) else writePart s noCore p v
    let here : Eng := { e with s := s }
    andThen (if x.peer then engPeer { e with s := setDirty e.s x.leaf } x.dev (.store ea w (v % 2 ^ w)) else .ok here 0) fun e _ =>
      engWriteParts e (v / 2 ^ w) rest

/-- An engine comes to bits of a pool: what its own command has under way there is performed. -/
def engPool (e : Eng) (c a w : Nat) : Eng :=
  { e with s := flush e.s c fun q => q.copy.any (fun m => m.core == e.cmd.core && m.id == e.cmd.id) && (match q.op with
      | .poolWrite todo => todo.any fun t => overlaps t.1 t.2.1 a w
      | _ => false) }

/-- The granules that bits of a B store lie in are awake once they are reached (R352). -/
def wakeGranules (s : State) (cl a w : Nat) : State :=
  if s.gated.isEmpty then s
  else { s with gated := s.gated.filter fun u => match u with
      | .granule c g => !(c == cl && overlaps (a % 2 ^ 17) w (g * 2 ^ 14) (2 ^ 14))
      | _ => true }

/-- Read w bits. -/
def engRead (e : Eng) (sp : Spot) (a w : Nat) : EngR Nat :=
  match sp with
  | .pool c => .ok (engPool e c a w) (poolRead (engPool e c a w).s c a w)
  | .store cl => .ok { e with s := wakeGranules e.s cl a w } ((getCluster e.s cl).bstore.bits a w)
  | .glob => andThen (engLocate e true false (lineParts 4 a w)) engReadParts

/-- Write w bits. -/
def engWrite (e : Eng) (sp : Spot) (a w v : Nat) : EngR Unit :=
  match sp with
  | .pool c =>
    .ok { e with s := if e.late then fly e.s c (engLater e a [] (.poolWrite [(a, w, v % 2 ^ w)])) else poolWrite e.s c a w v } ()
  | .store cl =>
    .ok { e with s := onCluster (wakeGranules e.s cl a w) cl fun x => { x with bstore := x.bstore.setBits a w v } } ()
  | .glob => andThen (engLocate e false true (lineParts 4 a w)) fun e xs => engWriteParts e v xs

/-- One indivisible read-modify-write of w bits within a line: the old value (R57, R163, R166). -/
def engAtomic (e : Eng) (sp : Spot) (a w : Nat) (fn : AtomicFn) : EngR Nat :=
  let e := { e with late := false }
  let write := fun (e : Eng) (old : Nat) => match atomicNew fn old with
    | some v => andThen (engWrite e sp a w v) fun e _ => EngR.ok e old
    | none => .ok e old
  match sp with
  | .glob =>
    andThen (engLocate e true true (lineParts 4 a w)) fun e xs =>
      match peerOf xs with
      | some dev => engPeer { e with s := dirtyPeers e.s xs } dev (.atomic a w fn .none)
      | none => andThen (engReadParts e xs) write
  | _ => andThen (engRead e sp a w) write

/-! ### Commands in their places -/

def findCmd (s : State) (c : Nat) (mat : Bool) (id : Nat) : Option Cmd :=
  (if mat then (getCore s c).q0 else (getCore s c).q1).find? fun m => m.id == id

/-- The cores of a cluster (R13). -/
def coresOf (cl : Nat) : List Nat := (List.range 8).map (coreAt cl)

/-- A command in its place is replaced. -/
def setCmd (s : State) (cmd : Cmd) : State :=
  let f := fun m : Cmd => if m.id == cmd.id then cmd else m
  onCore s cmd.core fun k => if cmd.kind.matrix then { k with q0 := k.q0.map f } else { k with q1 := k.q1.map f }

/-- A command ends: its last step is over, with a fault or not. -/
def endCmd (s : State) (cmd : Cmd) (fault : Option (Nat × Nat × Nat)) : State :=
  setCmd s { cmd with prog := { cmd.prog with ended := true, fault := fault } }

/-- An element stops: the command stalls on a page, waits for a peer, or ends with a fault (R164, R338, R372). -/
def stopCmd (s : State) (cmd : Cmd) (row col : Nat) (y : Stop) : State :=
  match y with
  | .fault code => endCmd s cmd (some (code, row, col))
  | .page va =>
    let c := cmd.core
    setCmd (joinGroup s (dieOf c) (tagOf s c) va (logicalOf s c) 3 (cmd.id % 2 ^ 16) (.engine c cmd.kind.matrix cmd.id))
      { cmd with stalled := true, prog := { cmd.prog with pos := (row, col) } }
  | .peer dev q =>
    let r : PeerReq := { core := cmd.core, slot := cmd.slot, sid := cmd.sid, engine := some (cmd.kind.matrix, cmd.id),
                         pos := (row, col), dev := dev, q := q, at_ := s.now }
    setCmd (peerLeaves s r)
      { cmd with prog := { cmd.prog with asked := some s.nextPeer } }

end Sys2Proof.Machine
end

