-- ==== Sys2Proof/Machine/Copy.lean ====
section
/-! DEFINITION. The copy unit: what COPY, COPYV, WMARK and MDLD commands do, step by step (08 R163 to R170, R372; 24 R363;
14 R269; 16 R281). -/

namespace Sys2Proof.Machine

/-! ### What a command names -/

def srcTile (m : Cmd) : Tile := ⟨m.da, originRow m.opa, originCol m.opa, m.vlm, m.vln⟩
def dstTile (m : Cmd) : Tile := ⟨m.db, originRow m.opb, originCol m.opb, m.vlm, m.vln⟩
/-- cmb= and fwd= of a COPY (R157). -/
def cmbOf (m : Cmd) : Nat := if m.kind = .copy then bitsAt m.m 6 2 else 0
def isFwd (m : Cmd) : Bool := m.kind == .copy && bitsAt m.m 13 1 == 1
/-- The watermark channel of a WMARK. -/
def channelOf (m : Cmd) : Fin 4 := Fin.ofNat 4 (bitsAt m.m 6 2)

/-- The pool core of a tensor, by its logical number (R159); none when the partition has no such core. -/
def tensorCore (s : State) (c : Nat) (d : TDesc) : Option Nat := physicalOf s (tagOf s c) d.core

/-- The hops of a forwarding chain as physical cores (R165). -/
def hopCount (m : Cmd) : Nat := bitsAt m.opc 60 4
def hops (s : State) (m : Cmd) : List (Option Nat) :=
  (List.range (min (hopCount m) 5)).map fun i => physicalOf s (tagOf s m.core) (bitsAt m.opc (12 * i) 12)

/-- Where the source is read and the destination written. -/
def srcSpot (s : State) (m : Cmd) : Spot := spotOf m.da ((tensorCore s m.core m.da).getD 0) (clusterOf m.core)
def dstSpots (s : State) (m : Cmd) : List Spot :=
  spotOf m.db ((tensorCore s m.core m.db).getD 0) (clusterOf m.core)
    :: (if isFwd m then (hops s m).filterMap fun o => o.map Spot.pool else [])

/-- The version word of a COPYV (R166). -/
def versionAddr (m : Cmd) : Nat := wrapTo 64 ((m.db.base : Int) - 64)

/-! ### The first stage of checks (R372) -/

/-- A pool core lies outside the issuing cluster, or is no core of the partition (R164). -/
def offCluster (s : State) (m : Cmd) (d : TDesc) : Bool :=
  match tensorCore s m.core d with
  | some p => clusterOf p != clusterOf m.core
  | none => true

/-- A tile is out of reach (0x1C2). `chained` marks the destination of a forwarding chain. -/
def tileOutOfReach (s : State) (m : Cmd) (t : Tile) (chained : Bool) : Bool :=
  if t.d.space = 1 then
    (if chained then (tensorCore s m.core t.d).isNone else offCluster s m t.d)
      || poolTileBad (getCore s ((tensorCore s m.core t.d).getD 0)) t
  else t.d.space == 2 && storeTileBad t

/-- The version word is out of reach. -/
def versionOutOfReach (s : State) (m : Cmd) : Bool :=
  m.kind == .copyv &&
    ((m.db.space == 1 && (poolFault (getCore s ((tensorCore s m.core m.db).getD 0)) (versionAddr m) 64).isSome)
      || (m.db.space == 2 && decide (2 ^ 24 < versionAddr m + 64)))

/-- The channel of a WMARK does not hold its whole destination, of which an empty tile has none, or is disabled (R163, R167). -/
def outsideChannel (s : State) (m : Cmd) : Bool :=
  let ch := (getCore s m.core).wch[channelOf m]
  let t := dstTile m
  m.kind == .wmark &&
    (ch.len == 0 || (!t.empty && (t.d.space != 1 || tensorCore s m.core t.d != some m.core
      || (List.range t.nr).any fun i =>
          decide (rowStart t i < ch.base) || decide (ch.base + ch.len < rowStart t i + rowSpan t))))

/-- A store tile's granules, and the version word's, are not all the partition's (0x1C3). -/
def tileGranulesBad (s : State) (m : Cmd) (t : Tile) : Bool :=
  t.d.space == 2 && !t.empty && granulesBad s (clusterOf m.core) (tagOf s m.core) (sliceLo t) (sliceHi t)
def versionGranuleBad (s : State) (m : Cmd) : Bool :=
  let o := versionAddr m % 2 ^ 17
  m.kind == .copyv && m.db.space == 2 && granulesBad s (clusterOf m.core) (tagOf s m.core) o (o + 64)

/-- A combine's destination: f32 or i32, every element of class A0 (R163). -/
def combineBad (m : Cmd) : Bool :=
  let t := dstTile m
  cmbOf m != 0 &&
    (t.d.isBq || (t.d.scalar != .f32 && t.d.scalar != .i32) || (!t.empty && elemAddr t.d t.r t.c % 32 != 0)
      || (decide (1 < t.nr) && t.d.space != 2 && t.d.rstr % 32 != 0))

/-- The bits an MDLD moves, and whether side memory holds them (R169). -/
def mdldBits (m : Cmd) : Nat := m.vlm * m.vln * m.da.elem
def mdldOutside (m : Cmd) : Bool :=
  m.kind == .mdld && (m.opb / 2 ^ 16 != 0 || decide (2 ^ 16 < m.opb % 2 ^ 16 + mdldBits m))

/-- The chain names a core that is not the partition's, or too many (0x1C8). -/
def chainFails (s : State) (m : Cmd) : Bool := isFwd m && (decide (5 < hopCount m) || (hops s m).any (·.isNone))

/-- A hop's pool does not hold the tile. -/
def hopOutOfReach (s : State) (m : Cmd) : Bool :=
  isFwd m && (hops s m).any fun o => match o with
    | some p => poolTileBad (getCore s p) (dstTile m)
    | none => false

/-- The first check that fails, in the order of R372. The copy unit reads no tensor in a B store (R45); where TB lies there, a
combine and the version word of a COPYV read it even so, since R163 and R166 shut out no space (DEDUCED, log 79). An empty tile
touches nothing, so that its reach and its granules are not checked. -/
def copyFault (s : State) (m : Cmd) : Option Nat :=
  let src := srcTile m
  let dst := dstTile m
  let noDst := m.kind == .mdld
  let bad0 := !m.da.valid || decide (2 ≤ m.da.space) || m.da.fmt > 18
    || (!noDst && (!m.db.valid || m.db.space == 3 || m.db.fmt > 18)) || (isFwd m && m.db.space != 1)
  if bad0 then some 0x1C0
  else if tileBad src || (!noDst && (tileBad dst || outsideChannel s m)) then some 0x1C1
  else if (!src.empty && tileOutOfReach s m src false)
      || (!noDst && (!src.empty || m.kind == .copyv) && tileOutOfReach s m dst (isFwd m)) || versionOutOfReach s m || mdldOutside m || hopOutOfReach s m then some 0x1C2
  else if tileGranulesBad s m src || (!noDst && tileGranulesBad s m dst) || versionGranuleBad s m then some 0x1C3
  else if combineBad m || (m.kind == .copyv && versionAddr m % 64 != 0) then some 0x1C4
  else if chainFails s m then some 0x1C8
  else none

/-! ### Elements of a copy (R163, R363) -/

/-- A BQ destination is written in runs of 16, along rows or, in the B store, along columns. -/
def inRuns (m : Cmd) : Bool := m.kind != .mdld && m.db.isBq
def alongColumn (m : Cmd) : Bool := inRuns m && m.db.space == 2

/-- How many elements a tile has, and the tile row and column of element u in the order of R163. -/
def elementCount (m : Cmd) : Nat := m.vlm * m.vln
def elementPos (m : Cmd) (u : Nat) : Nat × Nat := (u / m.vln, u % m.vln)

/-- Same format and scale: bits are copied unchanged; for BQ only outside the B store (R163). -/
def sameFormat (m : Cmd) : Bool :=
  m.da.fmt == m.db.fmt && m.da.sexp == m.db.sexp && (!m.db.isBq || (m.da.space != 2 && m.db.space != 2))

/-- The run of a BQ destination that an element belongs to is encoded when the element is the last of it in R163's order. -/
def endsRun (m : Cmd) (r c : Nat) : Bool := if alongColumn m then r % 16 == 15 else c % 16 == 15

/-- The bits of the source element at (r, c) of the tile; of a BQ element its block's first 24 bits, with the element's own above
them (R32, R160). -/
def srcBits (e : Eng) (m : Cmd) (r c : Nat) : EngR Nat :=
  let d := m.da
  let r := (srcTile m).r + r
  let c := (srcTile m).c + c
  let sp := srcSpot e.s m
  if d.isBq then
    andThen (engRead e sp (blockAddr d r c) 24) fun e h =>
      andThen (engRead e sp (elemAddr d r c) d.elem) fun e v => .ok e (h % 2 ^ 24 + 2 ^ 24 * v)
  else engRead e sp (elemAddr d r c) d.elem

/-- The value that the destination is to hold for those bits, before its conversion (R163). -/
def srcValue (m : Cmd) (r c bits : Nat) : FV :=
  let i := blockIndex m.da ((srcTile m).r + r) ((srcTile m).c + c)
  let x :=
    if m.da.isBq then bqDecode m.da.bq (bits % 2 ^ 24 + 2 ^ (24 + i * m.da.elem) * (bits / 2 ^ 24)) i
    else cvtValue m.da.scalar bits
  (x.scale m.da.sexp).scale (-m.db.sexp)

/-- A write of the destination at every spot. -/
def writeSpots (e : Eng) (a w v : Nat) : List Spot → EngR Unit
  | [] => .ok e ()
  | sp :: rest => andThen (engWrite e sp a w v) fun e _ => writeSpots e a w v rest

/-- The atomic of a combine (R163). -/
def combineFn (m : Cmd) (y : Nat) : AtomicFn :=
  match m.db.scalar, cmbOf m with
  | .f32, 1 => .amo (.flt .f32 .fadd) y
  | .f32, _ => .amo (.flt .f32 .fmax) y
  | _, 1 => .amo (.int .i32 .add) y
  | _, _ => .amo (.int .i32 .max) y

/-! ### Watermarks (R167) -/

/-- How far [base, base + f) is covered by ranges. -/
def coveredTo (rs : List (Nat × Nat)) : Nat → Nat → Nat
  | 0, p => p
  | n + 1, p => match rs.find? fun x => decide (x.1 ≤ p) && decide (p < x.2) with
    | some x => coveredTo rs n x.2
    | none => p

/-- A channel counts a written range, and FILL advances; what lies below FILL need not be kept. -/
def advanceChannel (x : Channel) (a w : Nat) : Channel :=
  let rs := x.written ++ [(a, a + w)]
  let p := min (coveredTo rs rs.length (x.base + x.fill)) (x.base + x.len)
  { x with fill := p - x.base, written := rs.filter fun r => decide (p < r.2) }

/-- An element a WMARK wrote counts, when its channel has not been rewritten since its issue. -/
def countWatermark (s : State) (m : Cmd) (a w : Nat) : State :=
  if m.kind = .wmark then
    onCore s m.core fun k =>
      let ch := k.wch[channelOf m]
      if ch.gen = m.chGen then { k with wch := k.wch.set (channelOf m) (advanceChannel ch a w) } else k
  else s

/-! ### One element -/

/-- Destination bits written at every spot of the copy, and counted when it is a WMARK. -/
def writeElement (e : Eng) (m : Cmd) (a w v : Nat) : EngR Unit :=
  andThen (writeSpots e a w v (dstSpots e.s m)) fun e _ => .ok { e with s := countWatermark e.s m a w } ()

/-- The values of the run that the element at (r, c) ends, from the source bits the command holds. -/
def runValues (m : Cmd) (r c : Nat) : List FV :=
  (List.range 16).map fun k =>
    if alongColumn m then srcValue m (r - 15 + k) c (m.prog.saved.getD (k * m.vln + c) 0)
    else srcValue m r (c - 15 + k) (m.prog.saved.getD k 0)

/-- Elements i to 15 of a block written, the element that is last at (r, c) of the destination's tile. An element of a row that
does not go on stands before the last. -/
def writeCodes (e : Eng) (m : Cmd) (r c b : Nat) : Nat → EngR Unit
  | 0 => .ok { e with back := 0 } ()
  | n + 1 =>
    let i := 15 - n
    let t := dstTile m
    let (r', c') := if alongColumn m then (r - 15 + i, c) else (r, c - 15 + i)
    andThen (writeElement { e with back := if alongColumn m then 0 else n } m (elemAddr m.db (t.r + r') (t.c + c')) m.db.elem
        (bitsAt b (24 + i * m.db.elem) m.db.elem)) fun e _ =>
      writeCodes e m r c b n

/-- A block written whose last element is at (r, c): its first 24 bits, and its elements in order (R32). -/
def writeBlock (e : Eng) (m : Cmd) (r c b : Nat) : EngR Unit :=
  let t := dstTile m
  andThen (writeElement { e with back := if alongColumn m then 0 else 15 } m (blockAddr m.db (t.r + r) (t.c + c)) 24 (b % 2 ^ 24))
    fun e _ => writeCodes e m r c b 16

/-- The pages that w bits of the destination lie in can be written: what an element of a run is checked for when it is read, since its
bits are written with the run's last (R372). -/
def canWrite (e : Eng) (a w : Nat) : List Spot → EngR Unit
  | [] => .ok e ()
  | .glob :: rest =>
    andThen (engLocate e false true (lineParts 4 a w)) fun e xs =>
      if xs.any fun x => x.1.peer && !portTo e.s x.1.dev then .stop e (.fault 0x341) else canWrite e a w rest
  | _ :: rest => canWrite e a w rest

/-- The element of a run at (r, c) can be written, and with the first of its block the block's own bits. -/
def runCanWrite (e : Eng) (m : Cmd) (r c : Nat) : EngR Unit :=
  let t := dstTile m
  let first := if alongColumn m then r % 16 == 0 else c % 16 == 0
  andThen (if first then canWrite e (blockAddr m.db (t.r + r) (t.c + c)) 24 (dstSpots e.s m) else .ok e ()) fun e _ =>
    canWrite e (elemAddr m.db (t.r + r) (t.c + c)) m.db.elem (dstSpots e.s m)

/-- Element u of a copy: what it reads, converts and writes. The source elements of a run that is encoded as one block are kept
until the last is read: an element that fails leaves the blocks unwritten that it or a later element belongs to (DESIGN CHOICE,
log 79). Each fails at its own place in the order, for its source or its destination (R372). -/
def copyElement (e : Eng) (m : Cmd) (u : Nat) : EngR Cmd :=
  let (r, c) := elementPos m u
  let t := dstTile m
  if m.kind = .mdld then
    andThen (engRead e (srcSpot e.s m) (elemAddr m.da ((srcTile m).r + r) ((srcTile m).c + c)) m.da.elem) fun e v =>
      let s := onCore e.s m.core fun k =>
        { k with side := k.side.setBits (m.opb % 2 ^ 16 + u * m.da.elem) m.da.elem v }
      .ok { e with s := s } m
  else
    andThen (srcBits e m r c) fun e b =>
      let a := elemAddr m.db (t.r + r) (t.c + c)
      if inRuns m && sameFormat m then
        andThen (if c % 16 = 0 then writeElement e m (blockAddr m.db (t.r + r) (t.c + c)) 24 (b % 2 ^ 24) else .ok e ()) fun e _ =>
          andThen (writeElement e m a m.db.elem (b / 2 ^ 24)) fun e _ => .ok e m
      else if inRuns m then
        let m := { m with prog := { m.prog with saved := m.prog.saved ++ [b] } }
        andThen (runCanWrite e m r c) fun e _ =>
        if endsRun m r c then
          andThen (writeBlock e m r c (bqEncode m.db.bq m.prop (runValues m r c))) fun e _ =>
            .ok e (if alongColumn m && c + 1 < m.vln then m else { m with prog := { m.prog with saved := [] } })
        else .ok e m
      else
        let y := if sameFormat m then b else (cvtEncode m.db.scalar .rne m.prop 0 (srcValue m r c b)).1
        if cmbOf m = 0 then andThen (writeElement e m a m.db.elem y) fun e _ => .ok e m
        else andThen (engAtomic e ((dstSpots e.s m).headD .glob) a 32 (combineFn m y)) fun e _ => .ok e m

/-! ### Steps (R269) -/

/-- The lines of some bits. -/
def spanLines (a w : Nat) : List Nat := [a / 512, (a + w - 1) / 512]
def addLines (ls new : List Nat) : List Nat := new.foldl (fun ls x => if ls.contains x then ls else x :: ls) ls

/-- The lines of its source and of its destination that a step has moved with element u. -/
def linesMoved (moved : List Nat × List Nat) (m : Cmd) (u : Nat) : List Nat × List Nat :=
  let (r, c) := elementPos m u
  let src := srcTile m
  let dst := dstTile m
  let blk := fun (d : TDesc) r c => if d.isBq then spanLines (blockAddr d r c) 24 else []
  let el := fun (d : TDesc) r c => blk d r c ++ spanLines (elemAddr d r c) d.elem
  let written :=
    if m.kind = .mdld then []
    else if inRuns m && !sameFormat m then
      (if endsRun m r c then spanLines (blockAddr m.db (dst.r + r) (dst.c + c)) (bqBlock m.db.bq) else [])
    else el m.db (dst.r + r) (dst.c + c)
  (addLines moved.1 (el m.da (src.r + r) (src.c + c)), addLines moved.2 written)

/-- A step moves at most 64 lines, in and out. -/
def stepFull (moved : List Nat × List Nat) : Bool := decide (64 < moved.1.length) || decide (64 < moved.2.length)

/-- Elements on, until the step has moved its lines, the tile is done, or an element stops; a forwarding chain runs all its steps
together. `err` names the element of this step that meets an uncorrectable soft error in what it reads; `late` leaves its writes
under way, but for those of a WMARK, which its FILL covers (R167, R249). -/
def copyElements (err : Option Nat) (late : Bool) : Nat → State → Cmd → Nat → List Nat × List Nat → State
  | 0, s, m, _, _ => setCmd s m
  | n + 1, s, m, done, moved =>
    let u := m.prog.element
    let moved := linesMoved moved m u
    if elementCount m ≤ u || (!isFwd m && stepFull moved) then setCmd s m
    else if err = some done then let (r, c) := elementPos m u; endCmd s m (some (0x1C7, r, c))
    else match copyElement { s := s, cmd := m, ans := m.prog.answers, late := late && m.kind != .wmark } m u with
      | .stop e y => let (r, c) := elementPos m u; stopCmd e.s m r (c - e.back) y
      | .ok e m =>
        copyElements err late n e.s { m with prog := { m.prog with element := u + 1, answers := [] } } (done + 1) moved

/-- The compare of a COPYV: version := gC + 1 when it holds gC (R166). -/
def copyCompare (s : State) (m : Cmd) : State × Option Cmd :=
  let sp := (dstSpots s m).headD .glob
  match engAtomic { s := s, cmd := m, ans := m.prog.answers } sp (versionAddr m) 64 (.cas (.i .n64) m.opc (wrapTo 64 (m.opc + 1))) with
  | .stop e y => (stopCmd e.s m 0 0 y, none)
  | .ok e old =>
    if old = m.opc then (e.s, some { m with prog := { m.prog with compared := true, answers := [] } })
    else (setCmd e.s { m with prog := { m.prog with ended := true, failed := true } }, none)

/-- The last write of a COPYV: version := gC + 2, after every element write has been performed (R166, R249). -/
def copyCommit (s : State) (m : Cmd) : State :=
  let s := performCopies s fun y _ => y.core == m.core && y.id == m.id
  let sp := (dstSpots s m).headD .glob
  match engWrite { s := s, cmd := m, ans := m.prog.answers } sp (versionAddr m) 64 (wrapTo 64 (m.opc + 2)) with
  | .stop e y => stopCmd e.s m 0 0 y
  | .ok e _ => endCmd e.s m none

/-- The end of a step: a command whose tile is done ends, a COPYV after its commit. -/
def copyEnds (s : State) (c id : Nat) : State :=
  match findCmd s c false id with
  | none => s
  | some m =>
    if m.prog.ended || m.stalled || m.prog.asked.isSome || decide (m.prog.element < elementCount m) then s
    else if m.kind = .copyv then copyCommit s m
    else endCmd s m none

/-- A command's first step makes the checks of R372's first stage; an empty tile that passes them is done (R163). -/
def copyStart (s : State) (m : Cmd) : State × Option Cmd :=
  let m := { m with prog := { m.prog with started := true } }
  match copyFault s m with
  | some code => (endCmd s m (some (code, 0, 0)), none)
  | none =>
    if (srcTile m).empty && m.kind != .copyv then (endCmd s m none, none)
    else (s, some { m with prog := { m.prog with reserveFrom := some s.now } })

/-- A COPYV whose compare is still to be made. -/
def toCompare (m : Cmd) : Bool := m.kind == .copyv && !m.prog.compared

/-- One step of a command that has passed its checks. Of a COPYV's first step, value 0 that can meet a soft error is its version
word; such an error names no element, and FROW and FCOL are 0 (DESIGN CHOICE, log 79). -/
def copyGoes (s : State) (m : Cmd) (err : Option Nat) (late : Bool) : State :=
  if isFwd m && !m.prog.reserved then setCmd s m
  else if toCompare m then
    if err = some 0 then endCmd s m (some (0x1C7, 0, 0))
    else match copyCompare s m with
      | (s, none) => s
      | (s, some m) => copyEnds (copyElements (err.map (· - 1)) late (elementCount m + 1) s m 0 ([], [])) m.core m.id
  else copyEnds (copyElements err late (elementCount m + 1) s m 0 ([], [])) m.core m.id

/-- The access that a command waits with is made: its compare, its present element, or its commit (R316). -/
def copyAccess (s : State) (m : Cmd) : State :=
  if toCompare m then
    match copyCompare s m with
    | (s, none) => s
    | (s, some m) => setCmd s m
  else if m.prog.element < elementCount m then copyElements none false 1 s m 0 ([], [])
  else copyEnds (setCmd s m) m.core m.id

/-- Whether a command can take a step now: it runs, has not ended, and waits for nothing. -/
def cmdGoes (m : Cmd) : Bool := m.st == .running && !m.prog.ended && !m.stalled && m.prog.asked.isNone

/-- A command has run a step: it waits, and its priority is its base, from now (R270). -/
def stepEnds (s : State) (m : Cmd) : Cmd := { m with readyAt := s.now, aged := m.pri, agedAt := s.now }

/-- A step boundary: the unit chooses anew, unless the command has ended or waits for its reservations (R165, R270). -/
def copyBoundary (s : State) (cl c id : Nat) : State :=
  match findCmd s c false id with
  | some m => if m.prog.ended || (isFwd m && !m.prog.reserved && !m.stalled) then s
              else onCluster (setCmd s (stepEnds s m)) cl fun x => { x with runCopy := none }
  | none => s

/-- COPY_STEP (R249, R269). -/
def execCopyStep (cl : Nat) (turn : CopyTurn) (s : State) : Host.Outcome State Fault Refusal :=
  ifDue s (match (getCluster s cl).runCopy with
    | none => none
    | some (c, id) => match findCmd s c false id with
      | none => none
      | some m =>
        if !cmdGoes m then none
        else if m.prog.started then some (copyBoundary (copyGoes s m turn.softErr turn.late) cl c id)
        else match copyStart s m with
          | (s, some m) => some (copyBoundary (copyGoes s m turn.softErr turn.late) cl c id)
          | (s, none) => some s)

/-- How an ended command completes. -/
def copyEndOf (m : Cmd) : CopyEnd :=
  match m.prog.fault with
  | some (code, row, col) => .fault code row col
  | none => if m.prog.failed then .compareFailed else .done

/-- The first copy-unit command of a cluster whose last step has ended. -/
def endedCopy (s : State) (cl : Nat) : Option Cmd :=
  (coresOf cl).findSome? fun c => (getCore s c).q1.find? fun m => m.prog.ended

/-- COPY_COMPLETE: a command that has ended completes (R170, R281). -/
def execCopyComplete (cl : Nat) (s : State) : Host.Outcome State Fault Refusal :=
  ifDue s ((endedCopy s cl).map fun m => completeCopy s m (copyEndOf m))

/-- FORWARD_RESERVATION: the buffers of every hop are reserved, within 2,048 ticks (R165). -/
def execForwardReservation (cl : Nat) (s : State) : Host.Outcome State Fault Refusal :=
  ifDue s (match (getCluster s cl).runCopy with
    | none => none
    | some (c, id) => match findCmd s c false id with
      | none => none
      | some m =>
        if cmdGoes m && isFwd m && m.prog.started && !m.prog.reserved
            && decide (s.now ≤ m.prog.reserveFrom.getD s.now + 2048) then
          some (setCmd s { m with prog := { m.prog with reserved := true } })
        else none)

/-- FORWARD_RESERVATION_TIMEOUT: after 2,048 ticks the copy faults with 0x1C8, and no pool is written (R165). -/
def execForwardReservationTimeout (cl : Nat) (s : State) : Host.Outcome State Fault Refusal :=
  ifDue s (match (getCluster s cl).runCopy with
    | none => none
    | some (c, id) => match findCmd s c false id with
      | none => none
      | some m =>
        if cmdGoes m && isFwd m && m.prog.started && !m.prog.reserved
            && decide (m.prog.reserveFrom.getD s.now + 2048 ≤ s.now) then
          some (endCmd s m (some (0x1C8, 0, 0)))
        else none)

end Sys2Proof.Machine
end

