-- ==== Sys2Proof/Machine/Matrix.lean ====
section
/-! DEFINITION. The matrix engine: steps of a job, its record, remote jobs and their capabilities (02 R36, R37; 08 R172 to
R178, R372; 14 R269; 16 R281). -/

namespace Sys2Proof.Machine

/-! ### What a job names -/

def isCvtJob (m : Cmd) : Bool := m.kind == .cvt
def zeroFirst (m : Cmd) : Bool := bitsAt m.xo 0 1 == 1
def isSparse (m : Cmd) : Bool := bitsAt m.xo 1 1 == 1
/-- The energy class ec= (R157). -/
def energyClass (m : Cmd) : Nat := bitsAt m.xo 3 2
/-- The promotion interval P. -/
def promotion (m : Cmd) : Nat := bitsAt m.m 3 6 + 1
def headerOf (m : Cmd) : Nat := bitsAt m.m 0 3

/-- The cluster whose engine runs a job, and the core whose pool and header it uses (R173, R175, R177). -/
def jobCluster (m : Cmd) : Nat :=
  match m.remote with
  | .no => clusterOf m.core
  | .onWay cl _ | .waiting cl _ | .placed cl _ => cl
def jobCore (s : State) (m : Cmd) : Option Nat :=
  if m.remote = .no then some m.core else physicalOf s (tagOf s m.core) m.da.core
def jobPool (s : State) (m : Cmd) : Nat := (jobCore s m).getD m.core

/-- The stored columns of A: half of nk under sp=1 (R174). -/
def aCols (m : Cmd) : Nat := if isSparse m then m.vlk / 2 else m.vlk
def aTile (m : Cmd) : Tile := ⟨m.da, originRow m.opa, originCol m.opa, m.vlm, aCols m⟩
def bTile (m : Cmd) : Tile := ⟨m.db, originRow m.opb, originCol m.opb, m.vlk, m.vln⟩
/-- The destination of a cvt job. -/
def cvtTile (m : Cmd) : Tile := ⟨m.db, originRow m.opb, originCol m.opb, m.vlm, m.vln⟩

/-- The group size of a format's class; none for a format no matrix job takes (R173). -/
def groupClass (fmt : Nat) : Option Nat :=
  if fmt = 1 ∨ fmt = 2 then some 4
  else if (3 ≤ fmt ∧ fmt ≤ 7) ∨ (16 ≤ fmt ∧ fmt ≤ 18) then some 16
  else none
/-- The group size of a job's A format. R173 gives none for a format outside both classes, which faults with 0x1C4: there the
shape check, which comes first, takes 16 (DESIGN CHOICE, log 79). -/
def groupSize (m : Cmd) : Nat := (groupClass m.da.fmt).getD 16
def groupCount (m : Cmd) : Nat := m.vlk / groupSize m

/-- Address of an element of the accumulator tile (R172). -/
def tileAddr (m : Cmd) (i j : Nat) : Nat := (m.opc + 32 * (i * m.vln + j)) % 2 ^ 64

/-! ### The first stage of checks (R372) -/

/-- The tile lies outside its tensor. -/
def outsideTensor (t : Tile) : Bool :=
  !t.empty && (decide (t.d.rows < t.r + t.nr) || decide (t.d.cols < t.c + t.nc))

/-- 0x1C1 of a mac job (R173, R174) and of a cvt job (R175). -/
def macShapeBad (m : Cmd) : Bool :=
  decide (128 < m.vln) || m.vlk % groupSize m != 0
    || (m.da.isBq && (aTile m).c % 16 != 0) || (m.db.isBq && (bTile m).r % 16 != 0)
    || outsideTensor (aTile m) || outsideTensor (bTile m)
def cvtShapeBad (m : Cmd) : Bool :=
  outsideTensor (cvtTile m) || (m.db.isBq && ((cvtTile m).c % 16 != 0 || m.vln % 16 != 0))

/-- The core of a remote job is not one of the target cluster. -/
def jobCoreBad (s : State) (m : Cmd) : Bool :=
  match jobCore s m with
  | some c => clusterOf c != jobCluster m
  | none => true

/-- The accumulator tile is misplaced (R49, R172). -/
def tileMisplaced (s : State) (m : Cmd) : Bool :=
  let p := (getCore s (jobPool s m)).pword.toNat
  m.opc % 32 != 0 || decide (m.opc < (bitsAt p 0 6 + bitsAt p 8 6) * 2 ^ 15) || decide (2 ^ 20 < m.opc + 32 * m.vlm * m.vln)

/-- The first check that fails, in the order of R372. A job of no rows or no columns does nothing, and makes no check after that of
0x1C0 (DESIGN CHOICE, log 45). -/
def matrixFault (s : State) (m : Cmd) : Option Nat :=
  let cvt := isCvtJob m
  let k := getCore s (jobPool s m)
  let badSpace := !m.db.valid || m.db.fmt > 18 || (if cvt then m.db.space != 1 else !m.da.valid || m.da.space != 1 || m.db.space != 2)
  if badSpace then some 0x1C0
  else if m.vlm = 0 ∨ m.vln = 0 then none
  else if (if cvt then cvtShapeBad m else macShapeBad m) then some 0x1C1
  else if jobCoreBad s m
      || (if cvt then poolTileBad k (cvtTile m) else poolTileBad k (aTile m) || storeTileBad (bTile m)) then some 0x1C2
  else if !cvt && !(bTile m).empty
      && granulesBad s (jobCluster m) (tagOf s m.core) (sliceLo (bTile m)) (sliceHi (bTile m)) then some 0x1C3
  else if !cvt && ((groupClass m.da.fmt).isNone || groupClass m.da.fmt != groupClass m.db.fmt) then some 0x1C4
  else if tileMisplaced s m then some 0x1CA
  else none

/-! ### Operands (R173, R174) -/

/-- Element (r, c) of a tensor in a memory, scaled by 2^SEXP. -/
def tensorValue (mem : Memory) (d : TDesc) (r c : Nat) : FV :=
  (if d.isBq then bqDecode d.bq (mem.bits (blockAddr d r c) (bqBlock d.bq)) (blockIndex d r c)
   else cvtValue d.scalar (mem.bits (elemAddr d r c) d.scalar.width)).scale d.sexp

/-- Elements of A as stored, and of B. -/
def aValue (s : State) (m : Cmd) (i k : Nat) : FV :=
  tensorValue (getCore s (jobPool s m)).pool m.da ((aTile m).r + i) ((aTile m).c + k)
def bValue (s : State) (m : Cmd) (k j : Nat) : FV :=
  tensorValue (getCluster s (jobCluster m)).bstore m.db ((bTile m).r + k) ((bTile m).c + j)

/-- Side-memory address of the metadata of row i and four-wide group q (R174). -/
def metaAddr (m : Cmd) (i q : Nat) : Nat := bitsAt m.opa 32 16 + 4 * (i * (m.vlk / 4) + q)
/-- The metadata code, in the issuing core's side memory: no rule gives a remote job another (R174, R177; log 22). -/
def metaCode (s : State) (m : Cmd) (i q : Nat) : Nat := (getCore s m.core).side.bits (metaAddr m i q) 4
def metaBad (s : State) (m : Cmd) (i q : Nat) : Bool :=
  decide (2 ^ 16 < metaAddr m i q + 4) || decide (bitsAt (metaCode s m i q) 2 2 ≤ bitsAt (metaCode s m i q) 0 2)

/-- The pairs of one summation group of an output element (R36, R173, R174). -/
def groupPairs (s : State) (m : Cmd) (i j g : Nat) : List (FV × FV) :=
  let gs := groupSize m
  if isSparse m then
    (List.range (gs / 4)).flatMap fun x =>
      let q := g * (gs / 4) + x
      let code := metaCode s m i q
      [(aValue s m i (2 * q), bValue s m (4 * q + bitsAt code 0 2) j),
       (aValue s m i (2 * q + 1), bValue s m (4 * q + bitsAt code 2 2) j)]
  else (List.range gs).map fun x => (aValue s m i (g * gs + x), bValue s m (g * gs + x) j)

/-- n groups of an output element from group g, ending with a promotion. -/
def runGroups (s : State) (m : Cmd) (i j g n acc : Nat) : AccSt :=
  accGroups (promotion m) ⟨acc, .fin false 0 0, 0, 0, 0⟩ ((List.range n).map fun x => groupPairs s m i j (g + x))

/-! ### Steps (R269) -/

/-- The rows of a step's block. -/
def blockRows (m : Cmd) : List Nat := (List.range 128).filterMap fun i =>
  let r := 128 * m.prog.rowBlock + i
  if r < m.vlm then some r else none
/-- The groups of a step. -/
def stepGroups (m : Cmd) : Nat := min (promotion m) (groupCount m - m.prog.group)

/-- What a job leaves in a tile element when it stops on a fault: one of the values R372 allows, freely (log 9). `done` is
the value the job completes for it, if it can. -/
def leftValue (s : State) (m : Cmd) (i j : Nat) (done : Option Nat) : Nat :=
  let before := m.prog.saved.getD (i * m.vln + j) 0
  match Config.faultedElement s.draw i j, done with
  | 0, _ => before
  | 1, _ => if zeroFirst m then 0 else before
  | _, some v => v
  | _, none => before

/-- A mac job stops on a fault that keeps some elements from completing (R372). -/
def stopMac (s : State) (m : Cmd) (code row col : Nat) (hit : Nat → Nat → Bool) : State :=
  let p := jobPool s m
  let cells := (List.range m.vlm).flatMap fun i => (List.range m.vln).map fun j => (i, j)
  let s' := cells.foldl
    (fun s' e =>
      let start := if zeroFirst m then 0 else m.prog.saved.getD (e.1 * m.vln + e.2) 0
      let done := if hit e.1 e.2 then none else some (runGroups s m e.1 e.2 0 (groupCount m) start).acc
      poolWrite s' p (tileAddr m e.1 e.2) 32 (leftValue s m e.1 e.2 done)) s
  endCmd s' m (some (code, row, col))

/-- The sticky counts of a step go to the job's header (R37). -/
def countHeader (s : State) (m : Cmd) (nans ovfs : Nat) : State :=
  onCore s (jobPool s m) fun k =>
    let h := headerOf m % 8
    { k with th := k.th.set h (BitVec.ofNat 32 (stickyAdd (k.th.toList.getD h 0).toNat nans ovfs)) (by omega) }

/-- The progress after a step: the next groups of the block, or the next block, or the end. -/
def macProgress (m : Cmd) : Cmd :=
  let g := m.prog.group + stepGroups m
  if g < groupCount m then { m with prog := { m.prog with group := g } }
  else if 128 * (m.prog.rowBlock + 1) < m.vlm then
    { m with prog := { m.prog with group := 0, rowBlock := m.prog.rowBlock + 1 } }
  else { m with prog := { m.prog with ended := true } }

/-- The first row and group of a step whose metadata is invalid (R174). -/
def stepMetaBad (s : State) (m : Cmd) : Option (Nat × Nat) :=
  if !isSparse m then none
  else
    let q := groupSize m / 4
    (blockRows m).findSome? fun i =>
      ((List.range (stepGroups m * q)).find? fun x => metaBad s m i (m.prog.group * q + x)).map fun x =>
        (i, m.prog.group * q + x)

/-- One promotion interval of a mac job for up to 128 rows; `err` names the output element, by row-major number, whose
operands met an uncorrectable soft error. -/
def macStep (s : State) (m : Cmd) (err : Option Nat) : State :=
  match stepMetaBad s m with
  | some (i, q) =>
    let bad := fun i => (List.range (m.vlk / 4)).any fun q => metaBad s m i q
    stopMac s m 0x1C9 i (4 * q) fun i _ => bad i
  | none =>
    match err with
    | some e => stopMac s m 0x1C7 (e / m.vln) (e % m.vln) fun i j => i * m.vln + j == e
    | none =>
      let p := jobPool s m
      let cells := (blockRows m).flatMap fun i => (List.range m.vln).map fun j => (i, j)
      let runs := cells.map fun e =>
        (e, runGroups s m e.1 e.2 m.prog.group (stepGroups m) (poolRead s p (tileAddr m e.1 e.2) 32))
      let s' := runs.foldl (fun s' r => poolWrite s' p (tileAddr m r.1.1 r.1.2) 32 r.2.acc) s
      let s' := countHeader s' m (runs.foldl (fun n r => n + r.2.nans) 0) (runs.foldl (fun n r => n + r.2.ovfs) 0)
      setCmd s' (macProgress m)

/-- The tile elements of a row that a cvt job converts, scaled by 2^-SEXP (R175). -/
def cvtRow (s : State) (m : Cmd) (i : Nat) : List FV :=
  (List.range m.vln).map fun j => (decodeF .f32 (poolRead s (jobPool s m) (tileAddr m i j) 32)).scale (-m.db.sexp)

/-- One row of a cvt job written: the state and its overflow count. -/
def cvtWriteRow (s : State) (m : Cmd) (i : Nat) : State × Nat :=
  let t := cvtTile m
  let xs := cvtRow s m i
  let p := jobPool s m
  if m.db.isBq then
    ((List.range (m.vln / 16)).foldl
      (fun s b => poolWrite s p (blockAddr m.db (t.r + i) (t.c + 16 * b)) (bqBlock m.db.bq)
        (bqEncode m.db.bq m.prop ((xs.drop (16 * b)).take 16))) s, 0)
  else
    (List.range m.vln).foldl
      (fun e j =>
        let y := cvtEncode m.db.scalar .rne m.prop 0 (xs.getD j (.fin false 0 0))
        (poolWrite e.1 p (elemAddr m.db (t.r + i) (t.c + j)) m.db.scalar.width y.1, e.2 + y.2.toNat)) (s, 0)

/-- Up to 128 rows of a cvt job (R175, R269). -/
def cvtStep (s : State) (m : Cmd) (err : Option Nat) : State :=
  match err with
  | some e => endCmd s m (some (0x1C7, e / m.vln, e % m.vln))
  | none =>
    let (s, n) := (blockRows m).foldl (fun e i => let y := cvtWriteRow e.1 m i; (y.1, e.2 + y.2)) (s, 0)
    let s := countHeader s m 0 n
    if 128 * (m.prog.rowBlock + 1) < m.vlm then setCmd s { m with prog := { m.prog with rowBlock := m.prog.rowBlock + 1 } }
    else endCmd s m none

/-- A job's first step: the checks, the tile as it is found, and zi (R173, R372). -/
def matrixStart (s : State) (m : Cmd) : State × Option Cmd :=
  let m := { m with prog := { m.prog with started := true } }
  match matrixFault s m with
  | some code => (endCmd s m (some (code, 0, 0)), none)
  | none =>
    if m.vlm = 0 ∨ m.vln = 0 then (endCmd s m none, none)
    else if isCvtJob m then (s, some m)
    else
      let p := jobPool s m
      let cells := (List.range m.vlm).flatMap fun i => (List.range m.vln).map fun j => (i, j)
      let m := { m with prog := { m.prog with saved := cells.map fun e => poolRead s p (tileAddr m e.1 e.2) 32 } }
      let s := if zeroFirst m then cells.foldl (fun s e => poolWrite s p (tileAddr m e.1 e.2) 32 0) s else s
      if m.vlk = 0 then (endCmd s m none, none) else (s, some m)

/-- An error names an element that the step computes. -/
def stepError (m : Cmd) (err : Option Nat) : Option Nat :=
  err.bind fun e => if (blockRows m).contains (e / m.vln) then some e else none

/-- A job has run a step: it waits from now, with its base priority (R270). -/
def jobStepEnds (s : State) (c id : Nat) : State :=
  match findCmd s c true id with
  | some m => setCmd s (stepEnds s m)
  | none => s

/-- MATRIX_STEP: the chosen job runs one step, and the engine stands at a step boundary (R269, R270). -/
def execMatrixStep (cl : Nat) (softErr : Option Nat) (s : State) : Host.Outcome State Fault Refusal :=
  ifDue s (match (getCluster s cl).runMat with
    | none => none
    | some (c, id) => match findCmd s c true id with
      | none => none
      | some m =>
        if !cmdGoes m then none
        else
          let s := onCluster s cl fun x => { x with runMat := none }
          let go := fun s m => if isCvtJob m then cvtStep s m (stepError m softErr) else macStep s m (stepError m softErr)
          if m.prog.started then some (jobStepEnds (go s m) c id)
          else match matrixStart s m with
            | (s, some m) => some (jobStepEnds (go s m) c id)
            | (s, none) => some s)

/-! ### Records (R176, R281) -/

/-- The record of a job (R176). -/
def recordWord (m : Cmd) (hdr st : Nat) : Nat := m.id % 2 ^ 16 * 2 ^ 48 + hdr % 2 ^ 32 * 2 ^ 16 + st % 4

/-- MCLRs whose earlier jobs have all completed set their headers to 0 and return (R178). -/
def wakeMclr (s : State) (c : Nat) : State :=
  (List.range 8).foldl
    (fun s l => match (getStrand s c l).status with
      | .asleep (.mclr hdr jobs) =>
        if jobs.any fun j => (jobsNaming (getCore s c) hdr).contains j then s
        else finish (onCore s c fun k => clearHeader k hdr) c l .none 0
      | _ => s) s

/-- A record enters the result side and its job's place is free; the record of a strand that has exited is discarded
(R176). -/
def enterRecord (s : State) (c : Nat) (r : Result) : State :=
  let s := onCore s c fun k => { k with q0 := k.q0.filter fun m => m.id != r.job }
  if sidAlive s r.sid then onCore s c fun k => { k with res := k.res ++ [r] } else s

/-- A job completes with a record: it enters, or waits in DONE behind those that wait already (R176, R281). -/
def completeJob (s : State) (m : Cmd) (word : Nat) : State :=
  let c := m.core
  let r : Result := ⟨m.sid, m.id, word⟩
  let s := onCluster s (jobCluster m) fun x =>
    { x with remotePlaces := x.remotePlaces.filter (· != (c, m.id)), remoteQ := x.remoteQ.filter (· != (c, m.id))
             runMat := if x.runMat = some (c, m.id) then none else x.runMat }
  let s := onCore s c fun k => { k with burst := k.burst.map fun b => { b with idleSince := s.now } }
  let s :=
    if (getCore s c).res.length < 4 && (getCore s c).doneQ.isEmpty then enterRecord s c r
    else onCore (setCmd s { m with st := .done }) c fun k => { k with doneQ := k.doneQ ++ [r] }
  wakeMclr s c

/-- The header a record carries. -/
def headerNow (s : State) (m : Cmd) : Nat := ((getCore s (jobPool s m)).th.toList.getD (headerOf m) 0).toNat

/-- The first job of an engine whose last step has ended. -/
def endedJob (s : State) (cl : Nat) : Option Cmd :=
  let own := (coresOf cl).findSome? fun c =>
    (getCore s c).q0.find? fun m => m.prog.ended && m.st != .done && m.remote == .no
  match own with
  | some m => some m
  | none => (getCluster s cl).remotePlaces.findSome? fun e =>
      (findCmd s e.1 true e.2).bind fun m => if m.prog.ended && m.st != .done then some m else none

/-- MATRIX_JOB_COMPLETE (R176, R181). -/
def execMatrixJobComplete (cl : Nat) (s : State) : Host.Outcome State Fault Refusal :=
  ifDue s ((endedJob s cl).map fun m =>
    let s := match m.prog.fault with
      | some (code, row, col) => raiseDelayed s (cmdPending m cl code row col) m.node
      | none => s
    completeJob s m (recordWord m (headerNow s m) 0))

/-- RESULT_RECORD_ENTER (R281). -/
def execResultRecordEnter (c : Nat) (s : State) : Host.Outcome State Fault Refusal :=
  ifDue s (match (getCore s c).doneQ with
    | r :: rest =>
      if (getCore s c).res.length < 4 then some (enterRecord (onCore s c fun k => { k with doneQ := rest }) c r) else none
    | [] => none)

/-! ### Remote jobs (R177) -/

/-- CHK of a capability: bits [31:0] of the CMAC of its upper half, the tag read with its first byte lowest (log 23). -/
def capCheck (key : BitVec 256) (cap : Nat) : Nat :=
  ofLeBytes (cmacShort (leBytes 32 key.toNat) (leBytes 4 (cap / 2 ^ 32 % 2 ^ 32))) % 2 ^ 32

/-- The capability of a job holds at an engine. -/
def capOk (s : State) (m : Cmd) (cl cap : Nat) : Bool :=
  let x := getCluster s cl
  bitsAt cap 55 9 == cl && bitsAt cap 49 6 == tagOf s m.core && bitsAt cap 48 1 == 0
    && (if isCvtJob m then bitsAt cap 46 1 == 1 else bitsAt cap 45 1 == 1) && (!isSparse m || bitsAt cap 47 1 == 1)
    && bitsAt cap 32 13 == x.epoch && bitsAt cap 0 32 == capCheck x.capKey cap

/-- MJOBR_ARRIVAL: the job in place j of a core's q0 reaches its engine; a failing capability returns its record at once
(R177). -/
def execMjobrArrival (c j : Nat) (s : State) : Host.Outcome State Fault Refusal :=
  ifDue s (((getCore s c).q0[j]?).bind fun m => match m.remote with
    | .onWay cl cap =>
      if capOk s m cl cap then
        some (onCluster (setCmd s { m with remote := .waiting cl cap }) cl fun x => { x with remoteQ := x.remoteQ ++ [(c, m.id)] })
      else some (completeJob s { m with prog := { m.prog with ended := true } } (recordWord m 0 1))
    | _ => none)

/-- REMOTE_PLACE_GRANT: in order of arrival; the job is ready from now (R177). -/
def execRemotePlaceGrant (cl : Nat) (s : State) : Host.Outcome State Fault Refusal :=
  ifDue s (match (getCluster s cl).remoteQ with
    | (c, id) :: rest =>
      if (getCluster s cl).remotePlaces.length < 8 then
        let s := onCluster s cl fun x => { x with remoteQ := rest, remotePlaces := x.remotePlaces ++ [(c, id)] }
        (findCmd s c true id).bind fun m => match m.remote with
          | .waiting t cap => some (setCmd s { m with remote := .placed t cap, ready := true, readyAt := s.now, aged := m.pri,
                                                      agedAt := s.now })
          | _ => none
      else none
    | [] => none)

end Sys2Proof.Machine
end

