-- ==== Sys2Proof/Machine/Sched.lean ====
section
/-! DEFINITION. The engine schedulers: which command runs the next step, aging, the budget check, bursts and ramps
(08 R168, R179; 14 R269 to R271; 16 R281 to R283; 22 R351, R352, R354). -/

namespace Sys2Proof.Machine

/-! ### Candidates (R168, R269, R283) -/

/-- A command that has not ended and waits for nothing. -/
def cmdFree (m : Cmd) : Bool := !m.prog.ended && !m.stalled && m.prog.asked.isNone

/-- A command that has not started under a cancelled node: it is to complete with no writes (R279). -/
def toDrop (s : State) (m : Cmd) : Bool := !m.kind.matrix && m.st == .held && nodeCancelled s (tagOf s m.core) m.node

/-- The place of a schedule entry among all the entries of all passes. -/
def entryOrder (s : State) (m : Cmd) : Option Nat :=
  m.entry.map fun e => (e.2 - 1) * (getCore s m.core).sched.slots.length + e.1

/-- A schedule entry whose predecessor has not started (R168). One that restarts after a pre-emption has started (R281). -/
def entryWaits (s : State) (m : Cmd) : Bool :=
  match entryOrder s m with
  | none => false
  | some n => m.st == .held && !toDrop s m && decide ((getCore s m.core).sched.started < n)

/-- A schedule entry that would start. -/
def startsEntry (s : State) (m : Cmd) : Bool :=
  m.st == .held && !toDrop s m && entryOrder s m == some (getCore s m.core).sched.started

/-- The ready commands of a cluster's copy unit or matrix engine. -/
def readyCmds (s : State) (cl : Nat) (mat : Bool) : List Cmd :=
  let own := (coresOf cl).flatMap fun c =>
    if mat then (getCore s c).q0.filter fun m => m.remote == .no else (getCore s c).q1
  let far := if mat then (getCluster s cl).remotePlaces.filterMap fun e => findCmd s e.1 true e.2 else []
  (own ++ far).filter fun m =>
    cmdFree m && (m.st == .running || (m.st == .held && m.ready)) && !entryWaits s m

/-- The aged priority at a decision: an aging step of the same tick has been applied (R270). -/
def agedPriority (now : Nat) (m : Cmd) : Nat := min 7 (m.aged + (now - m.agedAt) / 65536)

/-- A command has run no step since it reached its aged priority (R270). -/
def isFresh (now : Nat) (m : Cmd) : Bool := m.st == .held || decide (m.pri < agedPriority now m)

/-- The order of R270: aged priority, fresh commands, the longest wait, the lower core within its cluster, the lower job
identifier. -/
def runsBefore (now : Nat) (a b : Cmd) : Bool :=
  let pa := agedPriority now a
  let pb := agedPriority now b
  if pa ≠ pb then decide (pb < pa)
  else if isFresh now a ≠ isFresh now b then isFresh now a
  else if a.readyAt ≠ b.readyAt then decide (a.readyAt < b.readyAt)
  else if inCluster a.core ≠ inCluster b.core then decide (inCluster a.core < inCluster b.core)
  else decide (jobId a < jobId b)

/-- The commands in that order. -/
def inOrder (s : State) (cl : Nat) (mat : Bool) : List Cmd :=
  (readyCmds s cl mat).mergeSort fun a b => !runsBefore s.now b a

/-! ### The budget check (R271) -/

/-- E(ec) in milliwatts. -/
def classPower : Nat → Nat
  | 0 => 500 | 1 => 1200 | 2 => 2000 | _ => 2600

def ramped (o : Option Nat) : Nat := match o with | some ec => classPower ec | none => 0

/-- The ramps of a die's engines that are charged. -/
def dieCharged (s : State) (die : Nat) : Nat :=
  (List.range 128).foldl (fun n i => n + ramped (getCluster s (die * 128 + i)).rampClass) 0

/-- The job belongs to a declared burst of its core. -/
def inBurst (s : State) (m : Cmd) : Bool := (getCore s m.core).burst.isSome

/-- The ramp power of a job at an engine. -/
def rampPower (s : State) (cl : Nat) (m : Cmd) : Nat :=
  if inBurst s m then 0 else classPower (energyClass m) - ramped (getCluster s cl).rampClass

/-- The ramps that a die's headroom is kept for: those of the jobs that have been reserved theirs (R271). -/
def dieReserved (s : State) (die : Nat) : Nat :=
  (List.range 128).foldl
    (fun n i =>
      ((readyCmds s (die * 128 + i) true).filter fun m => m.prog.reserved).foldl (fun n m => n + rampPower s (die * 128 + i) m) n) 0

/-- The job passes, or has been reserved its ramp. -/
def budgetPasses (s : State) (cl : Nat) (m : Cmd) : Bool :=
  let die := cl / 128
  m.prog.reserved || rampPower s cl m == 0
    || decide (dieCharged s die + dieReserved s die + rampPower s cl m ≤ (getDie s die).grant)

/-- The first job that passes: the chosen one, else the first of a lower class (R270 step 3). -/
def budgetChoice (s : State) (cl : Nat) (ms : List Cmd) : Option Cmd :=
  match ms with
  | [] => none
  | m :: rest =>
    if budgetPasses s cl m then some m
    else rest.find? fun x => decide (energyClass x < energyClass m) && budgetPasses s cl x

/-- The jobs that a decision checks and that fail: the first in the order, and those of a lower class up to the one that passes. -/
def budgetFails (s : State) (cl : Nat) (ms : List Cmd) : List Cmd :=
  match ms with
  | [] => []
  | m :: rest =>
    if budgetPasses s cl m then []
    else m :: (rest.filter fun x => decide (energyClass x < energyClass m)).takeWhile fun x => !budgetPasses s cl x

/-! ### Decisions (R270) -/

/-- The unit is not gated, and the package is not in the thermal state that treats engines as gated (R352, R354). -/
def engineOn (s : State) (cl : Nat) : Bool := !isGated s (.cluster cl) && s.power.thermal != .crit

/-- A command runs its next step: from HELD it starts, and its priority returns to its base (R270, R281). -/
def startCmd (s : State) (m : Cmd) : State :=
  let s := setCmd s { m with st := .running, readyAt := s.now, aged := m.pri, agedAt := s.now, failSince := none,
                             prog := if m.kind.matrix then { m.prog with reserved := false } else m.prog }
  if m.kind.matrix then s else readyCopies s m.core

/-- A burst counts the jobs of its core that start, and ends with the last (R179). -/
def countBurst (s : State) (m : Cmd) : State :=
  if m.st = .held then
    onCore s m.core fun k => { k with burst := k.burst.bind fun b => if b.left ≤ 1 then none else some { b with left := b.left - 1 } }
  else s

/-- A matrix engine is charged the ramp of a class above the one it is ramped at. -/
def chargeRamp (s : State) (cl ec : Nat) : State :=
  onCluster s cl fun x => { x with rampClass := some (match x.rampClass with | some e => max e ec | none => ec) }

/-- A matrix job chosen for the next step. -/
def chooseJob (s : State) (cl : Nat) (m : Cmd) : State :=
  let s := countBurst (chargeRamp s cl (energyClass m)) m
  onCluster (startCmd s m) cl fun x => { x with runMat := some (m.core, m.id) }

/-- Jobs fail the budget check from now on (R271). -/
def noteFailures (s : State) (ms : List Cmd) : State :=
  ms.foldl (fun s m => setCmd s { m with failSince := some (m.failSince.getD s.now) }) s

/-- A copy-unit command chosen for the next step; one that has not started under a cancelled node completes with no writes
(R279, R281). -/
def chooseCopy (s : State) (cl : Nat) (m : Cmd) : State :=
  if toDrop s m then completeCopy s m .noWrites
  else onCluster (startCmd s m) cl fun x => { x with runCopy := some (m.core, m.id) }

/-- ENGINE_SCHEDULE: at a step boundary the scheduler chooses; no job that passes leaves the engine idle until the next
division (R270). The start of a schedule entry is a step of its own. -/
def execEngineSchedule (cl : Nat) (mat : Bool) (s : State) : Host.Outcome State Fault Refusal :=
  ifDue s (if !engineOn s cl then none
    else if mat then
      if (getCluster s cl).runMat.isSome || (getCluster s cl).noPass then none
      else
        let ms := inOrder s cl true
        let s' := noteFailures s (budgetFails s cl ms)
        match ms, budgetChoice s cl ms with
        | [], _ => none
        | _, some m => some (chooseJob s' cl m)
        | _, none => some (onCluster s' cl fun x => { x with noPass := true })
    else if (getCluster s cl).runCopy.isSome then none
    else match inOrder s cl false with
      | m :: _ => if startsEntry s m then none else some (chooseCopy s cl m)
      | [] => none)

/-- SCHEDULE_ENTRY_START (R168). -/
def execScheduleEntryStart (cl : Nat) (s : State) : Host.Outcome State Fault Refusal :=
  ifDue s (if !engineOn s cl || (getCluster s cl).runCopy.isSome then none
    else match inOrder s cl false with
      | m :: _ =>
        if startsEntry s m then
          some (chooseCopy (onCore s m.core fun k => { k with sched := { k.sched with started := k.sched.started + 1 } }) cl m)
        else none
      | [] => none)

/-! ### Aging, reservation, bursts and ramps -/

/-- A waiting command rises a level (R270). -/
def ageCmd (m : Cmd) : Cmd := { m with aged := m.aged + 1, agedAt := m.agedAt + 65536 }

/-- COMMAND_AGING: the command in place j of a core's q0 or q1 (R270). -/
def execCommandAging (c : Nat) (mat : Bool) (j : Nat) (s : State) : Host.Outcome State Fault Refusal :=
  ifDue s (((if mat then (getCore s c).q0 else (getCore s c).q1)[j]?).bind fun m =>
    if (m.st == .running || (m.st == .held && m.ready)) && !m.prog.ended && decide (m.aged < 7)
        && decide (m.agedAt + 65536 ≤ s.now) then
      some (setCmd s (ageCmd m))
    else none)

/-- A job that has failed the check for 65,536 ticks, with a division since (R271). -/
def owedRamp (s : State) (m : Cmd) : Bool :=
  match m.failSince with
  | some t => decide (t + 65536 ≤ s.power.lastDivision) && !m.prog.reserved
  | none => false

/-- A job is reserved its ramp. -/
def reserveRamp (s : State) (m : Cmd) : State := setCmd s { m with prog := { m.prog with reserved := true } }

/-- A division reserves, at an engine, the ramp of every job that is owed it (R271). -/
def reserveOwed (s : State) (cl : Nat) : State :=
  ((readyCmds s cl true).filter (owedRamp s)).foldl reserveRamp s

/-- BUDGET_RESERVE: the reservation at one engine, which a division makes at all of them (R271). -/
def execBudgetReserve (cl : Nat) (s : State) : Host.Outcome State Fault Refusal :=
  ifDue s (((readyCmds s cl true).find? (owedRamp s)).map (reserveRamp s))

/-- A core has a matrix job pending. -/
def jobPending (k : CoreSt) : Bool := k.q0.any fun m => !m.prog.ended

/-- MBURST_TIMEOUT (R179). -/
def execMburstTimeout (c : Nat) (s : State) : Host.Outcome State Fault Refusal :=
  ifDue s ((getCore s c).burst.bind fun b =>
    if !jobPending (getCore s c) && decide (b.idleSince + 2000 ≤ s.now) then
      some (onCore s c fun k => { k with burst := none })
    else none)

/-- An engine has work: a job pending, or a burst declared by one of its cores. -/
def engineBusy (s : State) (cl : Nat) : Bool :=
  (coresOf cl).any (fun c => (getCore s c).burst.isSome || ((getCore s c).q0.any fun m => !m.prog.ended && m.remote == .no))
    || !(getCluster s cl).remotePlaces.isEmpty || (getCluster s cl).runMat.isSome

/-- RAMP_DOWN: the filler writes nothing, and the ramp is charged no more (R351). -/
def execRampDown (cl : Nat) (s : State) : Host.Outcome State Fault Refusal :=
  ifDue s (if (getCluster s cl).rampClass.isSome && !engineBusy s cl then
      some (onCluster s cl fun x => { x with rampClass := none })
    else none)

end Sys2Proof.Machine
end

