-- ==== Sys2Proof/Machine/Power.lean ====
section
/-! DEFINITION. Power, heat and timing: the budget tree, rails and regulators, energy, replays, clocks, gating, watchdog, heat
(01 R19, R20; 22 R344 to R354). -/

namespace Sys2Proof.Machine

/-! ### Water-filling (R345) -/

/-- Sum of Min(d, L). -/
def sumMin (L : Nat) (ds : List Nat) : Nat := ds.foldl (fun n d => n + min d L) 0

/-- The largest L below 2^n above a start, found bit by bit, with Sum(Min(d, L)) at most G. -/
def fillLevel (G : Nat) (ds : List Nat) : Nat → Nat → Nat
  | 0, L => L
  | n + 1, L => if sumMin (L + 2 ^ n) ds ≤ G then fillLevel G ds n (L + 2 ^ n) else fillLevel G ds n L

/-- One mW more to the children of lowest index whose demand is above L. -/
def giveLeftover (L : Nat) : Nat → List Nat → List Nat
  | _, [] => []
  | 0, ds => ds.map fun d => min d L
  | n + 1, d :: ds => if L < d then (L + 1) :: giveLeftover L n ds else d :: giveLeftover L (n + 1) ds

/-- The grants of a node's children. -/
def waterFill (G : Nat) (ds : List Nat) : List Nat :=
  let total := ds.foldl (· + ·) 0
  if total ≤ G then ds
  else
    let L := fillLevel G ds (total.log2 + 1) 0
    giveLeftover L (G - sumMin L ds) ds

/-- The FDUTY a leaf writes. -/
def dutyOf (grant d : Nat) : Nat := if d = 0 then 16 else max 1 (min 16 (16 * grant / d))

/-! ### The tree (R344) -/

/-- The clusters of a region of a die, in rising order (R13). -/
def regionClusters (die r : Nat) : List Nat :=
  (List.range 16).map fun i => die * 128 + (r / 2 * 4 + i / 4) * 8 + (r % 2 * 4 + i % 4)

/-- Each core's demand in the last interval; one not listed asks nothing. -/
abbrev Demands := List (Nat × Nat)
def coreDemands (ds : Demands) (cl : Nat) : List Nat := (coresOf cl).map fun c => nget ds 0 c
def clusterDemand (ds : Demands) (cl : Nat) : Nat := (coreDemands ds cl).foldl (· + ·) 0
def regionDemand (ds : Demands) (die r : Nat) : Nat := (regionClusters die r).foldl (fun n cl => n + clusterDemand ds cl) 0

/-- The engine pool's demand: the sum of E(ec) of the die's ramped and ready jobs. -/
def poolDemand (s : State) (die : Nat) : Nat :=
  (List.range 128).foldl
    (fun n i => n + ((readyCmds s (die * 128 + i) true).foldl (fun n m => n + classPower (energyClass m)) 0)) 0

def dieDemands (s : State) (ds : Demands) (die : Nat) : List Nat :=
  ((List.range 8).map fun r => regionDemand ds die r) ++ [poolDemand s die]

/-- A leaf writes its cores' FDUTY, but not in the thermal state CRIT (R345, R354). -/
def writeDuties (s : State) (ds : Demands) (cl grant : Nat) : State :=
  if s.power.thermal = .crit then s
  else
    let d := coreDemands ds cl
    (((coresOf cl).zip d).zip (waterFill grant d)).foldl
      (fun s e => onCore s e.1.1 fun k => { k with fduty := dutyOf e.2 e.1.2 }) s

/-- A region divides among its clusters, a die among its regions and its engine pool. -/
def divideRegion (s : State) (ds : Demands) (die r grant : Nat) : State :=
  let cls := regionClusters die r
  (cls.zip (waterFill grant (cls.map (clusterDemand ds)))).foldl (fun s e => writeDuties s ds e.1 e.2) s
def divideDie (s : State) (ds : Demands) (die grant : Nat) : State :=
  let gs := waterFill grant (dieDemands s ds die)
  let s := (List.range 8).foldl (fun s r => divideRegion s ds die r (gs.getD r 0)) s
  onDie s die fun d => { d with grant := gs.getD 8 0 }

/-- The root's grant: the cap less 100 W and the measured HBM and mesh power, halved in HOT and above (R344, R354). -/
def rootGrant (w : Power) (measured : Nat) : Nat :=
  let g := w.cap * 1000 - 100000 - measured
  if w.halved then g / 2 else g

/-! ### Rails, regulators and energy (R347, R348, R350) -/

/-- A regulator moves to a voltage by 5 mV steps within [0.60 V, rail] (R350). -/
def moveVolts (s : State) (e : Nat × Nat) : State :=
  onCore s e.1 fun k =>
    let rail := railVolts (railLevel s (regionOf e.1))
    if e.2 % 5 = 0 then { k with vcore := max 600 (min e.2 rail) } else { k with vcore := min k.vcore rail }

/-- A core's energy is charged: scaled by (V_vote / V_rail)^2, rounded down, to its partition, and the rest to tag 0; a
partition without a vote is charged the whole (R348; log 27). -/
def chargeEnergy (s : State) (e : Nat × Nat) : State :=
  let tag := tagOf s e.1
  let r := regionOf e.1
  let rail := railVolts (railLevel s r)
  let vote := match nget? (getPart s tag).vote r with
    | some v => railVolts v
    | none => rail
  let mine := if tag = 0 then 0 else e.2 * (vote * vote) / (rail * rail)
  let s := if tag = 0 then s else onPart s tag fun p => { p with enj := p.enj + BitVec.ofNat 64 mine }
  { s with power := { s.power with enj0 := s.power.enj0 + BitVec.ofNat 64 (e.2 - mine) } }

/-- BUDGET_DIVISION (R344, R345, R346, R348, R350). -/
def execBudgetDivision (measured : Nat) (demands volts energy : List (Nat × Nat)) (s : State) :
    Host.Outcome State Fault Refusal :=
  ifDue s (if s.power.lastDivision + 1000 ≤ s.now then
      let s := { s with power := { s.power with cap := s.power.capNext, lastDivision := s.now }
                        clusters := s.clusters.map fun e => (e.1, { e.2 with noPass := false }) }
      let dies := (List.range 4).map fun d => (dieDemands s demands d).foldl (· + ·) 0
      let s := ((List.range 4).zip (waterFill (rootGrant s.power measured) dies)).foldl
        (fun s e => divideDie s demands e.1 e.2) s
      let s := (List.range 512).foldl reserveOwed s
      some (energy.foldl chargeEnergy (volts.foldl moveVolts s))
    else none)

/-- RAIL_VOTE: a partition that holds cores in the region votes (R347). -/
def execRailVote (ptag level region : Nat) (s : State) : Host.Outcome State Fault Refusal :=
  ifDue s (if decide (level < 4) && (getPart s ptag).cores.any fun c => regionOf c == region then
      some (onPart s ptag fun p => { p with vote := nset p.vote region level })
    else none)

/-- ENJ_CLEAR (R348). -/
def execEnjClear (ptag : Nat) (mask : Word) (s : State) : Host.Outcome State Fault Refusal :=
  .next (physWrite s noCore 0 (internalBase + 0x60000 + 256 * (ptag % 64)) 64 mask.toNat)

/-- LATE_CAPTURE_REPLAY: the results are those of an on-time cycle; a second replay raises the voltage one step, to the rail
at most (R350). -/
def execLateCaptureReplay (c : Nat) (again : Bool) (s : State) : Host.Outcome State Fault Refusal :=
  .next (onCore s c fun k =>
    { k with terr := min (2 ^ 32 - 1) (k.terr + 1 + again.toNat)
             vcore := if again then max k.vcore (min (k.vcore + 5) (railVolts (railLevel s (regionOf c)))) else k.vcore })

/-- CLOCK_RESTART (R349). -/
def execClockRestart (c : Nat) (s : State) : Host.Outcome State Fault Refusal :=
  ifDue s (if (getCore s c).clockPaused && clockNeeded s c then some (onCore s c fun k => { k with clockPaused := false })
    else none)

/-! ### The cap and heat (R346, R354) -/

def report (s : State) (code tval : Nat) : State := { s with reports := s.reports ++ [⟨code, tval, 0, 0⟩] }

/-- CAP_WRITE (R346). -/
def execCapWrite (watts : Nat) (s : State) : Host.Outcome State Fault Refusal :=
  let cap := max 800 (min 2600 watts)
  .next (report { s with power := { s.power with capNext := cap } } 0x301 cap)

/-- The hottest die of a report and its temperature. -/
def hottest (temps : List Int) : Nat × Int :=
  (temps.zipIdx.drop 1).foldl (fun b e => if b.2 < e.1 then (e.2, e.1) else b) (0, temps.headD 0)

def thermalCode : Thermal → Nat
  | .normal => 0 | .warn => 1 | .hot => 2 | .crit | .off => 3

/-- The entry and exit of each state: the temperature that enters the next one, and the one that leaves it downwards. -/
def thermalUp : Thermal → Int
  | .normal => 95 | .warn => 105 | .hot => 115 | _ => 125
def thermalDown : Thermal → Option Int
  | .warn => some 90 | .hot => some 100 | .crit => some 110 | _ => none
def hotter : Thermal → Thermal
  | .normal => .warn | .warn => .hot | .hot => .crit | t => t
def cooler : Thermal → Thermal
  | .crit => .hot | .hot => .warn | _ => .normal

/-- FDUTY := 0 on every core (R354). -/
def stopDuties (s : State) : State := (List.range 4096).foldl (fun s c => onCore s c fun k => { k with fduty := 0 }) s

/-- The board controller is told something through I3C (01 R21). -/
def tellBoard (s : State) (n : BoardNotice) : State := { s with power := { s.power with notices := s.power.notices ++ [n] } }

/-- The package enters a hotter state (R354). -/
def heatTo (s : State) (t : Thermal) (die : Nat) : State :=
  let s := { s with power := { s.power with thermal := t, coolCount := 0, halved := t != .warn } }
  match t with
  | .warn => report (tellBoard { s with power := { s.power with alert := true } } .thermalAlert) 0x300 (die * 4 + 1)
  | .crit => report (stopDuties s) 0x300 (die * 4 + 3)
  | _ => s

/-- The package enters a cooler state; the alert is cleared in NORMAL (R354). -/
def coolTo (s : State) (t : Thermal) : State :=
  let s := { s with power := { s.power with thermal := t, coolCount := 0, halved := t == .hot } }
  if t = .normal then tellBoard { s with power := { s.power with alert := false } } .alertCleared else s

/-- What the loss of the supply leaves: the counter store's chains; the ingots, which tenants keep (log 10); and the model's
own counters (R332, R354). A SEAL that had not committed is gone. -/
def supplyLost (s : State) : State :=
  { State.reset with
    supply := false, draw := s.draw, nextSid := s.nextSid, now := s.now, ingots := s.ingots
    chains := s.chains.map fun e => (e.1, { e.2 with writing := none })
    agenda := s.agenda }

/-- THERMAL_REPORT: every 1,000 ticks (R354). -/
def execThermalReport (temps : List Int) (s : State) : Host.Outcome State Fault Refusal :=
  ifDue s (if s.power.lastReport + 1000 ≤ s.now then
      let s := { s with power := { s.power with lastReport := s.now } }
      let (die, top) := hottest temps
      let t := s.power.thermal
      if 125 ≤ top then
        let told := (tellBoard s .supplyRemoved).power.notices
        let s := supplyLost s
        some { s with power := { s.power with thermal := .off, notices := told } }
      else if thermalUp t ≤ top then some (heatTo s (hotter t) (die % 4))
      else match thermalDown t with
        | none => some s
        | some x =>
          if x < top then some { s with power := { s.power with coolCount := 0 } }
          else if 8 ≤ s.power.coolCount + 1 then some (coolTo s (cooler t))
          else some { s with power := { s.power with coolCount := s.power.coolCount + 1 } }
    else none)

/-- POWER_LOSS (R332). -/
def execPowerLoss (s : State) : Host.Outcome State Fault Refusal := .next (supplyLost s)

/-! ### Gating (R19, R20, R352) -/

/-- A matrix job is on its way to a cluster's engine, or waits for or holds one of its remote places (R177). -/
def towards (cl : Nat) (m : Cmd) : Bool :=
  match m.remote with
  | .no => false
  | .onWay x _ | .waiting x _ | .placed x _ => x == cl

/-- The deques of a cluster's cores are empty, and no permit towards the cluster is outstanding. What such a permit is the spec does
not say; taken here are steal requests and replies, the cores' own accesses and commands, and the matrix jobs that other cores have
for its engine, which is idle too (R19; DESIGN CHOICE, log 80). -/
def clusterIdle (s : State) (cl : Nat) : Bool :=
  let x := getCluster s cl
  x.runMat.isNone && x.runCopy.isNone && x.remoteQ.isEmpty && x.remotePlaces.isEmpty
    && (s.cores.all fun e => e.2.q0.all fun m => !towards cl m) &&
  (coresOf cl).all fun c =>
    let k := getCore s c
    k.launch == 0 && k.deque.isEmpty && k.ring.isEmpty && k.requests.isEmpty && k.reds.isEmpty && k.inbox.isEmpty
      && k.q0.isEmpty && k.q1.isEmpty && k.q2.isEmpty && (s.steals.all fun r => r.thief != c && r.victim != c)

/-- A home slice holds no state of a field, a buffer or a lease (R20). -/
def bankIdle (s : State) (slice : Nat) : Bool :=
  (s.leases.all fun e => (Config.homeSlice e.1).val != slice)
    && s.parts.all fun e =>
      (e.2.queues.all fun q => q.2.home != slice)
        && e.2.fields.all fun f => (List.range (f.2.rows * f.2.cols)).all fun cell =>
            match fieldCell s e.1 f.2 cell with
            | some p => (Config.homeSlice (lineOf p.pa)).val != slice
            | none => true

/-- A unit holds no architected state (R352). -/
def mayGate (s : State) (u : GateUnit) : Bool :=
  match u with
  | .cluster cl => decide (cl < 512) && clusterIdle s cl
  | .granule cl i => decide (cl < 512) && decide (i < 8) && granuleHolder s cl i == 0
  | .bank slice => decide (slice < 256) && bankIdle s slice
  | .port p => decide (p < 72) && (getPort s p).st == .off
  | .uePort p => decide (p < 4) && !(getUe s p).ready

/-- Bits of a granule in every slice of a B store. -/
def clearGranule (s : State) (cl g : Nat) : State :=
  onCluster s cl fun x => { x with bstore := x.bstore.filter fun e => e.1 * 8 % 2 ^ 17 / 2 ^ 14 != g }

/-- What a gated unit held is gone: it reads as zero when it is enabled again (R352). -/
def clearUnit (s : State) (u : GateUnit) : State :=
  match u with
  | .cluster cl => (coresOf cl).foldl (fun s c => onCore s c fun k => { k with pool := [], side := [] }) s
  | .granule cl g => clearGranule s cl g
  | _ => s

/-- GATE_BEGIN (R352). -/
def execGateBegin (unit : GateUnit) (s : State) : Host.Outcome State Fault Refusal :=
  ifDue s (if mayGate s unit && !isGated s unit then some { clearUnit s unit with gated := s.gated ++ [unit] } else none)

/-- GATE_WAKE: the gate completes, and the unit wakes (R352). -/
def execGateWake (unit : GateUnit) (s : State) : Host.Outcome State Fault Refusal :=
  ifDue s (if isGated s unit then some { s with gated := s.gated.filter (· != unit) } else none)

end Sys2Proof.Machine
end

