-- ==== Sys2Proof/Machine/Sign.lean ====
section
/-! DEFINITION. The signatures the spec names by their standards: Ed25519 (RFC 8032) and ML-DSA-65 with an empty context
(FIPS 204), as they are verified (10 R224, R225; 20 R334; 23 R359). -/

namespace Sys2Proof.Machine

/-- b to the power e modulo m, over n bits of e. -/
def powMod (m : Nat) : Nat → Nat → Nat → Nat
  | 0, _, _ => 1 % m
  | n + 1, b, e => (if e % 2 = 1 then b else 1) * powMod m n (b * b % m) (e / 2) % m

/-! ### Ed25519 -/

def edP : Nat := 2 ^ 255 - 19
/-- The order of the base point. -/
def edOrder : Nat := 2 ^ 252 + 27742317777372353535851937790883648493
def edInv (a : Nat) : Nat := powMod edP 255 a (edP - 2)
/-- The curve's d, -121665/121666. -/
def edD : Nat := (edP - 121665) * edInv 121666 % edP

/-- A point (X : Y : Z : T) with x = X/Z, y = Y/Z and xy = T/Z. -/
structure EdPoint where
  x : Nat
  y : Nat
  z : Nat
  t : Nat
  deriving DecidableEq, Repr

def edZero : EdPoint := ⟨0, 1, 1, 0⟩

def edAdd (p q : EdPoint) : EdPoint :=
  let sub (a b : Nat) : Nat := (a + edP - b) % edP
  let a := sub p.y p.x * sub q.y q.x % edP
  let b := (p.y + p.x) * (q.y + q.x) % edP
  let c := 2 * p.t * q.t * edD % edP
  let d := 2 * p.z * q.z % edP
  let e := sub b a
  let f := sub d c
  let g := (d + c) % edP
  let h := (b + a) % edP
  ⟨e * f % edP, g * h % edP, f * g % edP, e * h % edP⟩

/-- A point times a number of n bits. -/
def edTimes : Nat → EdPoint → Nat → EdPoint
  | 0, _, _ => edZero
  | n + 1, p, e => edAdd (if e % 2 = 1 then p else edZero) (edTimes n (edAdd p p) (e / 2))

/-- The same point. -/
def edSame (p q : EdPoint) : Bool := p.x * q.z % edP == q.x * p.z % edP && p.y * q.z % edP == q.y * p.z % edP

/-- The point that 256 bits stand for: y below, and the sign of x in bit 255 (RFC 8032, 5.1.3). -/
def edDecode (n : Nat) : Option EdPoint :=
  let y := n % 2 ^ 255
  let sign := n / 2 ^ 255 % 2
  if edP ≤ y then none
  else
    let u := (y * y + edP - 1) % edP
    let v := (edD * y * y + 1) % edP
    let x := u * powMod edP 255 v 3 % edP * powMod edP 255 (u * powMod edP 255 v 7 % edP) ((edP - 5) / 8) % edP
    let x? := if v * x * x % edP = u then some x
      else if v * x * x % edP = (edP - u) % edP then some (x * powMod edP 255 2 ((edP - 1) / 4) % edP)
      else none
    match x? with
    | none => none
    | some x =>
      if x = 0 ∧ sign = 1 then none
      else
        let x := if x % 2 = sign then x else edP - x
        some ⟨x, y, 1, x * y % edP⟩

/-- The base point: y is 4/5 and x is even. -/
def edBase : EdPoint := (edDecode (4 * edInv 5 % edP)).getD edZero

/-- Whether a signature R, S of 512 bits over a message verifies under a key of 256 bits (RFC 8032, 5.1.7). -/
def edVerify (key sig : Nat) (msg : List Nat) : Bool :=
  let r := sig % 2 ^ 256
  let sc := sig / 2 ^ 256
  match edDecode key, edDecode r with
  | some a, some rp =>
    let k := ofLeBytes (sha512 (leBytes 32 r ++ leBytes 32 key ++ msg)) % edOrder
    decide (sc < edOrder) &&
      edSame (edTimes 4 (edTimes 253 edBase sc) 8) (edTimes 4 (edAdd rp (edTimes 253 a k)) 8)
  | _, _ => false

/-! ### SHAKE (FIPS 202) -/

/-- The bit of Keccak's constants at step t: x^t in the field of x^8 + x^6 + x^5 + x^4 + 1, its constant term. -/
def keccakStep : Nat → Nat
  | 0 => 1
  | t + 1 => let r := 2 * keccakStep t; if r < 256 then r else (r - 256) ^^^ 0x71

/-- The constant of a round. -/
def keccakConst (i : Nat) : Nat :=
  ([0, 1, 2, 3, 4, 5, 6].map fun j => keccakStep (j + 7 * i) % 2 * 2 ^ (2 ^ j - 1)).foldl (· + ·) 0

/-- The path over the lanes by which Keccak turns and moves them: lane numbers x + 5y. -/
def keccakPath : Nat → Nat → Nat → List Nat
  | 0, _, _ => []
  | n + 1, x, y => (x + 5 * y) :: keccakPath n y ((2 * x + 3 * y) % 5)

def turnLeft (x k : Nat) : Nat := (x * 2 ^ k + x / 2 ^ (64 - k)) % 2 ^ 64

/-- One round on 25 lanes; the constants of the rounds and the path are given. -/
def keccakRound (path : List Nat) (a : List Nat) (rc : Nat) : List Nat :=
  let g := fun i => a.getD i 0
  let col := (List.range 5).map fun x => g x ^^^ g (x + 5) ^^^ g (x + 10) ^^^ g (x + 15) ^^^ g (x + 20)
  let c := fun x => col.getD (x % 5) 0
  let th := (List.range 25).map fun i => g i ^^^ c (i % 5 + 4) ^^^ turnLeft (c (i % 5 + 1)) 1
  let moved := path.zipIdx.foldl (fun m e =>
    nset m (path.getD ((e.2 + 1) % 24) 0) (turnLeft (th.getD e.1 0) ((e.2 + 1) * (e.2 + 2) / 2 % 64))) [(0, th.getD 0 0)]
  let b := fun x y => nget moved 0 (x % 5 + 5 * y)
  (List.range 25).map fun i =>
    let x := i % 5
    let y := i / 5
    b x y ^^^ ((2 ^ 64 - 1 - b (x + 1) y) &&& b (x + 2) y) ^^^ (if i = 0 then rc else 0)

/-- Keccak-f[1600]. -/
def keccak (a : List Nat) : List Nat :=
  (List.range 24).foldl (fun a i => keccakRound (keccakPath 24 1 0) a (keccakConst i)) a

def xorLanes (a : List Nat) (bs : List Nat) : List Nat :=
  a.zipIdx.map fun e => e.1 ^^^ ofLeBytes ((bs.drop (8 * e.2)).take 8)

/-- n blocks absorbed at a rate in bytes. -/
def shakeAbsorb (rate : Nat) : Nat → List Nat → List Nat → List Nat
  | 0, _, a => a
  | n + 1, bs, a => shakeAbsorb rate n (bs.drop rate) (keccak (xorLanes a (bs.take rate)))

/-- n blocks squeezed. -/
def shakeSqueeze (rate : Nat) : Nat → List Nat → List Nat
  | 0, _ => []
  | n + 1, a => (a.flatMap (leBytes 8)).take rate ++ shakeSqueeze rate n (keccak a)

/-- n bytes of SHAKE at a rate: 168 for SHAKE128, 136 for SHAKE256. -/
def shake (rate : Nat) (msg : List Nat) (n : Nat) : List Nat :=
  let z := rate - 1 - msg.length % rate
  let p := if z = 0 then msg ++ [0x9F] else msg ++ 0x1F :: List.replicate (z - 1) 0 ++ [0x80]
  (shakeSqueeze rate ((n + rate - 1) / rate) (shakeAbsorb rate (p.length / rate) p (List.replicate 25 0))).take n

/-! ### ML-DSA-65 -/

def dsaQ : Nat := 8380417

def rev8 (i : Nat) : Nat := (List.range 8).foldl (fun r b => 2 * r + i / 2 ^ b % 2) 0

/-- The point at which entry i of a transform stands: an odd power of the 512th root of unity 1753. -/
def dsaPoint (i : Nat) : Nat := powMod dsaQ 9 1753 (2 * rev8 i + 1)

/-- The transform of a polynomial: its values at the points. -/
def dsaNtt (w : List Nat) : List Nat :=
  (List.range 256).map fun i =>
    let z := dsaPoint i
    w.foldr (fun c v => (c + z * v) % dsaQ) 0

/-- The polynomial with given values at the points. -/
def dsaUnntt (v : List Nat) : List Nat :=
  let inv := v.zipIdx.map fun e => (e.1, powMod dsaQ 23 (dsaPoint e.2) (dsaQ - 2))
  let step := fun (ts : List (Nat × Nat)) => ts.map fun e => (e.1 * e.2 % dsaQ, e.2)
  (collect 256 inv step).map fun c => c * powMod dsaQ 23 256 (dsaQ - 2) % dsaQ
where
  /-- Coefficient by coefficient: the sum of the values, each multiplied by its inverse point from one to the next. -/
  collect : Nat → List (Nat × Nat) → (List (Nat × Nat) → List (Nat × Nat)) → List Nat
    | 0, _, _ => []
    | n + 1, ts, step => ts.foldl (fun r e => (r + e.1) % dsaQ) 0 :: collect n (step ts) step

/-- n fields of w bits, the first lowest, of a number. -/
def fieldsOf (w v n : Nat) : List Nat := (List.range n).map fun i => bitsAt v (w * i) w

/-- The entries of a matrix polynomial that three bytes each give, those below q. -/
def dsaReject : Nat → List Nat → List Nat
  | 0, _ => []
  | n + 1, bs =>
    let z := bs.getD 0 0 + 256 * bs.getD 1 0 + 65536 * (bs.getD 2 0 % 128)
    if z < dsaQ then z :: dsaReject n (bs.drop 3) else dsaReject n (bs.drop 3)

/-- Entry r, s of the matrix, transformed (FIPS 204, ExpandA). -/
def dsaMatrix (rho : List Nat) (r s : Nat) : List Nat :=
  (dsaReject 560 (shake 168 (rho ++ [s, r]) 1680)).take 256

/-- The challenge with 49 entries of 1 and -1 (FIPS 204, SampleInBall): signs, bytes, entry from. -/
def dsaBall : Nat → Nat → Nat → List Nat → NMap Nat → NMap Nat
  | 0, _, _, _, c => c
  | n + 1, signs, i, bs, c =>
    match bs with
    | [] => c
    | j :: bs =>
      if 255 < i then c
      else if i < j then dsaBall n signs i bs c
      else
        let c := nset c i (nget c 0 j)
        dsaBall n (signs / 2) (i + 1) bs (nset c j (if signs % 2 = 1 then dsaQ - 1 else 1))

def dsaChallenge (ct : List Nat) : List Nat :=
  let bs := shake 136 ct 1088
  let c := dsaBall 1088 (ofLeBytes (bs.take 8)) 207 (bs.drop 8) []
  (List.range 256).map fun i => nget c 0 i

/-- The positions of one polynomial's hints, strictly rising (FIPS 204, HintBitUnpack). -/
def strictlyRising : List Nat → Bool
  | a :: b :: xs => decide (a < b) && strictlyRising (b :: xs)
  | _ => true

/-- The hints of the six polynomials, or none when they are malformed. -/
def dsaHints (y : List Nat) : Option (List (List Nat)) :=
  let ends := (List.range 6).map fun i => y.getD (55 + i) 0
  let starts := 0 :: ends.take 5
  let parts := (starts.zip ends).map fun e => (y.drop e.1).take (e.2 - e.1)
  if (starts.zip ends).all (fun e => decide (e.1 ≤ e.2) && decide (e.2 ≤ 55)) && parts.all strictlyRising &&
      ((y.take 55).drop (ends.getD 5 0)).all (· == 0) then some parts else none

/-- The high part of a value with its hint (FIPS 204, Decompose and UseHint). -/
def dsaHigh (hint : Bool) (r : Nat) : Nat :=
  let g := 523776
  let low : Int := if 2 * (r % g) ≤ g then (r % g : Nat) else (r % g : Nat) - (g : Int)
  let top := (r : Int) - low = (dsaQ : Int) - 1
  let hi := if top then 0 else (((r : Int) - low) / g).toNat
  let low := if top then low - 1 else low
  if hint then (if 0 < low then (hi + 1) % 16 else (hi + 15) % 16) else hi

/-- Sum of products of transforms. -/
def dsaDot (xs ys : List (List Nat)) : List Nat :=
  (List.zipWith (fun x y => List.zipWith (· * ·) x y) xs ys).foldl (fun a b => List.zipWith (fun p q => (p + q) % dsaQ) a b)
    (List.replicate 256 0)

/-- Whether a signature of 3,309 bytes over a message verifies under a key of 1,952 bytes, with an empty context (FIPS 204,
ML-DSA.Verify). -/
def dsaVerify (key sig : Nat) (msg : List Nat) : Bool :=
  let pk := leBytes 1952 key
  let ct := leBytes 48 sig
  let z := (List.range 5).map fun i =>
    (fieldsOf 20 (sig / 2 ^ (384 + 5120 * i)) 256).map fun v => (2 ^ 19 + dsaQ - v) % dsaQ
  let small (v : Nat) : Bool := decide (v < 2 ^ 19 - 196) || decide (dsaQ - v < 2 ^ 19 - 196)
  match dsaHints (leBytes 61 (sig / 2 ^ 25984)) with
  | none => false
  | some hints =>
    let mu := shake 136 (shake 136 pk 64 ++ [0, 0] ++ msg) 64
    let c := dsaNtt (dsaChallenge ct)
    let zs := z.map dsaNtt
    let w := (List.range 6).flatMap fun r =>
      let t := dsaNtt ((fieldsOf 10 (key / 2 ^ (256 + 2560 * r)) 256).map fun v => v * 2 ^ 13 % dsaQ)
      let az := dsaDot ((List.range 5).map fun s => dsaMatrix (pk.take 32) r s) zs
      let ct1 := List.zipWith (· * ·) c t
      let v := dsaUnntt (List.zipWith (fun a b => (a + (dsaQ - b % dsaQ)) % dsaQ) az ct1)
      v.zipIdx.map fun e => dsaHigh ((hints.getD r []).contains e.2) e.1
    let packed := w.foldr (fun h n => h + 16 * n) 0
    z.all (fun p => p.all small) && shake 136 (mu ++ leBytes 768 packed) 48 == ct

/-! ### The keys the spec names -/

/-- A signature over bytes under a public key; algorithm 0 is Ed25519 and 1 is ML-DSA-65. -/
def verifies (alg key sig : Nat) (msg : List Nat) : Bool := if alg = 0 then edVerify key sig msg else dsaVerify key sig msg

/-- A signature verifies under the key that a tenant has registered for an identifier (10 R225, 20 R334). -/
def signatureOk (alg tenant keyId sig : Nat) (msg : List Nat) : Bool :=
  match Config.publicKey alg tenant keyId with
  | some key => verifies alg key sig msg
  | none => false

/-- The device identifier: the first 64 bits of the SHA-384 of the two public keys, concatenated; the first byte is the least
significant (23 R360; log 11). -/
def deviceId : Nat :=
  ofLeBytes ((sha384 (leBytes 32 (Config.identityKey 0) ++ leBytes 1952 (Config.identityKey 1))).take 8)

end Sys2Proof.Machine
end

