-- ==== Sys2Proof/Machine/Boot.lean ====
section
/-! DEFINITION. Start-up, identity, the watchdog and snapshots (22 R353; 23 R356 to R362). -/

namespace Sys2Proof.Machine

/-! ### The firmware (R359) -/

/-- What both signatures are over: the digest and the security version. -/
def fwMessage (f : FwImage) : List Nat := leBytes 48 f.digest ++ leBytes 4 f.svn

/-- The security version of an image: 32 bits of its header. -/
def fwVersion (f : FwImage) : Nat := f.svn % 2 ^ 32

/-- Whether an image is accepted, or the detail code of the check that fails; where several fail, the order signature,
version, digest is the model's (log 28). -/
def fwDetail (f : FwImage) : Option Nat :=
  if !(verifies 0 (Config.firmwareKey 0) f.sigE (fwMessage f) && verifies 1 (Config.firmwareKey 1) f.sigM (fwMessage f)) then
    some 1
  else if fwVersion f < Config.minSvn then some 2
  else if ofLeBytes (sha384 f.bytes) ≠ f.digest then some 3
  else none

/-- The image accepted: the first, or the backup, which is tried once. -/
def fwAccepted (image backup : FwImage) : Option FwImage :=
  if (fwDetail image).isNone then some image else if (fwDetail backup).isNone then some backup else none

/-! ### Units and outcomes (R356, R358) -/

/-- The units of start-up in table order. -/
def startUnits : List (Nat × Nat) :=
  [(1, 0), (2, 0)] ++ (List.range 8).map (fun u => (3, u)) ++ (List.range 4).map (fun u => (4, u))
    ++ (List.range 4).map (fun u => (5, u)) ++ (List.range 4).map (fun u => (6, u)) ++ (List.range 4).map fun u => (7, u)

/-- The outcome of a unit: as given, at most three tries; a unit that none is given for passes at once. -/
def outcomeOf (us : List UnitOutcome) (e : Nat × Nat) : UnitOutcome :=
  match us.find? fun o => o.step == e.1 && o.unit == e.2 with
  | some o => { o with fails := min 3 o.fails }
  | none => ⟨e.1, e.2, 0, 0, 0⟩

/-- Steps in order; within a step by the time of the outcome. -/
def outcomeBefore (a b : UnitOutcome) : Bool := decide (a.step < b.step) || (a.step == b.step && decide (a.tick ≤ b.tick))

/-- Within a step the units run in rising index, and one that fails a try waits while the next run: the outcome of a unit that passes on
its first try comes before those of the units after it, so that none of these has an earlier tick (R356). -/
def unitsInOrder (step tick : Nat) : List UnitOutcome → List UnitOutcome
  | [] => []
  | o :: rest =>
    let o := { o with tick := if o.step = step then max tick o.tick else o.tick }
    o :: unitsInOrder o.step (if o.fails = 0 then o.tick else if o.step = step then tick else 0) rest

/-- All outcomes of a start, step 1's as the firmware check says. -/
def plannedOutcomes (us : List UnitOutcome) (image backup : FwImage) : List UnitOutcome :=
  (unitsInOrder 0 0 (startUnits.map fun e =>
    let o := outcomeOf us e
    if e.1 = 1 then
      match fwAccepted image backup with
      | some _ => { o with fails := min 2 o.fails }
      | none => { o with fails := 3, det := (fwDetail backup).getD 0 }
    else o)).mergeSort outcomeBefore

/-- The start record's entry of an outcome: RES 1 after a failed try or a redo (R358). -/
def recordOutcome (o : UnitOutcome) (redo : Bool) : StartEntry :=
  { step := o.step, unit := o.unit, res := if o.fails = 3 then 2 else if o.fails = 0 && !redo then 0 else 1,
    tries := min 3 (o.fails + 1), det := if o.fails = 0 then 0 else o.det, tick := o.tick }

/-- The entry of a unit. -/
def entryOf (s : State) (step unit : Nat) : Option StartEntry := s.boot.record.find? fun e => e.step == step && e.unit == unit

/-- An outcome enters the record: appended, or in the place of its unit's entry (R358). -/
def enterOutcome (s : State) (o : UnitOutcome) : State :=
  let redo := (entryOf s o.step o.unit).isSome
  let e := recordOutcome o redo
  { s with boot := { s.boot with record :=
      if redo then s.boot.record.map fun x => if x.step == o.step && x.unit == o.unit then e else x
      else s.boot.record ++ [e] } }

def setReady (s : State) (bit : Nat) : State :=
  { s with boot := { s.boot with ready := s.boot.ready ||| BitVec.ofNat 64 (2 ^ bit) } }

/-- A die has passed a step. -/
def diePassed (s : State) (step die : Nat) : Bool :=
  match entryOf s step die with
  | some e => e.res < 2
  | none => false

/-- A die step that does not run: an earlier step of its die was skipped (R356). -/
def stepSkipped (s : State) (o : UnitOutcome) : Bool :=
  (o.step == 5 || o.step == 6) && !diePassed s (o.step - 1) o.unit

/-- The management core's strands that the firmware starts, with system registers as after reset. -/
def startMgmt (s : State) (e : Nat × Nat) : State :=
  let c := 0x1000 + e.1 % 8
  match (List.range 8).find? fun l => !(getStrand s c l).live with
  | none => s
  | some l =>
    let s := onCore s c fun k => { k with spc := 8, vcount := 32 }
    let (s, sid) := freshSid s
    putStrand s c l { live := true, pc := BitVec.ofNat 64 e.2, sid := sid, readySince := (getCore s c).cycles }

/-- What a unit's success makes usable (R357). -/
def unitReady (s : State) (o : UnitOutcome) : State :=
  match o.step with
  | 2 => s.boot.mgmt.foldl startMgmt
      (setReady { s with svcRoot := s.boot.svcRoot, power := { s.power with heartbeat := s.now } } 0)
  | 3 => setReady s (56 + o.unit)
  | 6 => setReady s (52 + o.unit)
  | 7 => { setReady s (48 + o.unit) with ues := nset s.ues o.unit { getUe s o.unit with ready := true } }
  | _ => s

/-- One outcome takes effect, at the present tick, which its entry records; a failure of step 1 or 2 leads to recovery (R356, R358). -/
def applyOutcome (s : State) (o : UnitOutcome) : State :=
  if stepSkipped s o then s
  else
    let s := enterOutcome s { o with tick := s.now - s.boot.startAt }
    if o.fails < 3 then unitReady s o
    else if o.step ≤ 2 then { s with boot := { s.boot with recovery := true, todo := [] } }
    else s

/-- The outcomes that are due, in order; DONE once none is left (R357). -/
def bootTick : Nat → State → State
  | 0, s => s
  | n + 1, s =>
    match s.boot.todo with
    | o :: rest =>
      if s.boot.startAt + o.tick ≤ s.now then
        let s := applyOutcome { s with boot := { s.boot with todo := rest } } o
        bootTick n (if s.boot.todo.isEmpty && !s.boot.recovery then setReady s 1 else s)
      else s
    | [] => s

/-- POWER_GOOD: start-up begins under a cap of 2,600 W; its outcomes follow as the ticks pass (R346, R356). -/
def execPowerGood (image backup : FwImage) (units : List UnitOutcome) (mgmt : List (Nat × Nat)) (svcRoot : Nat) (s : State) :
    Host.Outcome State Fault Refusal :=
  ifDue s (if s.boot.started then none
    else
      let b : Boot :=
        { started := true, todo := plannedOutcomes units image backup, startAt := s.now, mgmt := mgmt, svcRoot := svcRoot,
          fwMeasure := ((fwAccepted image backup).map fun f => ofLeBytes (sha384 f.bytes)).getD 0,
          svn := ((fwAccepted image backup).map fwVersion).getD 0 }
      some (bootTick 32 { s with supply := true, boot := b, power := { s.power with
             thermal := .normal, cap := 2600, capNext := 2600, lastDivision := s.now, lastReport := s.now } }))

/-- A leaf of the service's or a partition's tables names a frame of an HBM5 stack. -/
def stackNamed (s : State) (stack : Nat) : Bool :=
  (0 :: (s.parts.filter fun e => e.2.st != .free).map (·.1)).any fun tag => (leavesOf s tag).any fun x =>
    !x.e.peer && overlaps (x.e.pfn * 2 ^ 19) (2 ^ leafBits x.lvl) (stack * stackBits) stackBits

/-- A unit that may be redone: skipped, or a die step that its die has not come to; no partition holds a core of its die, and no leaf
names a frame of the stack (R358). -/
def mayRedo (s : State) (o : UnitOutcome) : Bool :=
  let skipped := match entryOf s o.step o.unit with
    | some e => e.res == 2
    | none => (o.step == 5 || o.step == 6) && diePassed s (o.step - 1) o.unit
  let held := ((o.step == 4 || o.step == 5 || o.step == 6)
    && s.parts.any fun e => e.2.cores.any fun c => dieOf c == o.unit) || (o.step == 3 && stackNamed s o.unit)
  decide (3 ≤ o.step) && decide (o.step ≤ 7) && skipped && !held && !s.boot.recovery
    && (s.boot.todo.all fun x => x.step != o.step || x.unit != o.unit)

/-- UNIT_REDO: RES 3 while it goes on, with three new tries (R358). The outcome's tick counts from power-good. -/
def execUnitRedo (o : UnitOutcome) (s : State) : Host.Outcome State Fault Refusal :=
  ifDue s (if mayRedo s o then
      some { s with boot := { s.boot with
        todo := s.boot.todo ++ [{ o with fails := min 3 o.fails }]
        record := s.boot.record.map fun e => if e.step == o.step && e.unit == o.unit then { e with res := 3 } else e } }
    else none)

/-! ### The watchdog (R353) -/

/-- HEARTBEAT_WRITE (R353). -/
def execHeartbeatWrite (v : Word) (s : State) : Host.Outcome State Fault Refusal :=
  .next { s with power := { s.power with hbWord := v, heartbeat := s.now } }

/-- The management cores are reset, and the firmware's strands start again; compute contexts keep running (R353). -/
def resetMgmt (s : State) : State :=
  let s := (List.range 8).foldl (fun s i =>
    let c := 0x1000 + i
    putCore ((List.range 8).foldl (fun s l => putStrand s c l {}) s) c {}) s
  s.boot.mgmt.foldl startMgmt { s with power := { s.power with heartbeat := s.now } }

/-- HEARTBEAT_MISS: no heartbeat in 2^24 ticks (R353). -/
def execHeartbeatMiss (s : State) : Host.Outcome State Fault Refusal :=
  ifDue s (if s.boot.ready.toNat % 2 = 1 && decide (s.power.heartbeat + 2 ^ 24 ≤ s.now) then
      some (resetMgmt (tellBoard s .heartbeatMissed))
    else none)

/-! ### Snapshots (R362) -/

/-- What a snapshot latches at a boundary: the tick, the ready word, the thermal state, the 72 port words and the 4,096 core
words, in that order; their places in the snapshot are the model's (log 29). -/
def snapshotWords (s : State) : NMap Nat :=
  ([s.now % 2 ^ 64, s.boot.ready.toNat, thermalCode s.power.thermal] ++ (List.range 72).map (fun p => portWord (getPort s p))
    ++ (List.range 4096).map fun c => coreWord s c).zipIdx.map fun e => (e.2, e.1)

/-- SNAPSHOT_TRIGGER: a trigger joins a latch that has not completed (R362). -/
def execSnapshotTrigger (s : State) : Host.Outcome State Fault Refusal :=
  .next { s with snap := { s.snap with pending := true } }

/-- A latch completes, and its snapshot can be read; the triggers that have joined it are served by it. -/
def completeLatch (s : State) : State := { s with snap := { seq := (s.snap.seq + 1) % 2 ^ 16, words := s.snap.shadow } }

/-- A latch completes at most 64 ticks after it began (R362). -/
def boundLatch (s : State) : State :=
  match s.snap.latchedAt with
  | some t => if t + 64 ≤ s.now then completeLatch s else s
  | none => s

/-- At the first boundary after a trigger every unit latches. -/
def snapTick (s : State) : State :=
  let s := boundLatch s
  if s.snap.pending && s.snap.latchedAt.isNone then
    { s with snap := { s.snap with latchedAt := some s.now, shadow := snapshotWords s } }
  else s

/-- SNAPSHOT_LATCH: the latch completes and can be read (R362). -/
def execSnapshotLatch (s : State) : Host.Outcome State Fault Refusal :=
  ifDue s (if s.snap.latchedAt.isSome then some (completeLatch s) else none)

/-! ### The management port (R361) -/

/-- What a read of a register of the port returns; a WO register reads zero (R9), and none is a NACK. -/
def i3cRead (s : State) (index : Nat) : Option Nat :=
  match index with
  | 0 => some s.boot.ready.toNat
  | 1 => some (thermalCode s.power.thermal)
  | 2 => some s.power.capNext
  | 3 => some 0
  | 4 => some s.snap.seq
  | 5 => some deviceId
  | _ => none

/-- A write of a register of the port: the cap, or a snapshot; one of an RO register is ignored, and none is a NACK. -/
def i3cWrite (index v : Nat) (s : State) : Option (Host.Outcome State Fault Refusal) :=
  match index with
  | 2 => some (execCapWrite v s)
  | 3 => some (if v = 1 then execSnapshotTrigger s else .next s)
  | 0 | 1 | 4 | 5 => some (.next s)
  | _ => none

end Sys2Proof.Machine
end

