-- ==== Sys2Proof/Machine/Control.lean ====
section
/-! DEFINITION. NOP and control flow (04 R62, R69, R72; 05 R100, R101). Every transfer is checked before any register is
written. -/

namespace Sys2Proof.Machine

/-- The target of a format B branch at a PC (R72). -/
def targetB (pc : Word) (off : BitVec 40) (slot : BitVec 3) : Word :=
  BitVec.ofInt 64 ((lineBase pc.toNat : Int) + off.toInt * 512 + 32 + 96 * slot.toNat)

/-- Transfer control to T, with a register effect that the transfer brings: none of it when a check fails (R69, R100). A target's
line on a peer is read first, and the instruction issues again. -/
def transfer (s : State) (c l : Nat) (T : Word) (effect : Strand → Strand) : State :=
  match checkTarget s c l T.toNat with
  | .fails code => takeTrap s c l code T.toNat
  | .ask dev => sendPeer s c l dev (lineBase T.toNat) (fetchReq T.toNat false)
  | .ok => onStrand s c l fun t => { effect t with pc := T }
  | .later => onStrand s c l fun t => { effect t with pc := T, tgtPending := true, badLine := none }

/-- NOP (R62). It has no guard and no operands. -/
def execNop (s : State) : Host.Outcome State Fault Refusal := .next (advance s s.cur.core s.cur.slot)

/-- BR (R100). -/
def execBr (gd : Guard) (off : BitVec 40) (slot : BitVec 3) (s : State) : Host.Outcome State Fault Refusal :=
  guarded gd [] (fun c l s => transfer s c l (targetB (getStrand s c l).pc off slot) id) s

/-- BRI (R100). -/
def execBri (gd : Guard) (a : GOp) (x : BitVec 38) (s : State) : Host.Outcome State Fault Refusal :=
  guarded gd [.g a] (fun c l s =>
    transfer s c l (BitVec.ofInt 64 (gVal (getStrand s c l) a + dispOf x)) id) s

/-- CALL: the link is the PC that follows (R100). -/
def execCall (gd : Guard) (a : GOp) (off : BitVec 40) (slot : BitVec 3) (s : State) : Host.Outcome State Fault Refusal :=
  guarded gd [.g a] (fun c l s =>
    transfer s c l (targetB (getStrand s c l).pc off slot) fun t => setG t t a (nextPc t.pc).toNat) s

/-- RET (R100). -/
def execRet (gd : Guard) (a : GOp) (s : State) : Host.Outcome State Fault Refusal :=
  guarded gd [.g a] (fun c l s => transfer s c l (BitVec.ofNat 64 (gVal (getStrand s c l) a)) id) s

/-- LOOP: count down, and branch unless the count is 0 (R100). -/
def execLoop (gd : Guard) (a : GOp) (off : BitVec 40) (slot : BitVec 3) (s : State) : Host.Outcome State Fault Refusal :=
  guarded gd [.g a] (fun c l s =>
    let t := getStrand s c l
    let n := wrapTo 64 ((gVal t a : Int) - 1)
    if n = 0 then onStrand s c l fun t => advanced (setG t t a 0)
    else transfer s c l (targetB t.pc off slot) fun t => setG t t a n) s

end Sys2Proof.Machine
end

