-- ==== Sys2Proof/Machine/DeltaEvents.lean ====
section
/-! DEFINITION. Steps of the delta queues: consolidation, drains and batches (09 R200; 16 R288 to R290; 26 R367). -/

namespace Sys2Proof.Machine

/-- DELTA_CONSOLIDATE: push j of a core, after the earlier ones of its strand and queue (R200, R367). -/
def execDeltaConsolidate (c j : Nat) (s : State) : Host.Outcome State Fault Refusal :=
  ifDue s (((getCore s c).q2[j]?).bind fun p => if firstPush s p then pushArrives s c p else none)

/-- BUFFER_TIMED_DRAIN: a buffer drains by time, at the latest 4,096 ticks after the oldest entry present was inserted, when a tick makes
it do so (R288). -/
def execBufferTimedDrain (ptag q : Nat) (s : State) : Host.Outcome State Fault Refusal :=
  ifDue s ((getQueue? s ptag q).bind fun x =>
    if !x.buf.isEmpty && !x.draining then some (drainQueue s ptag q) else none)

/-- DRAIN_RING_ROOM (R288). -/
def execDrainRingRoom (ptag q : Nat) (s : State) : Host.Outcome State Fault Refusal :=
  ifDue s ((getQueue? s ptag q).bind fun x => if x.draining then (drained x).map (putQueue s ptag q) else none)

/-! ### Batches (R290) -/

/-- The lowest epoch in a ring. -/
def lowestEpoch (ring : List DRec) : Option Nat :=
  ring.foldl (fun o r => match o with | none => some r.epoch | some e => some (min e r.epoch)) none

/-- The oldest records of an epoch, up to n, and the ring without them. -/
def takeBatch (e : Nat) : Nat → List DRec → List DRec × List DRec
  | _, [] => ([], [])
  | 0, rs => ([], rs)
  | n + 1, r :: rs =>
    if r.epoch = e then let (b, rest) := takeBatch e n rs; (r :: b, rest)
    else let (b, rest) := takeBatch e (n + 1) rs; (b, r :: rest)

/-- Records packed, 192 bits each, the first lowest. -/
def batchBits : List DRec → Nat
  | [] => 0
  | r :: rs => drecBits r + 2 ^ 192 * batchBits rs

/-- The batch area of the lowest number that is free. -/
def freeArea (q : Queue) : Option Nat := (List.range (min 4 q.areas.length)).find? fun a => !q.busy.contains a

/-- Whether a batch of an epoch may be formed. -/
def batchAllowed (q : Queue) (e : Nat) : Bool := decide (q.live.length < 4) && q.live.all (· == e)

/-- The stage record of a batch. -/
def stageRec (q : Queue) (l : Launch) (qn area e count sid : Nat) : Rec :=
  { pc := q.stagePc, g1 := BitVec.ofNat 64 (q.areas.getD area 0), g2 := BitVec.ofNat 64 count, g3 := BitVec.ofNat 64 e,
    g4 := BitVec.ofNat 64 qn, node := l.node, pri := 4, kind := .stage, kidx := l.kidx, checkTgt := true, sid := sid,
    stage := some ⟨qn, e, area⟩ }

/-- STAGE_BATCH_FORM: not before the target deque has room (R284, R290), nor while the launch node could not count its record, which no
instruction is there to raise 0x206 for (R277; log 83). -/
def execStageBatchForm (ptag q : Nat) (s : State) : Host.Outcome State Fault Refusal :=
  ifDue s ((getQueue? s ptag q).bind fun x => (getLaunch? s ptag x.launch).bind fun l =>
    (lowestEpoch x.ring).bind fun e => (freeArea x).bind fun area => (l.cores[q % l.cores.length]?).bind fun c =>
      if x.stagePc = 0 || !batchAllowed x e || !roomHead (getCore s c) || counterFull s ptag l.node then none
      else
        let (batch, rest) := takeBatch e 64 x.ring
        let s := putQueue s ptag q { x with ring := rest, busy := x.busy ++ [area], live := x.live ++ [e] }
        let s := hwWrite s c (x.areas.getD area 0) (192 * batch.length) (batchBits batch) 26
        let (s, sid) := freshSid s
        some (deqPushHead (incNode s ptag l.node) c (stageRec x l q area e batch.length sid)))

end Sys2Proof.Machine
end

