-- ==== Sys2Proof/Machine/MemEvents.lean ====
section
/-! DEFINITION. Steps of memory and translation: requests performed at their home slices and replies returned (01 R18;
07 R134, R141; 20 R328), lines fetched again (04 R64), walks, miss groups and fault buffers (19 R309 to R321). -/

namespace Sys2Proof.Machine

/-! ### Requests and replies -/

/-- Whether a request reads memory, so that a soft error can stop it (R134). -/
def reqReads (q : Req) : Bool :=
  match q.op with
  | .write .. | .poolWrite _ => false
  | _ => true

/-- HOME_SLICE_ACCESS: request i of core c, or its next part, is performed; an uncorrectable error in what it reads makes its reply
the trap 0x141 and writes nothing (R18, R53, R54, R134). -/
def execHomeSliceAccess (c i : Nat) (softErr : Bool) (s : State) : Host.Outcome State Fault Refusal :=
  ifDue s (((getCore s c).requests[i]?).map fun q =>
    let rest := fun s => onCore s c fun k => { k with requests := k.requests.eraseIdx i }
    if softErr && reqReads q then toInbox (rest s) c (.trap q.slot q.sid 0x141 (errorAddr q))
    else match performReq s c q with
      | .more s q => onCore s c fun k => { k with requests := k.requests.set i q }
      | .done s (some r) => toInbox (rest s) c r
      | .done s none => rest s)

/-- A RED may be performed: its strand's earlier REDs have been, here and at peers (R240; log 39). -/
def redDue (s : State) (c i : Nat) : Option Req :=
  ((getCore s c).reds[i]?).filter fun q =>
    ((getCore s c).reds.take i).all (fun r => r.sid != q.sid) && !redsAtPeer s q.sid fun _ => true

/-- RED_PERFORM. A fault of a RED is found when it issues (R141), its soft error too, so that none is met here (log 20). -/
def execRedPerform (c i : Nat) (softErr : Bool) (s : State) : Host.Outcome State Fault Refusal :=
  ifDue s (if softErr then none
    else (redDue s c i).map fun q =>
      (performAll (onCore s c fun k => { k with reds := k.reds.eraseIdx i }) c 1 q).1)

/-- The effective address of an access, for its traps (R133, R317, R338). A CHAIN's is that of the element it is at; `gr` is
the granule that an access which waits on a page waits for. -/
def reqAddr (s : State) (c l : Nat) (gr : Option Nat) (q : MemReq) : Nat :=
  match q.op with
  | .load ea .. | .store ea .. | .atomic ea .. | .red ea .. | .dep ea .. | .mrd ea .. | .sense ea .. | .tickr ea .. | .tadv ea ..
  | .marm ea .. | .arrget _ _ ea .. | .legs ea .. => ea
  | .fetch pc _ => lineBase pc
  | .chain e =>
    let t := getStrand s c l
    let src := (rdG t e.a).toNat
    let inSrc := match gr with
      | some g => (accessParts src e.sty.width).any fun p => p.1 / 2 ^ 19 == g
      | none => true
    if e.got.isNone && !e.srcPool && inSrc then src else (rdG t e.b).toNat

/-- An atomic that a peer performed at its home slice counts there (R142), and fires monitors if it wrote (R140, R144). -/
def peerAtomic (s : State) (c ea w : Nat) (fn : AtomicFn) (old : Nat) : State :=
  let s := onCore s c fun k => { k with acnt := placeAtomic.bumpAcnt k.acnt false }
  if (atomicNew fn old).isSome then firePeer s c ea w else s

/-- The second copy of a line is bad too: the strand that stands in the line traps, and one that reads the line for a target's check
alone notes it (R64, R69). -/
def badCopy (s : State) (c l base : Nat) : State :=
  if lineBase (getStrand s c l).pc.toNat = base then takeTrap s c l 0x140 base
  else wake (onStrand s c l fun t => { t with badLine := some base }) c l

/-- A line that a peer sent: it enters the instruction cache, or its second copy is asked for (R64, R69). -/
def peerLine (s : State) (c l pc : Nat) (again : Bool) (line : Nat) : State :=
  let base := lineBase pc
  if parityOk line then wake (fillLine s c base line) c l
  else if !again then sleep s c l (.refetch base)
  else badCopy s c l base

/-- The answer of a leg's peer, and the legs that are left (R53, R246). -/
def peerLeg (s : State) (c l : Nat) (q : MemReq) (v : Nat) : State :=
  match q.op with
  | .legs ea (g :: rest) got k =>
    resume s c l { q with op := .legs ea rest (got ++ [(g.ea, if k.reads then v % 2 ^ g.part.w else g.part.w)]) k }
  | _ => s

/-- The value a peer answered completes the access (07 R135 to R141; 21 R338). -/
def peerValue (s : State) (c l : Nat) (q : MemReq) (v : Nat) : State :=
  match q.op with
  | .load _ w sx dst => finish s c l dst (loadedValue w sx (v % 2 ^ w))
  | .store ea w _ => finish (firePeer s c ea w) c l .none 0
  | .red ea w fn => finish (peerAtomic s c ea w fn v) c l .none 0
  | .atomic ea w fn dst => finish (peerAtomic s c ea w fn v) c l dst (oldExtended (atomicType fn) v)
  | .dep ea _ _ dst => finish (firePeer s c ea 32) c l dst v
  | .mrd _ dst | .sense _ _ _ dst | .tickr _ dst | .tadv _ dst => finish s c l dst v
  | .fetch pc again => peerLine s c l pc again (v % 2 ^ 512)
  | .legs .. => peerLeg s c l q v
  | .marm .. | .chain _ | .arrget .. => wake s c l

/-- A peer's answer, or its want, reaches the strand that waits for it (R338). -/
def applyPeer (s : State) (c l sid : Nat) (q : MemReq) (r : PeerEnd) : State :=
  let t := getStrand s c l
  let waits := match t.status with
    | .asleep (.peer q' _) => q' == q
    | _ => false
  if t.live && t.sid == sid && waits then
    match r with
    | .value v => peerValue s c l q v
    | .trap code => takeTrap s c l code (reqAddr s c l none q)
  else s

/-- A RED at a peer has ended: the strands of a core that wait for REDs execute again, and those that were to retire and have none left
there retire (R141, R194). A core that is parked does so when it goes on. -/
def wakeReds (s : State) (c : Nat) : State :=
  if !coreAwake s c then s
  else (List.range 8).foldl
    (fun s l =>
      let t := getStrand s c l
      match t.status with
      | .asleep .reds => if t.live then wake s c l else s
      | .asleep (.retire cause) => if t.live then retireStrand s c l cause else s
      | _ => s) s

/-- A RED at a peer has failed: its strand takes the code, with its PC at the RED, when it would next issue, and leaves a wait that
can be executed again for it (R141, R156, R338; log 20). -/
def redFails (s : State) (c l sid ea code : Nat) (pc : Word) : State :=
  let t := getStrand s c l
  if t.live && t.sid == sid then
    onStrand s c l fun t =>
      { (match t.status with
          | .asleep w => if interrupted w then { t with status := .ready } else t
          | .ready => t) with redFault := t.redFault.or (some (code, ea, pc)) }
  else s

/-- A reply reaches its strand, if the strand still stands at the access; a steal's reply its thief. -/
def applyReply (s : State) (c : Nat) (r : Reply) : State :=
  match r with
  | .peer slot sid q r => applyPeer s c slot sid q r
  | .value slot sid dst v => applyValue s c slot sid dst v
  | .trap slot sid code tval =>
    let t := getStrand s c slot
    if t.live && t.sid == sid && t.status == .asleep .access then takeTrap s c slot code tval else s
  | .steal slot out r => applySteal s c slot out r

/-- LOAD_RETURN: a core that is parked keeps its inbox (R54, R328). -/
def execLoadReturn (c i : Nat) (s : State) : Host.Outcome State Fault Refusal :=
  ifDue s (if coreAwake s c then
      ((getCore s c).inbox[i]?).map fun r =>
        applyReply (onCore s c fun k => { k with inbox := k.inbox.eraseIdx i }) c r
    else none)

/-- LINE_PARITY_REFETCH: the second copy is kept, or the strand takes 0x140; whether the second reading meets a soft error too is a
free value. The second copy is read at its home slice. A line whose translation has gone is fetched anew, and a peer's line is asked
for again (R64, R66). -/
def execLineParityRefetch (c l : Nat) (s : State) : Host.Outcome State Fault Refusal :=
  onWait s c l fun w => match w with
    | .refetch base => match lineSource s c base with
      | .here line =>
        let s := reachSource s c base
        if parityOk line && Config.freeWord s.draw 7 % 2 == 0 then some (wake (fillLine s c base line) c l)
        else some (badCopy s c l base)
      | .peer dev => some (sendPeer s c l dev base (fetchReq base true))
      | .unreadable => some (wake s c l)
    | _ => none

/-! ### Fault buffers and error logs (R313 to R315, R321) -/

/-- The bit address of a partition's fault buffer (R313). -/
def faultBufAddr (tag : Nat) : Nat := internalBase + 2048 * tag

/-- A buffer of n entries takes an entry, or counts it as lost (R315, R321). -/
def recordEntry (f : FaultBuf) (n : Nat) (e : LogEntry) : FaultBuf :=
  let e := { e with seq := f.seq % 2 ^ 16 }
  if f.nrec < n then { f with entries := nset f.entries f.nrec e, nrec := f.nrec + 1, seq := f.seq + 1 }
  else { f with drop := true, lost := min 65535 (f.lost + 1), seq := f.seq + 1 }

/-- The service's monitor over a partition's fault buffer fires, once per arming (R368). -/
def fireWatch (s : State) (tag : Nat) : State :=
  match nget? s.watches tag with
  | some w => if w.wokeAt.isNone then { s with watches := nset s.watches tag { w with fired := true } } else s
  | none => s

/-- A group is recorded in its partition's fault buffer; monitors over the header fire (R315). -/
def recordGroup (s : State) (g : Group) (lvl : Nat) (bad : Bool) : State :=
  let e : LogEntry := { va := g.va, core := g.core, src := g.src, wlvl := lvl, bad := bad, job := g.job }
  fireGlobal (onPart (fireWatch s g.tag) g.tag fun p => { p with fbuf := recordEntry p.fbuf 8 e }) (faultBufAddr g.tag) 128

/-- FAULT_BUFFER_CLR (R313, R369). -/
def execFaultBufferClr (ptag : Nat) (s : State) : Host.Outcome State Fault Refusal :=
  .next (physWrite s noCore 0 (faultBufAddr (ptag % 64)) 64 (2 ^ 62))
/-- FAULT_BUFFER_DROP_CLEAR (R313). -/
def execFaultBufferDropClear (ptag : Nat) (s : State) : Host.Outcome State Fault Refusal :=
  .next (physWrite s noCore 0 (faultBufAddr (ptag % 64)) 64 (2 ^ 63))

/-- An entry of a die's error log (R321). -/
def logError (s : State) (die pa src count : Nat) : State :=
  let e : LogEntry := { va := pa, src := src, job := min 65535 count }
  onDie s die fun d => { d with log := recordEntry d.log 64 e }

/-- ERROR_LOG_ENTRY: an uncorrectable error is logged; a corrected one counts, and its frame is logged when it reaches 8
(R321). -/
def execErrorLogEntry (die pa : Nat) (hard : Bool) (s : State) : Host.Outcome State Fault Refusal :=
  let frame := pa / 2 ^ 19
  let n := nget s.corrected 0 frame
  if hard then .next (logError s (die % 4) pa 1 n)
  else
    let s := { s with corrected := nset s.corrected frame (n + 1) }
    .next (if n + 1 = 8 then logError s (die % 4) pa 0 8 else s)

/-! ### Walks and groups (R309, R311, R312, R316, R317) -/

/-- Whether a walk from a table reads an entry at a level; `lvl` is the level below the fuel. -/
def reachesFrom (s : State) (va L : Nat) : Nat → Nat → Bool
  | 0, _ => false
  | lvl + 1, table =>
    if lvl = L then true
    else
      let e := readPte s table va lvl
      e.type == 1 && bitsAt e.bits 2 89 == 0 && reachesFrom s va L lvl e.next

/-- How the walk of a group ends; an uncorrectable error in an entry it reads makes it a miss marked BAD there (R309,
R321). -/
def groupWalk (s : State) (g : Group) (bad : Option Nat) : WalkEnd :=
  match bad with
  | some L => if reachesFrom s g.va L 4 (rootOf s g.tag) then .miss L true else walk s g.tag g.va
  | none => walk s g.tag g.va

/-- The access a member of a group waits with, if it still waits. -/
def memberReq (s : State) (c l sid : Nat) : Option MemReq :=
  let t := getStrand s c l
  if t.live && t.sid == sid then (match t.status with | .asleep (.translate q) => some q | _ => none) else none

/-- The command that a member of a group stands for, if it still waits. A matrix job reads and writes no global memory. -/
def memberCmd (s : State) (c : Nat) (mat : Bool) (id : Nat) : Option Cmd := (findCmd s c mat id).filter (·.stalled)

/-- A member's access is made, with the translation in its core's TLB (R316, R319). -/
def performMember (s : State) (x : Xlat) (m : Member) : State :=
  match m with
  | .strand c l sid => match memberReq s c l sid with
    | some q => resume (fillTlb s c x) c l q
    | none => s
  | .engine c mat id => match memberCmd s c mat id with
    | some m => copyAccess (fillTlb s c x) { m with stalled := false }
    | none => s

/-- A member's access is refused (R317). -/
def refuseMember (s : State) (g : Group) (m : Member) : State :=
  match m with
  | .strand c l sid => match memberReq s c l sid with
    | some q => takeTrap s c l 0x0C1 (reqAddr s c l (some g.granule) q)
    | none => s
  | .engine c mat id => match memberCmd s c mat id with
    | some m => endCmd s { m with stalled := false } (some (0x1C5, m.prog.pos))
    | none => s

/-- The group at an index leaves its die: its entry is free (R312). -/
def dropGroup (s : State) (d i : Nat) : State := onDie s d fun x => { x with groups := x.groups.eraseIdx i }

/-- A miss of the group's tenant waits already for an entry of the die (R312). -/
def othersWait (s : State) (d : Nat) (g : Group) : Bool :=
  (getDie s d).waiting.any fun h => holderOf s h.tag == holderOf s g.tag

/-- A walk of group i ends: its accesses are made in order of arrival, or refused, or it is a miss. The group that holds an entry, or
gets one now, is recorded and stays; else its accesses wait at the second-level TLB, unrecorded (R309, R312, R315 to R317). -/
def endWalk (s : State) (d i : Nat) (g : Group) (bad : Option Nat) : State :=
  let s := reachWalk s g.tag g.va
  match groupWalk s g bad with
  | .hit x => g.members.foldl (fun s m => performMember s x m) (setAccessed (dropGroup s d i) x)
  | .refused => g.members.foldl (fun s m => refuseMember s g m) (dropGroup s d i)
  | .miss lvl isBad =>
    if g.held || (entryFree s d g.tag && !othersWait s d g) then
      recordGroup (onDie s d fun x => { x with groups := x.groups.set i { g with walking := false, held := true } }) g lvl isBad
    else onDie (dropGroup s d i) d fun x => { x with waiting := x.waiting ++ [{ g with walking := false }] }

/-- PAGE_WALK_COMPLETE (R309). -/
def execPageWalkComplete (die i : Nat) (bad : Option Nat) (s : State) : Host.Outcome State Fault Refusal :=
  ifDue s (match (getDie s die).groups[i]? with
    | some g => if g.walking then some (endWalk s die i g bad) else none
    | none => none)

/-- RETRY_WALK (R316). -/
def execRetryWalk (die i : Nat) (bad : Option Nat) (s : State) : Host.Outcome State Fault Refusal :=
  ifDue s (match (getDie s die).groups[i]? with
    | some g => if g.retry && !g.walking then some (endWalk s die i { g with retry := false } bad) else none
    | none => none)

/-- Whether a waiting miss is the first of its tenant (R312). -/
def firstOfTenant (s : State) (d i : Nat) (g : Group) : Bool :=
  ((getDie s d).waiting.take i).all fun h => holderOf s h.tag != holderOf s g.tag

/-- GROUP_OPEN_DEFERRED: a waiting miss takes an entry and walks again, or joins a group that is open by now (R311, R312;
log 54). -/
def execGroupOpenDeferred (die i : Nat) (s : State) : Host.Outcome State Fault Refusal :=
  ifDue s (match (getDie s die).waiting[i]? with
    | some g =>
      let out := fun s => onDie s die fun d => { d with waiting := d.waiting.eraseIdx i }
      if !firstOfTenant s die i g then none
      else if (getDie s die).groups.any fun h => h.tag == g.tag && h.granule == g.granule then
        some (onDie (out s) die fun d => { d with groups := d.groups.map fun h =>
          if h.tag == g.tag && h.granule == g.granule then { h with members := h.members ++ g.members } else h })
      else if entryFree s die g.tag then
        let g' := { g with walking := true, retry := false, held := true }
        some (onDie (out s) die fun d => { d with groups := d.groups ++ [g'] })
      else none
    | none => none)

end Sys2Proof.Machine
end

