-- ==== Sys2Proof/Machine/Links.lean ====
section
/-! DEFINITION. Links: scale-up ports, accesses to peers, collectives, and the Ultra Ethernet ports (13 R246, R247; 21 R335 to
R342). A deadline of n ticks is missed from the n-th tick on (R341's example). -/

namespace Sys2Proof.Machine

/-! ### Scale-up ports (R335 to R337) -/

/-- A port enters a state. -/
def portGoes (s : State) (p : Nat) (st : PortSt) : State := putPort s p { getPort s p with st := st, run := 0, since := s.now }

/-- A port of a die whose links have started (R356). -/
def portUsable (s : State) (p : Nat) : Bool := decide (p < 72) && diePassed s 6 (p / 18) && !s.gated.contains (.port p)

/-- PORT_ENABLE: counters are cleared on entry to TRAINING (R336, R337). -/
def execPortEnable (p : Nat) (s : State) : Host.Outcome State Fault Refusal :=
  ifDue s (if portUsable s p && ((getPort s p).st == .off || (getPort s p).st == .failed) then
      some (putPort s p { st := .training, since := s.now })
    else none)

/-! ### Answers from peers (R246, R338) -/

/-- How a request ends that a peer answers. -/
def endOf : PeerAnswer → PeerEnd
  | .value v => .value v
  | .refused => .trap 0x342

/-- A request that no strand waited for has been performed at the peer, or has failed there: a RED's failure reaches its strand, and
nothing more comes of a write of the hardware (log 20). -/
def postedEnds (s : State) (r : PeerReq) (a : PeerEnd) : State :=
  match a, r.q.op with
  | .value v, .red ea w fn => peerAtomic s r.core ea w fn v
  | .trap code, .red ea .. => redFails s r.core r.slot r.sid ea code r.pc
  | .value _, .store ea w _ => firePeer s r.core ea w
  | _, _ => s

/-- A peer's answer agrees with what was taken of a CAS when it left (R140; log 84). -/
def answerFits (q : MemReq) (r : PeerAnswer) : Bool :=
  match q.op, r with
  | .atomic _ _ fn _, .value v => (atomicNew fn v).isNone == q.fails
  | _, _ => true

/-- What an engine's request wrote at a peer fires the monitors over its bits (R144). -/
def peerWrote (s : State) (r : PeerReq) (v : Nat) : State :=
  match r.q.op with
  | .store ea w _ => firePeer s r.core ea w
  | .atomic ea w fn _ => if (atomicNew fn v).isSome then firePeer s r.core ea w else s
  | _ => s

/-- What a request's answer, or its want, does: an engine's element has its value, or its command ends with the code; a
strand's reply is applied, or kept in the inbox of a core that is parked. -/
def peerAnswered (s : State) (r : PeerReq) (id : Nat) (a : PeerEnd) : State :=
  if r.red then wakeReds (postedEnds s r a) r.core
  else match r.engine with
    | some (mat, cmdId) =>
      match findCmd s r.core mat cmdId with
      | none => s
      | some m =>
        if m.prog.asked ≠ some id then s
        else
          let m := { m with prog := { m.prog with asked := none } }
          match a with
          | .value v => setCmd (peerWrote s r v) { m with prog := { m.prog with answers := m.prog.answers ++ [v] } }
          | .trap code => endCmd s m (some (code, r.pos))
    | none =>
      let reply := Reply.peer r.slot r.sid r.q a
      if coreAwake s r.core then applyReply s r.core reply else toInbox s r.core reply

/-- What a port held that is lost moves to another UP port to the same peer; where there is none, its requests fail with 0x341
(R336, R338). -/
def portLost (s : State) (p : Nat) : State :=
  (s.peers.filter fun e => e.2.port == p).foldl
    (fun s e => match upPort s e.2.dev with
      | some p' => { s with peers := nset s.peers e.1 { e.2 with port := p' } }
      | none => peerAnswered { s with peers := nerase s.peers e.1 } e.2 e.1 (.trap 0x341)) s

/-- PORT_DISABLE (R336). -/
def execPortDisable (p : Nat) (s : State) : Host.Outcome State Fault Refusal :=
  ifDue s (if (getPort s p).st = .up ∨ (getPort s p).st = .failed then some (portLost (portGoes s p .off) p) else none)

/-- PORT_TRAINED: within 100,000 ticks; a training learns the peer, a retraining keeps it (R336). -/
def execPortTrained (p dev pport : Nat) (s : State) : Host.Outcome State Fault Refusal :=
  ifDue s (let x := getPort s p
    if s.now < x.since + 100000 then
      match x.st with
      | .training =>
        if 1 ≤ dev ∧ dev ≤ 255 ∧ pport < 128 then
          some (portGoes (putPort s p { x with pdev := dev, pport := pport }) p .up)
        else none
      | .retrain => some (portGoes s p .up)
      | _ => none
    else none)

/-- TRAINING_TIMEOUT (R336). -/
def execTrainingTimeout (p : Nat) (s : State) : Host.Outcome State Fault Refusal :=
  ifDue s (let x := getPort s p
    if (x.st = .training ∨ x.st = .retrain) ∧ x.since + 100000 ≤ s.now then some (portLost (portGoes s p .failed) p)
    else none)

/-- LOSS_OF_SIGNAL (R336). -/
def execLossOfSignal (p : Nat) (s : State) : Host.Outcome State Fault Refusal :=
  ifDue s (if (getPort s p).st = .up then some (portGoes s p .retrain) else none)

/-- FLIT_REPLAY: counted, and eight of one flit in a row take an UP port to RETRAIN (R335 to R337). -/
def execFlitReplay (p : Nat) (crc same : Bool) (s : State) : Host.Outcome State Fault Refusal :=
  ifDue s (let x := getPort s p
    if x.st = .up ∨ x.st = .retrain then
      let x := { x with rply := min 65535 (x.rply + 1), crce := min 65535 (x.crce + crc.toNat),
                        run := if same then x.run + 1 else 1 }
      let s := putPort s p x
      some (if x.st = .up && decide (8 ≤ x.run) then portGoes s p .retrain else s)
    else none)

/-! ### Accesses to peers and from them (R246, R338) -/

/-- PEER_RESPONSE: within 65,536 ticks, through a port that is UP (R336, R338). -/
def execPeerResponse (j : Nat) (r : PeerAnswer) (s : State) : Host.Outcome State Fault Refusal :=
  ifDue s ((nget? s.peers j).bind fun q =>
    if s.now < q.at_ + 65536 && portTo s q.dev && answerFits q.q r then some (peerAnswered { s with peers := nerase s.peers j } q j (endOf r))
    else none)

/-- PEER_ACCESS_TIMEOUT (R338). -/
def execPeerAccessTimeout (j : Nat) (s : State) : Host.Outcome State Fault Refusal :=
  ifDue s ((nget? s.peers j).bind fun q =>
    if q.at_ + 65536 ≤ s.now then some (peerAnswered { s with peers := nerase s.peers j } q j (.trap 0x340)) else none)

/-- A peer device comes to a line of this device's HBM, at its home slice: accesses to it that a release at te, whose instance may
reach that device, has passed are performed first (R244 to R246). -/
def peerReaches (s : State) (line : Nat) : State :=
  reachLine (flushAll s fun _ q => touchesLine [line] q && q.marks.any (·.sc == .te)) noCore line

/-- An atomic on a line that a peer device makes: an AMO, or a CAS that writes when it holds (R57, R140). -/
def peerUpdates (s : State) (key pa w : Nat) (fn : AtomicFn) : State :=
  match atomicNew fn (physRead s key pa w) with
  | some v => physWrite s noCore key pa w v
  | none => s

/-- An access of a peer device to a line that is homed here, wholly within it (R246). Its answer leaves the device. -/
def peerAccess (s : State) (a : PeerAccess) : State :=
  let at_ := fun pa w k => if 0 < w && pa % 512 + w ≤ 512 && pa + w ≤ hbmBits then k (peerReaches s (lineOf pa)) else s
  match a with
  | .read _ pa w => at_ pa w id
  | .write key pa w v => at_ pa w fun s => physWrite s noCore key pa w (v % 2 ^ w)
  | .amo key pa f b => at_ pa (amoWidth f) fun s => peerUpdates s key pa (amoWidth f) (.amo f b)
  | .cas key pa t cmp new => at_ pa (vtypeWidth t) fun s => peerUpdates s key pa (vtypeWidth t) (.cas t cmp new)

/-! ### A partition's memory as the device reads and writes it -/

/-- A page of a partition. -/
def partXlat (s : State) (tag va : Nat) : Option Xlat :=
  if canonical va then (match walk s tag va with | .hit x => some x | _ => none) else none

/-- Every line part of w bits has a page with the right. -/
def partHas (s : State) (tag ea w : Nat) (wr : Bool) : Bool :=
  (lineParts (w / 512 + 2) ea w).all fun p => match partXlat s tag p.1 with
    | some x => if wr then x.wr else x.rd
    | none => false

/-- The peer of a page of w bits towards which no port is UP (R338). -/
def partDown (s : State) (tag ea w : Nat) : Option Nat :=
  ((lineParts (w / 512 + 2) ea w).findSome? fun p => (partXlat s tag p.1).filter fun x => x.peer && !portTo s x.dev).map (·.dev)

/-- w bits read; what lies on a peer, which answers, or in a page that has gone is a free value (R246; log 30). -/
def partRead (s : State) (tag ea w : Nat) : Nat :=
  (lineParts (w / 512 + 2) ea w).foldr
    (fun p n => (match partXlat s tag p.1 with
      | some x => if x.peer then Config.freeWord s.draw p.1 % 2 ^ p.2 else physRead s x.key (x.phys p.1) p.2
      | none => Config.freeWord s.draw p.1 % 2 ^ p.2) + 2 ^ p.2 * n) 0

/-- One part written through its page, at a peer when the page is a peer's (R246, R308); nothing where no page is, or no port is UP. -/
def partPut (s : State) (tag ea w v : Nat) : State :=
  match partXlat s tag ea with
  | none => s
  | some x =>
    if !x.peer then writePart s noCore (x.part ea w) v
    else if portTo s x.dev then
      postPeer (setDirty s x.leaf) ((getPart s tag).cores.headD 0) 0 0 x.dev { op := .store ea w v, sc := .sy }
    else s

/-- w bits written, but for those in a page that has gone. -/
def partWrite (s : State) (tag ea w v : Nat) : State :=
  ((lineParts (w / 512 + 2) ea w).foldl
    (fun e p => (partPut e.1 tag p.1 p.2 (e.2 % 2 ^ p.2), e.2 / 2 ^ p.2)) (s, v)).1

/-! ### Collectives (R339 to R341) -/

def collSrc (d : Nat) : Nat := bitsAt d 448 64
def collDst (d : Nat) : Nat := bitsAt d 384 64
def collStat (d : Nat) : Nat := bitsAt d 320 64
def collCount (d : Nat) : Nat := bitsAt d 288 32
def collSeq (d : Nat) : Nat := bitsAt d 272 16
def collGroup (d : Nat) : Nat := bitsAt d 264 8
def collOp (d : Nat) : Nat := bitsAt d 260 4
def collRed (d : Nat) : Nat := bitsAt d 258 2
def collFmt (d : Nat) : Nat := bitsAt d 256 2
def collRoot (d : Nat) : Nat := bitsAt d 248 8
/-- The timeout in ticks; 0 means 2^20. -/
def collTmo (d : Nat) : Nat := if bitsAt d 210 30 = 0 then 2 ^ 20 else bitsAt d 210 30

/-- Width of an element. -/
def collWidth (d : Nat) : Nat := if collFmt d = 1 then 16 else 32

/-- Where rank r's block of a reduce-scatter of n ranks begins, in elements (log 31). -/
def scatterAt (d n r : Nat) : Nat := r * collCount d / n

/-- Bits that rank r's destination takes. -/
def collDstBits (d n r : Nat) : Nat :=
  collWidth d * (match collOp d with
    | 1 => scatterAt d n (r + 1) - scatterAt d n r
    | 2 => n * collCount d
    | _ => collCount d)

/-- A descriptor's own fields are assigned, and its buffers are the partition's (R339; the latter log 30). -/
def collOk (s : State) (tag d n r : Nat) : Bool :=
  decide (collOp d ≤ 3) && collRed d != 3 && (collOp d < 2 || collRed d == 0) && collFmt d != 3
    && (if collOp d = 3 then decide (collRoot d < n) else collRoot d == 0) && bitsAt d 240 8 == 0 && bitsAt d 0 210 == 0
    && collStat d % 64 == 0
    && ((collOp d == 3 && r != collRoot d) || partHas s tag (collSrc d) (collWidth d * collCount d) false)
    && partHas s tag (collDst d) (collDstBits d n r) true

/-- A status word (R341). -/
def collStatus (st why dev seq : Nat) : Nat :=
  st % 4 * 2 ^ 62 + why % 64 * 2 ^ 56 + dev % 256 * 2 ^ 48 + seq % 2 ^ 16

def writeStatus (s : State) (tag d st why dev : Nat) : State :=
  partWrite s tag (collStat d) 64 (collStatus st why dev (collSeq d))

def getGroup? (s : State) (g : Nat) : Option CollGroup := nget? s.groups g
def putGroup (s : State) (g : Nat) (x : CollGroup) : State := { s with groups := nset s.groups g x }

/-- The ranks of a group on this device, with their partition tags. -/
def localRanks (x : CollGroup) : List (Nat × Nat) :=
  (x.ranks.zipIdx.filter fun e => e.1.1 == Config.deviceNumber).map fun e => (e.2, e.1.2)

/-- The oldest post of a partition to a group. -/
def oldestPost (x : CollGroup) (tag : Nat) : Option Post := x.posts.find? fun p => p.tag == tag

/-- A rank of a group fails: its oldest post of the SEQ, or of any, ends with WHY and DEV; without one, and where its post of the SEQ
has not ended by itself, its next post will (R341). -/
def failRank (s : State) (g : Nat) (q : Option Nat) (why dev : Nat) (e : Nat × Nat) : State :=
  match getGroup? s g with
  | none => s
  | some x =>
    match (oldestPost x e.2).filter fun p => q.isNone || q == some (collSeq p.desc) with
    | some p => putGroup (writeStatus s e.2 p.desc 2 why dev) g { x with posts := x.posts.erase p }
    | none =>
      if x.ended.any fun y => y.1 == e.1 && some y.2 == q then
        putGroup s g { x with ended := x.ended.filter fun y => !(y.1 == e.1 && some y.2 == q) }
      else putGroup s g { x with owed := x.owed ++ [(e.1, why, dev)] }

/-- A collective fails for some local ranks of its group: the one of a SEQ, or the one that each is at (R341). -/
def failRound (s : State) (g : Nat) (q : Option Nat) (why dev : Nat) (ranks : List (Nat × Nat)) : State :=
  ranks.foldl (fun s e => failRank s g q why dev e) s

/-- A post of rank r with its descriptor: it ends by itself with WHY 5 or 3, with the failure of a collective that failed before it,
or with WHY 4, when its SEQ does not follow the rank's last, which fails its collective for every participant; else its group takes it
(R339 to R341; log 66). The DEV of a WHY 4 is not given: a free value. -/
def postOfRank (s : State) (g : Nat) (x : CollGroup) (r tag d : Nat) (full : Bool) : State :=
  let openDev := Config.freeWord s.draw 4
  let follows := match nget? x.nextSeq r with
    | some q => q == collSeq d
    | none => true
  let owed := x.owed.find? fun e => e.1 == r
  let x := { x with nextSeq := nset x.nextSeq r ((collSeq d + 1) % 2 ^ 16),
                    owed := match owed with | some e => x.owed.erase e | none => x.owed }
  let alone := fun why => putGroup (writeStatus s tag d 2 why Config.deviceNumber) g
    (if owed.isSome then x else { x with ended := x.ended ++ [(r, collSeq d)] })
  if full then alone 5
  else if !collOk s tag d x.ranks.length r then alone 3
  else match owed with
    | some e => putGroup (writeStatus s tag d 2 e.2.1 e.2.2) g x
    | none =>
      if follows then putGroup s g { x with posts := x.posts ++ [⟨tag, d, s.now⟩] }
      else failRound (putGroup (writeStatus s tag d 2 4 openDev) g x) g none 4 openDev
        ((localRanks x).filter fun e => e.1 != r || (oldestPost x tag).isSome)

/-- A post with its descriptor: of a participant of its group, or turned away with WHY 5, 3 or 4 (R339, R341). -/
def takePost (s : State) (tag d : Nat) (full : Bool) : State :=
  let g := collGroup d
  let away := fun why dev => writeStatus s tag d 2 why dev
  match (getGroup? s g).bind fun x => ((localRanks x).find? fun e => e.2 == tag).map fun e => (x, e.1) with
  | some (x, r) => postOfRank s g x r tag d full
  | none =>
    if full then away 5 Config.deviceNumber
    else if collOk s tag d 256 0 then away 4 (Config.freeWord s.draw 4)
    else away 3 Config.deviceNumber

/-- COLLECTIVE_POST: the oldest post of a partition is taken. A descriptor that cannot be read names no status word
(R339; log 30). -/
def execCollectivePost (ptag : Nat) (s : State) : Host.Outcome State Fault Refusal :=
  ifDue s (match (getPart s ptag).posts with
    | [] => none
    | a :: rest =>
      let s := onPart s ptag fun p => { p with posts := rest }
      some (if partHas s ptag a.1 512 false then takePost s ptag (partRead s ptag a.1 512) a.2 else s))

/-- Two contributions' elements combined (R340). -/
def collCombine (d a b : Nat) : Nat :=
  match collFmt d, collRed d with
  | 0, 0 => floatAdd .f32 .rne 0 a b
  | 0, 1 => floatMax .f32 a b
  | 0, _ => floatMin .f32 a b
  | 1, 0 => floatAdd .bf16 .rne 0 a b
  | 1, 1 => floatMax .bf16 a b
  | 1, _ => floatMin .bf16 a b
  | _, 0 => amoInt .i32 .add a b
  | _, 1 => amoInt .i32 .max a b
  | _, _ => amoInt .i32 .min a b

/-- n elements from element i on, combined in ascending rank. -/
def collReduce (d : Nat) (cs : List Nat) (i : Nat) : Nat → Nat
  | 0 => 0
  | n + 1 =>
    let w := collWidth d
    let e := match cs with
      | [] => 0
      | c :: rest => rest.foldl (fun a c => collCombine d a (bitsAt c (i * w) w)) (bitsAt c (i * w) w)
    e + 2 ^ w * collReduce d cs (i + 1) n

/-- What rank r receives. -/
def collResult (d : Nat) (cs : List Nat) (r : Nat) : Nat :=
  let w := collWidth d * collCount d
  match collOp d with
  | 0 => collReduce d cs 0 (collCount d)
  | 1 => collReduce d cs (scatterAt d cs.length r) (scatterAt d cs.length (r + 1) - scatterAt d cs.length r)
  | 2 => cs.foldr (fun c n => c % 2 ^ w + 2 ^ w * n) 0
  | _ => cs.getD (collRoot d) 0 % 2 ^ w

/-- The SEQ of the collective that a group is at: a local rank's oldest post carries it, and every other local rank's does too, or has
still to come, or has ended by itself (R340). -/
def collRound (x : CollGroup) : Option Nat :=
  let oldest := (localRanks x).filterMap fun e => (oldestPost x e.2).map fun p => collSeq p.desc
  oldest.find? fun q => (localRanks x).all fun e => match oldestPost x e.2 with
    | some p => collSeq p.desc == q || x.ended.contains (e.1, q)
    | none => true

/-- The posts of the collective of a SEQ, by rank, and the tick by which the others must contribute to it: its timeout from the first of
them (R341). -/
def roundPosts (x : CollGroup) (q : Nat) : List (Nat × Post) :=
  (localRanks x).filterMap fun e => ((oldestPost x e.2).filter fun p => collSeq p.desc == q).map fun p => (e.1, p)
def deadline (ps : List (Nat × Post)) : Nat :=
  match ps with
  | [] => 0
  | p :: rest =>
    rest.foldl (fun n e => min n e.2.at_) p.2.at_ + rest.foldl (fun n e => min n (collTmo e.2.desc)) (collTmo p.2.desc)

/-- Those that have contributed in time. -/
def inTime (ps : List (Nat × Post)) : List (Nat × Post) := ps.filter fun e => decide (e.2.at_ < deadline ps)

/-- A participant's destination is written, and then its status word (R341). -/
def finishPost (s : State) (g : Nat) (cs : List Nat) (e : Nat × Post) : State :=
  let (r, p) := e
  let s := partWrite s p.tag (collDst p.desc) (collDstBits p.desc cs.length r) (collResult p.desc cs r)
  let s := writeStatus s p.tag p.desc 1 0 0
  match getGroup? s g with
  | some x => putGroup s g { x with posts := x.posts.erase p }
  | none => s

/-- Every rank's contribution: this device's from memory, the others' as they arrived; none while one is missing. -/
def gather (s : State) (x : CollGroup) (ps : List (Nat × Post)) (parts : List (Nat × Contribution)) : Option (List Nat) :=
  (x.ranks.zipIdx.foldr (fun e acc => acc.bind fun cs =>
    if e.1.1 = Config.deviceNumber then (ps.find? fun p => p.1 == e.2).map fun p =>
      partRead s p.2.tag (collSrc p.2.desc) (collWidth p.2.desc * collCount p.2.desc) :: cs
    else match parts.find? fun p => p.1 == e.2 with
      | some (_, Contribution.bits v) => some (v :: cs)
      | _ => none) (some []))

/-- A failure that a remote participant reports: with a WHY that is written to every participant (R341). -/
def failedPart (x : CollGroup) (parts : List (Nat × Contribution)) : Option (Nat × Nat) :=
  parts.findSome? fun p => match p.2 with
    | .failed why dev =>
      if (why == 1 || why == 2 || why == 4 || why == 6) && (x.ranks[p.1]?).any (fun e => e.1 != Config.deviceNumber) then
        some (why, dev % 256)
      else none
    | .bits _ => none

/-- A peer that holds a buffer of the collective and that no port reaches (R338, R341). -/
def buffersDown (s : State) (n : Nat) (ps : List (Nat × Post)) : Option Nat :=
  ps.findSome? fun e =>
    (partDown s e.2.tag (collSrc e.2.desc) (collWidth e.2.desc * collCount e.2.desc)).or
      (partDown s e.2.tag (collDst e.2.desc) (collDstBits e.2.desc n e.1))

/-- COLLECTIVE_COMPLETE: done for every participant when all have contributed in time; or failed, when local posts carry unlike SEQs,
with a remote participant's WHY and DEV, or with WHY 6, where a buffer lies on a peer that no port reaches (R340, R341). -/
def execCollectiveComplete (grp : Nat) (parts : List (Nat × Contribution)) (s : State) : Host.Outcome State Fault Refusal :=
  ifDue s ((getGroup? s grp).bind fun x =>
    if x.posts.isEmpty then none
    else match collRound x with
      | none => some (failRound s grp none 4 (Config.freeWord s.draw 4) (localRanks x))
      | some q => match failedPart x parts with
        | some (why, dev) => some (failRound s grp (some q) why dev (localRanks x))
        | none =>
          let ps := inTime (roundPosts x q)
          match buffersDown s x.ranks.length ps with
          | some dev => some (failRound s grp (some q) 6 dev (localRanks x))
          | none => (gather s x ps parts).map fun cs => ps.foldl (fun s e => finishPost s grp cs e) s)

/-- This device is missing from a collective: a local rank has not contributed in time. -/
def missingHere (x : CollGroup) (q : Nat) : Bool := decide ((inTime (roundPosts x q)).length < (localRanks x).length)

/-- A device is the lowest-numbered one missing from a collective, as far as this device can tell (R341). -/
def missingDevice (x : CollGroup) (q dev : Nat) : Bool :=
  (x.ranks.any fun e => e.1 == dev) &&
    (if dev = Config.deviceNumber then missingHere x q else !missingHere x q || decide (dev < Config.deviceNumber))

/-- COLLECTIVE_TIMEOUT: from the first contribution, which another device may have made (R341). -/
def execCollectiveTimeout (grp dev : Nat) (s : State) : Host.Outcome State Fault Refusal :=
  ifDue s ((getGroup? s grp).bind fun x => (collRound x).bind fun q =>
    let remote := x.ranks.any fun e => e.1 != Config.deviceNumber
    if missingDevice x q dev && (remote || decide (deadline (roundPosts x q) ≤ s.now)) then
      some (failRound s grp (some q) 1 dev (localRanks x))
    else none)

/-- The collectives of a partition that is reset: its own posts end, and the other participants of each fail with WHY 2 (R341). -/
def resetPosts (s : State) (tag : Nat) : State :=
  (s.groups.map (·.1)).foldl (fun s g =>
    match getGroup? s g with
    | none => s
    | some x =>
      match (localRanks x).find? fun e => e.2 == tag with
      | none => s
      | some (r, _) =>
        let seqs := (x.posts.map fun p => collSeq p.desc).eraseDups
        let s := putGroup s g { x with posts := x.posts.filter (fun p => p.tag != tag), nextSeq := nerase x.nextSeq r,
                                       ended := x.ended.filter (fun e => e.1 != r), owed := x.owed.filter fun e => e.1 != r }
        seqs.foldl (fun s q => failRound s g (some q) 2 Config.deviceNumber ((localRanks x).filter fun e => e.2 != tag)) s) s

/-! ### Ultra Ethernet (R247, R342) -/

def putUe (s : State) (p : Nat) (x : UePort) : State := { s with ues := nset s.ues p x }

/-- A packet of an unsupported mode. -/
def ueModeOk (m : UeMode) : Bool := match m with | .rud | .rod => true | .uud | .rudi => false

/-- What else R342 marks unsupported is rejected. -/
def ueAccepted (k : UePacket) : Bool :=
  k.secured && decide (k.frame ≤ 9216) && decide (k.payload ≤ 4096) && (match k.op with | .atomic | .deferrable => false | _ => true)

/-- A delivered payload's writes, each line by one masked write (R247). -/
def rmaWrites (key : Nat) : Nat → State → Nat → Nat → Nat → State
  | 0, s, _, _, _ => s
  | n + 1, s, pa, w, v =>
    if w = 0 then s
    else
      let k := min w (512 - pa % 512)
      rmaWrites key n (physWrite s noCore key pa k (v % 2 ^ k)) (pa + k) (w - k) (v / 2 ^ k)

/-- A packet of an RMA write has been delivered: the message is whole when all its packets are in, in whatever order they came
(R247). -/
def messageGrows (x : UePort) (pkt : UePacket) : UePort :=
  let n := nget x.parts 0 pkt.msg + 1
  if pkt.of_ ≤ n then { x with parts := nerase x.parts pkt.msg, pending := x.pending + 1 }
  else { x with parts := nset x.parts pkt.msg n }

/-- The lines of some bits. -/
def linesFrom (pa w : Nat) : List Nat := (List.range ((pa % 512 + w + 511) / 512)).map fun i => pa / 512 + i

/-- An RMA read: its bits are read at their home slices, and the answer leaves by the port (R247, R342). -/
def rmaAnswer (s : State) (p pa key w : Nat) : State :=
  let s := reachLines s noCore (linesFrom pa w)
  putUe s p { getUe s p with sent := (getUe s p).sent ++ [(w, physRead s key pa w)] }

/-- UE_PACKET_RECEIVE: dropped and counted, rejected, or delivered (R342). -/
def execUePacketReceive (p : Nat) (pkt : UePacket) (s : State) : Host.Outcome State Fault Refusal :=
  ifDue s (let x := getUe s p
    if decide (p < 4) && x.ready && !s.gated.contains (.uePort p) then
      if !ueModeOk pkt.mode then some (putUe s p { x with drops := x.drops + 1 })
      else if !ueAccepted pkt then some s
      else
        match pkt.op with
        | .rmaWrite pa key w val =>
          some (putUe (rmaWrites key (w / 512 + 2) s pa (min w (8 * pkt.payload)) val) p (messageGrows x pkt))
        | .rmaRead pa key w => some (rmaAnswer s p pa key w)
        | .send tagged val => some (putUe s p { x with received := x.received ++ [(tagged, val % 2 ^ (8 * pkt.payload))] })
        | .atomic | .deferrable => some s
    else none)

/-- A strand of the resident service posts a message whose buffer is w bits of memory to a port: its release at sy (R247; log 85). -/
def postMessage (s : State) (p c l pa key w : Nat) : State :=
  let t := getStrand s c l
  if decide (p < 4) && (getUe s p).ready && isMgmt c && t.live && pa + w ≤ hbmBits then
    let s := releaseAt s c t.sid .sy true true
    putUe s p { getUe s p with posted := (getUe s p).posted ++ [(pa, key, w)] }
  else s

/-- A port sends the oldest message posted to it: its buffer is read now, after the release that posted it (R247). -/
def sendMessage (s : State) (p : Nat) : State :=
  match (getUe s p).posted with
  | [] => s
  | (pa, key, w) :: rest => rmaAnswer (putUe s p { getUe s p with posted := rest }) p pa key w

/-- RMA_WRITE_COMPLETE: the report of a message, a release at sy (R247). Its writes have been performed at their home slices,
where every agent sees them. -/
def execRmaWriteComplete (p : Nat) (s : State) : Host.Outcome State Fault Refusal :=
  ifDue s (let x := getUe s p
    if x.pending = 0 then none else some (putUe s p { x with pending := x.pending - 1, done := x.done + 1 }))

end Sys2Proof.Machine
end

