-- ==== Sys2Proof/Machine/Park.lean ====
section
/-! DEFINITION. Contexts in motion: the header of a request, parking and resuming, resets and frees (20 R325 to R329;
16 R281, R282; 18 R306; 19 R319, R320; 21 R343). -/

namespace Sys2Proof.Machine

/-! ### Requests (R343) -/

def hdrReqid (h : ReqHdr) : Nat := bitsAt h.bits.toNat 224 32
def hdrTenant (h : ReqHdr) : Nat := bitsAt h.bits.toNat 192 32
def hdrTag (h : ReqHdr) : Nat := bitsAt h.bits.toNat 186 6
def hdrKind (h : ReqHdr) : Nat := bitsAt h.bits.toNat 178 8

/-- The header's check: malformed, another tenant's, or another tenant's partition. -/
def hdrFault (s : State) (h : ReqHdr) (kind : Nat) : Option Nat :=
  let p := getPart s (hdrTag h)
  if hdrKind h ≠ kind ∨ bitsAt h.bits.toNat 160 18 ≠ 0 ∨ bitsAt h.bits.toNat 0 128 ≠ 0 then some 0x3C6
  else if hdrTenant h ≠ h.session ∨ (p.st ≠ .free ∧ p.tenant ≠ hdrTenant h) then some 0x3C5
  else none

/-- The session and number of a request. -/
def reqKey (h : ReqHdr) : Nat × Nat := (h.session, hdrReqid h)

def respond (s : State) (h : ReqHdr) (cause body : Nat) : State := answerNow s h.session (hdrReqid h) cause body

/-- The resident service runs and one of its endpoints is ready (R343, R357). -/
def serviceUp (s : State) : Bool := s.boot.ready.toNat % 2 == 1 && (List.range 4).any fun p => (getUe s p).ready

/-- An earlier request of the session has not been performed yet, and is not this one: a park reaches one core after another, and a seal
commits after its writes (R343). -/
def waitsBehind (s : State) (h : ReqHdr) (kind : Nat) : Bool :=
  s.asked.any fun a => a.session == h.session && !a.performed && !(a.reqid == hdrReqid h && (kind == 6 || kind == 9))

/-- A request is delivered and performed now: the service serves its session, which it has set up, and has performed the session's earlier
ones (R343). -/
def arrives (s : State) (h : ReqHdr) (kind : Nat) : Bool :=
  serviceUp s && s.sessions.contains h.session && !waitsBehind s h kind

/-- A request: refused with its header's cause, or handled; none when it does not arrive now. -/
def request (s : State) (h : ReqHdr) (kind : Nat) (k : Nat → Option State) : Host.Outcome State Fault Refusal :=
  ifDue s (if !arrives s h kind then none
    else match hdrFault s h kind with
      | some cause => some (respond s h cause 0)
      | none => k (hdrTag h))

/-- The state of the context, or of the object a request names, forbids it. -/
def forbidden (s : State) (h : ReqHdr) : Option State := some (respond s h 0x3C4 0)

/-! ### Parking (R327, R328) -/

/-- A strand whose wait is interrupted stands ready at its instruction (R327). -/
def interruptStrand (t : Strand) : Strand :=
  match t.status with
  | .asleep w => if interrupted w then { t with status := .ready } else t
  | .ready => t

/-- A strand parks. One at a CLAMP stands ready from the resume on, since the wake-up of the episode that it has joined may still come to
the inbox (R328). -/
def parkStrand (t : Strand) : Strand :=
  match t.status with
  | .asleep (.clamp ..) => t
  | _ => interruptStrand t

/-- A restartable copy-unit command (R282). A released schedule entry of a kind that runs to completion is one as long as it has not
started: R282 names both, and restarted after a start it would not rewrite the same values (DEDUCED, log 83). -/
def restartable (m : Cmd) : Bool :=
  match m.kind with
  | .copy => (m.entry.isSome && m.st == .held) || (cmbOf m == 0 && !isFwd m)
  | .wmark | .mdld => true
  | .copyv => m.entry.isSome && m.st == .held
  | .mac | .cvt => false

/-- It is recorded, to restart from its first element (R281). -/
def parkCmd (m : Cmd) : Cmd :=
  if restartable m && !m.prog.ended then { m with st := .parked, prog := {}, stalled := false, ready := false } else m

/-- Accesses are abandoned, and a group with no access left frees its entry (R319). -/
def abandon (s : State) (goes : Member → Bool) : State :=
  let trim := fun (gs : List Group) => (gs.map fun g => { g with members := g.members.filter fun m => !goes m }).filter
    fun g => !g.members.isEmpty
  { s with dies := s.dies.map fun e => (e.1, { e.2 with groups := trim e.2.groups, waiting := trim e.2.waiting }) }

/-- Whether an access is a parked core's: of a strand, or of a copy that was recorded. -/
def parkedMember (s : State) (c : Nat) (m : Member) : Bool :=
  match m with
  | .strand c' _ _ => c' == c
  | .engine c' mat id => c' == c && !mat && (match findCmd s c false id with
    | some m => m.st == .parked
    | none => true)

/-- A core parks (R327). -/
def parkCore (s : State) (c : Nat) : State :=
  let s := onCore s c fun k => { k with parked := true, q1 := k.q1.map parkCmd }
  let s := onCluster s (clusterOf c) fun x =>
    { x with runCopy := x.runCopy.filter fun r => r.1 != c || (match findCmd s c false r.2 with
        | some m => m.st != .parked
        | none => false) }
  let s := (List.range 8).foldl (fun s l => if (getStrand s c l).live then onStrand s c l parkStrand else s) s
  updateLoad (abandon (readyCopies s c) (parkedMember s c)) c

/-- A launch of a partition waits for its placement: a park or free request that arrives waits for it (R325). -/
def launchPending (p : Partn) : Bool := p.launches.any fun e => e.2.st == .pending

/-- PARK_REQUEST: the request reaches core number j of the partition; it begins with the first core it reaches. -/
def execParkRequest (h : ReqHdr) (j : Nat) (s : State) : Host.Outcome State Fault Refusal :=
  request s h 6 fun tag =>
    let p := getPart s tag
    let again := p.st == .parking && p.parkReq == some (reqKey h)
    if p.st = .idle ∨ p.st = .active ∨ again then
      (p.cores[j]?).bind fun c =>
        if (getCore s c).parked || (!again && launchPending p) then none
        else if again then some (parkCore s c)
        else some (parkCore (onPart (answerLater s (reqKey h) false) tag fun p => { p with st := .parking, parkReq := some (reqKey h) }) c)
    else forbidden s h

/-- Every command that is not restartable has completed. -/
def commandsDone (s : State) (c : Nat) : Bool :=
  let k := getCore s c
  (k.q0.all fun m => m.st == .done) && k.q1.all fun m => m.st == .parked

/-- No steal request between cores of a partition waits for its victim. -/
def stealsAnswered (s : State) (cores : List Nat) : Bool :=
  s.steals.all fun r => r.reply.isSome || !(cores.contains r.thief || cores.contains r.victim)

/-- CONTEXT_PARKED: fields are frozen, and every write of the partition is performed, at peers too (R325, R328). -/
def execContextParked (ptag : Nat) (s : State) : Host.Outcome State Fault Refusal :=
  ifDue s (
    let p := getPart s ptag
    if p.st == .parking && (p.cores.all fun c => (getCore s c).parked && commandsDone s c)
        && stealsAnswered s p.cores && (s.peers.all fun e => tagOf s e.2.core != ptag) && p.fields.all (fun e => advancesMade s.now e.2) then
      let s := pushesArrive (p.cores.foldl flushCore s) fun x => x.tag == ptag
      let s := onPart s ptag fun p =>
        { p with st := .parked, parkReq := none, fields := p.fields.map fun e => (e.1, frozenField e.2) }
      some (match p.parkReq with
        | some r => answerAsked s r 0 0
        | none => s)
    else none)

/-- Every armed monitor fires (R146). -/
def fireArmed (t : Strand) : Strand := { t with mon := t.mon.map fun m => match m with | .armed .. => .fired | m => m }

/-- The inbox is applied in order, then monitors fire, recorded commands are HELD again, and a CLAMP that no wake-up has reached is
executed again (R327, R328). -/
def resumeCore (s : State) (c : Nat) : State :=
  let inbox := (getCore s c).inbox
  let s := inbox.foldl (fun s r => applyReply s c r) (onCore s c fun k => { k with inbox := [], parked := false })
  let s := (List.range 8).foldl (fun s l => if (getStrand s c l).live then onStrand s c l fun t => interruptStrand (fireArmed t) else s) s
  let s := onCore s c fun k => { k with q1 := k.q1.map fun m => if m.st = .parked then { m with st := .held } else m }
  updateLoad (readyCopies (wakeReds s c) c) c

/-- The home slices that hold state of a partition's fields and buffers are awake (R20, R303). -/
def wakeObjects (s : State) (tag : Nat) : State :=
  let s := (getPart s tag).fields.foldl (fun s e => wakeField s tag e.2) s
  (getPart s tag).queues.foldl (fun s e => wakeBank s e.2.home) s

/-- The context goes on (R325, R328). -/
def resumeContext (s : State) (tag : Nat) : State :=
  let s := onPart (wakeObjects s tag) tag fun p =>
    { p with st := if anyLive p then .active else .idle, fields := p.fields.map fun e => (e.1, thawedField s.now e.2) }
  (getPart s tag).cores.foldl resumeCore s

/-- A partition is being sealed or unsealed: a strand of the service waits for it, or an ingot of it waits for its commit. -/
def sealing (s : State) (tag : Nat) : Bool :=
  (s.strands.any fun e => e.2.live && (match e.2.status with
    | .asleep (.seal _ t _ _ _) | .asleep (.unseal _ t _ _ _) => t == tag
    | _ => false))
    || s.chains.any fun e => match e.2.writing with
      | some j => j.tag == tag
      | none => false

/-- RESUME_REQUEST: a SEAL in progress completes first (R328; log 61). -/
def execResumeRequest (h : ReqHdr) (s : State) : Host.Outcome State Fault Refusal :=
  request s h 7 fun tag =>
    let st := (getPart s tag).st
    if st = .parked ∨ st = .sealed then
      if sealing s tag then none else some (respond (resumeContext s tag) h 0 0)
    else forbidden s h

/-! ### Reset and free (R329) -/

/-- A core of a partition as after a reset, zeroed under R50 with its TERR (R326, R350); the clock, the supply and the counts of commands
are no part of it. -/
def freshCore (k : CoreSt) (tag : Nat) : CoreSt :=
  { tag := tag, cycles := k.cycles, fduty := k.fduty, fdutyNow := k.fdutyNow, vcore := k.vcore,
    nextMat := k.nextMat, nextCp := k.nextCp }

/-- The cores stop: nothing is saved, and what is under way for them is dropped. -/
def dropCores (s : State) (tag : Nat) (cores : List Nat) : State :=
  let mine := fun c : Nat => cores.contains c
  let s := { s with
    strands := s.strands.filter fun e => !mine (e.1 / 8)
    steals := s.steals.filter fun r => !(mine r.thief || mine r.victim)
    peers := s.peers.filter fun e => !mine e.2.core
    pending := s.pending.filter fun f => !mine f.core
    leases := s.leases.filter fun e => !mine e.2
    clusters := s.clusters.map fun e => (e.1, { e.2 with
      runCopy := e.2.runCopy.filter fun r => !mine r.1
      runMat := e.2.runMat.filter fun r => !mine r.1
      remoteQ := e.2.remoteQ.filter fun r => !mine r.1
      remotePlaces := e.2.remotePlaces.filter fun r => !mine r.1 })
    dies := s.dies.map fun e => (e.1, { e.2 with
      tlb := e.2.tlb.filter fun x => x.tag != tag
      groups := e.2.groups.filter fun g => g.tag != tag
      waiting := e.2.waiting.filter fun g => g.tag != tag }) }
  cores.foldl (fun s c => onCore s c fun k => freshCore k tag) s

/-- Granules that a partition holds, as cluster and number. -/
def heldGranules (s : State) (tag : Nat) : List (Nat × Nat) :=
  s.clusters.flatMap fun e => (e.2.granules.filter fun g => g.2 == tag).map fun g => (e.1, g.1)

/-- The requests about a partition that a reset overrides are answered with 0x3C4: launches that wait for a placement, a park, a seal
(R325, R343; log 61). -/
def answerOverridden (s : State) (tag : Nat) : State :=
  let p := getPart s tag
  let seals := s.chains.filterMap fun e => (e.2.writing.filter fun j => j.tag == tag).bind (·.reqid)
  let keys := p.launches.filterMap (fun e => if e.2.st = .pending then e.2.reqid else none) ++ p.parkReq.toList ++ seals
  keys.foldl (fun s k => answerAsked s k 0x3C4 0) s

/-- What a reset does at once (R329). The load field stays, at 0 in every cell of the partition (R306). -/
def resetActions (s : State) (tag : Nat) : State :=
  let p := getPart s tag
  let s := dropCores (resetPosts (answerOverridden s tag) tag) tag p.cores
  let s := { s with chains := s.chains.map fun e => (e.1, { e.2 with writing := e.2.writing.filter fun j => j.tag != tag }) }
  let s := (heldGranules s tag).foldl (fun s g => clearGranule s g.1 g.2) s
  let s := p.kernels.foldl (fun s e => dropKernel s tag e.1) s
  let s := putPart s tag
    { st := p.st, tenant := p.tenant, key := p.key, cores := p.cores, root := p.root, lfbase := p.lfbase, dbell := p.dbell,
      fbuf := p.fbuf, vote := p.vote, enj := p.enj
      fields := (p.fields.filter fun e => e.1 == 0).map fun e => (0, { e.2 with st := .live, due := 0, timerAt := s.now }) }
  p.cores.foldl updateLoad s

/-- A context is being reset. -/
def beginReset (s : State) (tag : Nat) : State := onPart (resetActions s tag) tag fun p => { p with st := .resetting }

/-- RESET_REQUEST (R325). -/
def execResetRequest (h : ReqHdr) (s : State) : Host.Outcome State Fault Refusal :=
  request s h 8 fun tag =>
    if (getPart s tag).st = .free then forbidden s h else some (respond (beginReset s tag) h 0 0)

/-- FATAL_FAULT (R325). -/
def execFatalFault (ptag : Nat) (s : State) : Host.Outcome State Fault Refusal :=
  ifDue s (if (getPart s ptag).st = .free then none else some (beginReset s ptag))

/-- RESET_COMPLETE (R325, R329). -/
def execResetComplete (ptag : Nat) (s : State) : Host.Outcome State Fault Refusal :=
  ifDue s (if (getPart s ptag).st = .resetting then some (onPart s ptag fun p => { p with st := .empty }) else none)

/-- A context is freed: cores and granules belong to no partition, and the tag is held back (R325, R329). The fault buffer is the tag's,
and keeps what it holds (R369). The quotas of a tenant that has no context left are gone (R371). -/
def freeContext (s : State) (tag : Nat) : State :=
  let p := getPart s tag
  let s := resetActions s tag
  let s := p.cores.foldl (fun s c => onCore s c fun k => { k with tag := 0 }) s
  let s : State := { s with clusters := s.clusters.map fun e =>
      (e.1, { e.2 with granules := e.2.granules.filter fun g => g.2 != tag }) }
  let s : State := { s with watches := nerase s.watches tag }
  let s := putPart s tag { holdUntil := s.now + 4096, enj := p.enj, fbuf := p.fbuf }
  let stays := s.parts.any fun e => e.2.st != .free && e.2.tenant == p.tenant
  onTenant s p.tenant fun t => if stays then t else {}

/-- FREE_REQUEST: a SEAL in progress completes first (R325). -/
def execFreeRequest (h : ReqHdr) (s : State) : Host.Outcome State Fault Refusal :=
  request s h 2 fun tag =>
    let st := (getPart s tag).st
    if st = .empty ∨ st = .idle ∨ st = .parked ∨ st = .sealed then
      if sealing s tag || launchPending (getPart s tag) then none else some (respond (freeContext s tag) h 0 0)
    else forbidden s h

/-- TAG_HOLD_EXPIRY (R329). -/
def execTagHoldExpiry (ptag : Nat) (s : State) : Host.Outcome State Fault Refusal :=
  ifDue s (let p := getPart s ptag
    if p.holdUntil ≠ 0 ∧ p.holdUntil ≤ s.now then some (onPart s ptag fun p => { p with holdUntil := 0 }) else none)

end Sys2Proof.Machine
end

