-- ==== Sys2Proof/Machine/Pointer.lean ====
section
/-! DEFINITION. Pointer and index-register instructions (05 R97 to R99). None of them accesses memory. -/

namespace Sys2Proof.Machine

/-- PADD: a + b × w + X (R97). -/
def execPadd (gd : Guard) (d a b : GOp) (w : BitVec 10) (x : BitVec 38) (s : State) : Host.Outcome State Fault Refusal :=
  regOp gd [.g a, .g b, .g d] (fun st => setG st st d (ptrAdd (gVal st a) (gVal st b) w.toNat (dispOf x))) s

/-- PDIF: the difference in elements; a difference that is no whole number of elements raises 0x180 (R97). -/
def execPdif (gd : Guard) (d a b : GOp) (w : BitVec 10) (s : State) : Host.Outcome State Fault Refusal :=
  checkedOp gd [.g a, .g b, .g d]
    (fun _ st => if ptrDiff (gVal st a) (gVal st b) % (w.toNat : Int) = 0 then none
                 else some (0x180, ptrDiffRaw (gVal st a) (gVal st b)))
    (fun st => setG st st d (wrapTo 64 (ptrDiff (gVal st a) (gVal st b) / (w.toNat : Int)))) s

/-- PALN: align down, or up (R97). -/
def execPaln (gd : Guard) (d a : GOp) (w : BitVec 10) (up : Bool) (s : State) : Host.Outcome State Fault Refusal :=
  regOp gd [.g a, .g d] (fun st => setG st st d (ptrAlign up (gVal st a) w.toNat)) s

/-- PBLK: the address of an element of a BQ stream (R97). -/
def execPblk (gd : Guard) (d a b : GOp) (fmt : BqFmt) (s : State) : Host.Outcome State Fault Refusal :=
  regOp gd [.g a, .g b, .g d] (fun st => setG st st d (ptrBlock fmt (gVal st a) (gVal st b))) s

/-- PCHK: whether the class of an access of w bits at a + X is at most cls (R98). -/
def execPchk (gd : Guard) (d : Fin 8) (a : GOp) (w : BitVec 10) (cls : BitVec 2) (x : BitVec 38) (s : State) :
    Host.Outcome State Fault Refusal :=
  regOp gd [.g a]
    (fun st => wrK st d (decide (alignClass (wrapTo 64 (gVal st a + dispOf x)) w.toNat ≤ cls.toNat))) s

/-- JSET: (a + X) mod 2^16 (R99). -/
def execJset (gd : Guard) (d : Fin 8) (a : GOp) (x : BitVec 38) (s : State) : Host.Outcome State Fault Refusal :=
  regOp gd [.g a] (fun st => wrJ st d (BitVec.ofInt 16 (gVal st a + dispOf x))) s

/-- JADD: (jA + b + X) mod 2^16 (R99). -/
def execJadd (gd : Guard) (d a : Fin 8) (b : GOp) (x : BitVec 38) (s : State) : Host.Outcome State Fault Refusal :=
  regOp gd [.g b] (fun st => wrJ st d (BitVec.ofInt 16 ((rdJ st a).toInt + gVal st b + dispOf x))) s

end Sys2Proof.Machine
end

