-- ==== Sys2Proof/Machine/Scalar.lean ====
section
/-! DEFINITION. Integer arithmetic and logic, bit operations, moves and guard logic (05 R85 to R96). -/

namespace Sys2Proof.Machine

/-- The register form of an integer operation (R83, R87): D receives Extend(r mod 2^w, w, t). -/
def aluR (f : Nat → Nat → Nat → Int) (gd : Guard) (d a b : GOp) (t : IType) (s : State) :
    Host.Outcome State Fault Refusal :=
  regOp gd [.g a, .g b, .g d]
    (fun st => setG st st d (extendTyped t (f t.width (gVal st a % 2 ^ t.width) (gVal st b % 2 ^ t.width)))) s

/-- The immediate form: the second source is X sign-extended to 64 bits (R83, R87). -/
def aluI (f : Nat → Nat → Nat → Int) (gd : Guard) (d a : GOp) (t : IType) (x : BitVec 38) (s : State) :
    Host.Outcome State Fault Refusal :=
  regOp gd [.g a, .g d]
    (fun st => setG st st d (extendTyped t (f t.width (gVal st a % 2 ^ t.width) (immOf x % 2 ^ t.width)))) s

/-- An operation of one operand on w bits (R91). -/
def alu1 (f : Nat → Nat → Int) (gd : Guard) (d a : GOp) (t : IType) (s : State) : Host.Outcome State Fault Refusal :=
  regOp gd [.g a, .g d] (fun st => setG st st d (extendTyped t (f t.width (gVal st a % 2 ^ t.width)))) s

/-- An operation on guard registers (R96). -/
def guardOp (f : Bool → Bool → Bool) (gd : Guard) (d a b : Fin 8) (s : State) : Host.Outcome State Fault Refusal :=
  regOp gd [] (fun st => wrK st d (f (rdK st a) (rdK st b))) s

/-- ADD, register form (R89). -/
def execAddR (gd : Guard) (d a b : GOp) (t : IType) (s : State) : Host.Outcome State Fault Refusal :=
  aluR aluAdd gd d a b t s
/-- ADD, immediate form (R89). -/
def execAddI (gd : Guard) (d a : GOp) (t : IType) (x : BitVec 38) (s : State) : Host.Outcome State Fault Refusal :=
  aluI aluAdd gd d a t x s

/-- SUB, register form (R89). -/
def execSubR (gd : Guard) (d a b : GOp) (t : IType) (s : State) : Host.Outcome State Fault Refusal :=
  aluR aluSub gd d a b t s
/-- SUB, immediate form (R89). -/
def execSubI (gd : Guard) (d a : GOp) (t : IType) (x : BitVec 38) (s : State) : Host.Outcome State Fault Refusal :=
  aluI aluSub gd d a t x s

/-- MUL, register form (R89). -/
def execMulR (gd : Guard) (d a b : GOp) (t : IType) (s : State) : Host.Outcome State Fault Refusal :=
  aluR aluMul gd d a b t s
/-- MUL, immediate form (R89). -/
def execMulI (gd : Guard) (d a : GOp) (t : IType) (x : BitVec 38) (s : State) : Host.Outcome State Fault Refusal :=
  aluI aluMul gd d a t x s

/-- MULH, register form (R89). -/
def execMulhR (gd : Guard) (d a b : GOp) (t : IType) (s : State) : Host.Outcome State Fault Refusal :=
  aluR aluMulh gd d a b t s
/-- MULH, immediate form (R89). -/
def execMulhI (gd : Guard) (d a : GOp) (t : IType) (x : BitVec 38) (s : State) : Host.Outcome State Fault Refusal :=
  aluI aluMulh gd d a t x s

/-- MULHN, register form (R89). -/
def execMulhnR (gd : Guard) (d a b : GOp) (t : IType) (s : State) : Host.Outcome State Fault Refusal :=
  aluR aluMulhn gd d a b t s
/-- MULHN, immediate form (R89). -/
def execMulhnI (gd : Guard) (d a : GOp) (t : IType) (x : BitVec 38) (s : State) : Host.Outcome State Fault Refusal :=
  aluI aluMulhn gd d a t x s

/-- DIV, register form (R89). -/
def execDivR (gd : Guard) (d a b : GOp) (t : IType) (s : State) : Host.Outcome State Fault Refusal :=
  aluR aluDiv gd d a b t s
/-- DIV, immediate form (R89). -/
def execDivI (gd : Guard) (d a : GOp) (t : IType) (x : BitVec 38) (s : State) : Host.Outcome State Fault Refusal :=
  aluI aluDiv gd d a t x s

/-- DIVN, register form (R89). -/
def execDivnR (gd : Guard) (d a b : GOp) (t : IType) (s : State) : Host.Outcome State Fault Refusal :=
  aluR aluDivn gd d a b t s
/-- DIVN, immediate form (R89). -/
def execDivnI (gd : Guard) (d a : GOp) (t : IType) (x : BitVec 38) (s : State) : Host.Outcome State Fault Refusal :=
  aluI aluDivn gd d a t x s

/-- REM, register form (R89). -/
def execRemR (gd : Guard) (d a b : GOp) (t : IType) (s : State) : Host.Outcome State Fault Refusal :=
  aluR aluRem gd d a b t s
/-- REM, immediate form (R89). -/
def execRemI (gd : Guard) (d a : GOp) (t : IType) (x : BitVec 38) (s : State) : Host.Outcome State Fault Refusal :=
  aluI aluRem gd d a t x s

/-- REMN, register form (R89). -/
def execRemnR (gd : Guard) (d a b : GOp) (t : IType) (s : State) : Host.Outcome State Fault Refusal :=
  aluR aluRemn gd d a b t s
/-- REMN, immediate form (R89). -/
def execRemnI (gd : Guard) (d a : GOp) (t : IType) (x : BitVec 38) (s : State) : Host.Outcome State Fault Refusal :=
  aluI aluRemn gd d a t x s

/-- AND, register form (R89). -/
def execAndR (gd : Guard) (d a b : GOp) (t : IType) (s : State) : Host.Outcome State Fault Refusal :=
  aluR aluAnd gd d a b t s
/-- AND, immediate form (R89). -/
def execAndI (gd : Guard) (d a : GOp) (t : IType) (x : BitVec 38) (s : State) : Host.Outcome State Fault Refusal :=
  aluI aluAnd gd d a t x s

/-- OR, register form (R89). -/
def execOrR (gd : Guard) (d a b : GOp) (t : IType) (s : State) : Host.Outcome State Fault Refusal :=
  aluR aluOr gd d a b t s
/-- OR, immediate form (R89). -/
def execOrI (gd : Guard) (d a : GOp) (t : IType) (x : BitVec 38) (s : State) : Host.Outcome State Fault Refusal :=
  aluI aluOr gd d a t x s

/-- XOR, register form (R89). -/
def execXorR (gd : Guard) (d a b : GOp) (t : IType) (s : State) : Host.Outcome State Fault Refusal :=
  aluR aluXor gd d a b t s
/-- XOR, immediate form (R89). -/
def execXorI (gd : Guard) (d a : GOp) (t : IType) (x : BitVec 38) (s : State) : Host.Outcome State Fault Refusal :=
  aluI aluXor gd d a t x s

/-- ANDN, register form (R89). -/
def execAndnR (gd : Guard) (d a b : GOp) (t : IType) (s : State) : Host.Outcome State Fault Refusal :=
  aluR aluAndn gd d a b t s
/-- ANDN, immediate form (R89). -/
def execAndnI (gd : Guard) (d a : GOp) (t : IType) (x : BitVec 38) (s : State) : Host.Outcome State Fault Refusal :=
  aluI aluAndn gd d a t x s

/-- ORN, register form (R89). -/
def execOrnR (gd : Guard) (d a b : GOp) (t : IType) (s : State) : Host.Outcome State Fault Refusal :=
  aluR aluOrn gd d a b t s
/-- ORN, immediate form (R89). -/
def execOrnI (gd : Guard) (d a : GOp) (t : IType) (x : BitVec 38) (s : State) : Host.Outcome State Fault Refusal :=
  aluI aluOrn gd d a t x s

/-- SHL, register form (R89). -/
def execShlR (gd : Guard) (d a b : GOp) (t : IType) (s : State) : Host.Outcome State Fault Refusal :=
  aluR aluShl gd d a b t s
/-- SHL, immediate form (R89). -/
def execShlI (gd : Guard) (d a : GOp) (t : IType) (x : BitVec 38) (s : State) : Host.Outcome State Fault Refusal :=
  aluI aluShl gd d a t x s

/-- SHR, register form (R89). -/
def execShrR (gd : Guard) (d a b : GOp) (t : IType) (s : State) : Host.Outcome State Fault Refusal :=
  aluR aluShr gd d a b t s
/-- SHR, immediate form (R89). -/
def execShrI (gd : Guard) (d a : GOp) (t : IType) (x : BitVec 38) (s : State) : Host.Outcome State Fault Refusal :=
  aluI aluShr gd d a t x s

/-- SAR, register form (R89). -/
def execSarR (gd : Guard) (d a b : GOp) (t : IType) (s : State) : Host.Outcome State Fault Refusal :=
  aluR aluSar gd d a b t s
/-- SAR, immediate form (R89). -/
def execSarI (gd : Guard) (d a : GOp) (t : IType) (x : BitVec 38) (s : State) : Host.Outcome State Fault Refusal :=
  aluI aluSar gd d a t x s

/-- ROL, register form (R89). -/
def execRolR (gd : Guard) (d a b : GOp) (t : IType) (s : State) : Host.Outcome State Fault Refusal :=
  aluR aluRol gd d a b t s
/-- ROL, immediate form (R89). -/
def execRolI (gd : Guard) (d a : GOp) (t : IType) (x : BitVec 38) (s : State) : Host.Outcome State Fault Refusal :=
  aluI aluRol gd d a t x s

/-- ROR, register form (R89). -/
def execRorR (gd : Guard) (d a b : GOp) (t : IType) (s : State) : Host.Outcome State Fault Refusal :=
  aluR aluRor gd d a b t s
/-- ROR, immediate form (R89). -/
def execRorI (gd : Guard) (d a : GOp) (t : IType) (x : BitVec 38) (s : State) : Host.Outcome State Fault Refusal :=
  aluI aluRor gd d a t x s

/-- MIN, register form (R89). -/
def execMinR (gd : Guard) (d a b : GOp) (t : IType) (s : State) : Host.Outcome State Fault Refusal :=
  aluR aluMin gd d a b t s
/-- MIN, immediate form (R89). -/
def execMinI (gd : Guard) (d a : GOp) (t : IType) (x : BitVec 38) (s : State) : Host.Outcome State Fault Refusal :=
  aluI aluMin gd d a t x s

/-- MAX, register form (R89). -/
def execMaxR (gd : Guard) (d a b : GOp) (t : IType) (s : State) : Host.Outcome State Fault Refusal :=
  aluR aluMax gd d a b t s
/-- MAX, immediate form (R89). -/
def execMaxI (gd : Guard) (d a : GOp) (t : IType) (x : BitVec 38) (s : State) : Host.Outcome State Fault Refusal :=
  aluI aluMax gd d a t x s

/-- MINN, register form (R89). -/
def execMinnR (gd : Guard) (d a b : GOp) (t : IType) (s : State) : Host.Outcome State Fault Refusal :=
  aluR aluMinn gd d a b t s
/-- MINN, immediate form (R89). -/
def execMinnI (gd : Guard) (d a : GOp) (t : IType) (x : BitVec 38) (s : State) : Host.Outcome State Fault Refusal :=
  aluI aluMinn gd d a t x s

/-- MAXN, register form (R89). -/
def execMaxnR (gd : Guard) (d a b : GOp) (t : IType) (s : State) : Host.Outcome State Fault Refusal :=
  aluR aluMaxn gd d a b t s
/-- MAXN, immediate form (R89). -/
def execMaxnI (gd : Guard) (d a : GOp) (t : IType) (x : BitVec 38) (s : State) : Host.Outcome State Fault Refusal :=
  aluI aluMaxn gd d a t x s

/-- CMP, register form (R90). -/
def execCmpR (gd : Guard) (d : Fin 8) (a b : GOp) (t : IType) (cc : Cc) (s : State) : Host.Outcome State Fault Refusal :=
  regOp gd [.g a, .g b] (fun st => wrK st d (intCond t cc (gVal st a) (gVal st b))) s
/-- CMP, immediate form (R90). -/
def execCmpI (gd : Guard) (d : Fin 8) (a : GOp) (t : IType) (cc : Cc) (x : BitVec 38) (s : State) :
    Host.Outcome State Fault Refusal :=
  regOp gd [.g a] (fun st => wrK st d (intCond t cc (gVal st a) (immOf x))) s

/-- CLZ (R91). -/
def execClz (gd : Guard) (d a : GOp) (t : IType) (s : State) : Host.Outcome State Fault Refusal :=
  alu1 aluClz gd d a t s
/-- CTZ (R91). -/
def execCtz (gd : Guard) (d a : GOp) (t : IType) (s : State) : Host.Outcome State Fault Refusal :=
  alu1 aluCtz gd d a t s
/-- POPC (R91). -/
def execPopc (gd : Guard) (d a : GOp) (t : IType) (s : State) : Host.Outcome State Fault Refusal :=
  alu1 aluPopc gd d a t s
/-- BREV (R91). -/
def execBrev (gd : Guard) (d a : GOp) (t : IType) (s : State) : Host.Outcome State Fault Refusal :=
  alu1 aluBrev gd d a t s
/-- ABS (R91). -/
def execAbs (gd : Guard) (d a : GOp) (t : IType) (s : State) : Host.Outcome State Fault Refusal :=
  alu1 aluAbs gd d a t s
/-- NEG (R91). -/
def execNeg (gd : Guard) (d a : GOp) (t : IType) (s : State) : Host.Outcome State Fault Refusal :=
  alu1 aluNeg gd d a t s

/-- The control word of BEXT and BINS: (b + X) mod 2^64 (R92). -/
def ctlWord (st : Strand) (b : GOp) (x : BitVec 38) : Nat := wrapTo 64 (gVal st b + dispOf x)

/-- BEXT (R92). -/
def execBext (gd : Guard) (d a b : GOp) (sx : Bool) (x : BitVec 38) (s : State) : Host.Outcome State Fault Refusal :=
  regOp gd [.g a, .g b, .g d] (fun st => setG st st d (bitExtract sx (gVal st a) (ctlWord st b x))) s
/-- BINS reads D before it writes it (R92). -/
def execBins (gd : Guard) (d a b : GOp) (x : BitVec 38) (s : State) : Host.Outcome State Fault Refusal :=
  regOp gd [.g a, .g b, .g d] (fun st => setG st st d (bitInsert (gVal st d) (gVal st a) (ctlWord st b x))) s
/-- SEXT: a[X - 1:0] sign-extended (R93). -/
def execSext (gd : Guard) (d a : GOp) (x : BitVec 38) (s : State) : Host.Outcome State Fault Refusal :=
  regOp gd [.g a, .g d] (fun st => setG st st d (sextTo64 x.toNat (gVal st a))) s
/-- ZEXT: a[X - 1:0] zero-extended (R93). -/
def execZext (gd : Guard) (d a : GOp) (x : BitVec 38) (s : State) : Host.Outcome State Fault Refusal :=
  regOp gd [.g a, .g d] (fun st => setG st st d (gVal st a % 2 ^ x.toNat)) s
/-- SEL: a if kC is 1, else b (R94). -/
def execSel (gd : Guard) (d a b : GOp) (c : Fin 8) (s : State) : Host.Outcome State Fault Refusal :=
  regOp gd [.g a, .g b, .g d] (fun st => setG st st d (if rdK st c then gVal st a else gVal st b)) s
/-- MOV between kinds (R95). -/
def execMov (gd : Guard) (d a : GJK) (s : State) : Host.Outcome State Fault Refusal :=
  regOp gd [namedGJK a, namedGJK d] (fun st => movDest st st d (movSource st a)) s
/-- MOVI: W to a G register, or W[15:0] to a J register (R95). -/
def execMovi (gd : Guard) (d : GJ) (imm : BitVec 64) (s : State) : Host.Outcome State Fault Refusal :=
  regOp gd [namedGJ d] (fun st => match d with
    | .g o => setG st st o imm.toNat
    | .j n => wrJ st n (BitVec.ofNat 16 imm.toNat)) s

/-- GAND (R96). -/
def execGand (gd : Guard) (d a b : Fin 8) (s : State) : Host.Outcome State Fault Refusal := guardOp (· && ·) gd d a b s
/-- GOR (R96). -/
def execGor (gd : Guard) (d a b : Fin 8) (s : State) : Host.Outcome State Fault Refusal := guardOp (· || ·) gd d a b s
/-- GXOR (R96). -/
def execGxor (gd : Guard) (d a b : Fin 8) (s : State) : Host.Outcome State Fault Refusal := guardOp (· != ·) gd d a b s
/-- GNOT (R96). -/
def execGnot (gd : Guard) (d a : Fin 8) (s : State) : Host.Outcome State Fault Refusal :=
  guardOp (fun x _ => !x) gd d a a s

end Sys2Proof.Machine
end

