-- ==== Sys2Proof/Machine/ScalarFloat.lean ====
section
/-! DEFINITION. Scalar floating point (05 R102 to R106). Under rnd=rsr every rounding instruction steps the strand's LFSR
once, whether or not the result is exact. -/

namespace Sys2Proof.Machine

/-- The strand after an instruction that rounds once under a mode, and the u of that rounding (R28, R29). -/
def stepLfsr (rnd : Rnd) (st : Strand) : Strand :=
  { st with srstate := BitVec.ofNat 32 (lfsrAfter rnd st.srstate.toNat) }
def roundU (rnd : Rnd) (st : Strand) : Nat := lfsrU (lfsrAfter rnd st.srstate.toNat)

/-- A rounding instruction: f computes the result's bits from u (R102). -/
def floatOp (gd : Guard) (names : List Named) (rnd : Rnd) (d : GOp) (f : Strand → Nat → Nat) (s : State) :
    Host.Outcome State Fault Refusal :=
  regOp gd names (fun st => setG st (stepLfsr rnd st) d (f st (roundU rnd st))) s

/-- FADD (R103). -/
def execFadd (gd : Guard) (d a b : GOp) (t : FType) (rnd : Rnd) (s : State) : Host.Outcome State Fault Refusal :=
  floatOp gd [.g a, .g b, .g d] rnd d (fun st u => floatAdd (ftypeFmt t) rnd u (gVal st a) (gVal st b)) s
/-- FSUB (R103). -/
def execFsub (gd : Guard) (d a b : GOp) (t : FType) (rnd : Rnd) (s : State) : Host.Outcome State Fault Refusal :=
  floatOp gd [.g a, .g b, .g d] rnd d (fun st u => floatSub (ftypeFmt t) rnd u (gVal st a) (gVal st b)) s
/-- FMUL (R103). -/
def execFmul (gd : Guard) (d a b : GOp) (t : FType) (rnd : Rnd) (s : State) : Host.Outcome State Fault Refusal :=
  floatOp gd [.g a, .g b, .g d] rnd d (fun st u => floatMul (ftypeFmt t) rnd u (gVal st a) (gVal st b)) s
/-- FDIV (R103). -/
def execFdiv (gd : Guard) (d a b : GOp) (t : FType) (rnd : Rnd) (s : State) : Host.Outcome State Fault Refusal :=
  floatOp gd [.g a, .g b, .g d] rnd d (fun st u => floatDiv (ftypeFmt t) rnd u (gVal st a) (gVal st b)) s
/-- FFMA (R103). -/
def execFfma (gd : Guard) (d a b c : GOp) (t : FType) (rnd : Rnd) (s : State) : Host.Outcome State Fault Refusal :=
  floatOp gd [.g a, .g b, .g c, .g d] rnd d
    (fun st u => floatFma (ftypeFmt t) rnd u (gVal st a) (gVal st b) (gVal st c)) s
/-- FSQRT (R103). -/
def execFsqrt (gd : Guard) (d a : GOp) (t : FType) (rnd : Rnd) (s : State) : Host.Outcome State Fault Refusal :=
  floatOp gd [.g a, .g d] rnd d (fun st u => floatSqrt (ftypeFmt t) rnd u (gVal st a)) s
/-- FMIN (R104). -/
def execFmin (gd : Guard) (d a b : GOp) (t : FType) (s : State) : Host.Outcome State Fault Refusal :=
  regOp gd [.g a, .g b, .g d] (fun st => setG st st d (floatMin (ftypeFmt t) (gVal st a) (gVal st b))) s
/-- FMAX (R104). -/
def execFmax (gd : Guard) (d a b : GOp) (t : FType) (s : State) : Host.Outcome State Fault Refusal :=
  regOp gd [.g a, .g b, .g d] (fun st => setG st st d (floatMax (ftypeFmt t) (gVal st a) (gVal st b))) s
/-- FCMP (R105). -/
def execFcmp (gd : Guard) (d : Fin 8) (a b : GOp) (t : FType) (cc : FCc) (s : State) : Host.Outcome State Fault Refusal :=
  regOp gd [.g a, .g b] (fun st => wrK st d (floatCond t cc (gVal st a) (gVal st b))) s

/-- A converted element as D receives it: an i result sign-extended, every other result with zeros above (R106). -/
def convertedToG (df : CvtType) (r : Nat) : Nat :=
  match cvtKind df with
  | .int true w => sextTo64 w r
  | _ => r
/-- FCVT (R106). -/
def execFcvt (gd : Guard) (d a : GOp) (df sf : CvtType) (rnd : Rnd) (prop : Bool) (s : State) :
    Host.Outcome State Fault Refusal :=
  floatOp gd [.g a, .g d] rnd d (fun st u => convertedToG df (convert df sf rnd prop u (gVal st a))) s
/-- FCLASS (R104). -/
def execFclass (gd : Guard) (d a : GOp) (t : FType) (s : State) : Host.Outcome State Fault Refusal :=
  regOp gd [.g a, .g d] (fun st => setG st st d (floatClass (ftypeFmt t) (gVal st a))) s
/-- FNEG (R104). -/
def execFneg (gd : Guard) (d a : GOp) (t : FType) (s : State) : Host.Outcome State Fault Refusal :=
  regOp gd [.g a, .g d] (fun st => setG st st d (floatNeg (ftypeFmt t) (gVal st a))) s

end Sys2Proof.Machine
end

