-- ==== Sys2Proof/Machine/Sko.lean ====
section
/-! DEFINITION. SKO executables: header, sections, symbols, the jig and its tables, measurement and signatures
(10 R219 to R225; 14 R256). Bit i of a file is bit i of the number that stands for it. -/

namespace Sys2Proof.Machine

/-! ### Sections and symbols (R219 to R221) -/

/-- A section-table entry. -/
structure Sec where
  type : Nat
  flags : Nat
  link : Nat
  name : Nat
  addr : Nat
  off : Nat
  size : Nat
  deriving DecidableEq, Repr

def secOf (n : Nat) : Sec :=
  { type := bitsAt n 248 8, flags := bitsAt n 240 8, link := bitsAt n 224 16, name := bitsAt n 192 32, addr := bitsAt n 128 64,
    off := bitsAt n 64 64, size := bitsAt n 0 64 }

/-- The sections of a file, in table order. -/
def secsOf (f : Nat) : List Sec :=
  (List.range (bitsAt f 448 16)).map fun i => secOf (bitsAt f (bitsAt f 384 64 + 256 * i) 256)

def secData (f : Nat) (x : Sec) : Nat := bitsAt f x.off x.size

/-- CODE, DATA or ZERO. -/
def secImage (x : Sec) : Bool := decide (1 ≤ x.type) && decide (x.type ≤ 3)
/-- A section that is mapped: CODE, DATA, ZERO or JIG, marked loadable. -/
def secLoads (x : Sec) : Bool := decide (1 ≤ x.type) && decide (x.type ≤ 4) && x.flags % 2 == 1

/-- The bytes of a name in a STR section, up to its zero byte. -/
def nameFrom (str : Nat) : Nat → Nat → List Nat
  | 0, _ => []
  | n + 1, o => let b := bitsAt str o 8; if b = 0 then [] else b :: nameFrom str n (o + 8)

/-- A name by its offset in the contents of a STR section of a size in bits. -/
def nameAt (str : Nat × Nat) (o : Nat) : List Nat := nameFrom str.1 (str.2 / 8) o

/-- A symbol (R221). -/
structure Sym where
  name : Nat
  sec : Nat
  kind : Nat
  bind : Nat
  value : Nat
  size : Nat
  rsvd : Bool
  deriving DecidableEq, Repr

def symOf (n : Nat) : Sym :=
  { name := bitsAt n 224 32, sec := bitsAt n 208 16, kind := bitsAt n 204 4, bind := bitsAt n 202 2, value := bitsAt n 128 64,
    size := bitsAt n 64 64, rsvd := bitsAt n 192 10 != 0 || bitsAt n 0 64 != 0 }

/-- The contents of the STR section that a SYM section's LINK names, with their size. -/
def strOf (f : Nat) (xs : List Sec) (x : Sec) : Nat × Nat := (xs[x.link]?.map fun y => (secData f y, y.size)).getD (0, 0)

/-- The symbols of a SYM section, entry 0 included. -/
def symEntries (f : Nat) (x : Sec) : List Nat := (List.range (x.size / 256)).map fun i => bitsAt f (x.off + 256 * i) 256

/-- The symbols of a file with their STR sections' contents; entry 0 is null. -/
def symsOf (f : Nat) (xs : List Sec) : List (Sym × Nat × Nat) :=
  (xs.filter fun x => x.type == 5).flatMap fun x =>
    ((symEntries f x).drop 1).map fun n => (symOf n, strOf f xs x)

/-- The size of a ZERO section: the SIZE of the symbol of its name. -/
def zeroSize (f : Nat) (xs : List Sec) (i : Nat) (x : Sec) : Option Nat :=
  ((symsOf f xs).find? fun e => e.1.sec == i && nameAt e.2 e.1.name == nameAt e.2 x.name).map fun e => e.1.size

/-- A section's extent in memory. -/
def extentOf (f : Nat) (xs : List Sec) (i : Nat) (x : Sec) : Nat :=
  if x.type = 3 then (zeroSize f xs i x).getD 0 else x.size

/-- The pages of a loadable section: virtual address, rights RD, WR, XR, and contents (R256). -/
structure SecPage where
  va : Nat
  wr : Bool
  xr : Bool
  data : Nat
  deriving DecidableEq, Repr

def pagesOf (f : Nat) (xs : List Sec) (i : Nat) (x : Sec) : List SecPage :=
  let data := if x.type = 3 then 0 else secData f x
  (List.range ((extentOf f xs i x + 2 ^ 19 - 1) / 2 ^ 19)).map fun k =>
    { va := (x.addr + k * 2 ^ 19) % 2 ^ 64, wr := x.type == 3 || (x.type == 2 && bitsAt x.flags 1 1 == 1),
      xr := x.type == 1, data := bitsAt data (k * 2 ^ 19) (2 ^ 19) }

/-- All pages of a file, section by section. -/
def filePages (f : Nat) (xs : List Sec) : List SecPage :=
  xs.zipIdx.flatMap fun e => if secLoads e.1 then pagesOf f xs e.2 e.1 else []

/-! ### The jig (R223) -/

/-- n parts of w bits from an offset. -/
def partsFrom (j o w n : Nat) : List Nat := (List.range n).map fun i => bitsAt j (o + w * i) w

/-- Bits of the jig's parts before its padding. -/
def jigBits (j : Nat) : Nat :=
  512 + 512 * bitsAt j 112 16 + 512 * bitsAt j 96 16 + 256 * bitsAt j 88 8 + 128 * bitsAt j 80 8 + 96 * bitsAt j 71 9

def jigOf (j : Nat) : Jig :=
  let o1 := 512 + 512 * bitsAt j 112 16
  let o2 := o1 + 512 * bitsAt j 96 16
  let o3 := o2 + 256 * bitsAt j 88 8
  let o4 := o3 + 128 * bitsAt j 80 8
  { feat := bitsAt j 384 128, entry := BitVec.ofNat 64 (bitsAt j 320 64), tvec := BitVec.ofNat 64 (bitsAt j 256 64),
    eopd := BitVec.ofNat 64 (bitsAt j 192 64), pword := BitVec.ofNat 32 (bitsAt j 160 32), srseed := bitsAt j 128 32,
    gcount := bitsAt j 56 8, vcount := bitsAt j 48 8, spc := bitsAt j 44 4,
    rsvd := bitsAt j 64 7 != 0 || bitsAt j 0 44 != 0,
    recs := partsFrom j 512 512 (bitsAt j 112 16), tensors := partsFrom j o1 512 (bitsAt j 96 16),
    fields := partsFrom j o2 256 (bitsAt j 88 8), queues := partsFrom j o3 128 (bitsAt j 80 8),
    sched := partsFrom j o4 96 (bitsAt j 71 9) }

/-! ### The form of a file (R219 to R225, R256) -/

/-- The kernel of a file: its one JIG section. -/
def jigSec (xs : List Sec) : Option Sec :=
  match xs.filter fun x => x.type == 4 with
  | [x] => some x
  | _ => none

/-- The SIG section that a JIG section's LINK names. -/
def sigSec (xs : List Sec) (j : Sec) : Option Sec :=
  match xs[j.link]? with
  | some x => if x.type = 8 && decide (27648 ≤ x.size) then some x else none
  | none => none

/-- A section lies in its file, at a multiple of 512. -/
def secInside (bits : Nat) (x : Sec) : Bool := x.type == 3 || (x.off % 512 == 0 && decide (x.off + x.size ≤ bits))

/-- No two sections that load share a page. -/
def pagesApart (ps : List SecPage) : Bool := ps.zipIdx.all fun e => (ps.drop (e.2 + 1)).all fun p => p.va != e.1.va

/-- An undefined symbol: of a section, but in none. -/
def symUndefined (y : Sym) : Bool := y.sec == 0 && (y.kind == 0 || y.kind == 1 || y.kind == 5)

/-- A symbol of assigned kind and binding, with nothing reserved set, in a section of the file or in none (R221). -/
def symOk (xs : List Sec) (y : Sym) : Bool :=
  decide (y.kind ≤ 6) && decide (y.bind ≤ 1) && !y.rsvd && decide (y.sec < xs.length ∨ y.sec = 0)

/-- A SYM section: whole entries, the first null, its names in a STR section that LINK names (R220, R221). -/
def symSecOk (f : Nat) (xs : List Sec) (x : Sec) : Bool :=
  x.type != 5 || (x.size % 256 == 0 && (symEntries f x).headD 0 == 0 && (xs[x.link]?.map fun y => y.type == 7).getD false)

/-- The form of a section-table entry: no reserved flag, a ZERO section of size 0, a CODE section of whole lines (R217,
R220). -/
def secFormOk (x : Sec) : Bool :=
  x.flags / 4 == 0 && (x.type != 3 || x.size == 0) && (x.type != 1 || x.size % 512 == 0)

/-- A JIG section's contents: its parts, padded with zeros to a multiple of 512 bits (R223). -/
def jigPadded (f : Nat) (j : Sec) : Bool :=
  let n := jigBits (secData f j)
  j.size == (n + 511) / 512 * 512 && bitsAt (secData f j) n (j.size - n) == 0

/-- The file is a well-formed executable (R219 to R223, R225, R256). -/
def skoOk (f bits : Nat) : Bool :=
  let xs := secsOf f
  let shoff := bitsAt f 384 64
  decide (512 ≤ bits) && bitsAt f 480 32 == 0x534B4F31 && bitsAt f 472 8 == 1 && bitsAt f 464 8 == 2 && bitsAt f 0 384 == 0
    && decide (shoff + 256 * bitsAt f 448 16 ≤ bits)
    && xs.all (fun x => decide (1 ≤ x.type) && decide (x.type ≤ 8) && x.type != 6 && secInside bits x)
    && xs.all (fun x => !secLoads x || x.addr % 2 ^ 19 == 0)
    && xs.zipIdx.all (fun e => e.1.type != 3 || (zeroSize f xs e.2 e.1).isSome)
    && xs.all (fun x => secFormOk x && symSecOk f xs x)
    && (symsOf f xs).all (fun e => symOk xs e.1 && !symUndefined e.1)
    && pagesApart (filePages f xs)
    && (match jigSec xs with
      | some j => (sigSec xs j).isSome && decide (512 ≤ j.size) && jigPadded f j
      | none => false)

/-! ### Measurement and signatures (R224, R225) -/

/-- The bytes of a section's contents; a last byte that the contents only begin is filled with zero bits (log 73). -/
def secBytes (f : Nat) (x : Sec) : List Nat := leBytes ((x.size + 7) / 8) (secData f x)

/-- MEAS of an image (R224). -/
def measureOf (f : Nat) (xs : List Sec) (j : Sec) : Nat :=
  ofLeBytes (sha384 (secBytes f j ++ xs.zipIdx.flatMap fun e =>
    if secImage e.1 then
      leBytes 8 e.1.addr ++ leBytes 8 (extentOf f xs e.2 e.1) ++ (if e.1.type = 3 then [] else secBytes f e.1)
    else []))

/-- MEAS matches, and both signatures verify under keys of the tenant (R225). -/
def signedOk (f tenant : Nat) (xs : List Sec) (j sig : Sec) : Bool :=
  let b := secData f sig
  let msg := leBytes 64 (bitsAt b 0 512)
  measureOf f xs j == bitsAt b 0 384
    && signatureOk 0 tenant (bitsAt b 384 64) (bitsAt b 512 512) msg
    && signatureOk 1 tenant (bitsAt b 448 64) (bitsAt b 1024 26472) msg

/-- R225's cause for a file, and its sections, jig section and signature block when it passes. Form comes before
signatures. -/
def checkSko (f bits tenant : Nat) : Except Nat (List Sec × Sec × Sec) :=
  let xs := secsOf f
  if !skoOk f bits then .error 0x384
  else match jigSec xs with
    | none => .error 0x384
    | some j => match sigSec xs j with
      | none => .error 0x384
      | some sig => if signedOk f tenant xs j sig then .ok (xs, j, sig) else .error 0x383

end Sys2Proof.Machine
end

