-- ==== Sys2Proof/Machine/Service.lean ====
section
/-! DEFINITION. What the resident service does on request: building contexts, loading and unloading kernels, jobs, queries and
collective groups, and the quotas it sets (14 R255 to R258; 17 R293; 18 R306; 20 R322 to R326, R371; 21 R343;
26 R366). The service's own choices (cores, frames, tables, indices) come with the step; a step whose choices could not be the
service's changes nothing (log 17). -/

namespace Sys2Proof.Machine

/-! ### Quotas (R371) -/

/-- A quota's total and what is reserved to each active tenant (R273, R287, R303, R310, R312). -/
def quotaTotal : QuotaKind → Nat
  | .nodes => 32768 | .buffers => 2048 | .fields => 1024 | .tlb => 4096 | .pages => 256
def quotaReserve : QuotaKind → Nat
  | .nodes => 256 | .buffers => 32 | .fields => 16 | .tlb => 64 | .pages => 2

/-- What a tenant holds of a resource; of one that is counted per die, the most on a die. -/
def quotaHeld (s : State) (tenant : Nat) (k : QuotaKind) : Nat :=
  match k with
  | .nodes => tenantNodes s tenant
  | .buffers => tenantBuffers s tenant
  | .fields => tenantFields s tenant
  | .tlb => (List.range 4).foldl
      (fun n d => max n ((getDie s d).tlb.filter fun x => x.tag != 0 && (getPart s x.tag).tenant == tenant).length) 0
  | .pages => (List.range 4).foldl (fun n d => max n (pageEntries s d tenant)) 0

def setQuota (t : Tenant) (k : QuotaKind) (v : Nat) : Tenant :=
  match k with
  | .nodes => { t with nodeQuota := v }
  | .buffers => { t with bufferQuota := v }
  | .fields => { t with fieldQuota := v }
  | .tlb => { t with tlbQuota := v }
  | .pages => { t with pageQuota := v }

/-- A quota that a tenant may be given: not below its reservation nor what it holds, and not above the total less the reservations of
the other active tenants (R371). -/
def quotaAllowed (s : State) (tenant : Nat) (kind : QuotaKind) (value : Nat) : Bool :=
  let others := (s.tenants.filter fun e => e.1 != tenant && e.2.active).length
  decide (quotaReserve kind ≤ value) && decide (value + others * quotaReserve kind ≤ quotaTotal kind)
    && decide (quotaHeld s tenant kind ≤ value)

def quotaOf (t : Tenant) : QuotaKind → Nat
  | .nodes => t.nodeQuota | .buffers => t.bufferQuota | .fields => t.fieldQuota | .tlb => t.tlbQuota | .pages => t.pageQuota

/-- Every active tenant's quotas are ones that it may be given. -/
def quotasInBounds (s : State) : Bool :=
  s.tenants.all fun e => !e.2.active
    || [QuotaKind.nodes, .buffers, .fields, .tlb, .pages].all fun k => quotaAllowed s e.1 k (quotaOf e.2 k)

/-! ### Quotes and sessions (23 R360; 21 R343) -/

/-- The tenant measurement of a partition: over the MEAS fields of its kernels in ascending index. -/
def tenantMeasure (p : Partn) : Nat := ofLeBytes (sha384 (p.kernels.flatMap fun e => leBytes 48 e.2.meas))

/-- The layout of a quote (23 R360). -/
def quoteOf (fwm kmeas devid svn nonce : Nat) : Nat :=
  fwm % 2 ^ 384 * 2 ^ 896 + kmeas % 2 ^ 384 * 2 ^ 512 + devid % 2 ^ 64 * 2 ^ 448 + svn % 2 ^ 32 * 2 ^ 416 + nonce % 2 ^ 256

/-- The quote that the service signs and returns about a partition; tag 0 asks about none (23 R360). -/
def quoteBits (s : State) (tag nonce : Nat) : Nat :=
  let kmeas := if tag = 0 ∨ (getPart s tag).st = .free then 0 else tenantMeasure (getPart s tag)
  quoteOf s.boot.fwMeasure kmeas deviceId s.boot.svn nonce

/-- A quote with its signatures behind it: Ed25519 in 64 bytes, then ML-DSA-65 in 3,309, both over its 1,280 bits (23 R360). -/
def signedQuote (q : Nat) : Nat :=
  q % 2 ^ 1280 + Config.identitySignature 0 (q % 2 ^ 1280) % 2 ^ 512 * 2 ^ 1280
    + Config.identitySignature 1 (q % 2 ^ 1280) % 2 ^ 26472 * 2 ^ 1792

/-- Whether a verifier that holds the device's public keys accepts a signed quote (23 R360). -/
def quoteAccepted (keyE keyM v : Nat) : Bool :=
  let msg := leBytes 160 (v % 2 ^ 1280)
  verifies 0 keyE (bitsAt v 1280 512) msg && verifies 1 keyM (bitsAt v 1792 26472) msg

/-- A session of a tenant: the service sets it up once the peer has accepted its quote over the peer's nonce (R343, R360). The
quote before a session is about no tenant's partition, tag 0 (DESIGN CHOICE, log 32). -/
def setUpSession (s : State) (tenant nonce : Nat) : State :=
  if serviceUp s && !s.sessions.contains tenant
      && quoteAccepted (Config.identityKey 0) (Config.identityKey 1) (signedQuote (quoteBits s 0 nonce)) then
    { s with sessions := s.sessions ++ [tenant] }
  else s

/-! ### Build (R322, R323, R325) -/

/-- The load field of a partition (R306). -/
def loadField (base now : Nat) : Field :=
  { base := base, rows := 64, cols := 64, tsrc := 2, targ := 65536, satv := 65535, st := .live, timerAt := now }

/-- The tag and the units are free: the tag not held back, the cores of ready dies and of no partition, the granules of the
partition's clusters and of no partition. -/
def buildFree (s : State) (tag : Nat) (b : BuildBody) : Bool :=
  let p := getPart s tag
  tag != 0 && p.st == .free && p.holdUntil == 0
    && b.cores.all (fun c => (getCore s c).tag == 0 && s.boot.ready.toNat / 2 ^ (52 + dieOf c) % 2 == 1)
    && b.granules.all (fun g => granuleHolder s g.1 g.2 == 0)

/-- The request's choices are ones the service may make. -/
def buildOk (s : State) (tenant : Nat) (b : BuildBody) : Bool :=
  !b.cores.isEmpty && b.cores.Nodup && b.cores.all (fun c => decide (c < 4096)) && b.granules.Nodup
    && b.granules.all (fun g => decide (g.2 < 8) && b.cores.any fun c => clusterOf c == g.1)
    && b.root % 2 ^ 9 == 0 && rangeFree s (b.root / 8) (tableBytes 3)
    && b.pages.all (fun p => p.dev != 0 || inHbm s (p.pfn * 2 ^ 16) (2 ^ 16))
    && b.lfbase % 32 == 0 && decide (b.lfbase % 2 ^ 19 + 32 * 4096 ≤ 2 ^ 19) && b.dbell % 64 == 0
    && b.key != 0 && (match nget? s.keys b.key with | some k => k.1 == tenant | none => false)
    && b.clamps.all clampCfgOk

/-- Once built, the load field can be read, and neither written nor executed, by programs, the doorbell lies in an so page, and every active tenant's
quotas are in their bounds (R306, R339, R371). -/
def builtOk (s : State) (tag : Nat) (b : BuildBody) : Bool :=
  partHas s tag b.lfbase (32 * 4096) false
    && (match partXlat s tag b.lfbase, partXlat s tag b.dbell with
      | some x, some y => !x.wr && !x.xr && !x.peer && !y.peer && y.kind == 0 && y.wr
      | _, _ => false)
    && quotasInBounds s

/-- A context is set up, with the quotas of a tenant that becomes active by it (R325, R371); none when the tables given do not
suffice. -/
def buildContext (s : State) (tag tenant : Nat) (b : BuildBody) : Option State :=
  let cores := b.cores.mergeSort
  let s := cores.foldl (fun s c => updateLoad (onCore s c fun k => freshCore k tag) c) s
  let s := b.granules.foldl
    (fun s g => onCluster (clearGranule (wakeUnit s (.granule g.1 g.2)) g.1 g.2) g.1 fun x =>
      { x with granules := nset x.granules g.2 tag }) s
  let s := zeroBytes (wakeRange s (b.root / 8) (tableBytes 3)) (b.root / 8) (tableBytes 3)
  let p : Partn :=
    { st := .empty, tenant := tenant, key := b.key, cores := cores, root := b.root, enj := (getPart s tag).enj,
      fbuf := (getPart s tag).fbuf,
      lfbase := BitVec.ofNat 64 b.lfbase, dbell := BitVec.ofNat 64 b.dbell, fields := [(0, loadField b.lfbase s.now)] }
  let p := { p with clamps := b.clamps.foldl (fun m c => nset m c.num (clampOf p c)) [] }
  let s := putPart s tag p
  (mapAll (fun s pg ts => mapPage s tag pg ts) s b.pages b.tables).map fun s =>
    let s := wakeObjects (partWrite s tag b.lfbase (32 * 4096) 0) tag
    onTenant s tenant fun t => b.quotas.foldl (fun t q => setQuota t q.1 q.2) { t with active := true }

/-- BUILD_REQUEST: the response reports LFBASE and DBELL (R306, R325, R339). -/
def execBuildRequest (h : ReqHdr) (body : BuildBody) (s : State) : Host.Outcome State Fault Refusal :=
  request s h 1 fun tag =>
    if !buildFree s tag body then forbidden s h
    else if !buildOk s (hdrTenant h) body then none
    else ((buildContext s tag (hdrTenant h) body).filter fun s' => builtOk s' tag body).map fun s' =>
      respond s' h 0 (body.lfbase * 2 ^ 64 + body.dbell)

/-! ### Kernels (R255, R256) -/

/-- A context in which kernels are loaded and unloaded, and jobs asked for. -/
def ctxServes (st : CtxSt) : Bool := st == .empty || st == .idle || st == .active

/-- The pages of a kernel mapped, each in a free frame, zeroed and filled first (R256); none when the frames and tables given do not
suffice. -/
def mapKernel (s : State) (tag : Nat) (ps : List (SecPage × Nat)) (tables : List Nat) : Option State :=
  let key := (getPart s tag).key
  mapAll (fun s p ts =>
    if rangeFree s (p.2 * 2 ^ 16) (2 ^ 16) then
      mapPage (fillFrame s key p.2 (leBytes (2 ^ 16) p.1.data)) tag
        { va := p.1.va, pfn := p.2, key := key, kind := 1, xr := p.1.xr, wr := p.1.wr, rd := true } ts
    else none) s ps tables

/-- LOAD_REQUEST: R225, then a free index, then overlap (R255). -/
def execLoadRequest (h : ReqHdr) (kidx file bits : Nat) (frames tables : List Nat) (s : State) :
    Host.Outcome State Fault Refusal :=
  request s h 3 fun tag =>
    let p := getPart s tag
    if !ctxServes p.st then forbidden s h
    else match checkSko file bits p.tenant with
      | .error cause => some (respond s h cause 0)
      | .ok (xs, j, sig) =>
        let pages := filePages file xs
        if (List.range 1023).all fun i => (getKernel? s tag (i + 1)).isSome then some (respond s h 0x3C8 0)
        else if pages.any fun pg => pageMapped s tag pg.va then some (respond s h 0x3C7 0)
        else if kidx = 0 ∨ 1023 < kidx ∨ (getKernel? s tag kidx).isSome ∨ frames.length < pages.length then none
        else
          let k : Kernel :=
            { jig := jigOf (secData file j), pages := pages.map (·.va), meas := bitsAt (secData file sig) 0 384 }
          (mapKernel s tag (pages.zip frames) tables).map fun s =>
            let s := onPart (putKernel s tag kidx k) tag fun p => { p with st := if p.st = .empty then .idle else p.st }
            respond s h 0 kidx

/-- UNLOAD_REQUEST (R255, R343). -/
def execUnloadRequest (h : ReqHdr) (kidx : Nat) (s : State) : Host.Outcome State Fault Refusal :=
  request s h 4 fun tag =>
    if !ctxServes (getPart s tag).st then forbidden s h
    else match getKernel? s tag kidx with
      | none => some (respond s h 0x381 0)
      | some k => match k.st with
        | .unloading => some (respond s h 0x381 0)
        | .active => some (respond (putKernel s tag kidx { k with st := .unloading }) h 0 0)
        | .loaded => some (respond (dropKernel s tag kidx) h 0 0)

/-! ### Jobs (R257, R258, R366) -/

/-- A node that is OPEN is drained by the service (R276). -/
def drainNode (s : State) (tag n : Nat) : State :=
  match getNode? s tag n with
  | some x =>
    if x.status = .opened then settleNode tag none 6 (onNode s tag n fun x => { x with status := .draining }) n else s
  | none => s

/-- The launch node beneath a parent; 0x202 when the tenant's quota is used up (R196). -/
def acceptJob (s : State) (tag kidx n parent : Nat) (fp : Word) (key : Nat × Nat) (graph : Option Nat) : Except Nat State :=
  match acceptLaunch s tag kidx n parent fp none 0 (some key) graph with
  | some (s, _) => .ok (answerLater s key true)
  | none => .error 0x202

/-- A job node, beneath it a graph node when the jig binds queues, beneath that the launch node; only then are they drained
(R257, R366). -/
def openJob (s : State) (tag kidx n : Nat) (fp : Word) (key : Nat × Nat) : Except Nat State :=
  match openNode s tag 0 4 0 .opened none with
  | none => .error 0x202
  | some (s, job) =>
    let binds := ((getKernel? s tag kidx).map fun k => !k.jig.queues.isEmpty).getD false
    if binds then
      match openNode s tag job 2 0 .opened none with
      | none => .error 0x202
      | some (s, graph) => (acceptJob s tag kidx n graph fp key (some graph)).map fun s =>
          drainNode (drainNode s tag graph) tag job
    else (acceptJob s tag kidx n job fp key none).map fun s => drainNode s tag job

/-- LAUNCH_REQUEST: a request that fails a check creates nothing (R257, R258, R274). The launch node's parent lies beneath the job
node that the service opens, also where the request carries a node: of that one only its level and status are checked (R257, R274,
R366; log 32). -/
def execLaunchRequest (h : ReqHdr) (kidx n : Nat) (fp : Word) (parent : Nat) (s : State) :
    Host.Outcome State Fault Refusal :=
  request s h 5 fun tag =>
    if !ctxServes (getPart s tag).st then forbidden s h
    else match launchCheck s tag kidx n with
      | some (cause, tval) => some (respond s h cause tval)
      | none =>
        if parent ≠ 0 ∧ !launchParentOk s tag parent then some (respond s h 0x203 parent)
        else match openJob s tag kidx n fp (reqKey h) with
          | .ok s => some s
          | .error cause => some (respond s h cause parent)

/-! ### Queries, groups and quotas (R339, R343, R371) -/

def ctxCode : CtxSt → Nat
  | .free => 0 | .empty => 1 | .idle => 2 | .active => 3 | .parking => 4 | .parked => 5 | .sealed => 6 | .resetting => 7

/-- A tenant's quotas as the response to a query reports them; the layout is the model's (log 32). -/
def quotaBits (t : Tenant) : Nat :=
  t.nodeQuota + t.bufferQuota * 2 ^ 32 + t.fieldQuota * 2 ^ 64 + t.tlbQuota * 2 ^ 96 + t.pageQuota * 2 ^ 128

/-- QUERY_REQUEST: the context's state, the tenant's quotas, and a signed quote about the partition over the verifier's nonce (R343, R360,
R371). -/
def execQueryRequest (q : QueryAsk) (s : State) : Host.Outcome State Fault Refusal :=
  request s q.hdr 11 fun tag =>
    some (respond s q.hdr 0 (ctxCode (getPart s tag).st + quotaBits (getTenant s (hdrTenant q.hdr)) * 2 ^ 8
      + signedQuote (quoteBits s tag q.nonce) * 2 ^ 256))

/-- GROUP_SETUP_REQUEST: participants are partitions 1 to 63 of devices 1 to 255, those on this device the tenant's; a group with posts
outstanding stays as it is (R322, R335, R339, R343). -/
def execGroupSetupRequest (h : ReqHdr) (grp : Nat) (ranks : List (Nat × Nat)) (s : State) :
    Host.Outcome State Fault Refusal :=
  request s h 12 fun _ =>
    let foreign := ranks.any fun e => e.1 == Config.deviceNumber
      && ((getPart s e.2).st == .free || (getPart s e.2).tenant != hdrTenant h)
    let busy := match getGroup? s grp with
      | some x => !x.posts.isEmpty
      | none => false
    let unnamed := ranks.any fun e => e.1 == 0 || decide (255 < e.1) || e.2 == 0 || decide (63 < e.2)
    if 256 ≤ grp ∨ ranks.isEmpty ∨ 256 < ranks.length ∨ !ranks.Nodup ∨ unnamed then none
    else if foreign then some (respond s h 0x3C5 0)
    else if busy then forbidden s h
    else some (respond (putGroup s grp { ranks := ranks }) h 0 0)

/-- QUOTA_CHANGE: within the bounds of R371, and not below what the tenant holds. -/
def execQuotaChange (tenant : Nat) (kind : QuotaKind) (value : Nat) (s : State) : Host.Outcome State Fault Refusal :=
  ifDue s (if quotaAllowed s tenant kind value then some (onTenant s tenant fun t => setQuota t kind value) else none)

/-- ENGINE_EPOCH_ADVANCE (R177). -/
def execEngineEpochAdvance (cl : Nat) (s : State) : Host.Outcome State Fault Refusal :=
  .next (onCluster s cl fun x => { x with epoch := (x.epoch + 1) % 2 ^ 13 })

/-! ### Cores and granules of a partition (R326) -/

/-- A partition whose cores and granules may change: EMPTY, or IDLE with no record, no command, and no delta record outside a
consolidation buffer (R326). -/
def mayRecore (s : State) (tag : Nat) : Bool :=
  let p := getPart s tag
  tag != 0 && (p.st == .empty || p.st == .idle) && p.launches.isEmpty
    && (p.cores.all fun c =>
      let k := getCore s c
      k.deque.isEmpty && k.ring.isEmpty && k.q0.isEmpty && k.q1.isEmpty && k.q2.isEmpty && k.launch == 0)
    && p.queues.all fun q => q.2.ring.isEmpty && q.2.busy.isEmpty

/-- The cores and granules that a partition is to have are its own or no partition's, as at a build. -/
def recoreOk (s : State) (tag : Nat) (cores : List Nat) (granules : List (Nat × Nat)) : Bool :=
  !cores.isEmpty && cores.Nodup && granules.Nodup
    && (cores.all fun c => decide (c < 4096) && ((getCore s c).tag == tag
      || ((getCore s c).tag == 0 && s.boot.ready.toNat / 2 ^ (52 + dieOf c) % 2 == 1)))
    && granules.all fun g => decide (g.2 < 8) && (granuleHolder s g.1 g.2 == tag || granuleHolder s g.1 g.2 == 0)
        && cores.any fun c => clusterOf c == g.1

/-- A core leaves its partition: what it has under way is performed, its load-field cell reads 0, and it is zeroed with tag 0
(R306, R326). -/
def removeCore (s : State) (tag c : Nat) : State :=
  let s := clearCell (flushCore s c) tag c
  onCore { s with strands := s.strands.filter fun e => e.1 / 8 != c, leases := s.leases.filter fun e => e.2 != c } c
    fun k => freshCore k 0

/-- A granule passes from one holder to another, zeroed (R323). -/
def giveGranule (s : State) (tag : Nat) (g : Nat × Nat) : State :=
  onCluster (clearGranule (wakeUnit s (.granule g.1 g.2)) g.1 g.2) g.1 fun x =>
    { x with granules := if tag = 0 then nerase x.granules g.2 else nset x.granules g.2 tag }

/-- The service changes the cores, the logical table and the granules of a partition (R322, R326). A clamp of kind 1 counts the cores
that the partition has now (R293). -/
def recore (s : State) (tag : Nat) (cores : List Nat) (granules : List (Nat × Nat)) : State :=
  let old := (getPart s tag).cores
  let held := heldGranules s tag
  let s := (old.filter fun c => !cores.contains c).foldl (fun s c => removeCore s tag c) s
  let s := onPart s tag fun p =>
    { p with cores := cores.mergeSort
             clamps := p.clamps.map fun e => (e.1, if e.2.kind = 1 then { e.2 with need := cores.length } else e.2) }
  let s := (cores.filter fun c => !old.contains c).foldl (fun s c => updateLoad (onCore s c fun k => freshCore k tag) c) s
  let s := (held.filter fun g => !granules.contains g).foldl (fun s g => giveGranule s 0 g) s
  (granules.filter fun g => !held.contains g).foldl (fun s g => giveGranule s tag g) s

/-- The change is made, if the service may make it (R326). -/
def tryRecore (s : State) (tag : Nat) (cores : List Nat) (granules : List (Nat × Nat)) : State :=
  if mayRecore s tag && recoreOk s tag cores granules then recore s tag cores granules else s

end Sys2Proof.Machine
end

