-- ==== Sys2Proof/Machine/Seal.lean ====
section
/-! DEFINITION. Ingots, counter chains and the key stores: sealing, unsealing, handoff, tokens (20 R324, R330 to R334). -/

namespace Sys2Proof

/-- FREE VALUE (log 10): the context that a plaintext which another device wrote holds, if it holds one. The spec does not give the
plaintext's layout (20 R330). -/
opaque Config.foreignIngot (plain : List Nat) : Option Machine.Ingot

namespace Machine

/-! ### The ingot (R330) -/

/-- An ingot's header. -/
def ingotHeader (chain ctr meas nonce size tenant ncore : Nat) : Nat :=
  0x494E4731 * 2 ^ 992 + 2 ^ 984 + chain % 2 ^ 8 * 2 ^ 976 + ctr % 2 ^ 64 * 2 ^ 912 + meas % 2 ^ 384 * 2 ^ 528
    + nonce % 2 ^ 96 * 2 ^ 432 + size % 2 ^ 64 * 2 ^ 368 + tenant % 2 ^ 32 * 2 ^ 336 + ncore % 2 ^ 13 * 2 ^ 323

/-- The fields of a header that the key and the checks use. -/
def hdrChain (hd : Nat) : Nat := bitsAt hd 976 8
def hdrCtr (hd : Nat) : Nat := bitsAt hd 912 64
def hdrMeas (hd : Nat) : Nat := bitsAt hd 528 384
def hdrNonce (hd : Nat) : Nat := bitsAt hd 432 96
def hdrSize (hd : Nat) : Nat := bitsAt hd 368 64
def hdrOwner (hd : Nat) : Nat := bitsAt hd 336 32

/-- K (R331): salt MEAS, the sealing root, and as info the chain, the tenant and the counter. -/
def ingotKey (root hd : Nat) : List Nat :=
  hkdfSha384 (leBytes 48 (hdrMeas hd)) (leBytes 32 root)
    (leBytes 1 (hdrChain hd) ++ leBytes 4 (hdrOwner hd) ++ leBytes 8 (hdrCtr hd)) 32

/-- The plaintext of an ingot of so many bits (log 10). -/
def ingotPlain (draw size : Nat) : List Nat := (List.range ((size - 1152) / 8)).map fun i => (Config.ingotByte draw i).toNat

/-- A plaintext enciphered under K, with the GCM tag over header and ciphertext after it (R330). -/
def ingotCipher (root hd : Nat) (plain : List Nat) : List Nat :=
  let k := ingotKey root hd
  let ct := gcmCrypt k (leBytes 12 (hdrNonce hd)) plain
  ct ++ gcmTag k (leBytes 12 (hdrNonce hd)) (leBytes 128 hd) ct

/-- For each logical core the first logical core of its cluster, and its number within the cluster. -/
def shapeOf (cores : List Nat) : List (Nat × Nat) :=
  cores.map fun c => (cores.findIdx fun d => clusterOf d == clusterOf c, inCluster c)

/-- The granules of a partition by the first logical core of their cluster, in order. -/
def granuleShape (s : State) (tag : Nat) : List Nat :=
  ((heldGranules s tag).map fun g => ((getPart s tag).cores.findIdx fun c => clusterOf c == g.1) * 8 + g.2).mergeSort

/-- Bits of a B store that lie in a granule. -/
def granuleBytes (s : State) (cl g : Nat) : Memory :=
  (getCluster s cl).bstore.filter fun e => e.1 * 8 % 2 ^ 17 / 2 ^ 14 == g

/-- The bytes of a frame that are not zero, as its key reads them. -/
def frameContent (s : State) (key base n : Nat) : Memory :=
  ((s.mem.filter fun e => decide (base ≤ e.1) && decide (e.1 < base + n)).map
    fun e => (e.1 - base, keyedByte s key e.1)).filter fun e => e.2 != 0

def leafImg (s : State) (x : Leaf) : LeafImg :=
  { va := x.va, lvl := x.lvl, bits := x.e.bits, material := (keyMaterial? s x.e.key).getD 0
    content := if x.e.peer then [] else frameContent s x.e.key (x.e.pfn * 2 ^ 16) (2 ^ leafBits x.lvl / 8) }

/-- What an ingot holds of a partition. -/
def ingotOf (s : State) (tag header size : Nat) : Ingot :=
  let p := getPart s tag
  { header := header, size := size, part := p, shape := shapeOf p.cores, phys := p.cores
    cores := p.cores.map fun c => { getCore s c with win := WinAcc.clear }
    windows := p.cores.map fun c => (getCore s c).win.image
    strands := p.cores.zipIdx.flatMap fun e => (liveSlots s e.1).map fun l => (e.2 * 8 + l, getStrand s e.1 l)
    granules := (heldGranules s tag).map fun g => ((p.cores.findIdx fun c => clusterOf c == g.1), g.2, granuleBytes s g.1 g.2)
    steals := s.steals.filter fun r => p.cores.contains r.thief
    pending := s.pending.filter fun f => p.cores.contains f.core
    leaves := (leavesOf s tag).map (leafImg s) }

/-! ### SEAL (R332) -/

/-- The root in a slot. -/
def rootIn (s : State) (slot : Nat) : Option Nat := (nget? s.roots slot).map (·.2)

/-- A SEAL's writes, at the service's pages: header, ciphertext and tag; the counter is not yet committed. Operations on one chain go one
at a time. None while the service's pages do not take the ingot. -/
def sealWrite (s : State) (tag root ch ea nonce size sid : Nat) (reqid : Option (Nat × Nat)) : Option State :=
  let x := getChain s ch
  if x.writing.isSome ∨ size % 8 ≠ 0 ∨ size < 1152 ∨ !partHas s 0 ea size true then none
  else
    let p := getPart s tag
    let n := x.hw.toNat + 1
    let header := ingotHeader ch n (tenantMeasure p) nonce size p.tenant p.cores.length
    let g := ingotOf s tag header size
    let bytes := ingotCipher ((rootIn s root).getD 0) header (ingotPlain s.draw size)
    let s := partWrite s 0 ea 1024 header
    let s := partWrite s 0 ((ea + 1024) % 2 ^ 64) (size - 1024) (ofLeBytes bytes)
    let s := putChain s ch { x with writing := some ⟨n, tag, sid, reqid⟩ }
    some { s with ingots := nset s.ingots s.draw g }

/-- The commit: HW := n, and the context is SEALED. -/
def sealCommit (s : State) (ch : Nat) (j : SealJob) : State :=
  let s := putChain s ch { getChain s ch with hw := BitVec.ofNat 64 j.n, writing := none }
  onPart s j.tag fun p => { p with st := .sealed }

/-- The SEAL between its writes and its commit that a strand, or a request, has issued. -/
def sealOpen (s : State) (ch sid : Nat) (reqid : Option (Nat × Nat)) : Option SealJob :=
  (getChain s ch).writing.filter fun j => j.sid == sid && j.reqid == reqid

/-- The next part of a SEAL: the status it returns at once, its writes, or its commit. -/
def sealNext (s : State) (tag root ch ea nonce size sid : Nat) (reqid : Option (Nat × Nat)) : Option (State × Option Nat) :=
  match sealOpen s ch sid reqid with
  | some j => some (sealCommit s ch j, some 0)
  | none => match sealRefused s tag root ch with
    | some st => some (s, some st)
    | none => (sealWrite s tag root ch ea nonce size sid reqid).map fun s => (s, none)

/-- SEAL_COMPLETE: the sleeping SEAL of a strand makes its writes; the step again is its commit, and it returns (R210, R332). -/
def execSealComplete (c l nonce size : Nat) (s : State) : Host.Outcome State Fault Refusal :=
  onWait s c l fun w => match w with
    | .seal d tag root ch ea =>
      (sealNext s tag root ch ea nonce size (getStrand s c l).sid none).map fun r => match r.2 with
        | some st => finish r.1 c l (.g d) st
        | none => r.1
    | _ => none

/-- SEAL_REQUEST: the service issues a SEAL; the request's step again is the commit, and the service answers with the status (R332,
R343). -/
def execSealRequest (h : ReqHdr) (root ch ea nonce size : Nat) (s : State) : Host.Outcome State Fault Refusal :=
  request s h 9 fun tag =>
    let key := reqKey h
    let open_ := (sealOpen s (ch % 2 ^ 8) 0 (some key)).isSome
    (sealNext s tag (root % 2 ^ 6) (ch % 2 ^ 8) ea nonce size 0 (some key)).map fun r => match r.2 with
      | some st => if open_ then answerAsked r.1 key st 0 else respond r.1 h st 0
      | none => answerLater r.1 key false

/-! ### The checks of UNSEAL (R333) -/

/-- The memories of an ingot's cores are in their canonical form. -/
def canonicalIngot (g : Ingot) : Bool := g.cores.all fun k => k.pool.wf && k.side.wf

/-- The context that a plaintext holds: one that this device wrote, or another device (log 10). -/
def contextOf (s : State) (hd : Nat) (plain : List Nat) : Option Ingot :=
  match s.ingots.find? fun e => e.2.header == hd && ingotPlain e.1 e.2.size == plain with
  | some e => some e.2
  | none => (Config.foreignIngot plain).filter canonicalIngot

/-- The ingot at an address: its GCM tag verifies under K from the root in a slot, the plaintext holds a context, and MEAS is the
measurement of its kernels (R333 step 5). -/
def ingotAt (s : State) (root ea : Nat) : Option Ingot :=
  let hd := partRead s 0 ea 1024
  let size := hdrSize hd
  match rootIn s root with
  | none => none
  | some r =>
    if size % 8 ≠ 0 ∨ size < 1152 then none
    else
      let n := (size - 1152) / 8
      let bytes := leBytes (n + 16) (partRead s 0 ((ea + 1024) % 2 ^ 64) (size - 1024))
      let plain := gcmCrypt (ingotKey r hd) (leBytes 12 (hdrNonce hd)) (bytes.take n)
      if ingotCipher r hd plain = bytes then
        (contextOf s hd plain).filter fun g => tenantMeasure g.part == hdrMeas hd
      else none

/-- The distinct key materials of an ingot's leaves. -/
def materialsOf (g : Ingot) : List Nat := (g.leaves.map (·.material)).eraseDups

/-- Key slots that hold no key. -/
def freeSlots (s : State) : Nat := 1024 - s.keys.length

/-- The package-wide node store has so many entries more for a tenant (R273, R371). -/
def nodeStoreFits (s : State) (tenant n : Nat) : Bool :=
  n == 0 || leavesReserved s 32768 256 tenant (s.parts.foldl (fun n e => n + e.2.nodes.length) 0 + (n - 1)) (tenantNodes s)

/-- Step 1 for an ingot that is known: the same shape, and room for what it carries. -/
def unsealFits (s : State) (tag : Nat) (g : Ingot) : Bool :=
  let p := getPart s tag
  let t := getTenant s p.tenant
  shapeOf p.cores == g.shape
    && granuleShape s tag == ((g.granules.map fun e => e.1 * 8 + e.2.1).mergeSort)
    && decide ((materialsOf g).length ≤ freeSlots s)
    && decide (tenantNodes s p.tenant + g.part.nodes.length ≤ t.nodeQuota)
    && nodeStoreFits s p.tenant g.part.nodes.length
    && decide (tenantBuffers s p.tenant + g.part.queues.length ≤ t.bufferQuota)

/-- The status of an UNSEAL: the first check of R333 that fails. -/
def unsealStatus (s : State) (tag root ch ea : Nat) : Nat :=
  let hd := partRead s 0 ea 1024
  let g? := ingotAt s root ea
  let p := getPart s tag
  let x := getChain s ch
  let fits := match g? with
    | some g => unsealFits s tag g
    | none => true
  if p.st ≠ .empty ∨ p.cores.length ≠ bitsAt hd 323 13 ∨ !fits then 3
  else if bitsAt hd 992 32 ≠ 0x494E4731 ∨ bitsAt hd 984 8 ≠ 1 ∨ hdrChain hd ≠ ch ∨ x.st = .unbound ∨ x.tenant ≠ hdrOwner hd then 2
  else if hdrCtr hd < x.hw.toNat ∨ x.st = .handed then 1
  else if x.hw.toNat < hdrCtr hd then 2
  else if g?.isSome then 0 else 2

/-! ### Restoring (R330, R333) -/

/-- How a restore renames cores and strands: old and new physical numbers, and what is added to a strand's identity
(log 7). -/
structure Renaming where
  old : List Nat
  new : List Nat
  base : Nat
  deriving DecidableEq, Repr

def Renaming.core (r : Renaming) (c : Nat) : Nat :=
  match r.old.idxOf? c with
  | some i => r.new.getD i c
  | none => c
def Renaming.sid (r : Renaming) (x : Nat) : Nat := r.base + x
def Renaming.ofRec (r : Renaming) (x : Rec) : Rec := { x with joinCore := r.core x.joinCore, sid := r.sid x.sid }
def Renaming.ofCmd (r : Renaming) (m : Cmd) : Cmd := { m with core := r.core m.core, sid := r.sid m.sid }
def Renaming.ofResult (r : Renaming) (x : Result) : Result := { x with sid := r.sid x.sid }
def Renaming.ofReply (r : Renaming) (x : Reply) : Reply :=
  match x with
  | .value slot sid dst v => .value slot (r.sid sid) dst v
  | .trap slot sid code tval => .trap slot (r.sid sid) code tval
  | .peer slot sid q a => .peer slot (r.sid sid) q a
  | .steal slot out x => .steal (slot.map fun e => (e.1, r.sid e.2)) out (x.map r.ofRec)
/-- A strand; the answer of an access to a peer that it waits for lies in its core's inbox (R328). -/
def Renaming.ofStrand (r : Renaming) (t : Strand) : Strand := { t with sid := r.sid t.sid, entry := r.ofRec t.entry }
def Renaming.ofNode (r : Renaming) (x : Node) : Node :=
  { x with
    cfCore := x.cfCore.map r.core
    held := x.held.map r.ofRec
    room := x.room.map fun e => (r.core e.1, r.ofRec e.2)
    handlers := x.handlers.map fun e => (r.core e.1, r.ofRec e.2) }
def Renaming.ofLaunch (r : Renaming) (x : Launch) : Launch :=
  { x with
    cores := x.cores.map r.core, reqid := none
    waiter := x.waiter.map fun w => { w with core := r.core w.core }
    waiterSid := r.sid x.waiterSid }
def Renaming.ofClamp (r : Renaming) (x : Clamp) : Clamp :=
  { x with
    root := r.core x.root, counted := x.counted.map r.core
    joined := x.joined.map fun e => (r.core e.1, e.2.1, r.sid e.2.2) }

/-- A core's saved state, with its window's image, on a core of this device, which keeps its own clock supply and counters of
replays. -/
def Renaming.ofCore (r : Renaming) (here : CoreSt) (tag win : Nat) (k : CoreSt) : CoreSt :=
  { k with
    win := WinAcc.ofImage win, simd := k.simd.map fun e => (r.sid e.1, e.2)
    tag := tag, fduty := here.fduty, fdutyNow := here.fdutyNow, vcore := here.vcore, terr := here.terr, tlb := [], icache := []
    deque := k.deque.map r.ofRec, ring := k.ring.map r.ofRec, q0 := k.q0.map r.ofCmd, q1 := k.q1.map r.ofCmd
    q2 := k.q2.map fun p => { p with sid := r.sid p.sid, tag := tag }
    res := k.res.map r.ofResult, doneQ := k.doneQ.map r.ofResult, inbox := k.inbox.map r.ofReply }

/-- The partition's own objects; what belongs to the tag on this device stays. -/
def Renaming.ofPart (r : Renaming) (here : Partn) (key : Nat) (p : Partn) : Partn :=
  { p with
    st := .parked, tenant := here.tenant, key := key, cores := here.cores, root := here.root, holdUntil := 0, parkReq := none
    fbuf := here.fbuf, vote := here.vote, enj := here.enj, posts := []
    nodes := p.nodes.map fun e => (e.1, r.ofNode e.2)
    launches := p.launches.map fun e => (e.1, r.ofLaunch e.2)
    clamps := p.clamps.map fun e => (e.1, r.ofClamp e.2)
    arrivals := p.arrivals.map fun a => (a.1, r.core a.2.1, a.2.2.1, r.sid a.2.2.2) }

/-- The slot that a material goes to. -/
def slotFor (ms keys : List Nat) (material : Nat) : Nat :=
  match ms.idxOf? material with
  | some i => keys.getD i 0
  | none => 0

/-- n bytes of whole lines that hold a content by offset, under a material. -/
def placeContent (s : State) (material base n : Nat) (content : Memory) : State :=
  let s := zeroBytes (wakeRange s base n) base n
  { s with mem := content.foldl (fun m e => m.write (base + e.1) e.2) s.mem
           keyOf := (List.range (n / 64)).foldl (fun m i => nset m (base / 64 + i) material) s.keyOf }

/-- A leaf placed: its frame, in free memory, filled, PFN and KEY rewritten, and the entry written at its level; a peer's frame
stays. -/
def placeLeaf (tag : Nat) (ms keys : List Nat) (s : State) (x : LeafImg × Nat) (ts : List Nat) : Option (State × List Nat) :=
  let (g, pfn) := x
  let peer := bitsAt g.bits 85 1 == 1
  let key := slotFor ms keys g.material
  let frame := if peer then bitsAt g.bits 101 27 else pfn
  let n := 2 ^ leafBits g.lvl / 8
  if peer || rangeFree s (pfn * 2 ^ 16) n then
    mapBelow g.va (frame % 2 ^ 27 * 2 ^ 101 + key % 2 ^ 10 * 2 ^ 91 + g.bits % 2 ^ 91) g.lvl
      (if peer then (0, 0) else (pfn * 2 ^ 16, n)) 3
      (if peer then s else placeContent s g.material (pfn * 2 ^ 16) n g.content) (rootOf s tag) ts
  else none

/-- The frames and key slots that a restore is given fit it. -/
def restoreOk (s : State) (g : Ingot) (frames keys : List Nat) : Bool :=
  decide (g.leaves.length ≤ frames.length) && decide ((materialsOf g).length ≤ keys.length) && keys.Nodup
    && keys.all (fun k => decide (k < 1024) && k != 0 && (nget? s.keys k).isNone)
    && (g.leaves.zip frames).all fun e => e.2 % 2 ^ (leafBits e.1.lvl - 19) == 0

/-- The context of an ingot restored into a partition (R333); none when the frames and tables given do not suffice. The load field's
cells of cores that the context had and has no more read 0 (R306). -/
def restoreContext (s : State) (tag : Nat) (g : Ingot) (frames keys tables : List Nat) : Option State :=
  let p := getPart s tag
  let ms := materialsOf g
  let r : Renaming := ⟨g.phys, p.cores, s.nextSid⟩
  let s := { s with nextSid := 2 * s.nextSid }
  let s := (ms.zip keys).foldl (fun s e => { s with keys := nset s.keys e.2 (p.tenant, e.1) }) s
  let s := dropXlats (zeroBytes s (p.root / 8) (tableBytes 3)) tag none
  (mapAll (placeLeaf tag ms keys) s (g.leaves.zip frames) tables).map fun s =>
  let s := ((p.cores.zip g.cores).zip g.windows).foldl (fun s e => onCore s e.1.1 fun k => r.ofCore k tag e.2 e.1.2) s
  let s := g.strands.foldl (fun s e => putStrand s (p.cores.getD (e.1 / 8) 0) (e.1 % 8) (r.ofStrand e.2)) s
  let s := g.granules.foldl (fun s e =>
    let cl := clusterOf (p.cores.getD e.1 0)
    onCluster (clearGranule (wakeUnit s (.granule cl e.2.1)) cl e.2.1) cl fun x =>
      { x with bstore := e.2.2.foldl (fun m b => m.write b.1 b.2) x.bstore }) s
  let key := match keyMaterial? s g.part.key with
    | some m => if ms.contains m then slotFor ms keys m else p.key
    | none => p.key
  let s := wakeObjects (putPart s tag (r.ofPart p key g.part)) tag
  let s := p.cores.foldl updateLoad ((g.phys.filter fun c => !p.cores.contains c).foldl (fun s c => clearCell s tag c) s)
  { s with
    steals := s.steals ++ g.steals.map fun x =>
      { x with thief := r.core x.thief, victim := r.core x.victim, slot := x.slot.map fun e => (e.1, r.sid e.2),
               reply := x.reply.map fun a => (a.1, a.2.map r.ofRec) }
    pending := s.pending ++ g.pending.map fun f => { f with core := r.core f.core, sid := r.sid f.sid } }

/-- An UNSEAL to its end: the state and the status. None while the choices do not fit. -/
def unsealNow (s : State) (tag root ch ea : Nat) (frames keys tables : List Nat) : Option (State × Nat) :=
  if (getChain s ch).writing.isSome then none
  else match unsealStatus s tag root ch ea, ingotAt s root ea with
    | 0, some g =>
      if restoreOk s g frames keys then (restoreContext s tag g frames keys tables).map fun s => (s, 0) else none
    | st, _ => some (s, st)

/-- UNSEAL_COMPLETE (R210, R333). -/
def execUnsealComplete (c l : Nat) (frames keys tables : List Nat) (s : State) : Host.Outcome State Fault Refusal :=
  onWait s c l fun w => match w with
    | .unseal d tag root ch ea => (unsealNow s tag root ch ea frames keys tables).map fun r => finish r.1 c l (.g d) r.2
    | _ => none

/-- UNSEAL_REQUEST (R333, R343). -/
def execUnsealRequest (h : ReqHdr) (root ch ea : Nat) (frames keys tables : List Nat) (s : State) :
    Host.Outcome State Fault Refusal :=
  request s h 10 fun tag =>
    (unsealNow s tag (root % 2 ^ 6) (ch % 2 ^ 8) ea frames keys tables).map fun r => respond r.1 h r.2 0

/-! ### Chains (R332, R334) -/

/-- HANDOFF_SEND: the limit is set at one point, and the chain, its n and its tenant are sent: here as a response of request
0 with chain, n and tenant as its body (log 34). -/
def execHandoffSend (ch : Nat) (s : State) : Host.Outcome State Fault Refusal :=
  ifDue s (let x := getChain s ch
    if ch < 256 ∧ x.st = .held ∧ x.writing.isNone then
      let sent : Response := ⟨0, 0, ch + x.hw.toNat * 2 ^ 8 + x.tenant * 2 ^ 72⟩
      let s := putChain s ch { x with st := .handed, hw := BitVec.ofNat 64 (2 ^ 64 - 1) }
      some { s with responses := s.responses ++ [sent] }
    else none)

/-- HANDOFF_RECEIVE: a chain that is HANDED here takes HELD with the carried n; one that is UNBOUND becomes HELD only through a token
(R332, R334; log 35). -/
def execHandoffReceive (ch n tenant : Nat) (s : State) : Host.Outcome State Fault Refusal :=
  ifDue s (let x := getChain s ch
    if ch < 256 ∧ x.st = .handed ∧ x.tenant = tenant then
      some (putChain s ch { st := .held, hw := BitVec.ofNat 64 n, tenant := tenant })
    else none)

/-- The bytes that a token's signatures are over: chain, n, tenant and device, each least significant byte first (log 11). -/
def tokenMessage (k : Token) : List Nat := leBytes 1 k.ch ++ leBytes 8 k.n ++ leBytes 4 k.tenant ++ leBytes 8 k.device

/-- TENANT_TOKEN: accepted when both signatures verify, the identity is this device's and the chain is UNBOUND (R334). -/
def execTenantToken (tok : Token) (s : State) : Host.Outcome State Fault Refusal :=
  ifDue s (
    let msg := tokenMessage tok
    if decide (tok.ch < 256) && (getChain s tok.ch).st == .unbound && tok.device == deviceId
        && signatureOk 0 tok.tenant tok.kidE tok.sigE msg && signatureOk 1 tok.tenant tok.kidM tok.sigM msg then
      some (putChain s tok.ch { st := .held, hw := BitVec.ofNat 64 tok.n, tenant := tok.tenant })
    else none)

/-- CHAIN_RELEASE (R332). -/
def execChainRelease (ch : Nat) (s : State) : Host.Outcome State Fault Refusal :=
  ifDue s (if ch < 256 ∧ (getChain s ch).st ≠ .unbound ∧ (getChain s ch).writing.isNone then some (putChain s ch {}) else none)

/-! ### The key stores (R324) -/

/-- A translation, or a leaf of the service's or a partition's tables, names a key slot, or a TLBINV that has not returned may have left
one in use (R324). -/
def keyNamed (s : State) (slot : Nat) : Bool :=
  s.cores.any (fun e => e.2.tlb.any fun x => x.key == slot) || s.dies.any (fun e => e.2.tlb.any fun x => x.key == slot)
    || (0 :: (s.parts.filter fun e => e.2.st != .free).map (·.1)).any (fun tag => (leavesOf s tag).any fun x => x.e.key == slot)
    || s.strands.any fun e => e.2.live && (match e.2.status with
      | .asleep (.tlbinv ..) => true
      | _ => false)

/-- MEMORY_KEY_INSTALL: material into an empty slot bound to a tenant; or a slot zeroed, once no leaf names it (R324). -/
def execMemoryKeyInstall (slot tenant : Nat) (material : Option Nat) (s : State) : Host.Outcome State Fault Refusal :=
  ifDue s (if slot = 0 ∨ 1024 ≤ slot then none
    else match material, nget? s.keys slot with
      | some m, none => some { s with keys := nset s.keys slot (tenant, m) }
      | none, some _ => if keyNamed s slot then none else some { s with keys := nerase s.keys slot }
      | _, _ => none)

/-- SEALING_ROOT_INSTALL: one of 64 slots of 256 bits, bound to a tenant (R324). -/
def execSealingRootInstall (slot tenant root : Nat) (s : State) : Host.Outcome State Fault Refusal :=
  ifDue s (if slot < 64 then some { s with roots := nset s.roots slot (tenant, root % 2 ^ 256) } else none)

end Machine

end Sys2Proof
end

