-- ==== Sys2Proof/Machine/TaskEvents.lean ====
section
/-! DEFINITION. Steps of the task system: filling slots, aging, steals, cancellation and the progress check (04 R69; 09 R187,
R191; 14 R265, R266, R268; 15 R278; 16 R284 to R286; 25 R365). -/

namespace Sys2Proof.Machine

/-! ### From the deque to a slot (R187, R265) -/

/-- The LFSR's seed (R28). -/
def srSeed (seed : Nat) (fp : Word) : BitVec 32 :=
  let x := BitVec.ofNat 32 seed ^^^ BitVec.ofNat 32 fp.toNat ^^^ BitVec.ofNat 32 (fp.toNat / 2 ^ 32)
  if x = 0 then 1 else x

/-- A record becomes a resident strand of a core (R187). -/
def residentOf (s : State) (c : Nat) (r : Rec) : Strand :=
  let k := getCore s c
  let t : Strand :=
    { live := true, pc := r.pc, frame := r.fp, node := r.node
      rlo := if r.kind = .range then r.g1 else 0
      rhi := if r.kind = .range then r.g2 else 0
      srstate := srSeed k.srseed r.fp, tvec := k.tvec, eopd := k.eopd, kind := r.kind, pri := agedRecord s.now r,
      kidx := r.kidx, grain := r.grain, entry := r, stage := r.stage, readySince := k.cycles, tgtPending := r.checkTgt,
      sid := r.sid }
  wrG (wrG (wrG (wrG (wrG t 1 r.g1) 2 r.g2) 3 r.g3) 4 r.g4) 5 r.g5

/-- The lowest-numbered free slot (R365). -/
def freeSlot (s : State) (c : Nat) : Option Nat :=
  (List.range (getCore s c).spc).find? fun l => !(getStrand s c l).live

/-- The launch that holds a core, if it is still RUNNING. -/
def runningLaunch (s : State) (c : Nat) : Bool :=
  match getLaunch? s (tagOf s c) (getCore s c).launch with
  | some x => x.st == .running
  | none => false

/-- SLOT_FILL: the head record becomes resident; one whose node is cancelled retires instead, and no other record of a
launch that is RETIRING becomes resident (R263, R265, R286). -/
def execSlotFill (c : Nat) (s : State) : Host.Outcome State Fault Refusal :=
  ifDue s (if !coreAwake s c then none
    else match freeSlot s c, popHead (getCore s c) with
      | some l, some (r, k) =>
        let s' := putCore s c { k with filling := k.filling - 1 }
        if nodeCancelled s (tagOf s c) r.node then some (retireRec (updateLoad s' c) c r)
        else if !runningLaunch s c && !isMgmt c then none
        else some (updateLoad (putStrand s' c l (residentOf s c r)) c)
      | _, _ => none)

/-- RECORD_AGING: record j of a deque, hardware part first, rises a level (R265). -/
def execRecordAging (c j : Nat) (s : State) : Host.Outcome State Fault Refusal :=
  ifDue s (
    let k := getCore s c
    ((k.deque ++ k.ring)[j]?).bind fun r =>
      if decide (r.pri < 7) && decide (r.agedAt + 65536 ≤ s.now) && !k.parked then
        let r' := { r with pri := r.pri + 1, agedAt := r.agedAt + 65536 }
        some (onCore s c fun k =>
          if j < k.deque.length then { k with deque := k.deque.set j r' }
          else { k with ring := k.ring.set (j - k.deque.length) r' })
      else none)

/-! ### Steals (R191, R266) -/

/-- IMPLICIT_STEAL: at most one request of a core in 256 ticks; one whose chosen cell reads 0 counts as made (R266). -/
def execImplicitSteal (c : Nat) (s : State) : Host.Outcome State Fault Refusal :=
  ifDue s (
    let k := getCore s c
    let paced := match k.lastSteal with
      | some t => decide (t + 256 ≤ s.now)
      | none => true
    if !(coreAwake s c && runningLaunch s c && k.deque.isEmpty && k.ring.isEmpty && !k.stealing && paced) then none
    else (freeSlot s c).map fun l =>
      let (_, _, _, victim) := stealChoice s c .box5 (strandNumber s c l % windowSize .box5)
      let s := onCore s c fun k => { k with lastSteal := some s.now, stealing := victim.isSome }
      match victim with
      | none => s
      | some v => { s with steals := s.steals ++ [⟨c, none, v, kernelOf s c, none⟩] })

/-- STEAL_REQUEST_SERVE: the victim answers; one that is parked has nothing to hand over (R191, R286). A record that it hands over
stands at the head of the thief's deque from that step on, so that a theft for which there is no room is not made (R284, R285); a parked
thief's goes to its inbox with the reply (R328). -/
def execStealRequestServe (j : Nat) (s : State) : Host.Outcome State Fault Refusal :=
  ifDue s ((s.steals[j]?).bind fun r =>
    if r.reply.isSome then none
    else
      let (s, out, rec?) := if coreAwake s r.victim then serveSteal s r.thief r.victim r.kidx else (s, 3, none)
      if coreAwake s r.thief then
        let answer := if out = splitRefused then rec? else none
        some { enterStolen s r.thief out rec? with steals := s.steals.set j { r with reply := some (out, answer) } }
      else some (toInbox { s with steals := s.steals.eraseIdx j } r.thief (.steal r.slot out rec?)))

/-- STEAL_REPLY: the answer reaches the thief, and a STEAL returns (R191). A parked thief's reply goes to its inbox (R328). -/
def execStealReply (j : Nat) (s : State) : Host.Outcome State Fault Refusal :=
  ifDue s ((s.steals[j]?).bind fun r => r.reply.map fun a =>
    let out := { s with steals := s.steals.eraseIdx j }
    if coreAwake s r.thief then finishSteal out r.thief r.slot a.1 a.2
    else toInbox out r.thief (.steal r.slot a.1 a.2))

/-! ### Cancellation and the progress check -/

/-- The core that issued the CANCEL whose flag is on its way to a node, as an option of one: of the nearest ancestor that has the flag,
or of one whose entry has been returned (R193, R278). None when no flag is on its way. A core that has left the partition meanwhile
chooses no deque. -/
def flagOnWay (s : State) (tag : Nat) (x : Node) : Option (Option Nat) :=
  let from? := if x.owed then some x.cfCore
    else ((ancestor s tag (fun a => a.cf || a.owed) 6 (upOf x)).bind (getNode? s tag)).map (·.cfCore)
  from?.map fun c => c.filter fun c => tagOf s c == tag

/-- CANCEL_PROPAGATE: the cancel flag of an ancestor reaches a node, through ancestors that have ended too (R276, R278). The event is
the CANCEL's, so that records let go go to the core that issued it (R193). -/
def execCancelPropagate (ptag node : Nat) (s : State) : Host.Outcome State Fault Refusal :=
  ifDue s ((liveNode? s ptag node).bind fun x =>
    if x.cf then none else (flagOnWay s ptag x).map fun core => cancelNode s ptag node core)

/-- PROGRESS_CHECK_REPORT: at 4,096 eligible ticks, once until the strand issues (R268). -/
def execProgressCheckReport (c l : Nat) (s : State) : Host.Outcome State Fault Refusal :=
  let t := getStrand s c l
  ifDue s (if t.live && decide (4096 ≤ t.eligible) && !t.reported then
      some (recordCause (onStrand s c l fun t => { t with reported := true }) (tagOf s c) t.node (some c) 0x3C3 (openTval s))
    else none)

end Sys2Proof.Machine
end

