-- ==== Sys2Proof/Machine/Vector.lean ====
section
/-! DEFINITION. Vector instructions (06 R108 to R124). Every instruction reads all its sources before it writes. -/

namespace Sys2Proof.Machine

/-- The strand with its LFSR in a state. -/
def withLfsr (st : Strand) (x : Nat) : Strand := { st with srstate := BitVec.ofNat 32 x }

/-- A v register written together with the LFSR's last state. -/
def setVL (st : Strand) (d : Fin 32) (r : Nat × Nat) : Strand := setV (withLfsr st r.2) d r.1

/-- Lane arithmetic on up to three registers (R112). -/
def laneOp (gd : Guard) (names : List Named) (ar : VArith) (fi : Int → Int → Int → Int)
    (ff : FmtF → Rnd → Nat → Nat → Nat → Nat → Nat) (d a b c : Fin 32) (s : State) : Host.Outcome State Fault Refusal :=
  regOp gd names (fun st =>
    setVL st d (vArith ar fi ff st.srstate.toNat (vVal st d) (vVal st a) (vVal st b) (vVal st c))) s

/-- VADD (R112). -/
def execVadd (gd : Guard) (d a b : Fin 32) (ar : VArith) (s : State) : Host.Outcome State Fault Refusal :=
  laneOp gd [.v a, .v b, .v d] ar (fun x y _ => x + y) (fun t rnd u x y _ => floatAdd t rnd u x y) d a b b s
/-- VSUB (R112). -/
def execVsub (gd : Guard) (d a b : Fin 32) (ar : VArith) (s : State) : Host.Outcome State Fault Refusal :=
  laneOp gd [.v a, .v b, .v d] ar (fun x y _ => x - y) (fun t rnd u x y _ => floatSub t rnd u x y) d a b b s
/-- VMUL (R112). -/
def execVmul (gd : Guard) (d a b : Fin 32) (ar : VArith) (s : State) : Host.Outcome State Fault Refusal :=
  laneOp gd [.v a, .v b, .v d] ar (fun x y _ => x * y) (fun t rnd u x y _ => floatMul t rnd u x y) d a b b s
/-- VFMA (R112). -/
def execVfma (gd : Guard) (d a b c : Fin 32) (ar : VArith) (s : State) : Host.Outcome State Fault Refusal :=
  laneOp gd [.v a, .v b, .v c, .v d] ar (fun x y z => x * y + z) (fun t rnd u x y z => floatFma t rnd u x y z) d a b c s
/-- VMIN (R112). -/
def execVmin (gd : Guard) (d a b : Fin 32) (t : VType) (s : State) : Host.Outcome State Fault Refusal :=
  regOp gd [.v a, .v b, .v d] (fun st => setV st d (vMin t (vVal st d) (vVal st a) (vVal st b))) s
/-- VMAX (R112). -/
def execVmax (gd : Guard) (d a b : Fin 32) (t : VType) (s : State) : Host.Outcome State Fault Refusal :=
  regOp gd [.v a, .v b, .v d] (fun st => setV st d (vMax t (vVal st d) (vVal st a) (vVal st b))) s
/-- VABS (R112). -/
def execVabs (gd : Guard) (d a : Fin 32) (sg : VSign) (s : State) : Host.Outcome State Fault Refusal :=
  regOp gd [.v a, .v d] (fun st => setV st d (vAbs sg (vVal st d) (vVal st a))) s
/-- VNEG (R112). -/
def execVneg (gd : Guard) (d a : Fin 32) (sg : VSign) (s : State) : Host.Outcome State Fault Refusal :=
  regOp gd [.v a, .v d] (fun st => setV st d (vNeg sg (vVal st d) (vVal st a))) s
/-- VAND (R112). -/
def execVand (gd : Guard) (d a b : Fin 32) (t : IType) (s : State) : Host.Outcome State Fault Refusal :=
  regOp gd [.v a, .v b, .v d] (fun st => setV st d (vBits (· &&& ·) t (vVal st d) (vVal st a) (vVal st b))) s
/-- VOR (R112). -/
def execVor (gd : Guard) (d a b : Fin 32) (t : IType) (s : State) : Host.Outcome State Fault Refusal :=
  regOp gd [.v a, .v b, .v d] (fun st => setV st d (vBits (· ||| ·) t (vVal st d) (vVal st a) (vVal st b))) s
/-- VXOR (R112). -/
def execVxor (gd : Guard) (d a b : Fin 32) (t : IType) (s : State) : Host.Outcome State Fault Refusal :=
  regOp gd [.v a, .v b, .v d] (fun st => setV st d (vBits (· ^^^ ·) t (vVal st d) (vVal st a) (vVal st b))) s

/-- The operand of a shift count, for the allocation checks. -/
def shNamed : ShCount → Named
  | .v r => .v r
  | .g o _ => .g o
/-- The counts of the lanes: the elements of vB, or gB + X for every lane (R112). -/
def shCounts (st : Strand) (w : Nat) : ShCount → List Nat
  | .v r => lanes w (vVal st r)
  | .g o x => List.replicate (lanesOf w) (wrapTo 64 (gVal st o + dispOf x))

/-- VSHL (R112). -/
def execVshl (gd : Guard) (d a : Fin 32) (cnt : ShCount) (t : IType) (s : State) : Host.Outcome State Fault Refusal :=
  regOp gd [.v a, shNamed cnt, .v d]
    (fun st => setV st d (vShift laneShl t (vVal st d) (vVal st a) (shCounts st t.width cnt))) s
/-- VSHR (R112). -/
def execVshr (gd : Guard) (d a : Fin 32) (cnt : ShCount) (t : IType) (s : State) : Host.Outcome State Fault Refusal :=
  regOp gd [.v a, shNamed cnt, .v d]
    (fun st => setV st d (vShift laneShr t (vVal st d) (vVal st a) (shCounts st t.width cnt))) s
/-- VSAR (R112). -/
def execVsar (gd : Guard) (d a : Fin 32) (cnt : ShCount) (t : IType) (s : State) : Host.Outcome State Fault Refusal :=
  regOp gd [.v a, shNamed cnt, .v d]
    (fun st => setV st d (vShift laneSar t (vVal st d) (vVal st a) (shCounts st t.width cnt))) s
/-- VCMP (R113). -/
def execVcmp (gd : Guard) (d a b : Fin 32) (cond : VCond) (s : State) : Host.Outcome State Fault Refusal :=
  regOp gd [.v a, .v b, .v d] (fun st => setV st d (vCmp cond (vVal st d) (vVal st a) (vVal st b))) s
/-- VSEL (R113). -/
def execVsel (gd : Guard) (d a b c : Fin 32) (s : State) : Host.Outcome State Fault Refusal :=
  regOp gd [.v a, .v b, .v c, .v d] (fun st => setV st d (vSel (vVal st a) (vVal st b) (vVal st c))) s
/-- VDOT (R114). -/
def execVdot (gd : Guard) (d a b : Fin 32) (dot : VDotArg) (s : State) : Host.Outcome State Fault Refusal :=
  regOp gd [.v a, .v b, .v d]
    (fun st => setVL st d (vDot dot st.srstate.toNat (vVal st d) (vVal st a) (vVal st b))) s
/-- VCVT (R115). -/
def execVcvt (gd : Guard) (d a : Fin 32) (df sf : CvtType) (rnd : Rnd) (prop : Bool) (part : BitVec 3) (s : State) :
    Host.Outcome State Fault Refusal :=
  regOp gd [.v a, .v d]
    (fun st => setVL st d (vCvt df sf rnd prop part.toNat st.srstate.toNat (vVal st d) (vVal st a))) s

/-- The named registers of VPACK. -/
def packNames (d a : Fin 32) : PackArg → List Named
  | .int .. => [.v a, .v d]
  | .bq _ b _ => [.v a, .v b, .v d]
/-- VPACK: what D, and for bq8 v(D + 1), receive (R116, R117). -/
def packed (d a : Fin 32) (p : PackArg) (st : Strand) : Strand :=
  match p with
  | .int t w sat x => setV st d (vPackInt t w.toNat sat x.toNat (vVal st d) (vVal st a))
  | .bq fmt b prop =>
    let block := vPackBq fmt prop (vVal st a) (vVal st b)
    let st' := setV st d block
    if fmt = .bq8 then setVNum st' (d.val + 1) (block / 2 ^ 128) else st'
/-- VPACK (R116, R117). -/
def execVpack (gd : Guard) (d a : Fin 32) (p : PackArg) (s : State) : Host.Outcome State Fault Refusal :=
  checkedOp gd (packNames d a p)
    (fun k _ => match p with
      | .bq .bq8 _ _ => extraV k.vcount (d.val + 1)
      | _ => none)
    (packed d a p) s

/-- VUNPK: what D receives (R118). -/
def unpacked (d a : Fin 32) (p : UnpkArg) (st : Strand) : Strand :=
  match p with
  | .int t w x => setV st d (vUnpkInt t w.toNat x.toNat (vVal st d) (vVal st a))
  | .bq fmt part =>
    let block := if fmt = .bq8 then vVal st a + vNum st (a.val + 1) % 2 ^ 24 * 2 ^ 128 else vVal st a
    setV st d (vUnpkBq fmt part.val (vVal st d) block)
/-- VUNPK (R118). -/
def execVunpk (gd : Guard) (d a : Fin 32) (p : UnpkArg) (s : State) : Host.Outcome State Fault Refusal :=
  checkedOp gd [.v a, .v d]
    (fun k _ => match p with
      | .bq .bq8 _ => extraV k.vcount (a.val + 1)
      | _ => none)
    (unpacked d a p) s

/-- VSPLAT (R119). -/
def execVsplat (gd : Guard) (d : Fin 32) (a : GOp) (t : VType) (x : BitVec 38) (s : State) :
    Host.Outcome State Fault Refusal :=
  regOp gd [.g a, .v d]
    (fun st => setV st d (allLanes (vtypeWidth t) (vVal st d)
      (List.replicate (lanesOf (vtypeWidth t)) (wrapTo 64 (gVal st a + dispOf x) % 2 ^ vtypeWidth t)))) s
/-- VEXT (R119). -/
def execVext (gd : Guard) (d : GOp) (a : Fin 32) (b : GOp) (t : VType) (x : BitVec 38) (s : State) :
    Host.Outcome State Fault Refusal :=
  regOp gd [.v a, .g b, .g d]
    (fun st => setG st st d (oldExtended t (laneOf (vtypeWidth t) (vVal st a) (laneIndex (vtypeWidth t) (gVal st b) (dispOf x))))) s
/-- VINS (R119). -/
def execVins (gd : Guard) (d : Fin 32) (a b : GOp) (t : VType) (x : BitVec 38) (s : State) :
    Host.Outcome State Fault Refusal :=
  regOp gd [.g a, .g b, .v d]
    (fun st => setV st d (setLane (vtypeWidth t) (vVal st d) (laneIndex (vtypeWidth t) (gVal st b) (dispOf x)) (gVal st a))) s

/-- VPERM (R120). -/
def execVperm (gd : Guard) (d a b c : Fin 32) (t : VType) (s : State) : Host.Outcome State Fault Refusal :=
  guarded gd [.v a, .v b, .v c, .v d]
    (fun co l s => onStrand (countXbar s co) co l fun st =>
      advanced (setV st d (vPerm (vtypeWidth t) (vVal st d) (vVal st a) (vVal st b) (vVal st c)))) s

/-- The first register of a VTBL's table that is beyond the allocation (R111, R121). -/
def tblFault (vcount a n : Nat) : Option (Nat × Nat) :=
  ((List.range n).map fun i => a + 1 + i).findSome? (extraV vcount)
/-- VTBL (R121). -/
def execVtbl (gd : Guard) (d a b : Fin 32) (tn : BitVec 3) (x : BitVec 38) (s : State) : Host.Outcome State Fault Refusal :=
  guarded gd [.v a, .v b, .v d]
    (fun co l s => match tblFault (getCore s co).vcount a.val tn.toNat with
      | some (code, v) => takeTrap s co l code v
      | none => onStrand (countXbar s co) co l fun st =>
        advanced (setV st d (vTbl ((List.range (tn.toNat + 1)).map fun i => vNum st (a.val + i)) x.toNat (vVal st b)))) s

/-- VRED (R124). -/
def execVred (gd : Guard) (d : GOp) (a : Fin 32) (ra : VRedArg) (s : State) : Host.Outcome State Fault Refusal :=
  regOp gd [.v a, .g d]
    (fun st => setG st (stepLfsr (vRedRnd ra) st) d (vRed ra (roundU (vRedRnd ra) st) (vVal st a))) s

end Sys2Proof.Machine
end

