-- ==== Sys2Proof/Machine/Dispatch.lean ====
section
/-! DEFINITION. The dispatch: one arm for each constructor of Instr, one call of its meaning. -/

namespace Sys2Proof.Machine

def exec (i : Instr) (s : State) : Host.Outcome State Fault Refusal :=
  match i with
  | .nop => Sys2Proof.Machine.execNop s
  | .br gd off slot => Sys2Proof.Machine.execBr gd off slot s
  | .bri gd a x => Sys2Proof.Machine.execBri gd a x s
  | .call gd a off slot => Sys2Proof.Machine.execCall gd a off slot s
  | .ret gd a => Sys2Proof.Machine.execRet gd a s
  | .loop gd a off slot => Sys2Proof.Machine.execLoop gd a off slot s
  | .addR gd d a b t => Sys2Proof.Machine.execAddR gd d a b t s
  | .subR gd d a b t => Sys2Proof.Machine.execSubR gd d a b t s
  | .mulR gd d a b t => Sys2Proof.Machine.execMulR gd d a b t s
  | .mulhR gd d a b t => Sys2Proof.Machine.execMulhR gd d a b t s
  | .mulhnR gd d a b t => Sys2Proof.Machine.execMulhnR gd d a b t s
  | .divR gd d a b t => Sys2Proof.Machine.execDivR gd d a b t s
  | .divnR gd d a b t => Sys2Proof.Machine.execDivnR gd d a b t s
  | .remR gd d a b t => Sys2Proof.Machine.execRemR gd d a b t s
  | .remnR gd d a b t => Sys2Proof.Machine.execRemnR gd d a b t s
  | .andR gd d a b t => Sys2Proof.Machine.execAndR gd d a b t s
  | .orR gd d a b t => Sys2Proof.Machine.execOrR gd d a b t s
  | .xorR gd d a b t => Sys2Proof.Machine.execXorR gd d a b t s
  | .andnR gd d a b t => Sys2Proof.Machine.execAndnR gd d a b t s
  | .ornR gd d a b t => Sys2Proof.Machine.execOrnR gd d a b t s
  | .shlR gd d a b t => Sys2Proof.Machine.execShlR gd d a b t s
  | .shrR gd d a b t => Sys2Proof.Machine.execShrR gd d a b t s
  | .sarR gd d a b t => Sys2Proof.Machine.execSarR gd d a b t s
  | .rolR gd d a b t => Sys2Proof.Machine.execRolR gd d a b t s
  | .rorR gd d a b t => Sys2Proof.Machine.execRorR gd d a b t s
  | .minR gd d a b t => Sys2Proof.Machine.execMinR gd d a b t s
  | .maxR gd d a b t => Sys2Proof.Machine.execMaxR gd d a b t s
  | .minnR gd d a b t => Sys2Proof.Machine.execMinnR gd d a b t s
  | .maxnR gd d a b t => Sys2Proof.Machine.execMaxnR gd d a b t s
  | .cmpR gd d a b t cc => Sys2Proof.Machine.execCmpR gd d a b t cc s
  | .addI gd d a t x => Sys2Proof.Machine.execAddI gd d a t x s
  | .subI gd d a t x => Sys2Proof.Machine.execSubI gd d a t x s
  | .mulI gd d a t x => Sys2Proof.Machine.execMulI gd d a t x s
  | .mulhI gd d a t x => Sys2Proof.Machine.execMulhI gd d a t x s
  | .mulhnI gd d a t x => Sys2Proof.Machine.execMulhnI gd d a t x s
  | .divI gd d a t x => Sys2Proof.Machine.execDivI gd d a t x s
  | .divnI gd d a t x => Sys2Proof.Machine.execDivnI gd d a t x s
  | .remI gd d a t x => Sys2Proof.Machine.execRemI gd d a t x s
  | .remnI gd d a t x => Sys2Proof.Machine.execRemnI gd d a t x s
  | .andI gd d a t x => Sys2Proof.Machine.execAndI gd d a t x s
  | .orI gd d a t x => Sys2Proof.Machine.execOrI gd d a t x s
  | .xorI gd d a t x => Sys2Proof.Machine.execXorI gd d a t x s
  | .andnI gd d a t x => Sys2Proof.Machine.execAndnI gd d a t x s
  | .ornI gd d a t x => Sys2Proof.Machine.execOrnI gd d a t x s
  | .shlI gd d a t x => Sys2Proof.Machine.execShlI gd d a t x s
  | .shrI gd d a t x => Sys2Proof.Machine.execShrI gd d a t x s
  | .sarI gd d a t x => Sys2Proof.Machine.execSarI gd d a t x s
  | .rolI gd d a t x => Sys2Proof.Machine.execRolI gd d a t x s
  | .rorI gd d a t x => Sys2Proof.Machine.execRorI gd d a t x s
  | .minI gd d a t x => Sys2Proof.Machine.execMinI gd d a t x s
  | .maxI gd d a t x => Sys2Proof.Machine.execMaxI gd d a t x s
  | .minnI gd d a t x => Sys2Proof.Machine.execMinnI gd d a t x s
  | .maxnI gd d a t x => Sys2Proof.Machine.execMaxnI gd d a t x s
  | .cmpI gd d a t cc x => Sys2Proof.Machine.execCmpI gd d a t cc x s
  | .clz gd d a t => Sys2Proof.Machine.execClz gd d a t s
  | .ctz gd d a t => Sys2Proof.Machine.execCtz gd d a t s
  | .popc gd d a t => Sys2Proof.Machine.execPopc gd d a t s
  | .brev gd d a t => Sys2Proof.Machine.execBrev gd d a t s
  | .bext gd d a b sx x => Sys2Proof.Machine.execBext gd d a b sx x s
  | .bins gd d a b x => Sys2Proof.Machine.execBins gd d a b x s
  | .sext gd d a x => Sys2Proof.Machine.execSext gd d a x s
  | .zext gd d a x => Sys2Proof.Machine.execZext gd d a x s
  | .abs gd d a t => Sys2Proof.Machine.execAbs gd d a t s
  | .neg gd d a t => Sys2Proof.Machine.execNeg gd d a t s
  | .sel gd d a b c => Sys2Proof.Machine.execSel gd d a b c s
  | .mov gd d a => Sys2Proof.Machine.execMov gd d a s
  | .movi gd d imm => Sys2Proof.Machine.execMovi gd d imm s
  | .gand gd d a b => Sys2Proof.Machine.execGand gd d a b s
  | .gor gd d a b => Sys2Proof.Machine.execGor gd d a b s
  | .gxor gd d a b => Sys2Proof.Machine.execGxor gd d a b s
  | .gnot gd d a => Sys2Proof.Machine.execGnot gd d a s
  | .padd gd d a b w x => Sys2Proof.Machine.execPadd gd d a b w x s
  | .pdif gd d a b w => Sys2Proof.Machine.execPdif gd d a b w s
  | .paln gd d a w up => Sys2Proof.Machine.execPaln gd d a w up s
  | .pblk gd d a b fmt => Sys2Proof.Machine.execPblk gd d a b fmt s
  | .pchk gd d a w cls x => Sys2Proof.Machine.execPchk gd d a w cls x s
  | .jset gd d a x => Sys2Proof.Machine.execJset gd d a x s
  | .jadd gd d a b x => Sys2Proof.Machine.execJadd gd d a b x s
  | .fadd gd d a b t rnd => Sys2Proof.Machine.execFadd gd d a b t rnd s
  | .fsub gd d a b t rnd => Sys2Proof.Machine.execFsub gd d a b t rnd s
  | .fmul gd d a b t rnd => Sys2Proof.Machine.execFmul gd d a b t rnd s
  | .ffma gd d a b c t rnd => Sys2Proof.Machine.execFfma gd d a b c t rnd s
  | .fdiv gd d a b t rnd => Sys2Proof.Machine.execFdiv gd d a b t rnd s
  | .fsqrt gd d a t rnd => Sys2Proof.Machine.execFsqrt gd d a t rnd s
  | .fmin gd d a b t => Sys2Proof.Machine.execFmin gd d a b t s
  | .fmax gd d a b t => Sys2Proof.Machine.execFmax gd d a b t s
  | .fcmp gd d a b t cc => Sys2Proof.Machine.execFcmp gd d a b t cc s
  | .fcvt gd d a df sf rnd prop => Sys2Proof.Machine.execFcvt gd d a df sf rnd prop s
  | .fclass gd d a t => Sys2Proof.Machine.execFclass gd d a t s
  | .fneg gd d a t => Sys2Proof.Machine.execFneg gd d a t s
  | .vadd gd d a b ar => Sys2Proof.Machine.execVadd gd d a b ar s
  | .vsub gd d a b ar => Sys2Proof.Machine.execVsub gd d a b ar s
  | .vmul gd d a b ar => Sys2Proof.Machine.execVmul gd d a b ar s
  | .vfma gd d a b c ar => Sys2Proof.Machine.execVfma gd d a b c ar s
  | .vmin gd d a b t => Sys2Proof.Machine.execVmin gd d a b t s
  | .vmax gd d a b t => Sys2Proof.Machine.execVmax gd d a b t s
  | .vabs gd d a sg => Sys2Proof.Machine.execVabs gd d a sg s
  | .vneg gd d a sg => Sys2Proof.Machine.execVneg gd d a sg s
  | .vand gd d a b t => Sys2Proof.Machine.execVand gd d a b t s
  | .vor gd d a b t => Sys2Proof.Machine.execVor gd d a b t s
  | .vxor gd d a b t => Sys2Proof.Machine.execVxor gd d a b t s
  | .vshl gd d a cnt t => Sys2Proof.Machine.execVshl gd d a cnt t s
  | .vshr gd d a cnt t => Sys2Proof.Machine.execVshr gd d a cnt t s
  | .vsar gd d a cnt t => Sys2Proof.Machine.execVsar gd d a cnt t s
  | .vcmp gd d a b cond => Sys2Proof.Machine.execVcmp gd d a b cond s
  | .vsel gd d a b c => Sys2Proof.Machine.execVsel gd d a b c s
  | .vdot gd d a b dot => Sys2Proof.Machine.execVdot gd d a b dot s
  | .vcvt gd d a df sf rnd prop part => Sys2Proof.Machine.execVcvt gd d a df sf rnd prop part s
  | .vpack gd d a p => Sys2Proof.Machine.execVpack gd d a p s
  | .vunpk gd d a p => Sys2Proof.Machine.execVunpk gd d a p s
  | .vsplat gd d a t x => Sys2Proof.Machine.execVsplat gd d a t x s
  | .vext gd d a b t x => Sys2Proof.Machine.execVext gd d a b t x s
  | .vins gd d a b t x => Sys2Proof.Machine.execVins gd d a b t x s
  | .vperm gd d a b c t => Sys2Proof.Machine.execVperm gd d a b c t s
  | .vtbl gd d a b tn x => Sys2Proof.Machine.execVtbl gd d a b tn x s
  | .vred gd d a ra => Sys2Proof.Machine.execVred gd d a ra s
  | .chain gd d a b c sty dty rnd prop ssp dsp => Sys2Proof.Machine.execChain gd d a b c sty dty rnd prop ssp dsp s
  | .ld gd d a b w sx o sc x => Sys2Proof.Machine.execLd gd d a b w sx o sc x s
  | .ldp gd d a b w sx o sc x => Sys2Proof.Machine.execLdp gd d a b w sx o sc x s
  | .st gd d a b w o sc x => Sys2Proof.Machine.execSt gd d a b w o sc x s
  | .stp gd d a b w o sc x => Sys2Proof.Machine.execStp gd d a b w o sc x s
  | .vld gd d a b o sc x => Sys2Proof.Machine.execVld gd d a b o sc x s
  | .vst gd d a b o sc x => Sys2Proof.Machine.execVst gd d a b o sc x s
  | .vldp gd d a b o sc x => Sys2Proof.Machine.execVldp gd d a b o sc x s
  | .vstp gd d a b o sc x => Sys2Proof.Machine.execVstp gd d a b o sc x s
  | .pref gd a b x => Sys2Proof.Machine.execPref gd a b x s
  | .dep gd d a b cmb o sc x => Sys2Proof.Machine.execDep gd d a b cmb o sc x s
  | .mrd gd d a o sc x => Sys2Proof.Machine.execMrd gd d a o sc x s
  | .sense gd d a win rot o sc x => Sys2Proof.Machine.execSense gd d a win rot o sc x s
  | .tickr gd d a x => Sys2Proof.Machine.execTickr gd d a x s
  | .tadv gd d a x => Sys2Proof.Machine.execTadv gd d a x s
  | .amo gd d a b f o sc x => Sys2Proof.Machine.execAmo gd d a b f o sc x s
  | .cas gd d a b c t o sc x => Sys2Proof.Machine.execCas gd d a b c t o sc x s
  | .red gd a b f o sc x => Sys2Proof.Machine.execRed gd a b f o sc x s
  | .fence gd o sc => Sys2Proof.Machine.execFence gd o sc s
  | .marm gd a w mon sp x => Sys2Proof.Machine.execMarm gd a w mon sp x s
  | .waita gd d a x => Sys2Proof.Machine.execWaita gd d a x s
  | .mdis gd mon all => Sys2Proof.Machine.execMdis gd mon all s
  | .copy gd d a b mode tag sc prop ta tb lm ln => Sys2Proof.Machine.execCopy gd d a b mode tag sc prop ta tb lm ln s
  | .copyv gd d a b c tag sc prop ta tb lm ln => Sys2Proof.Machine.execCopyv gd d a b c tag sc prop ta tb lm ln s
  | .cstage gd d a x => Sys2Proof.Machine.execCstage gd d a x s
  | .wmark gd d a b tag ch sc prop ta tb lm ln => Sys2Proof.Machine.execWmark gd d a b tag ch sc prop ta tb lm ln s
  | .twait gd a x => Sys2Proof.Machine.execTwait gd a x s
  | .tfind gd d a x => Sys2Proof.Machine.execTfind gd d a x s
  | .tclr gd a x => Sys2Proof.Machine.execTclr gd a x s
  | .mdld gd d a b tag ta lm ln => Sys2Proof.Machine.execMdld gd d a b tag ta lm ln s
  | .tdset gd a ta => Sys2Proof.Machine.execTdset gd a ta s
  | .tdget gd d ta => Sys2Proof.Machine.execTdget gd d ta s
  | .lset gd a cp lr x => Sys2Proof.Machine.execLset gd a cp lr x s
  | .mjob gd d a b c hdr pro cvt prop ta tb lm ln lk xo => Sys2Proof.Machine.execMjob gd d a b c hdr pro cvt prop ta tb lm ln lk xo s
  | .mjobr gd d a b c hdr pro cvt prop ta tb lm ln lk xo => Sys2Proof.Machine.execMjobr gd d a b c hdr pro cvt prop ta tb lm ln lk xo s
  | .mpoll gd d => Sys2Proof.Machine.execMpoll gd d s
  | .mwait gd d => Sys2Proof.Machine.execMwait gd d s
  | .mclr gd hdr => Sys2Proof.Machine.execMclr gd hdr s
  | .mburst gd lm => Sys2Proof.Machine.execMburst gd lm s
  | .addw gd a sf => Sys2Proof.Machine.execAddw gd a sf s
  | .rndw gd d clr => Sys2Proof.Machine.execRndw gd d clr s
  | .clrw gd => Sys2Proof.Machine.execClrw gd s
  | .fork gd d a b pri x => Sys2Proof.Machine.execFork gd d a b pri x s
  | .join gd a => Sys2Proof.Machine.execJoin gd a s
  | .spawnr gd d a b c pri grain x => Sys2Proof.Machine.execSpawnr gd d a b c pri grain x s
  | .rnext gd d => Sys2Proof.Machine.execRnext gd d s
  | .steal gd d win => Sys2Proof.Machine.execSteal gd d win s
  | .yield gd => Sys2Proof.Machine.execYield gd s
  | .exit gd => Sys2Proof.Machine.execExit gd s
  | .lvladdAdd gd d a b x => Sys2Proof.Machine.execLvladdAdd gd d a b x s
  | .lvladdOpen gd d a b lvl x => Sys2Proof.Machine.execLvladdOpen gd d a b lvl x s
  | .lvladdDrain gd d a b x => Sys2Proof.Machine.execLvladdDrain gd d a b x s
  | .lvlwait gd d a => Sys2Proof.Machine.execLvlwait gd d a s
  | .cancel gd a => Sys2Proof.Machine.execCancel gd a s
  | .clamp gd d a x => Sys2Proof.Machine.execClamp gd d a x s
  | .launch gd d a b c => Sys2Proof.Machine.execLaunch gd d a b c s
  | .dqpush gd a b c q => Sys2Proof.Machine.execDqpush gd a b c q s
  | .dqpop gd d q => Sys2Proof.Machine.execDqpop gd d q s
  | .arradd gd d a b c arr => Sys2Proof.Machine.execArradd gd d a b c arr s
  | .arrget gd d a b c arr => Sys2Proof.Machine.execArrget gd d a b c arr s
  | .qwait gd a b => Sys2Proof.Machine.execQwait gd a b s
  | .trap gd x => Sys2Proof.Machine.execTrap gd x s
  | .rett gd => Sys2Proof.Machine.execRett gd s
  | .crr gd d hi cr => Sys2Proof.Machine.execCrr gd d hi cr s
  | .crw gd a hi cr => Sys2Proof.Machine.execCrw gd a hi cr s
  | .tlbinv gd a b all => Sys2Proof.Machine.execTlbinv gd a b all s
  | .replay gd a => Sys2Proof.Machine.execReplay gd a s
  | .seal gd d a b c => Sys2Proof.Machine.execSeal gd d a b c s
  | .unseal gd d a b c => Sys2Proof.Machine.execUnseal gd d a b c s
  | .feat gd d a x => Sys2Proof.Machine.execFeat gd d a x s
  | .handlerRecordPush ptag node => Sys2Proof.Machine.execHandlerRecordPush ptag node s
  | .waitaWake c l => Sys2Proof.Machine.execWaitaWake c l s
  | .waitaTimeout c l => Sys2Proof.Machine.execWaitaTimeout c l s
  | .twaitWake c l => Sys2Proof.Machine.execTwaitWake c l s
  | .mwaitWake c l => Sys2Proof.Machine.execMwaitWake c l s
  | .commandPlaceWake c l => Sys2Proof.Machine.execCommandPlaceWake c l s
  | .watermarkStallEnd c l => Sys2Proof.Machine.execWatermarkStallEnd c l s
  | .lvlwaitWake c l => Sys2Proof.Machine.execLvlwaitWake c l s
  | .dqpopWake c l => Sys2Proof.Machine.execDqpopWake c l s
  | .qwaitWake c l => Sys2Proof.Machine.execQwaitWake c l s
  | .tlbinvDone c l => Sys2Proof.Machine.execTlbinvDone c l s
  | .sealComplete c l nonce size => Sys2Proof.Machine.execSealComplete c l nonce size s
  | .unsealComplete c l frames keys tables => Sys2Proof.Machine.execUnsealComplete c l frames keys tables s
  | .homeSliceAccess c j softErr => Sys2Proof.Machine.execHomeSliceAccess c j softErr s
  | .redPerform c j softErr => Sys2Proof.Machine.execRedPerform c j softErr s
  | .loadReturn c j => Sys2Proof.Machine.execLoadReturn c j s
  | .lineParityRefetch c l => Sys2Proof.Machine.execLineParityRefetch c l s
  | .groupOpenDeferred die j => Sys2Proof.Machine.execGroupOpenDeferred die j s
  | .pageWalkComplete die j bad => Sys2Proof.Machine.execPageWalkComplete die j bad s
  | .retryWalk die j bad => Sys2Proof.Machine.execRetryWalk die j bad s
  | .faultBufferClr ptag => Sys2Proof.Machine.execFaultBufferClr ptag s
  | .faultBufferDropClear ptag => Sys2Proof.Machine.execFaultBufferDropClear ptag s
  | .errorLogEntry die pa hard => Sys2Proof.Machine.execErrorLogEntry die pa hard s
  | .engineSchedule cl mat => Sys2Proof.Machine.execEngineSchedule cl mat s
  | .copyStep cl turn => Sys2Proof.Machine.execCopyStep cl turn s
  | .copyComplete cl => Sys2Proof.Machine.execCopyComplete cl s
  | .forwardReservation cl => Sys2Proof.Machine.execForwardReservation cl s
  | .forwardReservationTimeout cl => Sys2Proof.Machine.execForwardReservationTimeout cl s
  | .scheduleEntryStart cl => Sys2Proof.Machine.execScheduleEntryStart cl s
  | .matrixStep cl softErr => Sys2Proof.Machine.execMatrixStep cl softErr s
  | .matrixJobComplete cl => Sys2Proof.Machine.execMatrixJobComplete cl s
  | .resultRecordEnter c => Sys2Proof.Machine.execResultRecordEnter c s
  | .mjobrArrival c j => Sys2Proof.Machine.execMjobrArrival c j s
  | .remotePlaceGrant cl => Sys2Proof.Machine.execRemotePlaceGrant cl s
  | .mburstTimeout c => Sys2Proof.Machine.execMburstTimeout c s
  | .rampDown cl => Sys2Proof.Machine.execRampDown cl s
  | .budgetReserve cl => Sys2Proof.Machine.execBudgetReserve cl s
  | .commandAging c mat j => Sys2Proof.Machine.execCommandAging c mat j s
  | .slotFill c => Sys2Proof.Machine.execSlotFill c s
  | .recordAging c j => Sys2Proof.Machine.execRecordAging c j s
  | .implicitSteal c => Sys2Proof.Machine.execImplicitSteal c s
  | .stealRequestServe j => Sys2Proof.Machine.execStealRequestServe j s
  | .stealReply j => Sys2Proof.Machine.execStealReply j s
  | .heldRecordPush ptag node => Sys2Proof.Machine.execHeldRecordPush ptag node s
  | .cancelPropagate ptag node => Sys2Proof.Machine.execCancelPropagate ptag node s
  | .progressCheckReport c l => Sys2Proof.Machine.execProgressCheckReport c l s
  | .deltaConsolidate c j => Sys2Proof.Machine.execDeltaConsolidate c j s
  | .bufferTimedDrain ptag q => Sys2Proof.Machine.execBufferTimedDrain ptag q s
  | .drainRingRoom ptag q => Sys2Proof.Machine.execDrainRingRoom ptag q s
  | .stageBatchForm ptag q => Sys2Proof.Machine.execStageBatchForm ptag q s
  | .clampArrive ptag j => Sys2Proof.Machine.execClampArrive ptag j s
  | .clampWake c l => Sys2Proof.Machine.execClampWake c l s
  | .tickAdvance ptag fid => Sys2Proof.Machine.execTickAdvance ptag fid s
  | .fieldTimerTick ptag fid => Sys2Proof.Machine.execFieldTimerTick ptag fid s
  | .fettlerNormalise ptag fid cell => Sys2Proof.Machine.execFettlerNormalise ptag fid cell s
  | .fieldFreeze ptag fid => Sys2Proof.Machine.execFieldFreeze ptag fid s
  | .fieldThaw ptag fid => Sys2Proof.Machine.execFieldThaw ptag fid s
  | .launchPlacement ptag areas => Sys2Proof.Machine.execLaunchPlacement ptag areas s
  | .launchRetire ptag j => Sys2Proof.Machine.execLaunchRetire ptag j s
  | .lateCaptureReplay c again => Sys2Proof.Machine.execLateCaptureReplay c again s
  | .budgetDivision measured demands volts energy => Sys2Proof.Machine.execBudgetDivision measured demands volts energy s
  | .thermalReport temps => Sys2Proof.Machine.execThermalReport temps s
  | .capWrite watts => Sys2Proof.Machine.execCapWrite watts s
  | .snapshotTrigger => Sys2Proof.Machine.execSnapshotTrigger s
  | .snapshotLatch => Sys2Proof.Machine.execSnapshotLatch s
  | .heartbeatWrite v => Sys2Proof.Machine.execHeartbeatWrite v s
  | .heartbeatMiss => Sys2Proof.Machine.execHeartbeatMiss s
  | .enjClear ptag mask => Sys2Proof.Machine.execEnjClear ptag mask s
  | .gateBegin unit => Sys2Proof.Machine.execGateBegin unit s
  | .gateWake unit => Sys2Proof.Machine.execGateWake unit s
  | .clockRestart c => Sys2Proof.Machine.execClockRestart c s
  | .powerGood image backup units mgmt svcRoot => Sys2Proof.Machine.execPowerGood image backup units mgmt svcRoot s
  | .unitRedo o => Sys2Proof.Machine.execUnitRedo o s
  | .portEnable p => Sys2Proof.Machine.execPortEnable p s
  | .portDisable p => Sys2Proof.Machine.execPortDisable p s
  | .portTrained p dev pport => Sys2Proof.Machine.execPortTrained p dev pport s
  | .trainingTimeout p => Sys2Proof.Machine.execTrainingTimeout p s
  | .lossOfSignal p => Sys2Proof.Machine.execLossOfSignal p s
  | .flitReplay p crc same => Sys2Proof.Machine.execFlitReplay p crc same s
  | .peerResponse j r => Sys2Proof.Machine.execPeerResponse j r s
  | .peerAccessTimeout j => Sys2Proof.Machine.execPeerAccessTimeout j s
  | .collectivePost ptag => Sys2Proof.Machine.execCollectivePost ptag s
  | .collectiveComplete grp parts => Sys2Proof.Machine.execCollectiveComplete grp parts s
  | .collectiveTimeout grp dev => Sys2Proof.Machine.execCollectiveTimeout grp dev s
  | .uePacketReceive p pkt => Sys2Proof.Machine.execUePacketReceive p pkt s
  | .rmaWriteComplete p => Sys2Proof.Machine.execRmaWriteComplete p s
  | .buildRequest h body => Sys2Proof.Machine.execBuildRequest h body s
  | .freeRequest h => Sys2Proof.Machine.execFreeRequest h s
  | .loadRequest h kidx file bits frames tables => Sys2Proof.Machine.execLoadRequest h kidx file bits frames tables s
  | .unloadRequest h kidx => Sys2Proof.Machine.execUnloadRequest h kidx s
  | .launchRequest h kidx n fp parent => Sys2Proof.Machine.execLaunchRequest h kidx n fp parent s
  | .parkRequest h j => Sys2Proof.Machine.execParkRequest h j s
  | .contextParked ptag => Sys2Proof.Machine.execContextParked ptag s
  | .resumeRequest h => Sys2Proof.Machine.execResumeRequest h s
  | .resetRequest h => Sys2Proof.Machine.execResetRequest h s
  | .fatalFault ptag => Sys2Proof.Machine.execFatalFault ptag s
  | .resetComplete ptag => Sys2Proof.Machine.execResetComplete ptag s
  | .tagHoldExpiry ptag => Sys2Proof.Machine.execTagHoldExpiry ptag s
  | .sealRequest h root ch ea nonce size => Sys2Proof.Machine.execSealRequest h root ch ea nonce size s
  | .unsealRequest h root ch ea frames keys tables => Sys2Proof.Machine.execUnsealRequest h root ch ea frames keys tables s
  | .queryRequest q => Sys2Proof.Machine.execQueryRequest q s
  | .groupSetupRequest h grp ranks => Sys2Proof.Machine.execGroupSetupRequest h grp ranks s
  | .handoffSend ch => Sys2Proof.Machine.execHandoffSend ch s
  | .handoffReceive ch n tenant => Sys2Proof.Machine.execHandoffReceive ch n tenant s
  | .tenantToken tok => Sys2Proof.Machine.execTenantToken tok s
  | .chainRelease ch => Sys2Proof.Machine.execChainRelease ch s
  | .powerLoss => Sys2Proof.Machine.execPowerLoss s
  | .clampReconfiguration ptag cfg => Sys2Proof.Machine.execClampReconfiguration ptag cfg s
  | .engineEpochAdvance cl => Sys2Proof.Machine.execEngineEpochAdvance cl s
  | .quotaChange tenant kind value => Sys2Proof.Machine.execQuotaChange tenant kind value s
  | .memoryKeyInstall slot tenant material => Sys2Proof.Machine.execMemoryKeyInstall slot tenant material s
  | .sealingRootInstall slot tenant root => Sys2Proof.Machine.execSealingRootInstall slot tenant root s
  | .railVote ptag level region => Sys2Proof.Machine.execRailVote ptag level region s

end Sys2Proof.Machine
end

