-- ==== Sys2Proof/Machine/FirstTouch.lean ====
section
/-! DEFINITION. What the resident service does about a partition's first-touch faults (27 R368): it arms a monitor over the fault buffer's
header, wakes when it fires, waits 1,000 ticks, and then maps, refuses or leaves the recorded granules, clears the buffer, arms the
monitor again and has the open groups walk again. The service's strands do it with instructions, which they run as any strand's (MARM,
WAITA, loads, stores, REPLAY); here it is three steps of theirs (log 82). -/

namespace Sys2Proof.Machine

/-- The entries of a partition's fault buffer that count. -/
def recordedFaults (s : State) (tag : Nat) : List LogEntry :=
  let f := (getPart s tag).fbuf
  (List.range f.nrec).map fun i => nget f.entries {} i

/-- The entries on a granule's path are written anew from the service's own copy of the tables, given by address: the path is the copy's,
and the copy holds all of it (R368 step 3). The level is the fuel less one. -/
def rewritePath (copies : List (Nat × Nat)) (va : Nat) : Nat → State → Nat → Option State
  | 0, s, _ => some s
  | lvl + 1, s, table =>
    let a := table + walkIndex va lvl * 128
    (copies.find? fun e => e.1 == a).bind fun e =>
      let p : Pte := ⟨a, e.2 % 2 ^ 128⟩
      let s := writePte s a p.bits
      if p.type = 1 then rewritePath copies va lvl s p.next else some s

/-- One entry acted on, with the frame that it may use (R368 step 3): none when the frame is not free, or the tables do not suffice. -/
def touchGranule (ranges : List TouchRange) (copies : List (Nat × Nat)) (tag : Nat) (s : State) (e : LogEntry × Nat) (tables : List Nat) :
    Option (State × List Nat) :=
  let g := bitsAt e.1.va 19 38
  let va := canonOf (g * 2 ^ 19)
  (if e.1.bad then rewritePath copies va 4 s (rootOf s tag) else some s).bind fun s =>
  match walk s tag va with
  | .hit _ => some (s, tables)
  | _ => match ranges.find? fun r => decide (r.first ≤ g) && decide (g < r.first + r.count) with
    | none => mapBelow va 3 0 (0, 0) 3 s (rootOf s tag) tables
    | some r =>
      if rangeFree s (e.2 * 2 ^ 16) (2 ^ 16) && keyUsable s tag r.key then
        let image := ((r.images.find? fun i => i.1 == g).map (·.2)).getD []
        mapPage (fillFrame s r.key e.2 (image.take (2 ^ 16))) tag
          { va := va, pfn := e.2, key := r.key, kind := 1, xr := false, wr := true, rd := true } tables
      else none

/-- Step 1: the service begins to watch a partition's fault buffer, and arms its monitor. -/
def watchBuffer (s : State) (tag : Nat) : State :=
  if serviceUp s && tag != 0 && decide (tag < 64) && (nget? s.watches tag).isNone && (getPart s tag).st != .free then
    { s with watches := nset s.watches tag {} }
  else s

/-- Step 2: the monitor has fired, and the service wakes; the monitor is disarmed from then on. -/
def wakeWatch (s : State) (tag : Nat) : State :=
  match nget? s.watches tag with
  | some w => if w.fired && w.wokeAt.isNone then { s with watches := nset s.watches tag { wokeAt := some s.now } } else s
  | none => s

/-- The service has waited 1,000 ticks from its wake (R368 step 2). -/
def touchDue (s : State) (tag : Nat) : Bool :=
  match (nget? s.watches tag).bind (·.wokeAt) with
  | some t => decide (t + 1000 ≤ s.now)
  | none => false

/-- The service's pass over a partition's recorded faults, with a frame for each: then CLR and DROP are written, the monitor is armed again,
and REPLAY issued (R368 steps 2 to 5). -/
def serveTouches (s : State) (tag : Nat) (ranges : List TouchRange) (copies : List (Nat × Nat)) (frames tables : List Nat) : Option State :=
  let es := recordedFaults s tag
  if serviceUp s && touchDue s tag && decide (es.length ≤ frames.length) then
    (mapAll (touchGranule ranges copies tag) s (es.zip frames) tables).map fun s =>
      let s := physWrite s noCore 0 (faultBufAddr tag) 64 (3 * 2 ^ 62)
      retryGroups { s with watches := nset s.watches tag {} } tag
  else none

end Sys2Proof.Machine
end

