-- ==== Sys2Proof/Machine/Issue.lean ====
section
/-! DEFINITION. What the step calls: the issue choice of a core cycle, the fetch and the checks before a slot's own, and a
reference tick (04 R61 to R69, R81; 14 R267, R268). -/

namespace Sys2Proof.Machine

/-! ### The issue choice (R267) -/

/-- Fetch is enabled in core cycle c under fetch duty F. -/
def fetchEnabled (c F : Nat) : Bool := decide (c % 16 * F / 16 < (c % 16 + 1) * F / 16)

/-- A strand that can issue: resident and ready. -/
def canIssue (t : Strand) : Bool := t.live && t.status == .ready

/-- A CHAIN of another strand of core c runs and holds the SIMD unit: that strand still stands at it (06 R127). -/
def simdTaken (s : State) (c sid : Nat) : Bool :=
  match (getCore s c).simd with
  | some (x, pc) => x != sid && (List.range 8).any fun l =>
      let t := getStrand s c l
      t.live && t.sid == x && t.pc == pc
  | none => false

/-- The strand in a slot waits for the SIMD unit: the slot it stands at is of the vector side. -/
def waitsForSimd (s : State) (c l : Nat) : Bool :=
  let t := getStrand s c l
  simdTaken s c t.sid && match nget? (getCore s c).icache (lineBase t.pc.toNat) with
    | some line => isSlotPos t.pc.toNat && slotSide (lineSlot line (slotIndex t.pc.toNat)) == .vector
    | none => false

/-- The core first fills the slots of a launch's initial records (R365). -/
def fillsSlots (s : State) (c : Nat) : Bool :=
  let k := getCore s c
  decide (0 < k.filling) && !k.deque.isEmpty && (freeSlot s c).isSome && runningLaunch s c

/-- A ready strand that is not able to issue its next group: it waits for the SIMD unit, or for the slots to be filled. -/
def heldUp (s : State) (c l : Nat) : Bool := canIssue (getStrand s c l) && (waitsForSimd s c l || fillsSlots s c)

/-- Ready means able to issue: the strands held up in a cycle are ready from the next at the earliest (R267). -/
def deferHeldUp (s : State) (c cyc : Nat) : State :=
  ((List.range 8).filter (heldUp s c)).foldl (fun s l => onStrand s c l fun t => { t with readySince := cyc + 1 }) s

/-- Whether a candidate slot comes before another: an overdue strand first, then the higher priority among strands that are
not overdue, then the longer ready, then the lower slot. -/
def issuesBefore (s : State) (c cyc a b : Nat) : Bool :=
  let ta := getStrand s c a
  let tb := getStrand s c b
  let oa := decide (16 ≤ cyc - ta.readySince)
  let ob := decide (16 ≤ cyc - tb.readySince)
  let longer := decide (ta.readySince < tb.readySince) || (ta.readySince == tb.readySince && decide (a < b))
  if oa != ob then oa
  else if oa then longer
  else if ta.pri != tb.pri then decide (tb.pri < ta.pri)
  else longer

/-- The slot that issues in a cycle, of those that are ready to (R267). -/
def chooseSlot (s : State) (c cyc : Nat) : Option Nat :=
  ((List.range 8).filter fun l => canIssue (getStrand s c l) && !heldUp s c l).foldl
    (fun o l => match o with
      | none => some l
      | some m => if issuesBefore s c cyc l m then some l else some m) none

/-! ### Fetching a line (R64 to R66, R308) -/

/-- The strand's line: cached, or read from memory after translation and the fetch right; a copy that fails parity is
fetched once more. `k` goes on with the line. -/
def withLine (s : State) (c l : Nat) (k : Nat → State → Host.Outcome State Fault Refusal) :
    Host.Outcome State Fault Refusal :=
  let pc := (getStrand s c l).pc.toNat
  let base := lineBase pc
  match nget? (getCore s c).icache base with
  | some line => k line s
  | none =>
    if !canonical base then .next (takeTrap s c l 0x0C0 base)
    else match cached s c base with
      | none => .next (stallOn s c l base 2 (fetchReq pc false))
      | some x =>
        if !x.xr then .next (takeTrap s c l 0x104 base)
        else if x.peer then .next (sendPeer s c l x.dev base (fetchReq pc false))
        else
          let line := physRead s x.key (x.phys base) 512
          let s := reachLine s c (lineOf (x.phys base))
          if s.cur.err || !parityOk line then .next (sleep s c l (.refetch base))
          else k line (fillLine s c base line)

/-! ### One slot (R81) -/

/-- The checks that come after the line's: a position, and the TGT bit of a transfer that left it to the fetch (R69). -/
def arrivalFault (t : Strand) (line : Nat) : Option Nat :=
  if !isSlotPos t.pc.toNat then some 0x038
  else if t.tgtPending && !lineTgt line (slotIndex t.pc.toNat) then some 0x039
  else none

/-- The slot at the strand's pc takes effect: the line's checks, the transfer's, decoding, and the instruction. A slot of a line that
has only now been fetched may have to wait for the SIMD unit (06 R127). -/
def runSlot (line : Nat) (c l : Nat) (s : State) : Host.Outcome State Fault Refusal :=
  let t := getStrand s c l
  let pc := t.pc.toNat
  match lineFault line with
  | some code => .next (takeTrap s c l code (lineBase pc))
  | none =>
    match arrivalFault t line with
    | some code => .next (takeTrap s c l code pc)
    | none =>
      let bits := lineSlot line (slotIndex pc)
      if slotSide bits == .vector && simdTaken s c t.sid then .next s
      else
        let s := onStrand s c l fun t => { t with tgtPending := false }
        match decodeSlot bits with
        | .bad code => .next (takeTrap s c l code bits)
        | .ok i => exec i s

/-- The strand's issue is counted: it is ready anew from the next cycle, and its progress check starts anew (R267, R268). -/
def countIssue (s : State) (c l cyc : Nat) : State :=
  onStrand s c l fun t => { t with readySince := cyc + 1, issued := true, eligible := 0, reported := false }

/-- The strand in a slot issues its next slot, or first takes the fault of a RED of its, with its PC at the RED (R338; log 20). -/
def issueSlot (s : State) (c l cyc : Nat) : Host.Outcome State Fault Refusal :=
  match (getStrand s c l).redFault with
  | some (code, ea, pc) => .next (takeTrap (onStrand s c l fun t => { t with pc := pc, redFault := none }) c l code ea)
  | none => withLine (countIssue s c l cyc) c l fun line s => runSlot line c l s

/-- A cycle of a core: its clock runs, FDUTY takes effect at each sixteenth cycle (R345), and when fetch is enabled and a strand is ready, one slot issues (R267). The model
issues the slots of a group one by one (R68; log 16). -/
def runCycle (s : State) (c : Nat) (inFlight err : Bool) : Host.Outcome State Fault Refusal :=
  let k := getCore s c
  if k.clockPaused || k.parked || (!isMgmt c && isGated s (.cluster (clusterOf c))) then .next s
  else
    let duty := if k.cycles % 16 = 0 then k.fduty else k.fdutyNow
    let s := deferHeldUp (onCore s c fun k => { k with cycles := k.cycles + 1, fdutyNow := duty }) c k.cycles
    if !fetchEnabled k.cycles duty then .next s
    else match chooseSlot s c k.cycles with
      | none => .next s
      | some l => issueSlot { s with cur := ⟨c, l, inFlight, err⟩ } c l k.cycles

/-! ### A reference tick (R5, R268) -/

/-- A tick passes a strand: its progress check counts the ticks in which it was ready and did not issue. -/
def tickStrand (s : State) (c l : Nat) (t : Strand) : Strand :=
  let k := getCore s c
  let counts := canIssue t && !heldUp s c l && !t.issued && !k.clockPaused && !k.parked && decide (1 ≤ k.fduty)
  { t with issued := false, eligible := if counts then t.eligible + 1 else t.eligible }

/-- The queues whose buffers must drain by now, 4,096 ticks after the insertion of their oldest entry (16 R288). -/
def overdueQueues (s : State) : List (Nat × Nat) :=
  s.parts.flatMap fun e =>
    (e.2.queues.filter fun q => !q.2.draining && q.2.buf.any fun r => decide (r.2 + 4096 ≤ s.now)).map fun q => (e.1, q.1)

/-- A tick: strands count it, due outcomes of start-up take effect, a snapshot asked for latches, and buffers drain at the latest
(R288, R356, R362). -/
def runTick (s : State) : State :=
  let s := snapTick (bootTick 32 { s with
    now := s.now + 1
    strands := s.strands.map fun e => (e.1, tickStrand s (e.1 / 8) (e.1 % 8) e.2) })
  (overdueQueues s).foldl (fun s q => drainQueue s q.1 q.2) s

/-! ### One choice -/

/-- A step of the device: a constructor of Instr with no encoding. -/
def isDeviceStep (e : Instr) : Bool := e.raw.isNone

/-- In recovery only the I3C port answers: steps that are the resident service's, or that come through an endpoint, do not happen (R356). -/
def heardInRecovery (e : Instr) : Bool :=
  match e with
  | .memoryKeyInstall .. | .sealingRootInstall .. | .tenantToken .. | .chainRelease .. | .handoffSend .. | .handoffReceive ..
  | .quotaChange .. | .uePacketReceive .. | .heartbeatWrite .. => false
  | _ => true

/-- What a choice does. -/
def runChoice (s : State) (x : Choice) : Host.Outcome State Fault Refusal :=
  match x with
  | .cycle c inFlight err => runCycle s c inFlight err
  | .tick => .next (runTick s)
  | .event e => if isDeviceStep e && (!s.boot.recovery || heardInRecovery e) then exec e s else .next s
  | .peer a => .next (peerAccess s a)
  | .recore tag cores granules => .next (tryRecore s tag cores granules)
  | .uePost p c l pa key w => .next (postMessage s p c l pa key w)
  | .ueSend p => .next (sendMessage s p)
  | .session tenant nonce => .next (setUpSession s tenant nonce)
  | .watch tag => .next (watchBuffer s tag)
  | .touchWake tag => .next (wakeWatch s tag)
  | .firstTouch tag ranges copies frames tables => .next ((serveTouches s tag ranges copies frames tables).getD s)

/-- The next choice: the agenda's head, or a free value; and the state after it is taken. -/
def takeChoice (s : State) : Choice × State :=
  match s.agenda with
  | x :: rest => (x, { s with agenda := rest, draw := s.draw + 1 })
  | [] => (Config.choice s.draw, { s with draw := s.draw + 1 })

/-- Whether a choice brings the supply back. -/
def restoresSupply (x : Choice) : Bool :=
  match x with
  | .event (.powerGood ..) => true
  | _ => false

/-- One step of the package. -/
def stepOnce (s : State) : Host.Outcome State Fault Refusal :=
  let (x, s') := takeChoice s
  if s.supply || restoresSupply x then runChoice s' x else .fault .supplyOff

/-! ### Placing an instruction (for withFetchWord) -/

/-- A well-formed line with one slot: a boundary after every slot, VER 1, PAR as the slots give it. -/
def lineOfSlot (idx slot : Nat) : Nat :=
  let body := slot % 2 ^ 96 * 2 ^ (32 + 96 * idx)
  lineParity body * 2 ^ 16 + 2 ^ 12 + 0b1111 * 2 ^ 5 + 0b11111 + body

/-- A slot placed in the line that the strand in slot l of core c fetches from, with that strand overdue, so that the next
cycle of the core issues it (R267). -/
def placeSlot (s : State) (c l slot : Nat) : State :=
  let t := getStrand s c l
  let pc := if isSlotPos t.pc.toNat then t.pc else BitVec.ofNat 64 (lineBase t.pc.toNat + 32)
  let s := putStrand s c l { t with live := true, status := .ready, pc := pc, tgtPending := false, redFault := none, readySince := 0 }
  let s := onCore s c fun k =>
    { k with clockPaused := false, parked := false, simd := none, filling := 0, fduty := 16, cycles := k.cycles - k.cycles % 16 + 16,
             icache := nset k.icache (lineBase pc.toNat) (lineOfSlot (slotIndex pc.toNat) slot) }
  { s with supply := true, agenda := .cycle c false false :: s.agenda,
           gated := s.gated.filter (· != .cluster (clusterOf c)) }

end Sys2Proof.Machine
end

