-- ==== Sys2Proof/Machine/Step.lean ====
section
/-! DEFINITION. The step of the package, and how the host places an instruction under it. What a step does is in
Issue.lean. -/

namespace Sys2Proof.Machine

/-- One step: the next choice is taken and done. -/
def step (s : State) : Host.Outcome State Fault Refusal := stepOnce s

/-- s with an instruction placed in the line that the strand in slot 0 of core 0 fetches from next, and a cycle of that core
next on the agenda (log 2). -/
def State.withFetchWord (s : State) (_nbits w : Nat) : State := placeSlot s 0 0 w

end Sys2Proof.Machine
end

