-- ==== Sys2Proof/Safety.lean ====
section
/-! DEFINITION. The terms in which claims are made: the strand whose turn it is, when an instruction runs, what its guard
and its registers are, and what holds of every state that matters. -/

namespace Sys2Proof.Machine

/-! ### Whose turn it is -/

/-- The core whose turn it is. -/
def turnCore (s : State) : CoreSt := getCore s s.cur.core

/-- The strand whose turn it is. -/
def turn (s : State) : Strand := getStrand s s.cur.core s.cur.slot

/-- The state in which that strand is t and nothing else has changed. -/
def withTurn (s : State) (t : Strand) : State := putStrand s s.cur.core s.cur.slot t

/-- The state after a trap of that strand (R206). -/
def trapped (s : State) (code tval : Nat) : State := takeTrap s s.cur.core s.cur.slot code tval

/-- t differs from s at most in the strand whose turn it is, and in maps of strands and cores that list other keys. -/
def SameButTurn (s t : State) : Prop :=
  (∀ k, k ≠ s.cur.core * 8 + s.cur.slot → nget t.strands {} k = nget s.strands {} k) ∧
    (∀ c, getCore t c = getCore s c) ∧ t = { s with strands := t.strands, cores := t.cores }

/-- t is s after a read of memory by the strand whose turn it is: as SameButTurn, but home slices may have been woken and leases of
other cores recalled (R241, R352). -/
def ReadStep (s t : State) : Prop :=
  (∀ k, k ≠ s.cur.core * 8 + s.cur.slot → nget t.strands {} k = nget s.strands {} k) ∧
    (∀ c, getCore t c = getCore s c) ∧ t.gated ⊆ s.gated ∧ t.leases ⊆ s.leases ∧
    t = { s with strands := t.strands, cores := t.cores, leases := t.leases, gated := t.gated }

/-- t differs from s at most in the strand whose turn it is and in its core. -/
def SameButCore (s t : State) : Prop :=
  (∀ k, k ≠ s.cur.core * 8 + s.cur.slot → nget t.strands {} k = nget s.strands {} k) ∧
    (∀ c, c ≠ s.cur.core → getCore t c = getCore s c) ∧ t = { s with strands := t.strands, cores := t.cores }

/-! ### Accesses -/

/-- No access of a core is in flight. -/
def Still (s : State) (c : Nat) : Prop := (getCore s c).requests = [] ∧ (getCore s c).reds = []

/-- Nothing of core c is in flight, and what other cores and peers have in flight is neither strand sid's nor passed by a
release. -/
def Quiet (s : State) (c sid : Nat) : Prop :=
  Still s c ∧ (∀ e ∈ s.cores, ∀ q ∈ e.2.requests ++ e.2.reds, q.marks = [] ∧ q.sid ≠ sid ∧ (e.1 = c → q.readBy = [])) ∧
    ∀ e ∈ s.peers, e.2.red = true → e.2.sid ≠ sid

/-- The access of this turn is made at once: it does not stay in flight itself, it meets no soft error, and nothing in flight is
ordered before it. -/
def AtOnce (s : State) : Prop := Quiet s s.cur.core (turn s).sid ∧ s.cur.inFlight = false ∧ s.cur.err = false

/-- Every part of an access is translated by what its core has cached, with the rights it needs, and lies on this device. -/
def Here (s : State) (parts : List (Nat × Nat)) (rd wr : Bool) (xs : List (Xlat × Nat × Nat)) : Prop :=
  locate s s.cur.core parts rd wr = .found xs ∧ ∀ x ∈ xs, x.1.peer = false

/-- A pool access that lies in the core's range and meets no watermark stall (R47, R167). -/
def PoolHere (s : State) (ea w : Nat) : Prop :=
  poolFault (turnCore s) ea w = none ∧ watermarkStalls (turnCore s) ea w = false

/-- The bytes of memory that a write of some parts may change: their own, and the one that holds DT of each part's leaf
entry (R308). -/
def Touches (ps : List Part) (b : Nat) : Prop :=
  ∃ p ∈ ps, (p.pa / 8 ≤ b ∧ b < p.pa / 8 + byteSpan p.pa p.w) ∨ b = (p.leaf + 75) / 8

/-- Parts that lie in plain memory, outside the device-internal range (R355). -/
def Plain (ps : List Part) : Prop := ∀ p ∈ ps, isInternal p.pa = false

/-- The first line that a part lies in, and how many. -/
def firstLine (p : Part) : Nat := p.pa / 8 / 64
def lineSpan (p : Part) : Nat := (p.pa / 8 % 64 + byteSpan p.pa p.w + 63) / 64

/-- Byte a lies in a line that a part lies in. -/
def SharesLine (p : Part) (a : Nat) : Prop := firstLine p ≤ a / 64 ∧ a / 64 < firstLine p + lineSpan p

/-- Every byte of memory that a write of some parts does not touch reads in t as it read in s, under every key; in a line that holds
some of what was written, under the keys whose material the line has (R308: another material reads the whole line anew). -/
def Spares (s t : State) (ps : List Part) : Prop :=
  ∀ key a, ¬ Touches ps a → (∀ p ∈ ps, SharesLine p a → materialOf s key = materialOf s p.key) →
    (∀ p ∈ ps, (p.leaf + 75) / 8 / 64 = a / 64 → nget? s.keyOf (a / 64) = none ∨
      nget? s.keyOf (a / 64) = some (materialOf s key)) →
    keyedByte t key a = keyedByte s key a

/-- Every byte of memory reads in t as it read in s, under every key. -/
def SparesAll (s t : State) : Prop := ∀ key a, keyedByte t key a = keyedByte s key a

/-- Parts that share no byte with one another or with their leaf entries' DT; where two share a line, or one shares the line of a
leaf entry, the line has the material of their keys. -/
def Apart (s : State) (ps : List Part) : Prop :=
  (∀ p ∈ ps, ∀ q ∈ ps,
    ((q.leaf + 75) / 8 < p.pa / 8 ∨ p.pa / 8 + byteSpan p.pa p.w ≤ (q.leaf + 75) / 8) ∧
    (firstLine p < firstLine q + lineSpan q → firstLine q < firstLine p + lineSpan p → materialOf s p.key = materialOf s q.key)) ∧
  ps.Pairwise fun p q => p.pa / 8 + byteSpan p.pa p.w ≤ q.pa / 8 ∨ q.pa / 8 + byteSpan q.pa q.w ≤ p.pa / 8

/-- t is s after a write to memory by the strand whose turn it is: memory and the record of its keys may differ, monitors may have
fired, leases been recalled, home slices woken, atomics counted and doorbell posts made; every other strand, core, partition and part of the
package is as it was. -/
def MemoryStep (s t : State) : Prop :=
  (∀ k, k ≠ s.cur.core * 8 + s.cur.slot →
    { nget t.strands {} k with mon := (nget s.strands {} k).mon } = nget s.strands {} k) ∧
  (∀ c, { getCore t c with acnt := (getCore s c).acnt } = getCore s c) ∧
  (∀ tag, { getPart t tag with posts := (getPart s tag).posts } = getPart s tag) ∧
  t = { s with strands := t.strands, cores := t.cores, parts := t.parts, mem := t.mem, keyOf := t.keyOf, leases := t.leases,
               gated := t.gated }

/-- t is s after an element of a CHAIN of the strand whose turn it is: its core's pool, count of crossbar waits and SIMD unit may differ
too, and what a write to memory may change (MemoryStep); everything else is as it was. -/
def ElementStep (s t : State) : Prop :=
  (∀ k, k ≠ s.cur.core * 8 + s.cur.slot →
    { nget t.strands {} k with mon := (nget s.strands {} k).mon } = nget s.strands {} k) ∧
  (∀ c, c ≠ s.cur.core → getCore t c = getCore s c) ∧
  ({ turnCore t with pool := (turnCore s).pool, xbwait := (turnCore s).xbwait, simd := (turnCore s).simd } = turnCore s) ∧
  (∀ tag, { getPart t tag with posts := (getPart s tag).posts } = getPart s tag) ∧
  t = { s with strands := t.strands, cores := t.cores, parts := t.parts, mem := t.mem, keyOf := t.keyOf, leases := t.leases,
               gated := t.gated }

/-- The strand whose turn it is has become u, but for the monitors that a write fired. -/
def TurnBecame (t : State) (u : Strand) : Prop := { turn t with mon := u.mon } = u

/-- t is s after a step of the strand whose turn it is that counts in node n of a partition and may push on its own deque: that
strand, that node, the deque and memory may differ, and what a write to memory may change (MemoryStep); everything else is as
it was. -/
def TaskStep (s t : State) (tag n : Nat) : Prop :=
  (∀ k, k ≠ s.cur.core * 8 + s.cur.slot →
    { nget t.strands {} k with mon := (nget s.strands {} k).mon } = nget s.strands {} k) ∧
  (∀ c, c ≠ s.cur.core → { getCore t c with acnt := (getCore s c).acnt } = getCore s c) ∧
  ({ turnCore t with
      acnt := (turnCore s).acnt, deque := (turnCore s).deque, ring := (turnCore s).ring,
      clockPaused := (turnCore s).clockPaused } = turnCore s) ∧
  (∀ g, { getPart t g with nodes := (getPart s g).nodes, posts := (getPart s g).posts } = getPart s g) ∧
  (∀ g m, (g, m) ≠ (tag, n) → getNode? t g m = getNode? s g m) ∧
  t = { s with strands := t.strands, cores := t.cores, parts := t.parts, mem := t.mem, keyOf := t.keyOf, leases := t.leases,
               gated := t.gated, nextSid := t.nextSid }

/-- A core's cell of its partition's load field lies in plain memory, and a write of it does not move it. -/
def LoadCellPlain (s : State) (c : Nat) : Prop :=
  ∀ f p, getField? s (tagOf s c) 0 = some f → cellPart s (tagOf s c) f (meshY c) (meshX c) = some p →
    isInternal p.pa = false ∧ ∀ v, cellPart (writePart s noCore p v) (tagOf s c) f (meshY c) (meshX c) = some p

/-! ### Waiting strands and steps of the device -/

/-- The strand in a slot of a core that is not parked sleeps at w. -/
def Waits (s : State) (c l : Nat) (w : Wait) : Prop :=
  (getStrand s c l).live = true ∧ (getCore s c).parked = false ∧ (getStrand s c l).status = .asleep w

/-- The strand u, ready behind the instruction at which it stood. -/
def goesOn (s : State) (c : Nat) (u : Strand) : Strand :=
  { u with pc := nextPc u.pc, status := .ready, readySince := (getCore s c).cycles }

/-- The state in which the strand of that slot is u and goes on. -/
def resumed (s : State) (c l : Nat) (u : Strand) : State := putStrand s c l (goesOn s c u)

/-! ### When an instruction runs (R81 steps 10 to 12) -/

/-- Its direct names lie within the launch's allocation (R78). -/
def Allocated (s : State) (names : List Named) : Prop :=
  firstFault (directFault (turnCore s).gcount (turnCore s).vcount) names = none

/-- Its relative indices lie within the launch's allocation (R78, R79). -/
def Indexed (s : State) (names : List Named) : Prop :=
  firstFault (relativeFault (turnCore s).gcount (turn s)) names = none

/-- Its operands are allocated and its guard holds (R78, R80, R81). -/
def Runs (s : State) (gd : Guard) (names : List Named) : Prop :=
  Allocated s names ∧ guardHolds (turn s) gd = true ∧ Indexed s names

/-! ### The guard and the register names of an instruction -/

/-- The guard; NOP and a step of the device have none. -/
def guardOf : Instr → Option Guard
  | .nop => none
  | .br gd _ _ => some gd
  | .bri gd _ _ => some gd
  | .call gd _ _ _ => some gd
  | .ret gd _ => some gd
  | .loop gd _ _ _ => some gd
  | .addR gd _ _ _ _ => some gd
  | .subR gd _ _ _ _ => some gd
  | .mulR gd _ _ _ _ => some gd
  | .mulhR gd _ _ _ _ => some gd
  | .mulhnR gd _ _ _ _ => some gd
  | .divR gd _ _ _ _ => some gd
  | .divnR gd _ _ _ _ => some gd
  | .remR gd _ _ _ _ => some gd
  | .remnR gd _ _ _ _ => some gd
  | .andR gd _ _ _ _ => some gd
  | .orR gd _ _ _ _ => some gd
  | .xorR gd _ _ _ _ => some gd
  | .andnR gd _ _ _ _ => some gd
  | .ornR gd _ _ _ _ => some gd
  | .shlR gd _ _ _ _ => some gd
  | .shrR gd _ _ _ _ => some gd
  | .sarR gd _ _ _ _ => some gd
  | .rolR gd _ _ _ _ => some gd
  | .rorR gd _ _ _ _ => some gd
  | .minR gd _ _ _ _ => some gd
  | .maxR gd _ _ _ _ => some gd
  | .minnR gd _ _ _ _ => some gd
  | .maxnR gd _ _ _ _ => some gd
  | .cmpR gd _ _ _ _ _ => some gd
  | .addI gd _ _ _ _ => some gd
  | .subI gd _ _ _ _ => some gd
  | .mulI gd _ _ _ _ => some gd
  | .mulhI gd _ _ _ _ => some gd
  | .mulhnI gd _ _ _ _ => some gd
  | .divI gd _ _ _ _ => some gd
  | .divnI gd _ _ _ _ => some gd
  | .remI gd _ _ _ _ => some gd
  | .remnI gd _ _ _ _ => some gd
  | .andI gd _ _ _ _ => some gd
  | .orI gd _ _ _ _ => some gd
  | .xorI gd _ _ _ _ => some gd
  | .andnI gd _ _ _ _ => some gd
  | .ornI gd _ _ _ _ => some gd
  | .shlI gd _ _ _ _ => some gd
  | .shrI gd _ _ _ _ => some gd
  | .sarI gd _ _ _ _ => some gd
  | .rolI gd _ _ _ _ => some gd
  | .rorI gd _ _ _ _ => some gd
  | .minI gd _ _ _ _ => some gd
  | .maxI gd _ _ _ _ => some gd
  | .minnI gd _ _ _ _ => some gd
  | .maxnI gd _ _ _ _ => some gd
  | .cmpI gd _ _ _ _ _ => some gd
  | .clz gd _ _ _ => some gd
  | .ctz gd _ _ _ => some gd
  | .popc gd _ _ _ => some gd
  | .brev gd _ _ _ => some gd
  | .bext gd _ _ _ _ _ => some gd
  | .bins gd _ _ _ _ => some gd
  | .sext gd _ _ _ => some gd
  | .zext gd _ _ _ => some gd
  | .abs gd _ _ _ => some gd
  | .neg gd _ _ _ => some gd
  | .sel gd _ _ _ _ => some gd
  | .mov gd _ _ => some gd
  | .movi gd _ _ => some gd
  | .gand gd _ _ _ => some gd
  | .gor gd _ _ _ => some gd
  | .gxor gd _ _ _ => some gd
  | .gnot gd _ _ => some gd
  | .padd gd _ _ _ _ _ => some gd
  | .pdif gd _ _ _ _ => some gd
  | .paln gd _ _ _ _ => some gd
  | .pblk gd _ _ _ _ => some gd
  | .pchk gd _ _ _ _ _ => some gd
  | .jset gd _ _ _ => some gd
  | .jadd gd _ _ _ _ => some gd
  | .fadd gd _ _ _ _ _ => some gd
  | .fsub gd _ _ _ _ _ => some gd
  | .fmul gd _ _ _ _ _ => some gd
  | .ffma gd _ _ _ _ _ _ => some gd
  | .fdiv gd _ _ _ _ _ => some gd
  | .fsqrt gd _ _ _ _ => some gd
  | .fmin gd _ _ _ _ => some gd
  | .fmax gd _ _ _ _ => some gd
  | .fcmp gd _ _ _ _ _ => some gd
  | .fcvt gd _ _ _ _ _ _ => some gd
  | .fclass gd _ _ _ => some gd
  | .fneg gd _ _ _ => some gd
  | .vadd gd _ _ _ _ => some gd
  | .vsub gd _ _ _ _ => some gd
  | .vmul gd _ _ _ _ => some gd
  | .vfma gd _ _ _ _ _ => some gd
  | .vmin gd _ _ _ _ => some gd
  | .vmax gd _ _ _ _ => some gd
  | .vabs gd _ _ _ => some gd
  | .vneg gd _ _ _ => some gd
  | .vand gd _ _ _ _ => some gd
  | .vor gd _ _ _ _ => some gd
  | .vxor gd _ _ _ _ => some gd
  | .vshl gd _ _ _ _ => some gd
  | .vshr gd _ _ _ _ => some gd
  | .vsar gd _ _ _ _ => some gd
  | .vcmp gd _ _ _ _ => some gd
  | .vsel gd _ _ _ _ => some gd
  | .vdot gd _ _ _ _ => some gd
  | .vcvt gd _ _ _ _ _ _ _ => some gd
  | .vpack gd _ _ _ => some gd
  | .vunpk gd _ _ _ => some gd
  | .vsplat gd _ _ _ _ => some gd
  | .vext gd _ _ _ _ _ => some gd
  | .vins gd _ _ _ _ _ => some gd
  | .vperm gd _ _ _ _ _ => some gd
  | .vtbl gd _ _ _ _ _ => some gd
  | .vred gd _ _ _ => some gd
  | .chain gd _ _ _ _ _ _ _ _ _ _ => some gd
  | .ld gd _ _ _ _ _ _ _ _ => some gd
  | .ldp gd _ _ _ _ _ _ _ _ => some gd
  | .st gd _ _ _ _ _ _ _ => some gd
  | .stp gd _ _ _ _ _ _ _ => some gd
  | .vld gd _ _ _ _ _ _ => some gd
  | .vst gd _ _ _ _ _ _ => some gd
  | .vldp gd _ _ _ _ _ _ => some gd
  | .vstp gd _ _ _ _ _ _ => some gd
  | .pref gd _ _ _ => some gd
  | .dep gd _ _ _ _ _ _ _ => some gd
  | .mrd gd _ _ _ _ _ => some gd
  | .sense gd _ _ _ _ _ _ _ => some gd
  | .tickr gd _ _ _ => some gd
  | .tadv gd _ _ _ => some gd
  | .amo gd _ _ _ _ _ _ _ => some gd
  | .cas gd _ _ _ _ _ _ _ _ => some gd
  | .red gd _ _ _ _ _ _ => some gd
  | .fence gd _ _ => some gd
  | .marm gd _ _ _ _ _ => some gd
  | .waita gd _ _ _ => some gd
  | .mdis gd _ _ => some gd
  | .copy gd _ _ _ _ _ _ _ _ _ _ _ => some gd
  | .copyv gd _ _ _ _ _ _ _ _ _ _ _ => some gd
  | .cstage gd _ _ _ => some gd
  | .wmark gd _ _ _ _ _ _ _ _ _ _ _ => some gd
  | .twait gd _ _ => some gd
  | .tfind gd _ _ _ => some gd
  | .tclr gd _ _ => some gd
  | .mdld gd _ _ _ _ _ _ _ => some gd
  | .tdset gd _ _ => some gd
  | .tdget gd _ _ => some gd
  | .lset gd _ _ _ _ => some gd
  | .mjob gd _ _ _ _ _ _ _ _ _ _ _ _ _ _ => some gd
  | .mjobr gd _ _ _ _ _ _ _ _ _ _ _ _ _ _ => some gd
  | .mpoll gd _ => some gd
  | .mwait gd _ => some gd
  | .mclr gd _ => some gd
  | .mburst gd _ => some gd
  | .addw gd _ _ => some gd
  | .rndw gd _ _ => some gd
  | .clrw gd => some gd
  | .fork gd _ _ _ _ _ => some gd
  | .join gd _ => some gd
  | .spawnr gd _ _ _ _ _ _ _ => some gd
  | .rnext gd _ => some gd
  | .steal gd _ _ => some gd
  | .yield gd => some gd
  | .exit gd => some gd
  | .lvladdAdd gd _ _ _ _ => some gd
  | .lvladdOpen gd _ _ _ _ _ => some gd
  | .lvladdDrain gd _ _ _ _ => some gd
  | .lvlwait gd _ _ => some gd
  | .cancel gd _ => some gd
  | .clamp gd _ _ _ => some gd
  | .launch gd _ _ _ _ => some gd
  | .dqpush gd _ _ _ _ => some gd
  | .dqpop gd _ _ => some gd
  | .arradd gd _ _ _ _ _ => some gd
  | .arrget gd _ _ _ _ _ => some gd
  | .qwait gd _ _ => some gd
  | .trap gd _ => some gd
  | .rett gd => some gd
  | .crr gd _ _ _ => some gd
  | .crw gd _ _ _ => some gd
  | .tlbinv gd _ _ _ => some gd
  | .replay gd _ => some gd
  | .seal gd _ _ _ _ => some gd
  | .unseal gd _ _ _ _ => some gd
  | .feat gd _ _ _ => some gd
  | .handlerRecordPush _ _ => none
  | .waitaWake _ _ => none
  | .waitaTimeout _ _ => none
  | .twaitWake _ _ => none
  | .mwaitWake _ _ => none
  | .commandPlaceWake _ _ => none
  | .watermarkStallEnd _ _ => none
  | .lvlwaitWake _ _ => none
  | .dqpopWake _ _ => none
  | .qwaitWake _ _ => none
  | .tlbinvDone _ _ => none
  | .sealComplete _ _ _ _ => none
  | .unsealComplete _ _ _ _ _ => none
  | .homeSliceAccess _ _ _ => none
  | .redPerform _ _ _ => none
  | .loadReturn _ _ => none
  | .lineParityRefetch _ _ => none
  | .groupOpenDeferred _ _ => none
  | .pageWalkComplete _ _ _ => none
  | .retryWalk _ _ _ => none
  | .faultBufferClr _ => none
  | .faultBufferDropClear _ => none
  | .errorLogEntry _ _ _ => none
  | .engineSchedule _ _ => none
  | .copyStep _ _ => none
  | .copyComplete _ => none
  | .forwardReservation _ => none
  | .forwardReservationTimeout _ => none
  | .scheduleEntryStart _ => none
  | .matrixStep _ _ => none
  | .matrixJobComplete _ => none
  | .resultRecordEnter _ => none
  | .mjobrArrival _ _ => none
  | .remotePlaceGrant _ => none
  | .mburstTimeout _ => none
  | .rampDown _ => none
  | .budgetReserve _ => none
  | .commandAging _ _ _ => none
  | .slotFill _ => none
  | .recordAging _ _ => none
  | .implicitSteal _ => none
  | .stealRequestServe _ => none
  | .stealReply _ => none
  | .heldRecordPush _ _ => none
  | .cancelPropagate _ _ => none
  | .progressCheckReport _ _ => none
  | .deltaConsolidate _ _ => none
  | .bufferTimedDrain _ _ => none
  | .drainRingRoom _ _ => none
  | .stageBatchForm _ _ => none
  | .clampArrive _ _ => none
  | .clampWake _ _ => none
  | .tickAdvance _ _ => none
  | .fieldTimerTick _ _ => none
  | .fettlerNormalise _ _ _ => none
  | .fieldFreeze _ _ => none
  | .fieldThaw _ _ => none
  | .launchPlacement _ _ => none
  | .launchRetire _ _ => none
  | .lateCaptureReplay _ _ => none
  | .budgetDivision _ _ _ _ => none
  | .thermalReport _ => none
  | .capWrite _ => none
  | .snapshotTrigger => none
  | .snapshotLatch => none
  | .heartbeatWrite _ => none
  | .heartbeatMiss => none
  | .enjClear _ _ => none
  | .gateBegin _ => none
  | .gateWake _ => none
  | .clockRestart _ => none
  | .powerGood _ _ _ _ _ => none
  | .unitRedo _ => none
  | .portEnable _ => none
  | .portDisable _ => none
  | .portTrained _ _ _ => none
  | .trainingTimeout _ => none
  | .lossOfSignal _ => none
  | .flitReplay _ _ _ => none
  | .peerResponse _ _ => none
  | .peerAccessTimeout _ => none
  | .collectivePost _ => none
  | .collectiveComplete _ _ => none
  | .collectiveTimeout _ _ => none
  | .uePacketReceive _ _ => none
  | .rmaWriteComplete _ => none
  | .buildRequest _ _ => none
  | .freeRequest _ => none
  | .loadRequest _ _ _ _ _ _ => none
  | .unloadRequest _ _ => none
  | .launchRequest _ _ _ _ _ => none
  | .parkRequest _ _ => none
  | .contextParked _ => none
  | .resumeRequest _ => none
  | .resetRequest _ => none
  | .fatalFault _ => none
  | .resetComplete _ => none
  | .tagHoldExpiry _ => none
  | .sealRequest _ _ _ _ _ _ => none
  | .unsealRequest _ _ _ _ _ _ _ => none
  | .queryRequest _ => none
  | .groupSetupRequest _ _ _ => none
  | .handoffSend _ => none
  | .handoffReceive _ _ _ => none
  | .tenantToken _ => none
  | .chainRelease _ => none
  | .powerLoss => none
  | .clampReconfiguration _ _ => none
  | .engineEpochAdvance _ => none
  | .quotaChange _ _ _ => none
  | .memoryKeyInstall _ _ _ => none
  | .sealingRootInstall _ _ _ => none
  | .railVote _ _ _ => none

/-- The G operands and v registers it names, in the order A, B, C, D (R78). -/
def namesOf : Instr → List Named
  | .nop => []
  | .br _ _ _ => []
  | .bri _ a _ => [.g a]
  | .call _ a _ _ => [.g a]
  | .ret _ a => [.g a]
  | .loop _ a _ _ => [.g a]
  | .addR _ d a b _ => [.g a, .g b, .g d]
  | .subR _ d a b _ => [.g a, .g b, .g d]
  | .mulR _ d a b _ => [.g a, .g b, .g d]
  | .mulhR _ d a b _ => [.g a, .g b, .g d]
  | .mulhnR _ d a b _ => [.g a, .g b, .g d]
  | .divR _ d a b _ => [.g a, .g b, .g d]
  | .divnR _ d a b _ => [.g a, .g b, .g d]
  | .remR _ d a b _ => [.g a, .g b, .g d]
  | .remnR _ d a b _ => [.g a, .g b, .g d]
  | .andR _ d a b _ => [.g a, .g b, .g d]
  | .orR _ d a b _ => [.g a, .g b, .g d]
  | .xorR _ d a b _ => [.g a, .g b, .g d]
  | .andnR _ d a b _ => [.g a, .g b, .g d]
  | .ornR _ d a b _ => [.g a, .g b, .g d]
  | .shlR _ d a b _ => [.g a, .g b, .g d]
  | .shrR _ d a b _ => [.g a, .g b, .g d]
  | .sarR _ d a b _ => [.g a, .g b, .g d]
  | .rolR _ d a b _ => [.g a, .g b, .g d]
  | .rorR _ d a b _ => [.g a, .g b, .g d]
  | .minR _ d a b _ => [.g a, .g b, .g d]
  | .maxR _ d a b _ => [.g a, .g b, .g d]
  | .minnR _ d a b _ => [.g a, .g b, .g d]
  | .maxnR _ d a b _ => [.g a, .g b, .g d]
  | .cmpR _ _ a b _ _ => [.g a, .g b]
  | .addI _ d a _ _ => [.g a, .g d]
  | .subI _ d a _ _ => [.g a, .g d]
  | .mulI _ d a _ _ => [.g a, .g d]
  | .mulhI _ d a _ _ => [.g a, .g d]
  | .mulhnI _ d a _ _ => [.g a, .g d]
  | .divI _ d a _ _ => [.g a, .g d]
  | .divnI _ d a _ _ => [.g a, .g d]
  | .remI _ d a _ _ => [.g a, .g d]
  | .remnI _ d a _ _ => [.g a, .g d]
  | .andI _ d a _ _ => [.g a, .g d]
  | .orI _ d a _ _ => [.g a, .g d]
  | .xorI _ d a _ _ => [.g a, .g d]
  | .andnI _ d a _ _ => [.g a, .g d]
  | .ornI _ d a _ _ => [.g a, .g d]
  | .shlI _ d a _ _ => [.g a, .g d]
  | .shrI _ d a _ _ => [.g a, .g d]
  | .sarI _ d a _ _ => [.g a, .g d]
  | .rolI _ d a _ _ => [.g a, .g d]
  | .rorI _ d a _ _ => [.g a, .g d]
  | .minI _ d a _ _ => [.g a, .g d]
  | .maxI _ d a _ _ => [.g a, .g d]
  | .minnI _ d a _ _ => [.g a, .g d]
  | .maxnI _ d a _ _ => [.g a, .g d]
  | .cmpI _ _ a _ _ _ => [.g a]
  | .clz _ d a _ => [.g a, .g d]
  | .ctz _ d a _ => [.g a, .g d]
  | .popc _ d a _ => [.g a, .g d]
  | .brev _ d a _ => [.g a, .g d]
  | .bext _ d a b _ _ => [.g a, .g b, .g d]
  | .bins _ d a b _ => [.g a, .g b, .g d]
  | .sext _ d a _ => [.g a, .g d]
  | .zext _ d a _ => [.g a, .g d]
  | .abs _ d a _ => [.g a, .g d]
  | .neg _ d a _ => [.g a, .g d]
  | .sel _ d a b _ => [.g a, .g b, .g d]
  | .mov _ d a => [namedGJK a, namedGJK d]
  | .movi _ d _ => [namedGJ d]
  | .gand _ _ _ _ => []
  | .gor _ _ _ _ => []
  | .gxor _ _ _ _ => []
  | .gnot _ _ _ => []
  | .padd _ d a b _ _ => [.g a, .g b, .g d]
  | .pdif _ d a b _ => [.g a, .g b, .g d]
  | .paln _ d a _ _ => [.g a, .g d]
  | .pblk _ d a b _ => [.g a, .g b, .g d]
  | .pchk _ _ a _ _ _ => [.g a]
  | .jset _ _ a _ => [.g a]
  | .jadd _ _ _ b _ => [.g b]
  | .fadd _ d a b _ _ => [.g a, .g b, .g d]
  | .fsub _ d a b _ _ => [.g a, .g b, .g d]
  | .fmul _ d a b _ _ => [.g a, .g b, .g d]
  | .ffma _ d a b c _ _ => [.g a, .g b, .g c, .g d]
  | .fdiv _ d a b _ _ => [.g a, .g b, .g d]
  | .fsqrt _ d a _ _ => [.g a, .g d]
  | .fmin _ d a b _ => [.g a, .g b, .g d]
  | .fmax _ d a b _ => [.g a, .g b, .g d]
  | .fcmp _ _ a b _ _ => [.g a, .g b]
  | .fcvt _ d a _ _ _ _ => [.g a, .g d]
  | .fclass _ d a _ => [.g a, .g d]
  | .fneg _ d a _ => [.g a, .g d]
  | .vadd _ d a b _ => [.v a, .v b, .v d]
  | .vsub _ d a b _ => [.v a, .v b, .v d]
  | .vmul _ d a b _ => [.v a, .v b, .v d]
  | .vfma _ d a b c _ => [.v a, .v b, .v c, .v d]
  | .vmin _ d a b _ => [.v a, .v b, .v d]
  | .vmax _ d a b _ => [.v a, .v b, .v d]
  | .vabs _ d a _ => [.v a, .v d]
  | .vneg _ d a _ => [.v a, .v d]
  | .vand _ d a b _ => [.v a, .v b, .v d]
  | .vor _ d a b _ => [.v a, .v b, .v d]
  | .vxor _ d a b _ => [.v a, .v b, .v d]
  | .vshl _ d a cnt _ => [.v a, shNamed cnt, .v d]
  | .vshr _ d a cnt _ => [.v a, shNamed cnt, .v d]
  | .vsar _ d a cnt _ => [.v a, shNamed cnt, .v d]
  | .vcmp _ d a b _ => [.v a, .v b, .v d]
  | .vsel _ d a b c => [.v a, .v b, .v c, .v d]
  | .vdot _ d a b _ => [.v a, .v b, .v d]
  | .vcvt _ d a _ _ _ _ _ => [.v a, .v d]
  | .vpack _ d a p => packNames d a p
  | .vunpk _ d a _ => [.v a, .v d]
  | .vsplat _ d a _ _ => [.g a, .v d]
  | .vext _ d a b _ _ => [.v a, .g b, .g d]
  | .vins _ d a b _ _ => [.g a, .g b, .v d]
  | .vperm _ d a b c _ => [.v a, .v b, .v c, .v d]
  | .vtbl _ d a b _ _ => [.v a, .v b, .v d]
  | .vred _ d a _ => [.v a, .g d]
  | .chain _ d a b c _ _ _ _ _ _ => [.g a, .g b, .v c, .g d]
  | .ld _ d a b _ _ _ _ _ => [.g a, .g b, .g d]
  | .ldp _ d a b _ _ _ _ _ => [.g a, .g b, .g d]
  | .st _ d a b _ _ _ _ => [.g a, .g b, .g d]
  | .stp _ d a b _ _ _ _ => [.g a, .g b, .g d]
  | .vld _ d a b _ _ _ => [.g a, .g b, .v d]
  | .vst _ d a b _ _ _ => [.g a, .g b, .v d]
  | .vldp _ d a b _ _ _ => [.g a, .g b, .v d]
  | .vstp _ d a b _ _ _ => [.g a, .g b, .v d]
  | .pref _ a b _ => [.g a, .g b]
  | .dep _ d a b _ _ _ _ => [.g a, .g b, .g d]
  | .mrd _ d a _ _ _ => [.g a, .g d]
  | .sense _ d a _ _ _ _ _ => [.g a, .g d]
  | .tickr _ d a _ => [.g a, .g d]
  | .tadv _ d a _ => [.g a, .g d]
  | .amo _ d a b _ _ _ _ => [.g a, .g b, .g d]
  | .cas _ d a b c _ _ _ _ => [.g a, .g b, .g c, .g d]
  | .red _ a b _ _ _ _ => [.g a, .g b]
  | .fence _ _ _ => []
  | .marm _ a _ _ _ _ => [.g a]
  | .waita _ d a _ => [.g a, .g d]
  | .mdis _ _ _ => []
  | .copy _ d a b mode _ _ _ _ _ _ _ => [.g a, .g b] ++ modeNames mode ++ [.g d]
  | .copyv _ d a b c _ _ _ _ _ _ _ => [.g a, .g b, .g c, .g d]
  | .cstage _ d a _ => [.g a, .g d]
  | .wmark _ d a b _ _ _ _ _ _ _ _ => [.g a, .g b, .g d]
  | .twait _ a _ => [.g a]
  | .tfind _ d a _ => [.g a, .g d]
  | .tclr _ a _ => [.g a]
  | .mdld _ d a b _ _ _ _ => [.g a, .g b, .g d]
  | .tdset _ a _ => [.v a]
  | .tdget _ d _ => [.v d]
  | .lset _ a _ _ _ => [.g a]
  | .mjob _ d a b c _ _ _ _ _ _ _ _ _ _ => [.g a, .g b, .g c, .g d]
  | .mjobr _ d a b c _ _ _ _ _ _ _ _ _ _ => [.g a, .g b, .g (.g ⟨c.val, by omega⟩), .g (.g ⟨c.val + 1, by omega⟩), .g d]
  | .mpoll _ d => [.g d]
  | .mwait _ d => [.g d]
  | .mclr _ _ => []
  | .mburst _ _ => []
  | .addw _ a _ => [namedGV a]
  | .rndw _ d _ => [.g d]
  | .clrw _ => []
  | .fork _ d a b _ _ => [.g a, .g b, .g d]
  | .join _ a => [.g a]
  | .spawnr _ d a b c _ _ _ => [.g a, .g b, .g c, .g d]
  | .rnext _ d => [.g d]
  | .steal _ d _ => [.g d]
  | .yield _ => []
  | .exit _ => []
  | .lvladdAdd _ d a b _ => [.g a, .g b, .g d]
  | .lvladdOpen _ d a b _ _ => [.g a, .g b, .g d]
  | .lvladdDrain _ d a b _ => [.g a, .g b, .g d]
  | .lvlwait _ d a => [.g a, .g d]
  | .cancel _ a => [.g a]
  | .clamp _ d a _ => [.g a, .g d]
  | .launch _ d a b c => [.g a, .g b, .g c, .g d]
  | .dqpush _ a b c _ => [.g a, .g b, .g c]
  | .dqpop _ d _ => [.v d]
  | .arradd _ d a b c _ => [.g a, .g b, .g c, .g d]
  | .arrget _ d a b c _ => [.g a, .g b, .g c, .g d]
  | .qwait _ a b => [.g a, .g b]
  | .trap _ _ => []
  | .rett _ => []
  | .crr _ d _ _ => [.g d]
  | .crw _ a _ _ => [.g a]
  | .tlbinv _ a b _ => [.g a, .g b]
  | .replay _ a => [.g a]
  | .seal _ d a b c => [.g a, .g b, .g c, .g d]
  | .unseal _ d a b c => [.g a, .g b, .g c, .g d]
  | .feat _ _ a _ => [.g a]
  | .handlerRecordPush _ _ => []
  | .waitaWake _ _ => []
  | .waitaTimeout _ _ => []
  | .twaitWake _ _ => []
  | .mwaitWake _ _ => []
  | .commandPlaceWake _ _ => []
  | .watermarkStallEnd _ _ => []
  | .lvlwaitWake _ _ => []
  | .dqpopWake _ _ => []
  | .qwaitWake _ _ => []
  | .tlbinvDone _ _ => []
  | .sealComplete _ _ _ _ => []
  | .unsealComplete _ _ _ _ _ => []
  | .homeSliceAccess _ _ _ => []
  | .redPerform _ _ _ => []
  | .loadReturn _ _ => []
  | .lineParityRefetch _ _ => []
  | .groupOpenDeferred _ _ => []
  | .pageWalkComplete _ _ _ => []
  | .retryWalk _ _ _ => []
  | .faultBufferClr _ => []
  | .faultBufferDropClear _ => []
  | .errorLogEntry _ _ _ => []
  | .engineSchedule _ _ => []
  | .copyStep _ _ => []
  | .copyComplete _ => []
  | .forwardReservation _ => []
  | .forwardReservationTimeout _ => []
  | .scheduleEntryStart _ => []
  | .matrixStep _ _ => []
  | .matrixJobComplete _ => []
  | .resultRecordEnter _ => []
  | .mjobrArrival _ _ => []
  | .remotePlaceGrant _ => []
  | .mburstTimeout _ => []
  | .rampDown _ => []
  | .budgetReserve _ => []
  | .commandAging _ _ _ => []
  | .slotFill _ => []
  | .recordAging _ _ => []
  | .implicitSteal _ => []
  | .stealRequestServe _ => []
  | .stealReply _ => []
  | .heldRecordPush _ _ => []
  | .cancelPropagate _ _ => []
  | .progressCheckReport _ _ => []
  | .deltaConsolidate _ _ => []
  | .bufferTimedDrain _ _ => []
  | .drainRingRoom _ _ => []
  | .stageBatchForm _ _ => []
  | .clampArrive _ _ => []
  | .clampWake _ _ => []
  | .tickAdvance _ _ => []
  | .fieldTimerTick _ _ => []
  | .fettlerNormalise _ _ _ => []
  | .fieldFreeze _ _ => []
  | .fieldThaw _ _ => []
  | .launchPlacement _ _ => []
  | .launchRetire _ _ => []
  | .lateCaptureReplay _ _ => []
  | .budgetDivision _ _ _ _ => []
  | .thermalReport _ => []
  | .capWrite _ => []
  | .snapshotTrigger => []
  | .snapshotLatch => []
  | .heartbeatWrite _ => []
  | .heartbeatMiss => []
  | .enjClear _ _ => []
  | .gateBegin _ => []
  | .gateWake _ => []
  | .clockRestart _ => []
  | .powerGood _ _ _ _ _ => []
  | .unitRedo _ => []
  | .portEnable _ => []
  | .portDisable _ => []
  | .portTrained _ _ _ => []
  | .trainingTimeout _ => []
  | .lossOfSignal _ => []
  | .flitReplay _ _ _ => []
  | .peerResponse _ _ => []
  | .peerAccessTimeout _ => []
  | .collectivePost _ => []
  | .collectiveComplete _ _ => []
  | .collectiveTimeout _ _ => []
  | .uePacketReceive _ _ => []
  | .rmaWriteComplete _ => []
  | .buildRequest _ _ => []
  | .freeRequest _ => []
  | .loadRequest _ _ _ _ _ _ => []
  | .unloadRequest _ _ => []
  | .launchRequest _ _ _ _ _ => []
  | .parkRequest _ _ => []
  | .contextParked _ => []
  | .resumeRequest _ => []
  | .resetRequest _ => []
  | .fatalFault _ => []
  | .resetComplete _ => []
  | .tagHoldExpiry _ => []
  | .sealRequest _ _ _ _ _ _ => []
  | .unsealRequest _ _ _ _ _ _ _ => []
  | .queryRequest _ => []
  | .groupSetupRequest _ _ _ => []
  | .handoffSend _ => []
  | .handoffReceive _ _ _ => []
  | .tenantToken _ => []
  | .chainRelease _ => []
  | .powerLoss => []
  | .clampReconfiguration _ _ => []
  | .engineEpochAdvance _ => []
  | .quotaChange _ _ _ => []
  | .memoryKeyInstall _ _ _ => []
  | .sealingRootInstall _ _ _ => []
  | .railVote _ _ _ => []

/-- The instructions that need the system privilege (R81 step 9, R202, R203, R205). -/
def privileged : Instr → Bool
  | .nop => false
  | .br _ _ _ => false
  | .bri _ _ _ => false
  | .call _ _ _ _ => false
  | .ret _ _ => false
  | .loop _ _ _ _ => false
  | .addR _ _ _ _ _ => false
  | .subR _ _ _ _ _ => false
  | .mulR _ _ _ _ _ => false
  | .mulhR _ _ _ _ _ => false
  | .mulhnR _ _ _ _ _ => false
  | .divR _ _ _ _ _ => false
  | .divnR _ _ _ _ _ => false
  | .remR _ _ _ _ _ => false
  | .remnR _ _ _ _ _ => false
  | .andR _ _ _ _ _ => false
  | .orR _ _ _ _ _ => false
  | .xorR _ _ _ _ _ => false
  | .andnR _ _ _ _ _ => false
  | .ornR _ _ _ _ _ => false
  | .shlR _ _ _ _ _ => false
  | .shrR _ _ _ _ _ => false
  | .sarR _ _ _ _ _ => false
  | .rolR _ _ _ _ _ => false
  | .rorR _ _ _ _ _ => false
  | .minR _ _ _ _ _ => false
  | .maxR _ _ _ _ _ => false
  | .minnR _ _ _ _ _ => false
  | .maxnR _ _ _ _ _ => false
  | .cmpR _ _ _ _ _ _ => false
  | .addI _ _ _ _ _ => false
  | .subI _ _ _ _ _ => false
  | .mulI _ _ _ _ _ => false
  | .mulhI _ _ _ _ _ => false
  | .mulhnI _ _ _ _ _ => false
  | .divI _ _ _ _ _ => false
  | .divnI _ _ _ _ _ => false
  | .remI _ _ _ _ _ => false
  | .remnI _ _ _ _ _ => false
  | .andI _ _ _ _ _ => false
  | .orI _ _ _ _ _ => false
  | .xorI _ _ _ _ _ => false
  | .andnI _ _ _ _ _ => false
  | .ornI _ _ _ _ _ => false
  | .shlI _ _ _ _ _ => false
  | .shrI _ _ _ _ _ => false
  | .sarI _ _ _ _ _ => false
  | .rolI _ _ _ _ _ => false
  | .rorI _ _ _ _ _ => false
  | .minI _ _ _ _ _ => false
  | .maxI _ _ _ _ _ => false
  | .minnI _ _ _ _ _ => false
  | .maxnI _ _ _ _ _ => false
  | .cmpI _ _ _ _ _ _ => false
  | .clz _ _ _ _ => false
  | .ctz _ _ _ _ => false
  | .popc _ _ _ _ => false
  | .brev _ _ _ _ => false
  | .bext _ _ _ _ _ _ => false
  | .bins _ _ _ _ _ => false
  | .sext _ _ _ _ => false
  | .zext _ _ _ _ => false
  | .abs _ _ _ _ => false
  | .neg _ _ _ _ => false
  | .sel _ _ _ _ _ => false
  | .mov _ _ _ => false
  | .movi _ _ _ => false
  | .gand _ _ _ _ => false
  | .gor _ _ _ _ => false
  | .gxor _ _ _ _ => false
  | .gnot _ _ _ => false
  | .padd _ _ _ _ _ _ => false
  | .pdif _ _ _ _ _ => false
  | .paln _ _ _ _ _ => false
  | .pblk _ _ _ _ _ => false
  | .pchk _ _ _ _ _ _ => false
  | .jset _ _ _ _ => false
  | .jadd _ _ _ _ _ => false
  | .fadd _ _ _ _ _ _ => false
  | .fsub _ _ _ _ _ _ => false
  | .fmul _ _ _ _ _ _ => false
  | .ffma _ _ _ _ _ _ _ => false
  | .fdiv _ _ _ _ _ _ => false
  | .fsqrt _ _ _ _ _ => false
  | .fmin _ _ _ _ _ => false
  | .fmax _ _ _ _ _ => false
  | .fcmp _ _ _ _ _ _ => false
  | .fcvt _ _ _ _ _ _ _ => false
  | .fclass _ _ _ _ => false
  | .fneg _ _ _ _ => false
  | .vadd _ _ _ _ _ => false
  | .vsub _ _ _ _ _ => false
  | .vmul _ _ _ _ _ => false
  | .vfma _ _ _ _ _ _ => false
  | .vmin _ _ _ _ _ => false
  | .vmax _ _ _ _ _ => false
  | .vabs _ _ _ _ => false
  | .vneg _ _ _ _ => false
  | .vand _ _ _ _ _ => false
  | .vor _ _ _ _ _ => false
  | .vxor _ _ _ _ _ => false
  | .vshl _ _ _ _ _ => false
  | .vshr _ _ _ _ _ => false
  | .vsar _ _ _ _ _ => false
  | .vcmp _ _ _ _ _ => false
  | .vsel _ _ _ _ _ => false
  | .vdot _ _ _ _ _ => false
  | .vcvt _ _ _ _ _ _ _ _ => false
  | .vpack _ _ _ _ => false
  | .vunpk _ _ _ _ => false
  | .vsplat _ _ _ _ _ => false
  | .vext _ _ _ _ _ _ => false
  | .vins _ _ _ _ _ _ => false
  | .vperm _ _ _ _ _ _ => false
  | .vtbl _ _ _ _ _ _ => false
  | .vred _ _ _ _ => false
  | .chain _ _ _ _ _ _ _ _ _ _ _ => false
  | .ld _ _ _ _ _ _ _ _ _ => false
  | .ldp _ _ _ _ _ _ _ _ _ => false
  | .st _ _ _ _ _ _ _ _ => false
  | .stp _ _ _ _ _ _ _ _ => false
  | .vld _ _ _ _ _ _ _ => false
  | .vst _ _ _ _ _ _ _ => false
  | .vldp _ _ _ _ _ _ _ => false
  | .vstp _ _ _ _ _ _ _ => false
  | .pref _ _ _ _ => false
  | .dep _ _ _ _ _ _ _ _ => false
  | .mrd _ _ _ _ _ _ => false
  | .sense _ _ _ _ _ _ _ _ => false
  | .tickr _ _ _ _ => false
  | .tadv _ _ _ _ => false
  | .amo _ _ _ _ _ _ _ _ => false
  | .cas _ _ _ _ _ _ _ _ _ => false
  | .red _ _ _ _ _ _ _ => false
  | .fence _ _ _ => false
  | .marm _ _ _ _ _ _ => false
  | .waita _ _ _ _ => false
  | .mdis _ _ _ => false
  | .copy _ _ _ _ _ _ _ _ _ _ _ _ => false
  | .copyv _ _ _ _ _ _ _ _ _ _ _ _ => false
  | .cstage _ _ _ _ => false
  | .wmark _ _ _ _ _ _ _ _ _ _ _ _ => false
  | .twait _ _ _ => false
  | .tfind _ _ _ _ => false
  | .tclr _ _ _ => false
  | .mdld _ _ _ _ _ _ _ _ => false
  | .tdset _ _ _ => false
  | .tdget _ _ _ => false
  | .lset _ _ _ _ _ => false
  | .mjob _ _ _ _ _ _ _ _ _ _ _ _ _ _ _ => false
  | .mjobr _ _ _ _ _ _ _ _ _ _ _ _ _ _ _ => false
  | .mpoll _ _ => false
  | .mwait _ _ => false
  | .mclr _ _ => false
  | .mburst _ _ => false
  | .addw _ _ _ => false
  | .rndw _ _ _ => false
  | .clrw _ => false
  | .fork _ _ _ _ _ _ => false
  | .join _ _ => false
  | .spawnr _ _ _ _ _ _ _ _ => false
  | .rnext _ _ => false
  | .steal _ _ _ => false
  | .yield _ => false
  | .exit _ => false
  | .lvladdAdd _ _ _ _ _ => false
  | .lvladdOpen _ _ _ _ _ _ => false
  | .lvladdDrain _ _ _ _ _ => false
  | .lvlwait _ _ _ => false
  | .cancel _ _ => false
  | .clamp _ _ _ _ => false
  | .launch _ _ _ _ _ => false
  | .dqpush _ _ _ _ _ => false
  | .dqpop _ _ _ => false
  | .arradd _ _ _ _ _ _ => false
  | .arrget _ _ _ _ _ _ => false
  | .qwait _ _ _ => false
  | .trap _ _ => false
  | .rett _ => false
  | .crr _ _ _ cr => cr == .privc
  | .crw _ _ _ cr => cr == .privc
  | .tlbinv _ _ _ _ => true
  | .replay _ _ => true
  | .seal _ _ _ _ _ => true
  | .unseal _ _ _ _ _ => true
  | .feat _ _ _ _ => false
  | .handlerRecordPush _ _ => false
  | .waitaWake _ _ => false
  | .waitaTimeout _ _ => false
  | .twaitWake _ _ => false
  | .mwaitWake _ _ => false
  | .commandPlaceWake _ _ => false
  | .watermarkStallEnd _ _ => false
  | .lvlwaitWake _ _ => false
  | .dqpopWake _ _ => false
  | .qwaitWake _ _ => false
  | .tlbinvDone _ _ => false
  | .sealComplete _ _ _ _ => false
  | .unsealComplete _ _ _ _ _ => false
  | .homeSliceAccess _ _ _ => false
  | .redPerform _ _ _ => false
  | .loadReturn _ _ => false
  | .lineParityRefetch _ _ => false
  | .groupOpenDeferred _ _ => false
  | .pageWalkComplete _ _ _ => false
  | .retryWalk _ _ _ => false
  | .faultBufferClr _ => false
  | .faultBufferDropClear _ => false
  | .errorLogEntry _ _ _ => false
  | .engineSchedule _ _ => false
  | .copyStep _ _ => false
  | .copyComplete _ => false
  | .forwardReservation _ => false
  | .forwardReservationTimeout _ => false
  | .scheduleEntryStart _ => false
  | .matrixStep _ _ => false
  | .matrixJobComplete _ => false
  | .resultRecordEnter _ => false
  | .mjobrArrival _ _ => false
  | .remotePlaceGrant _ => false
  | .mburstTimeout _ => false
  | .rampDown _ => false
  | .budgetReserve _ => false
  | .commandAging _ _ _ => false
  | .slotFill _ => false
  | .recordAging _ _ => false
  | .implicitSteal _ => false
  | .stealRequestServe _ => false
  | .stealReply _ => false
  | .heldRecordPush _ _ => false
  | .cancelPropagate _ _ => false
  | .progressCheckReport _ _ => false
  | .deltaConsolidate _ _ => false
  | .bufferTimedDrain _ _ => false
  | .drainRingRoom _ _ => false
  | .stageBatchForm _ _ => false
  | .clampArrive _ _ => false
  | .clampWake _ _ => false
  | .tickAdvance _ _ => false
  | .fieldTimerTick _ _ => false
  | .fettlerNormalise _ _ _ => false
  | .fieldFreeze _ _ => false
  | .fieldThaw _ _ => false
  | .launchPlacement _ _ => false
  | .launchRetire _ _ => false
  | .lateCaptureReplay _ _ => false
  | .budgetDivision _ _ _ _ => false
  | .thermalReport _ => false
  | .capWrite _ => false
  | .snapshotTrigger => false
  | .snapshotLatch => false
  | .heartbeatWrite _ => false
  | .heartbeatMiss => false
  | .enjClear _ _ => false
  | .gateBegin _ => false
  | .gateWake _ => false
  | .clockRestart _ => false
  | .powerGood _ _ _ _ _ => false
  | .unitRedo _ => false
  | .portEnable _ => false
  | .portDisable _ => false
  | .portTrained _ _ _ => false
  | .trainingTimeout _ => false
  | .lossOfSignal _ => false
  | .flitReplay _ _ _ => false
  | .peerResponse _ _ => false
  | .peerAccessTimeout _ => false
  | .collectivePost _ => false
  | .collectiveComplete _ _ => false
  | .collectiveTimeout _ _ => false
  | .uePacketReceive _ _ => false
  | .rmaWriteComplete _ => false
  | .buildRequest _ _ => false
  | .freeRequest _ => false
  | .loadRequest _ _ _ _ _ _ => false
  | .unloadRequest _ _ => false
  | .launchRequest _ _ _ _ _ => false
  | .parkRequest _ _ => false
  | .contextParked _ => false
  | .resumeRequest _ => false
  | .resetRequest _ => false
  | .fatalFault _ => false
  | .resetComplete _ => false
  | .tagHoldExpiry _ => false
  | .sealRequest _ _ _ _ _ _ => false
  | .unsealRequest _ _ _ _ _ _ _ => false
  | .queryRequest _ => false
  | .groupSetupRequest _ _ _ => false
  | .handoffSend _ => false
  | .handoffReceive _ _ _ => false
  | .tenantToken _ => false
  | .chainRelease _ => false
  | .powerLoss => false
  | .clampReconfiguration _ _ => false
  | .engineEpochAdvance _ => false
  | .quotaChange _ _ _ => false
  | .memoryKeyInstall _ _ _ => false
  | .sealingRootInstall _ _ _ => false
  | .railVote _ _ _ => false

/-! ### Numbers -/

/-- The rational number that a finite value is; the others have none, and read as 0. -/
def FV.rat : FV → ℚ
  | .fin s m e => (if s then -1 else 1) * (m : ℚ) * 2 ^ e
  | _ => 0

/-! ### What holds of every state that matters -/

/-- Every memory of the package is in its canonical form: global memory, the pools and side memories, the B stores, and those
an ingot holds. -/
def memoriesCanonical (s : State) : Bool :=
  s.mem.wf && (s.cores.all fun e => e.2.pool.wf && e.2.side.wf) && (s.clusters.all fun e => e.2.bstore.wf)
    && s.ingots.all fun e => e.2.cores.all fun k => k.pool.wf && k.side.wf

end Sys2Proof.Machine
end

