-- ==== Sys2Proof/Certificates/Slice0/Obligations.lean ====
section
/-! DEFINITION. The statements made about this machine, for the provers: encodings, the step and its frame, and what each
instruction and each step of the device does when it runs. -/

open Sys2Proof Sys2Proof.Machine

/-! ### Encodings -/

/-- Slots printed in the spec decode to the instructions they are printed for (04 R83, 05 R97 to R103, 06 R121, R125,
07 R135, R139, R152, 08 R168, R177, 09 R188, R204, 26). -/
def Obligations.PrintedSlotsDecode : Prop :=
  decodeSlot 0x100028308000000000000000 = .ok (.addR ⟨false, 0⟩ (.g 5) (.g 3) (.g 4) .i64) ∧
  decodeSlot 0x182838700000003FFFFFFFFF = .ok (.addI ⟨true, 2⟩ (.g 7) (.g 7) .i64 (-1)) ∧
  decodeSlot 0x230010091A2B3C4D5E6F7800 = .ok (.movi ⟨false, 0⟩ (.g (.g 2)) 0x0123456789ABCDEF) ∧
  decodeSlot 0x004C0000000007FFFFFFFFEA = .ok (.br ⟨false, 3⟩ (-3) 2) ∧
  decodeSlot 0x50C01840A180014000000000 = .ok (.ffma ⟨false, 0⟩ (.g 3) (.g 4) (.g 5) (.g 6) .bf16 .rtz) ∧
  decodeSlot 0x68422C60000600C000000000 = .ok (.vcvt ⟨false, 0⟩ 5 6 .e4m3 .f32 .rne true 1) ∧
  decodeSlot 0x800028308000114000000010 = .ok (.ld ⟨false, 0⟩ (.g 5) (.g 3) (.g 4) 5 true .rlx .pa 16) ∧
  decodeSlot 0xB0003071000CC14000000000 =
    .ok (.amo ⟨false, 0⟩ (.g 6) (.g 7) (.g 8) (.int .n32 .add) .ar .pk 0) ∧
  decodeSlot 0xA08050B00000208000000000 = .ok (.sense ⟨false, 0⟩ (.g 10) (.g 11) .box3 true .rlx .pa 0) ∧
  decodeSlot 0xE0006041A000000000000000 = .ok (.fork ⟨false, 0⟩ (.g 12) (.g 4) (.g 13) .same 0) ∧
  decodeSlot 0xF88038000000000000000009 = .ok (.crr ⟨false, 0⟩ (.g 7) false .cause)

/-- Decoding what was encoded gives the instruction back, for every well-formed instruction, with every operand at every
value its encoding admits (04 R70 to R85). -/
def Obligations.DecodeOfEncode : Prop :=
  ∀ i : Instr, i.wf = true → i.raw ≠ none → decodeSlot (encode i) = .ok i

/-- A slot whose OP is not assigned, or whose OP is 0 with another bit set, is refused with the code of step 2 of R81, and one
whose GD is 0b1000 with that of step 3; a slot that decodes to no instruction traps with the code of the check that fails,
and with its 96 bits in TVAL (04 R81). -/
def Obligations.IllegalSlotsTrap : Prop :=
  ((∀ n, mBits n 86 10 ≠ 0 → rowOf (mBits n 86 10) = none → decodeSlot n = .bad 0x001) ∧
   (∀ n, mBits n 86 10 = 0 → mBits n 0 86 ≠ 0 → decodeSlot n = .bad 0x008) ∧
   (∀ n, rowOf (mBits n 86 10) ≠ none → mBits n 82 4 = 8 → decodeSlot n = .bad 0x002)) ∧
  (∀ (s : State) (c l line code : Nat),
     let t := getStrand s c l
     lineFault line = none → isSlotPos t.pc.toNat = true → t.tgtPending = false →
     (slotSide (lineSlot line (slotIndex t.pc.toNat)) = .vector → simdTaken s c t.sid = false) →
     decodeSlot (lineSlot line (slotIndex t.pc.toNat)) = .bad code → trapEnters t code = true →
     runSlot line c l s = .next (putStrand s c l
       { t with epc := t.pc, cause := BitVec.ofNat 10 code,
                tval := BitVec.ofNat 128 (lineSlot line (slotIndex t.pc.toNat)), intrap := true, pc := t.tvec,
                status := .ready, mon := Vector.replicate 4 .disarmed }))

/-! ### The step -/

/-- When the next choice is a cycle of a core whose clock runs, whose fetch duty enables fetch, and whose chosen strand
stands at a slot of a cached, legal line that decodes to i, the step is i itself, on the state in which the cycle and the
issue have been counted, and strands that are held up are ready from the next cycle (04 R61 to R69; 14 R267; 22 R345). That a cycle
issues one slot, chosen anew, where R68 issues a group, is log 16 (DEDUCED); that which core's cycle comes next is a choice of the
agenda or a free value is log 2. -/
def Obligations.StepRunsDecodedSlot : Prop :=
  ∀ (s : State) (c : Nat) (flies err : Bool) (rest : List Choice) (l line : Nat) (i : Instr),
    let k := getCore s c
    let duty := if k.cycles % 16 = 0 then k.fduty else k.fdutyNow
    let s1 := deferHeldUp (putCore s c { k with cycles := k.cycles + 1, fdutyNow := duty }) c k.cycles
    let t := getStrand s1 c l
    s.supply = true → s.agenda = .cycle c flies err :: rest →
    k.clockPaused = false → k.parked = false → (isMgmt c || !isGated s (.cluster (clusterOf c))) = true →
    fetchEnabled k.cycles duty = true → chooseSlot s1 c k.cycles = some l → t.redFault = none →
    nget? k.icache (lineBase t.pc.toNat) = some line → lineFault line = none → isSlotPos t.pc.toNat = true →
    (t.tgtPending = true → lineTgt line (slotIndex t.pc.toNat) = true) →
    decodeSlot (lineSlot line (slotIndex t.pc.toNat)) = .ok i →
    step s = exec i
      { putStrand s1 c l
          { t with readySince := k.cycles + 1, issued := true, eligible := 0, reported := false, tgtPending := false } with
        agenda := rest, draw := s.draw + 1, cur := ⟨c, l, flies, err⟩ }

/-- Without supply nothing runs but what restores it (22 R354; 23 R356). The fault's name is the model's own. -/
def Obligations.NoSupplyNoStep : Prop :=
  ∀ (s : State) (x : Choice) (rest : List Choice), s.supply = false → s.agenda = x :: rest →
    (∀ image backup units mgmt root, x ≠ .event (.powerGood image backup units mgmt root)) → step s = .fault .supplyOff

/-- After reset the registers that 09 R204 gives a reset value of 0 read 0, on every core and in every slot, and FDUTY
reads 16. -/
def Obligations.ResetRegisters : Prop :=
  ∀ (c l : Nat),
    (∀ r ∈ [Cr.cause, .epc, .tval, .tags, .vfail, .xbwait, .acnt, .privc], crBits State.reset c l r = 0) ∧
    (∀ n, crBits State.reset c l (.wch n) = 0) ∧ (∀ n, crBits State.reset c l (.th n) = 0) ∧
    (isMgmt c = false → crBits State.reset c l .status = 0) ∧ crBits State.reset c l .fduty = 16

/-- Every memory is in canonical form after reset (the model's own form of memory). -/
def Obligations.ResetMemoriesCanonical : Prop := memoriesCanonical State.reset = true

/-! ### The frame of every instruction -/

/-- Before its effect an instruction is checked: one that needs the system privilege traps with 0x03A on a compute core; a
direct name beyond the allocation traps with 0x041 or 0x042 whatever the guard; one whose guard does not hold only moves the
pc; a relative index outside the allocation traps with 0x040 when the guard holds (04 R78, R80, R81; 09 R204). -/
def Obligations.IssueChecks : Prop :=
  (∀ (i : Instr) (s : State), isMgmt s.cur.core = false →
     (match i with
       | .seal .. | .unseal .. | .tlbinv .. | .replay .. | .crr _ _ _ .privc | .crw _ _ _ .privc => True
       | _ => False) →
     exec i s = .next (trapped s 0x03A (encode i))) ∧
  (∀ (i : Instr) (gd : Guard) (s : State) (before after : List Named),
     guardOf i = some gd → (privileged i = true → isMgmt s.cur.core = true) → Allocated s before →
     (∀ n, namesOf i = before ++ .g (.g n) :: after → (turnCore s).gcount ≤ n.val → exec i s = .next (trapped s 0x041 n.val)) ∧
     (∀ n, namesOf i = before ++ .v n :: after → (turnCore s).vcount ≤ n.val → exec i s = .next (trapped s 0x042 n.val))) ∧
  (∀ (i : Instr) (gd : Guard) (s : State), guardOf i = some gd → (privileged i = true → isMgmt s.cur.core = true) →
     Allocated s (namesOf i) → (rdK (turn s) gd.k != gd.neg) = false →
     exec i s = .next (withTurn s { turn s with pc := nextPc (turn s).pc, status := .ready })) ∧
  (∀ (i : Instr) (gd : Guard) (s : State) (before after : List Named) (j : Fin 8),
     guardOf i = some gd → (privileged i = true → isMgmt s.cur.core = true) → Allocated s (namesOf i) →
     guardHolds (turn s) gd = true → Indexed s before → namesOf i = before ++ .g (.rel j) :: after →
     ((rdJ (turn s) j).toInt < 0 ∨ ((turnCore s).gcount : Int) ≤ (rdJ (turn s) j).toInt) →
     exec i s = .next (trapped s 0x040 ((rdJ (turn s) j).signExtend 64).toNat))

/-- A trap outside a handler, with a handler entry that is a slot position, saves the pc, the cause and the value, sets
INTRAP, disarms the monitors and goes to the handler, and changes nothing else, but that an owed TGT check is dropped (log 81, a
DESIGN CHOICE); one that cannot enter a handler retires the strand, and its slot is empty afterwards, or it sleeps first until peers have
answered its REDs (07 R141; 09 R194, R206). -/
def Obligations.TakingATrap : Prop :=
  (∀ (s : State) (c l code tval : Nat), (getStrand s c l).intrap = false → (getStrand s c l).tvec ≠ 0 →
     isSlotPos (getStrand s c l).tvec.toNat = true → code ≠ 0x3C2 →
     takeTrap s c l code tval = putStrand s c l
       { getStrand s c l with
         epc := (getStrand s c l).pc, cause := BitVec.ofNat 10 code, tval := BitVec.ofNat 128 tval, intrap := true,
         mon := Vector.replicate 4 .disarmed, pc := (getStrand s c l).tvec, status := .ready, tgtPending := false }) ∧
  (∀ (s : State) (c l code tval : Nat), (getStrand s c l).live = true →
     ((getStrand s c l).intrap = true ∨ (getStrand s c l).tvec = 0 ∨ isSlotPos (getStrand s c l).tvec.toNat = false ∨
       code = 0x3C2) →
     (redsAtPeer s (getStrand s c l).sid (fun _ => true) = false → (getStrand (takeTrap s c l code tval) c l).live = false) ∧
     (redsAtPeer s (getStrand s c l).sid (fun _ => true) = true →
       ∃ cause, takeTrap s c l code tval =
         putStrand s c l { getStrand s c l with status := .asleep (.retire (some cause)) } ∧
       cause = if (getStrand s c l).intrap then (0x3C1, openTval s) else (code, tval)))

/-- TRAP raises 0x3E0 + X, and the strand is in its handler afterwards with the pc of the TRAP in EPC; RETT clears INTRAP and
goes on at EPC, changing nothing else; outside a handler it raises 0x3C2, and with an EPC that is no slot position 0x038
(09 R206 to R208). -/
def Obligations.TrapAndReturn : Prop :=
  (∀ (gd : Guard) (x : BitVec 38) (s : State), Runs s gd [] → x.toNat < 32 → (turn s).intrap = false →
     (turn s).tvec ≠ 0 → isSlotPos (turn s).tvec.toNat = true →
     exec (.trap gd x) s = .next (withTurn s
       { turn s with
         epc := (turn s).pc, cause := BitVec.ofNat 10 (0x3E0 + x.toNat), tval := 0, intrap := true,
         mon := Vector.replicate 4 .disarmed, pc := (turn s).tvec, status := .ready, tgtPending := false })) ∧
  (∀ (gd : Guard) (s : State), Runs s gd [] →
     ((turn s).intrap = true → isSlotPos (turn s).epc.toNat = true →
       exec (.rett gd) s = .next (withTurn s { turn s with intrap := false, pc := (turn s).epc, status := .ready })) ∧
     ((turn s).intrap = true → isSlotPos (turn s).epc.toNat = false →
       exec (.rett gd) s = .next (trapped s 0x038 (turn s).epc.toNat)) ∧
     ((turn s).intrap = false → ∃ v, exec (.rett gd) s = .next (trapped s 0x3C2 v)))

/-! ### Integer, bit and pointer instructions -/

/-- The 23 operations ADD to MAXN, in both forms: D receives Extend(r mod 2^w, w, t) with r as R89 gives it from the low w bits
of the operands, read as t says; the immediate form takes X for b. CMP writes its condition to the K register, and nothing
else; a write of k0 has no effect (05 R88 to R90). -/
def Obligations.IntegerOperations : Prop :=
  (∀ op ∈ ([
       (.addR, .addI, fun _ ia ib _ _ => ia + ib),
       (.subR, .subI, fun _ ia ib _ _ => ia - ib),
       (.mulR, .mulI, fun _ ia ib _ _ => ia * ib),
       (.mulhR, .mulhI, fun w _ _ sa sb => (sa * sb).fdiv (2 ^ w)),
       (.mulhnR, .mulhnI, fun w ia ib _ _ => (ia * ib).fdiv (2 ^ w)),
       (.divR, .divI, fun w _ ib sa sb => if ib = 0 then 2 ^ w - 1 else sa.tdiv sb),
       (.divnR, .divnI, fun w ia ib _ _ => if ib = 0 then 2 ^ w - 1 else ia.fdiv ib),
       (.remR, .remI, fun _ ia ib sa sb => if ib = 0 then ia else sa - sa.tdiv sb * sb),
       (.remnR, .remnI, fun _ ia ib _ _ => if ib = 0 then ia else ia - ia.fdiv ib * ib),
       (.andR, .andI, fun _ ia ib _ _ => (ia.toNat &&& ib.toNat : Nat)),
       (.orR, .orI, fun _ ia ib _ _ => (ia.toNat ||| ib.toNat : Nat)),
       (.xorR, .xorI, fun _ ia ib _ _ => (ia.toNat ^^^ ib.toNat : Nat)),
       (.andnR, .andnI, fun w ia ib _ _ => (ia.toNat &&& (2 ^ w - 1 - ib.toNat) : Nat)),
       (.ornR, .ornI, fun w ia ib _ _ => (ia.toNat ||| (2 ^ w - 1 - ib.toNat) : Nat)),
       (.shlR, .shlI, fun w ia ib _ _ => ia * 2 ^ (ib.toNat % w)),
       (.shrR, .shrI, fun w ia ib _ _ => ia.fdiv (2 ^ (ib.toNat % w))),
       (.sarR, .sarI, fun w _ ib sa _ => sa.fdiv (2 ^ (ib.toNat % w))),
       (.rolR, .rolI, fun w ia ib _ _ => (ia * 2 ^ (ib.toNat % w) + ia.fdiv (2 ^ (w - ib.toNat % w))) % 2 ^ w),
       (.rorR, .rorI, fun w ia ib _ _ => (ia.fdiv (2 ^ (ib.toNat % w)) + ia * 2 ^ (w - ib.toNat % w)) % 2 ^ w),
       (.minR, .minI, fun _ _ _ sa sb => min sa sb),
       (.maxR, .maxI, fun _ _ _ sa sb => max sa sb),
       (.minnR, .minnI, fun _ ia ib _ _ => min ia ib),
       (.maxnR, .maxnI, fun _ ia ib _ _ => max ia ib)] :
       List ((Guard → GOp → GOp → GOp → IType → Instr) × (Guard → GOp → GOp → IType → BitVec 38 → Instr) ×
         (Nat → Int → Int → Int → Int → Int))),
     ∀ (gd : Guard) (d a b : GOp) (t : IType) (x : BitVec 38) (s : State),
       let w := t.width
       let st := turn s
       let result (p q : Nat) : Int :=
         op.2.2 w ((p % 2 ^ w : Nat) : Int) ((q % 2 ^ w : Nat) : Int) (signedOf w p) (signedOf w q)
       (Runs s gd [.g a, .g b, .g d] → exec (op.1 gd d a b t) s =
         .next (withTurn s (advanced (setG st st d (extendTyped t (result (gVal st a) (gVal st b))))))) ∧
       (Runs s gd [.g a, .g d] → exec (op.2.1 gd d a t x) s =
         .next (withTurn s (advanced (setG st st d (extendTyped t (result (gVal st a) (x.signExtend 64).toNat))))))) ∧
  (∀ (gd : Guard) (d : Fin 8) (a b : GOp) (t : IType) (cc : Cc) (x : BitVec 38) (s : State),
     let st := turn s
     let holds (p q : Nat) : Bool :=
       let ia := p % 2 ^ t.width
       let ib := q % 2 ^ t.width
       let less (m n : Nat) : Bool :=
         if t ∈ [IType.i64, .i32, .i16, .i8] then decide (signedOf t.width m < signedOf t.width n) else decide (m < n)
       match cc with
       | .eq => ia = ib
       | .ne => ia ≠ ib
       | .lt => less ia ib
       | .ge => !less ia ib
       | .le => !less ib ia
       | .gt => less ib ia
       | .tst => ia &&& ib ≠ 0
       | .ntst => ia &&& ib = 0
     let written (p q : Nat) : Strand :=
       if d = 0 then st else { st with k := st.k.set d (holds p q) }
     (Runs s gd [.g a, .g b] →
       exec (.cmpR gd d a b t cc) s = .next (withTurn s (advanced (written (gVal st a) (gVal st b))))) ∧
     (Runs s gd [.g a] →
       exec (.cmpI gd d a t cc x) s = .next (withTurn s (advanced (written (gVal st a) (x.signExtend 64).toNat)))))

/-- CLZ, CTZ, POPC, BREV, ABS and NEG on the w bits that t= names; BEXT and BINS on the field that their control word
(b + X) mod 2^64 names; SEXT and ZEXT on the low X bits (05 R91 to R93). -/
def Obligations.BitOperations : Prop :=
  (∀ op ∈ ([
       (.clz, fun w ia => (w - Nat.size ia : Nat)),
       (.ctz, fun w ia => (((List.range w).takeWhile fun i => !ia.testBit i).length : Nat)),
       (.popc, fun w ia => ((List.range w).countP fun i => ia.testBit i : Nat)),
       (.brev, fun w ia => (((List.range w).map fun i => if ia.testBit i then 2 ^ (w - 1 - i) else 0).sum : Nat)),
       (.abs, fun w ia => ((signedOf w ia).natAbs : Nat)),
       (.neg, fun _ ia => -(ia : Int))] :
       List ((Guard → GOp → GOp → IType → Instr) × (Nat → Nat → Int))),
     ∀ (gd : Guard) (d a : GOp) (t : IType) (s : State), Runs s gd [.g a, .g d] →
       exec (op.1 gd d a t) s = .next (withTurn s (advanced (setG (turn s) (turn s) d
         (extendTyped t (op.2 t.width (gVal (turn s) a % 2 ^ t.width))))))) ∧
  (∀ (gd : Guard) (d a b : GOp) (sx : Bool) (x : BitVec 38) (s : State),
     let st := turn s
     let c : BitVec 64 := BitVec.ofNat 64 (gVal st b) + x.signExtend 64
     let pos := (c.extractLsb' 0 6).toNat
     let len := (c.extractLsb' 8 6).toNat + 1
     let field := gVal st a / 2 ^ pos % 2 ^ len
     let mask : Nat := (2 ^ len - 1) * 2 ^ pos % 2 ^ 64
     (Runs s gd [.g a, .g b, .g d] →
       exec (.bext gd d a b sx x) s = .next (withTurn s (advanced (setG st st d
         (if sx ∧ 2 ^ (len - 1) ≤ field then field + (2 ^ 64 - 2 ^ len) else field)))) ∧
       exec (.bins gd d a b x) s = .next (withTurn s (advanced (setG st st d
         ((gVal st d &&& (2 ^ 64 - 1 - mask)) ||| (gVal st a * 2 ^ pos &&& mask)))))) ∧
     (Runs s gd [.g a, .g d] → 1 ≤ x.toNat → x.toNat ≤ 64 →
       let low := gVal st a % 2 ^ x.toNat
       exec (.zext gd d a x) s = .next (withTurn s (advanced (setG st st d low))) ∧
       exec (.sext gd d a x) s = .next (withTurn s (advanced (setG st st d
         (if 2 ^ (x.toNat - 1) ≤ low then low + (2 ^ 64 - 2 ^ x.toNat) else low))))))

/-- SEL writes one of its operands; MOV moves between the kinds, and MOVI writes an immediate; GAND, GOR, GXOR and GNOT act on K
registers; writing g0 or k0 has no effect but the pc's, and k0 reads as 1. NOP has no effect but the pc's (04 R62, R77), and
PREF is a hint without effect (05 R94 to R96; 07 R137). -/
def Obligations.DataMoves : Prop :=
  (∀ (gd : Guard) (d a b : GOp) (c : Fin 8) (s : State), Runs s gd [.g a, .g b, .g d] →
     (rdK (turn s) c = true → exec (.sel gd d a b c) s =
       .next (withTurn s (advanced (wrG (turn s) (gReg (turn s) d) (rdG (turn s) (gReg (turn s) a)))))) ∧
     (rdK (turn s) c = false → exec (.sel gd d a b c) s =
       .next (withTurn s (advanced (wrG (turn s) (gReg (turn s) d) (rdG (turn s) (gReg (turn s) b))))))) ∧
  (∀ (gd : Guard) (s : State) (o p : GOp) (j : Fin 8) (n : Fin 8) (m : Fin 8) (imm : BitVec 64),
     let st := turn s
     let val := BitVec.ofNat 64 (gVal st o)
     (Runs s gd [.g o, .g p] → exec (.mov gd (.g p) (.g o)) s = .next (withTurn s (advanced (wrG st (gReg st p) val)))) ∧
     (Runs s gd [.no, .g p] →
       exec (.mov gd (.g p) (.j j)) s =
         .next (withTurn s (advanced (wrG st (gReg st p) ((rdJ st j).signExtend 64)))) ∧
       exec (.mov gd (.g p) (.k n)) s =
         .next (withTurn s (advanced (wrG st (gReg st p) (if rdK st n then 1 else 0))))) ∧
     (Runs s gd [.g o, .no] →
       exec (.mov gd (.j j) (.g o)) s = .next (withTurn s (advanced (wrJ st j (val.truncate 16)))) ∧
       exec (.mov gd (.k n) (.g o)) s = .next (withTurn s (advanced (wrK st n (val != 0))))) ∧
     (Runs s gd [.no, .no] →
       exec (.mov gd (.j j) (.j m)) s = .next (withTurn s (advanced (wrJ st j (rdJ st m)))) ∧
       exec (.mov gd (.j j) (.k n)) s = .next (withTurn s (advanced (wrJ st j (if rdK st n then 1 else 0)))) ∧
       exec (.mov gd (.k n) (.j m)) s = .next (withTurn s (advanced (wrK st n (rdJ st m != 0)))) ∧
       exec (.mov gd (.k n) (.k m)) s = .next (withTurn s (advanced (wrK st n (rdK st m))))) ∧
     (Runs s gd [.g p] → exec (.movi gd (.g p) imm) s = .next (withTurn s (advanced (wrG st (gReg st p) imm)))) ∧
     (Runs s gd [.no] → exec (.movi gd (.j j) imm) s = .next (withTurn s (advanced (wrJ st j (imm.truncate 16))))) ∧
     (Runs s gd [.g (.g 0)] → exec (.movi gd (.g (.g 0)) imm) s = .next (withTurn s (advanced st)))) ∧
  (∀ (gd : Guard) (d a b : Fin 8) (p q : GOp) (x : BitVec 38) (s : State),
     let st := turn s
     let ka := if a = 0 then true else st.k[a]
     let kb := if b = 0 then true else st.k[b]
     let written (v : Bool) : Strand := advanced (if d = 0 then st else { st with k := st.k.set d v })
     (Runs s gd [] →
       exec (.gand gd d a b) s = .next (withTurn s (written (ka && kb))) ∧
       exec (.gor gd d a b) s = .next (withTurn s (written (ka || kb))) ∧
       exec (.gxor gd d a b) s = .next (withTurn s (written (xor ka kb))) ∧
       exec (.gnot gd d a) s = .next (withTurn s (written (!ka)))) ∧
     exec .nop s = .next (withTurn s (advanced st)) ∧
     (Runs s gd [.g p, .g q] → exec (.pref gd p q x) s = .next (withTurn s (advanced st))))

/-- PADD, PALN and PBLK write the addresses of R97, and PDIF the difference in elements, or traps with 0x180 and the
difference in TVAL when it is no whole number of elements (05 R97). PCHK writes whether the class of the access is at most
cls, where class A0 is an aligned power of two up to 512 bits, A1 lies in one 64-bit word, A2 in one line, and A3 is any
other (03 R51; 05 R98). JSET and JADD write an index register modulo 2^16, without a check against the allocation (05
R99). -/
def Obligations.PointersAndIndices : Prop :=
  (∀ (gd : Guard) (d a b : GOp) (w : BitVec 10) (x : BitVec 38) (up : Bool) (fmt : BqFmt) (s : State),
     let st := turn s
     let va : BitVec 64 := BitVec.ofNat 64 (gVal st a)
     let vb : BitVec 64 := BitVec.ofNat 64 (gVal st b)
     let diff : Int := (va - vb).toInt
     let wr (r : BitVec 64) : State := withTurn s (advanced (wrG st (gReg st d) r))
     let bq : Int × Int := match fmt with | .bq3 => (72, 3) | .bq5 => (104, 5) | .bq8 => (152, 8)
     w ≠ 0 →
     (Runs s gd [.g a, .g b, .g d] →
       exec (.padd gd d a b w x) s = .next (wr (va + vb * w.zeroExtend 64 + x.signExtend 64)) ∧
       (diff % (w.toNat : Int) = 0 → exec (.pdif gd d a b w) s = .next (wr (BitVec.ofInt 64 (diff / w.toNat)))) ∧
       (diff % (w.toNat : Int) ≠ 0 → exec (.pdif gd d a b w) s = .next (trapped s 0x180 (va - vb).toNat)) ∧
       exec (.pblk gd d a b fmt) s =
         .next (wr (va + BitVec.ofInt 64 (vb.toInt.fdiv 16 * bq.1 + 24 + vb.toInt % 16 * bq.2)))) ∧
     (Runs s gd [.g a, .g d] →
       exec (.paln gd d a w up) s = .next (wr (BitVec.ofNat 64
         (if up then va.toNat + (w.toNat - va.toNat % w.toNat) % w.toNat else va.toNat - va.toNat % w.toNat))))) ∧
  (∀ (gd : Guard) (d a' : Fin 8) (a b : GOp) (w : BitVec 10) (cls : BitVec 2) (x : BitVec 38) (s : State),
     let st := turn s
     let ea := (BitVec.ofNat 64 (gVal st a) + x.signExtend 64).toNat
     let n := w.toNat
     let cl := if (∃ k ≤ 9, n = 2 ^ k) ∧ ea % n = 0 then 0
       else if ea / 64 = (ea + n - 1) / 64 then 1 else if ea / 512 = (ea + n - 1) / 512 then 2 else 3
     (Runs s gd [.g a] → w ≠ 0 →
       exec (.pchk gd d a w cls x) s = .next (withTurn s (advanced (wrK st d (decide (cl ≤ cls.toNat)))))) ∧
     (Runs s gd [.g a] → exec (.jset gd d a x) s = .next (withTurn s (advanced
       (wrJ st d (BitVec.truncate 16 (BitVec.ofNat 64 (gVal st a) + x.signExtend 64)))))) ∧
     (Runs s gd [.g b] → exec (.jadd gd d a' b x) s = .next (withTurn s (advanced
       (wrJ st d (rdJ st a' + BitVec.truncate 16 (BitVec.ofNat 64 (gVal st b) + x.signExtend 64)))))))

/-! ### Control flow -/

/-- Where BR, BRI, CALL, RET and LOOP go. The target is BR's, CALL's and LOOP's from the line of their own pc, BRI's and RET's
from gA. When its line can be read and its slot has the TGT bit the pc becomes the target; when the line cannot be read
the pc becomes the target too, and the TGT check is left to the fetch there, which traps with 0x039 on a slot without the
bit; when the line is on a peer it is read first and the strand waits. Nothing else changes but the link of CALL and the
count of LOOP, and a LOOP that counts down to 0 goes on behind itself (04 R63, R69, R72; 05 R100). The base of the line of
a pc is read from R61 and R63 (log 12), and that a line on a peer is read first is the model's reading (log 12); that the
check of a target fills no cache and no TLB, so that nothing else changes, is log 70 (DEDUCED). A transfer to no slot
position traps with 0x038, and one to a slot whose TGT bit is clear with 0x039; TVAL is the target, and no register
changes: a trap that enters a handler saves and sets what R206 names, and no other register (04 R69; 05 R100; 09 R206). -/
def Obligations.Transfers : Prop :=
  (∀ (gd : Guard) (a : GOp) (x : BitVec 38) (off : BitVec 40) (slot : BitVec 3) (s : State) (line dev : Nat),
     let st := turn s
     let pc := st.pc.toNat
     let near : Word := BitVec.ofNat 64 (pc - pc % 512) + off.signExtend 64 * 512 + 32 + 96 * slot.zeroExtend 64
     let link : Word := if pc % 512 = 416 then st.pc + 128 else st.pc + 96
     let base (T : Word) : Nat := T.toNat - T.toNat % 512
     let good (T : Word) : Prop := isSlotPos T.toNat = true ∧ st.badLine ≠ some (base T) ∧
       readableLine s s.cur.core (base T) = .here line ∧ lineTgt line ((T.toNat % 512 - 32) / 96) = true
     let unread (T : Word) : Prop := isSlotPos T.toNat = true ∧
       (st.badLine = some (base T) ∨ readableLine s s.cur.core (base T) = .unreadable)
     let onPeer (T : Word) : Prop := isSlotPos T.toNat = true ∧ st.badLine ≠ some (base T) ∧
       readableLine s s.cur.core (base T) = .peer dev ∧ portTo s dev = true
     let goes (i : Instr) (T : Word) (u : Strand) : Prop :=
       (good T → exec i s = .next (withTurn s { u with pc := T })) ∧
       (unread T → exec i s = .next (withTurn s { u with pc := T, tgtPending := true, badLine := none })) ∧
       (onPeer T → ∃ t q n, exec i s = .next t ∧ turn t = { st with status := .asleep (.peer q n) })
     let va : Word := BitVec.ofNat 64 (gVal st a)
     (Runs s gd [] → goes (.br gd off slot) near st) ∧
     (Runs s gd [.g a] →
       goes (.bri gd a x) (va + x.signExtend 64) st ∧ goes (.ret gd a) va st ∧
       goes (.call gd a off slot) near (wrG st (gReg st a) link) ∧
       (va ≠ 1 → goes (.loop gd a off slot) near (wrG st (gReg st a) (va - 1))) ∧
       (va = 1 → exec (.loop gd a off slot) s = .next (withTurn s (advanced (wrG st (gReg st a) 0))))) ∧
     (lineFault line = none → isSlotPos pc = true → st.tgtPending = true → lineTgt line ((pc % 512 - 32) / 96) = false →
       runSlot line s.cur.core s.cur.slot s = .next (trapped s 0x039 pc))) ∧
  (∀ (gd : Guard) (a : GOp) (x : BitVec 38) (off : BitVec 40) (slot : BitVec 3) (s : State) (line : Nat),
     let st := turn s
     let pc := st.pc.toNat
     let near : Word := BitVec.ofNat 64 (pc - pc % 512) + off.signExtend 64 * 512 + 32 + 96 * slot.zeroExtend 64
     let va : Word := BitVec.ofNat 64 (gVal st a)
     let traps (i : Instr) (T : Word) : Prop :=
       (isSlotPos T.toNat = false → exec i s = .next (trapped s 0x038 T.toNat)) ∧
       (isSlotPos T.toNat = true → st.badLine ≠ some (T.toNat - T.toNat % 512) →
         readableLine s s.cur.core (T.toNat - T.toNat % 512) = .here line →
         lineTgt line ((T.toNat % 512 - 32) / 96) = false → exec i s = .next (trapped s 0x039 T.toNat))
     (Runs s gd [] → traps (.br gd off slot) near) ∧
     (Runs s gd [.g a] → traps (.bri gd a x) (va + x.signExtend 64) ∧ traps (.ret gd a) va ∧
       traps (.call gd a off slot) near ∧ (va ≠ 1 → traps (.loop gd a off slot) near)) ∧
     (∀ code v, trapEnters st code = true → (turn (trapped s code v)).g = st.g))

/-! ### Floating point -/

/-- An encoding that holds a number is unchanged when its own value is rounded to its format, in every rounding mode
(02 R24, R27). -/
def Obligations.RoundingKeepsRepresentable : Prop :=
  ∀ (t : FType) (rnd : Rnd) (u bits : Nat), u < 2 ^ 16 → bits < 2 ^ (ftypeFmt t).width →
    (decodeF (ftypeFmt t) bits).isNan = false → roundTo (ftypeFmt t) rnd u (decodeF (ftypeFmt t) bits) = bits

/-- FADD, FSUB, FMUL, FFMA, FDIV and FSQRT: D receives the exact sum, difference, product, sum of product and addend, quotient or
root, rounded once to the format, with zeros above; under rsr the strand's LFSR steps once, and its upper half is what the rounding
adds, and otherwise it stays. A NaN operand, ∞ / ∞, 0 / 0 and the root of a negative number give the canonical NaN; x / 0 is
infinite, x / ∞ and 0 / x are zero; the root of −0 is −0. The pc moves on and nothing else changes (02 R27 to R29; 05 R102, R103). -/
def Obligations.FloatArithmetic : Prop :=
  ∀ (gd : Guard) (d a b c : GOp) (t : FType) (rnd : Rnd) (s : State),
    let st := turn s
    let f := ftypeFmt t
    let lfsr := st.srstate.toNat
    let stepped := if rnd = .rsr then (if lfsr % 2 = 1 then (lfsr / 2) ^^^ 0x80200003 else lfsr / 2) else lfsr
    let u := stepped / 2 ^ 16 % 2 ^ 16
    let A := decodeF f (gVal st a)
    let B := decodeF f (gVal st b)
    let C := decodeF f (gVal st c)
    let wrote (r : Nat) : State :=
      withTurn s (advanced (wrG { st with srstate := BitVec.ofNat 32 stepped } (gReg st d) (BitVec.ofNat 64 r)))
    (Runs s gd [.g a, .g b, .g d] →
      exec (.fadd gd d a b t rnd) s = .next (wrote (roundTo f rnd u (addExact rnd A B))) ∧
      exec (.fsub gd d a b t rnd) s = .next (wrote (roundTo f rnd u (addExact rnd A B.neg))) ∧
      exec (.fmul gd d a b t rnd) s = .next (wrote (roundTo f rnd u (mulExact A B))) ∧
      exec (.fdiv gd d a b t rnd) s = .next (wrote (match A, B with
        | .nan _, _ => f.nanCode
        | _, .nan _ => f.nanCode
        | .inf _, .inf _ => f.nanCode
        | .inf p, .fin q _ _ => f.signed (p != q) f.infCode
        | .fin p _ _, .inf q => f.signed (p != q) 0
        | .fin p m e, .fin q n k =>
          if m = 0 ∧ n = 0 then f.nanCode
          else if n = 0 then f.signed (p != q) f.infCode
          else if m = 0 then f.signed (p != q) 0
          else (encodeMag f rnd true u (p != q) (.rat m n (e - k))).1))) ∧
    (Runs s gd [.g a, .g b, .g c, .g d] →
      exec (.ffma gd d a b c t rnd) s = .next (wrote (roundTo f rnd u (addExact rnd (mulExact A B) C)))) ∧
    (Runs s gd [.g a, .g d] → exec (.fsqrt gd d a t rnd) s = .next (wrote (match A with
      | .nan _ => f.nanCode
      | .inf true => f.nanCode
      | .inf false => f.infCode
      | .fin p 0 _ => f.signed p 0
      | .fin true (_ + 1) _ => f.nanCode
      | .fin false (m + 1) e => (encodeMag f rnd true u false (.root (m + 1) e)).1)))

/-- The special cases of R103: a NaN operand gives the canonical NaN; so do ∞ − ∞, 0 × ∞, 0 / 0, ∞ / ∞ and the root of a
negative number; x / 0 is infinite; the root of −0 is −0. FMIN and FMAX return an operand or the canonical NaN, FCMP
writes a K register, FCLASS sets one bit, FNEG inverts the sign bit, and FCVT converts, an i result sign-extended (05 R104
to R106). -/
def Obligations.FloatSpecialCases : Prop :=
  (∀ (t : FType) (rnd : Rnd) (u a b : Nat),
     let f := ftypeFmt t
     let x := decodeF f a
     let y := decodeF f b
     (x.isNan ∨ y.isNan → floatAdd f rnd u a b = f.nanCode ∧ floatSub f rnd u a b = f.nanCode ∧
       floatMul f rnd u a b = f.nanCode ∧ floatDiv f rnd u a b = f.nanCode) ∧
     (x.isNan → floatSqrt f rnd u a = f.nanCode) ∧
     (x.isInf → y.isInf → x.sign ≠ y.sign → floatAdd f rnd u a b = f.nanCode) ∧
     (x.isZero → y.isInf → floatMul f rnd u a b = f.nanCode ∧ floatMul f rnd u b a = f.nanCode) ∧
     (x.isZero → y.isZero → floatDiv f rnd u a b = f.nanCode) ∧
     (x.isInf → y.isInf → floatDiv f rnd u a b = f.nanCode) ∧
     (x.isFin → x.isZero = false → y.isZero → floatDiv f rnd u a b = f.signed (x.sign != y.sign) f.infCode) ∧
     (x.isFin → x.isZero = false → x.sign = true → floatSqrt f rnd u a = f.nanCode) ∧
     (x.isZero → x.sign = true → floatSqrt f rnd u a = 2 ^ (f.width - 1))) ∧
  (∀ (gd : Guard) (d a b : GOp) (k : Fin 8) (t : FType) (cc : FCc) (df sf : CvtType) (rnd : Rnd) (prop : Bool) (s : State),
     let st := turn s
     let f := ftypeFmt t
     let w := f.width
     let va := gVal st a % 2 ^ w
     let vb := gVal st b % 2 ^ w
     let x := decodeF f va
     let y := decodeF f vb
     let nan := x.isNan || y.isNan
     let below (p q : FV) : Bool := p.lt q || (p.isZero && q.isZero && p.sign && !q.sign)
     let put (r : Nat) : Host.Outcome State Fault Refusal := .next (withTurn s (advanced (setG st st d r)))
     (Runs s gd [.g a, .g b, .g d] →
       exec (.fmin gd d a b t) s = put (if nan then f.nanCode else if below y x then vb else va) ∧
       exec (.fmax gd d a b t) s = put (if nan then f.nanCode else if below x y then vb else va)) ∧
     (Runs s gd [.g a, .g b] → exec (.fcmp gd k a b t cc) s = .next (withTurn s (advanced (wrK st k (match cc with
       | .eq => !nan && x.eqv y
       | .lt => !nan && x.lt y
       | .le => !nan && (x.lt y || x.eqv y)
       | .un => nan
       | .ne => nan || !x.eqv y
       | .gt => !nan && y.lt x
       | .ge => !nan && (y.lt x || x.eqv y)))))) ∧
     (Runs s gd [.g a, .g d] →
       exec (.fneg gd d a t) s = put (va ^^^ 2 ^ (w - 1)) ∧
       exec (.fclass gd d a t) s = put (2 ^ (match x with
         | .nan _ => 8
         | .inf true => 0
         | .inf false => 7
         | .fin neg m _ =>
           if m = 0 then (if neg then 3 else 4) else if m < 2 ^ f.fbits then (if neg then 2 else 5)
           else (if neg then 1 else 6))) ∧
       exec (.fcvt gd d a df sf rnd prop) s =
         (let st' := stepLfsr rnd st
          let r := (cvtEncode df rnd prop (st'.srstate.toNat / 2 ^ 16) (cvtValue sf (gVal st a))).1
          .next (withTurn s (advanced (setG st st' d
            (if df ∈ [CvtType.i8, .i16, .i32] ∧ 2 ^ (df.width - 1) ≤ r then r + (2 ^ 64 - 2 ^ df.width) else r)))))))

/-! ### Vectors -/

/-- VADD, VSUB, VMUL and VFMA work lane by lane: each integer lane is the exact result, wrapped or saturated, and each
float lane is rounded once, the LFSR stepping once a lane in ascending order under rsr (02 R29; 06 R112). -/
def Obligations.VectorArithmetic : Prop :=
  ∀ op ∈ ([
      (fun gd d a b _ ar => .vadd gd d a b ar, fun _ b => [.v b], fun x y _ => x + y, fun f rnd u x y _ => floatAdd f rnd u x y),
      (fun gd d a b _ ar => .vsub gd d a b ar, fun _ b => [.v b], fun x y _ => x - y, fun f rnd u x y _ => floatSub f rnd u x y),
      (fun gd d a b _ ar => .vmul gd d a b ar, fun _ b => [.v b], fun x y _ => x * y, fun f rnd u x y _ => floatMul f rnd u x y),
      (fun gd d a b c ar => .vfma gd d a b c ar, fun c b => [.v b, .v c], fun x y z => x * y + z, floatFma)] :
      List ((Guard → Fin 32 → Fin 32 → Fin 32 → Fin 32 → VArith → Instr) × (Fin 32 → Fin 32 → List Named) ×
        (Int → Int → Int → Int) × (FmtF → Rnd → Nat → Nat → Nat → Nat → Nat))),
    ∀ (gd : Guard) (d a b c : Fin 32) (s : State), Runs s gd ([.v a] ++ op.2.1 c b ++ [.v d]) →
      let st := turn s
      let third := if op.2.1 c b = [.v b] then b else c
      (∀ (t : IType) (sat : Bool), ∃ r < 2 ^ 128,
        exec (op.1 gd d a b c (.int t sat)) s = .next (withTurn s (advanced (wrV st d (BitVec.ofNat 128 r)))) ∧
        ∀ i < 128 / t.width, r / 2 ^ (t.width * i) % 2 ^ t.width =
          (let x := op.2.2.1 (readTyped t (laneOf t.width (vVal st a) i)) (readTyped t (laneOf t.width (vVal st b) i))
            (readTyped t (laneOf t.width (vVal st third) i))
           let lo : Int := if t ∈ [IType.i64, .i32, .i16, .i8] then -2 ^ (t.width - 1) else 0
           let hi : Int := if t ∈ [IType.i64, .i32, .i16, .i8] then 2 ^ (t.width - 1) - 1 else 2 ^ t.width - 1
           ((if sat then max lo (min hi x) else x) % 2 ^ t.width).toNat)) ∧
      (∀ (t : FType) (rnd : Rnd), ∃ r < 2 ^ 128,
        exec (op.1 gd d a b c (.flt t rnd)) s = .next (withTurn s (advanced (wrV
          { st with srstate := BitVec.ofNat 32 ((lfsrAfter rnd)^[128 / (ftypeFmt t).width] st.srstate.toNat) } d
          (BitVec.ofNat 128 r)))) ∧
        ∀ i < 128 / (ftypeFmt t).width, laneOf (ftypeFmt t).width r i =
          op.2.2.2 (ftypeFmt t) rnd (lfsrU ((lfsrAfter rnd)^[i + 1] st.srstate.toNat))
            (laneOf (ftypeFmt t).width (vVal st a) i) (laneOf (ftypeFmt t).width (vVal st b) i)
            (laneOf (ftypeFmt t).width (vVal st third) i))

/-- VMIN, VMAX, VABS, VNEG, VAND, VOR, VXOR, VSHL, VSHR, VSAR, VCMP and VSEL, lane by lane on integer lanes; a shift count is
taken modulo the lane width (06 R112, R113). The float forms of VMIN, VMAX, VABS, VNEG and VCMP, lane by lane, as the
scalar instructions compute them (06 R112, R113). -/
def Obligations.VectorLanes : Prop :=
  (∀ (gd : Guard) (d a b c : Fin 32) (g : GOp) (x : BitVec 38) (t : IType) (sat : Bool) (cc : Cc) (s : State),
     let st := turn s
     let w := t.width
     let la (i : Nat) : Nat := laneOf w (vVal st a) i
     let lb (i : Nat) : Nat := laneOf w (vVal st b) i
     let fit (v : Int) : Nat := ((if sat then satInt (itypeSigned t) w v else v) % 2 ^ w).toNat
     let lanesAre (i : Instr) (f : Nat → Nat) : Prop := ∃ r < 2 ^ 128,
       exec i s = .next (withTurn s (advanced (wrV st d (BitVec.ofNat 128 r)))) ∧ ∀ n < 128 / w, laneOf w r n = f n
     let signed (n : Nat) : Int := signedOf w (la n)
     (Runs s gd [.v a, .v b, .v d] →
       lanesAre (.vmin gd d a b (.i t)) (fun n => if readTyped t (lb n) < readTyped t (la n) then lb n else la n) ∧
       lanesAre (.vmax gd d a b (.i t)) (fun n => if readTyped t (la n) < readTyped t (lb n) then lb n else la n) ∧
       lanesAre (.vand gd d a b t) (fun n => la n &&& lb n) ∧
       lanesAre (.vor gd d a b t) (fun n => la n ||| lb n) ∧
       lanesAre (.vxor gd d a b t) (fun n => la n ^^^ lb n) ∧
       lanesAre (.vshl gd d a (.v b) t) (fun n => la n * 2 ^ (lb n % w) % 2 ^ w) ∧
       lanesAre (.vshr gd d a (.v b) t) (fun n => la n / 2 ^ (lb n % w)) ∧
       lanesAre (.vsar gd d a (.v b) t) (fun n => ((signed n).fdiv (2 ^ (lb n % w)) % 2 ^ w).toNat) ∧
       lanesAre (.vcmp gd d a b (.int t cc)) (fun n => if intCond t cc (la n) (lb n) then 2 ^ w - 1 else 0)) ∧
     (Runs s gd [.v a, .g g, .v d] →
       let n := (BitVec.ofNat 64 (gVal st g) + x.signExtend 64).toNat
       lanesAre (.vshl gd d a (.g g x) t) (fun i => la i * 2 ^ (n % w) % 2 ^ w) ∧
       lanesAre (.vshr gd d a (.g g x) t) (fun i => la i / 2 ^ (n % w)) ∧
       lanesAre (.vsar gd d a (.g g x) t) (fun i => ((signed i).fdiv (2 ^ (n % w)) % 2 ^ w).toNat)) ∧
     (Runs s gd [.v a, .v d] →
       lanesAre (.vabs gd d a (.int t sat)) (fun n => fit ((readTyped t (la n)).natAbs : Nat)) ∧
       lanesAre (.vneg gd d a (.int t sat)) (fun n => fit (-readTyped t (la n)))) ∧
     (Runs s gd [.v a, .v b, .v c, .v d] → exec (.vsel gd d a b c) s = .next (withTurn s (advanced
       (wrV st d ((rdV st a &&& rdV st c) ||| (rdV st b &&& ~~~ rdV st c))))))) ∧
  (∀ (gd : Guard) (d a b : Fin 32) (t : FType) (cc : FCc) (s : State),
     let st := turn s
     let f := ftypeFmt t
     let w := f.width
     let la (i : Nat) : Nat := laneOf w (vVal st a) i
     let lb (i : Nat) : Nat := laneOf w (vVal st b) i
     let lanesAre (i : Instr) (g : Nat → Nat) : Prop := ∃ r < 2 ^ 128,
       exec i s = .next (withTurn s (advanced (wrV st d (BitVec.ofNat 128 r)))) ∧ ∀ n < 128 / w, laneOf w r n = g n
     (Runs s gd [.v a, .v b, .v d] →
       lanesAre (.vmin gd d a b (.f t)) (fun n => floatMin f (la n) (lb n)) ∧
       lanesAre (.vmax gd d a b (.f t)) (fun n => floatMax f (la n) (lb n)) ∧
       lanesAre (.vcmp gd d a b (.flt t cc)) (fun n => if floatCond t cc (la n) (lb n) then 2 ^ w - 1 else 0)) ∧
     (Runs s gd [.v a, .v d] →
       lanesAre (.vabs gd d a (.flt t)) (fun n => la n % 2 ^ (w - 1)) ∧
       lanesAre (.vneg gd d a (.flt t)) (fun n => la n ^^^ 2 ^ (w - 1))))

/-- VDOT adds four integer products to each 32-bit lane, or rounds the exact sum of a group of float products and the lane
once; VRED reduces a register to a G register; VCVT converts element by element in ascending order, and elements it does
not write keep their values (06 R114, R115, R124). -/
def Obligations.VectorReductions : Prop :=
  ∀ (gd : Guard) (d a b : Fin 32) (g : GOp) (s : State),
    let st := turn s
    (Runs s gd [.v a, .v b, .v d] →
      (∀ nat sat, ∃ r < 2 ^ 128,
        exec (.vdot gd d a b (.int nat sat)) s = .next (withTurn s (advanced (wrV st d (BitVec.ofNat 128 r)))) ∧
        ∀ j < 4, laneOf 32 r j =
          (let el (v i : Nat) : Int := if nat then (laneOf 8 v i : Nat) else signedOf 8 (laneOf 8 v i)
           let old : Int := if nat then (laneOf 32 (vVal st d) j : Nat) else signedOf 32 (laneOf 32 (vVal st d) j)
           let sum := old + el (vVal st a) (4 * j) * el (vVal st b) (4 * j)
             + el (vVal st a) (4 * j + 1) * el (vVal st b) (4 * j + 1)
             + el (vVal st a) (4 * j + 2) * el (vVal st b) (4 * j + 2)
             + el (vVal st a) (4 * j + 3) * el (vVal st b) (4 * j + 3)
           ((if sat then satInt (!nat) 32 sum else sum) % 2 ^ 32).toNat)) ∧
      (∀ f rnd, ∃ r < 2 ^ 128,
        exec (.vdot gd d a b (.flt f rnd)) s = .next (withTurn s (advanced (wrV
          { st with srstate := BitVec.ofNat 32 ((lfsrAfter rnd)^[4] st.srstate.toNat) } d (BitVec.ofNat 128 r)))) ∧
        ∀ j < 4, laneOf 32 r j = roundTo .f32 rnd (lfsrU ((lfsrAfter rnd)^[j + 1] st.srstate.toNat))
          (sumExact (rnd == .rdn) (decodeF .f32 (laneOf 32 (vVal st d) j) :: dotProducts f (vVal st a) (vVal st b) j)))) ∧
    (Runs s gd [.v a, .g g] →
      (∀ t, exec (.vred gd g a (.int t .add)) s = .next (withTurn s (advanced (setG st st g
        (((List.range (128 / t.width)).map fun i => readTyped t (laneOf t.width (vVal st a) i)).sum % 2 ^ 64).toNat)))) ∧
      (∀ t, let w := t.width
        let la := fun i => laneOf w (vVal st a) i
        let fold (f : Nat → Nat → Nat) : Nat := (List.range (128 / w - 1)).foldl (fun r i => f r (la (i + 1))) (la 0)
        let gives (op : IRed) (r : Nat) : Prop :=
          exec (.vred gd g a (.int t op)) s = .next (withTurn s (advanced (setG st st g (extendTyped t r))))
        gives .min (fold fun p q => if readTyped t q < readTyped t p then q else p) ∧
        gives .max (fold fun p q => if readTyped t p < readTyped t q then q else p) ∧
        gives .and (fold (· &&& ·)) ∧ gives .or (fold (· ||| ·)) ∧ gives .xor (fold (· ^^^ ·))) ∧
      (∀ t rnd, let f := ftypeFmt t
        let la := fun i => laneOf f.width (vVal st a) i
        let fold (h : Nat → Nat → Nat) : Nat := (List.range (128 / f.width - 1)).foldl (fun r i => h r (la (i + 1))) (la 0)
        exec (.vred gd g a (.fadd t rnd)) s = .next (withTurn s (advanced (setG st
          { st with srstate := BitVec.ofNat 32 (lfsrAfter rnd st.srstate.toNat) } g
          (roundTo f rnd (lfsrU (lfsrAfter rnd st.srstate.toNat))
            (sumExact (rnd == .rdn) ((List.range (128 / f.width)).map fun i => decodeF f (la i))))))) ∧
        exec (.vred gd g a (.fmin t)) s = .next (withTurn s (advanced (setG st st g (fold (floatMin f))))) ∧
        exec (.vred gd g a (.fmax t)) s = .next (withTurn s (advanced (setG st st g (fold (floatMax f))))))) ∧
    (Runs s gd [.v a, .v d] → ∀ df sf rnd prop (part : BitVec 3),
      let ps := cvtPairs (128 / sf.width) (128 / df.width) part.toNat
      ∃ r < 2 ^ 128,
        exec (.vcvt gd d a df sf rnd prop part) s = .next (withTurn s (advanced (wrV
          { st with srstate := BitVec.ofNat 32 ((lfsrAfter rnd)^[ps.length] st.srstate.toNat) } d (BitVec.ofNat 128 r)))) ∧
        (∀ n, (h : n < ps.length) → laneOf df.width r ps[n].2 =
          convert df sf rnd prop (lfsrU ((lfsrAfter rnd)^[n + 1] st.srstate.toNat)) (laneOf sf.width (vVal st a) ps[n].1)) ∧
        (∀ i < 128 / df.width, (∀ p ∈ ps, p.2 ≠ i) → laneOf df.width r i = laneOf df.width (vVal st d) i))

/-- VSPLAT, VEXT, VINS, VPERM and VTBL move lanes. VPACK writes a field of w bits for each element from bit x on, saturated when sat
is set, and keeps the other bits, or the block that EncodeBq makes of 16 bf16 values with zeros above; VUNPK extends such fields to
lanes, or writes the four f32 elements of a part of a block as DecodeBq gives them. VPERM and VTBL go through the crossbar, which
counts waits. A bq8 form uses one more register than it names, and traps with 0x042 when that is not allocated, as VTBL does for its
table, with the number of the first register of it that is not, 32 included (06 R111, R116 to R123). -/
def Obligations.VectorMoves : Prop :=
  ∀ (gd : Guard) (d a b c e : Fin 32) (g h : GOp) (t : VType) (x : BitVec 38) (n : BitVec 3) (s : State),
    let st := turn s
    let w := vtypeWidth t
    let idx : Nat := (BitVec.ofNat 64 (gVal st h) + x.signExtend 64).toNat % (128 / w)
    let waits := BitVec.ofNat 64 (Config.crossbarWaits s.draw)
    let counted : State := putCore s s.cur.core { turnCore s with xbwait := (turnCore s).xbwait + waits }
    (Runs s gd [.g g, .v d] → ∃ r < 2 ^ 128,
      exec (.vsplat gd d g t x) s = .next (withTurn s (advanced (wrV st d (BitVec.ofNat 128 r)))) ∧
      ∀ i < 128 / w, laneOf w r i = (BitVec.ofNat 64 (gVal st g) + x.signExtend 64).toNat % 2 ^ w) ∧
    (Runs s gd [.v a, .g h, .g g] → exec (.vext gd g a h t x) s = .next (withTurn s (advanced (setG st st g
      (match t with
        | .i t => extendTyped t (laneOf w (vVal st a) idx : Nat)
        | .f _ => laneOf w (vVal st a) idx))))) ∧
    (Runs s gd [.g g, .g h, .v d] → exec (.vins gd d g h t x) s = .next (withTurn s (advanced (wrV st d
      (BitVec.ofNat 128 (setBits (vVal st d) (w * idx) w (gVal st g))))))) ∧
    (Runs s gd [.v a, .v b, .v c, .v d] → ∃ r < 2 ^ 128,
      exec (.vperm gd d a b c t) s = .next (withTurn counted (advanced (wrV st d (BitVec.ofNat 128 r)))) ∧
      ∀ i < 128 / w, laneOf w r i =
        (let j := laneOf w (vVal st c) i % (2 * (128 / w))
         if j < 128 / w then laneOf w (vVal st a) j else laneOf w (vVal st b) (j - 128 / w))) ∧
    (Runs s gd [.v a, .v b, .v d] → a.val + n.toNat < (turnCore s).vcount → a.val + n.toNat < 32 → ∃ r < 2 ^ 128,
      exec (.vtbl gd d a b n x) s = .next (withTurn counted (advanced (wrV st d (BitVec.ofNat 128 r)))) ∧
      ∀ i < 16, laneOf 8 r i =
        (let j := laneOf 8 (vVal st b) i
         if j < 16 * (n.toNat + 1) then laneOf 8 (vNum st (a.val + j / 16)) (j % 16) else x.toNat % 2 ^ 8)) ∧
    (Runs s gd [.v a, .v b, .v d] → (turnCore s).vcount ≤ 32 → (turnCore s).vcount ≤ a.val + n.toNat →
      exec (.vtbl gd d a b n x) s = .next (trapped s 0x042 (max (a.val + 1) (turnCore s).vcount))) ∧
    (∀ (ty : IType) (wd : BitVec 7) (sat : Bool) (at_ : BitVec 7), Runs s gd [.v a, .v d] → 1 ≤ wd.toNat →
      let k := wd.toNat
      let field (i : Nat) : Nat :=
        let v := readTyped ty (laneOf ty.width (vVal st a) i)
        let lo : Int := if ty ∈ [IType.i64, .i32, .i16, .i8] then -2 ^ (k - 1) else 0
        let hi : Int := if ty ∈ [IType.i64, .i32, .i16, .i8] then 2 ^ (k - 1) - 1 else 2 ^ k - 1
        ((if sat then max lo (min hi v) else v) % 2 ^ k).toNat
      (∃ r < 2 ^ 128, exec (.vpack gd d a (.int ty wd sat at_)) s = .next (withTurn s (advanced (wrV st d (BitVec.ofNat 128 r)))) ∧
        ∀ j < 128, r.testBit j =
          if at_.toNat ≤ j ∧ j < at_.toNat + k * (128 / ty.width) then
            (field ((j - at_.toNat) / k)).testBit ((j - at_.toNat) % k)
          else (vVal st d).testBit j) ∧
      (∃ r < 2 ^ 128, exec (.vunpk gd d a (.int ty wd at_)) s = .next (withTurn s (advanced (wrV st d (BitVec.ofNat 128 r)))) ∧
        ∀ i < 128 / ty.width, laneOf ty.width r i =
          (let y := vVal st a / 2 ^ (at_.toNat + k * i) % 2 ^ k
           if ty ∈ [IType.i64, .i32, .i16, .i8] then (signedOf k y % 2 ^ ty.width).toNat else y % 2 ^ ty.width))) ∧
    (∀ (fmt : BqFmt) (prop : Bool), Runs s gd [.v a, .v b, .v d] →
      let block := bqEncode fmt prop ((List.range 16).map fun i =>
        decodeF .bf16 (laneOf 16 (vVal st (if i < 8 then a else b)) (i % 8)))
      (fmt ≠ .bq8 → exec (.vpack gd d a (.bq fmt b prop)) s =
        .next (withTurn s (advanced (wrV st d (BitVec.ofNat 128 block))))) ∧
      (fmt = .bq8 → e.val = d.val + 1 → e.val < (turnCore s).vcount → exec (.vpack gd d a (.bq fmt b prop)) s =
        .next (withTurn s (advanced
          (wrV (wrV st d (BitVec.ofNat 128 (block % 2 ^ 128))) e (BitVec.ofNat 128 (block / 2 ^ 128)))))) ∧
      ((turnCore s).vcount ≤ d.val + 1 → exec (.vpack gd d a (.bq .bq8 b prop)) s = .next (trapped s 0x042 (d.val + 1)))) ∧
    (∀ (fmt : BqFmt) (part : Fin 4), Runs s gd [.v a, .v d] →
      let parts (block : Nat) : Prop := ∃ r < 2 ^ 128,
        exec (.vunpk gd d a (.bq fmt part)) s = .next (withTurn s (advanced (wrV st d (BitVec.ofNat 128 r)))) ∧
        ∀ i < 4, laneOf 32 r i = (encodeF .f32 .rne true 0 (bqDecode fmt block (4 * part.val + i))).1
      (fmt ≠ .bq8 → parts (vVal st a)) ∧
      (fmt = .bq8 → e.val = a.val + 1 → e.val < (turnCore s).vcount →
        parts (vVal st a + vVal st e % 2 ^ 24 * 2 ^ 128)) ∧
      ((turnCore s).vcount ≤ a.val + 1 → exec (.vunpk gd d a (.bq .bq8 part)) s = .next (trapped s 0x042 (a.val + 1))))

/-- EncodeBq of 16 values is NaN block 255 when one is a NaN, or an infinity under ovf=prop. Otherwise E is 254 with an infinity, 0
when all are zero, and the clamped binary exponent of the largest magnitude; a pair below half the range takes μ = 1; each magnitude
is rounded to nearest even in the pair's unit and clamped to the mantissa, and a pair that rounds to zero sets PZ and nothing else.
DecodeBq of element i is a NaN in a NaN block, +0 under PZ, and else (−1)^s × m × 2^(E − 127 − μ − (mb − 1)); it is never infinite
(02 R32 to R35). -/
def Obligations.BlocksOfSixteen : Prop :=
  ∀ (fmt : BqFmt),
    let mb := bqMant fmt
    let w := mb + 1
    let unit (e mu : Nat) : ℚ := 2 ^ ((e : ℤ) - 127 - mu - (mb - 1))
    (∀ (prop : Bool) (xs : List FV), xs.length = 16 →
      let block : Nat := bqEncode fmt prop xs
      let x (i : Nat) : FV := xs.getD i (.nan false)
      let e : Nat := block % 2 ^ 8
      block < 2 ^ (24 + 16 * w) ∧
      ((∃ v ∈ xs, v.isNan ∨ prop = true ∧ v.isInf = true) → block = 255) ∧
      ((∀ v ∈ xs, v.isNan = false ∧ (prop = true → v.isInf = false)) →
        ((∃ v ∈ xs, v.isInf = true) → e = 254) ∧
        ((∀ v ∈ xs, v.rat = 0 ∧ v.isInf = false) → e = 0) ∧
        ((∀ v ∈ xs, v.isInf = false) → ∀ a ∈ xs, a.rat ≠ 0 → (∀ v ∈ xs, |v.rat| ≤ |a.rat|) →
          e ≤ 254 ∧ (0 < e → 2 ^ ((e : ℤ) - 127) ≤ |a.rat|) ∧ (e < 254 → |a.rat| < 2 ^ ((e : ℤ) - 126))) ∧
        ∀ p < 8,
          let small (v : FV) : Prop := v.isInf = false ∧ |v.rat| ≤ 2 ^ ((e : ℤ) - 128)
          let mu : Nat := block / 2 ^ (8 + p) % 2
          let pz : Nat := block / 2 ^ (16 + p) % 2
          let el (i : Nat) : Nat := block / 2 ^ (24 + w * i) % 2 ^ w
          ∃ half ∈ [0, 1], (half = 1 ↔ 1 ≤ e ∧ small (x (2 * p)) ∧ small (x (2 * p + 1))) ∧
            ∃ m n : Nat,
              (∀ q ∈ [(x (2 * p), m), (x (2 * p + 1), n)],
                if q.1.isInf then q.2 = 2 ^ mb - 1
                else ∃ k : Nat, q.2 = min k (2 ^ mb - 1) ∧ 2 * |(k : ℚ) - |q.1.rat| / unit e half| ≤ 1 ∧
                  (2 * |(k : ℚ) - |q.1.rat| / unit e half| = 1 → k % 2 = 0)) ∧
              (m = 0 ∧ n = 0 → pz = 1 ∧ mu = 0 ∧ el (2 * p) = 0 ∧ el (2 * p + 1) = 0) ∧
              (m ≠ 0 ∨ n ≠ 0 → pz = 0 ∧ mu = half ∧ el (2 * p) = (x (2 * p)).sign.toNat * 2 ^ mb + m ∧
                el (2 * p + 1) = (x (2 * p + 1)).sign.toNat * 2 ^ mb + n))) ∧
    ∀ block i : Nat, i < 16 →
      let e : Nat := block % 2 ^ 8
      let el : Nat := block / 2 ^ (24 + w * i) % 2 ^ w
      let v := bqDecode fmt block i
      v.isInf = false ∧ (v.isNan = true ↔ e = 255) ∧
      (e ≠ 255 → block.testBit (16 + i / 2) = true → v.rat = 0 ∧ v.sign = false) ∧
      (e ≠ 255 → block.testBit (16 + i / 2) = false → v.sign = el.testBit mb ∧
        v.rat = (if el.testBit mb then -1 else 1) * (el % 2 ^ mb : Nat) * unit e (block / 2 ^ (8 + i / 2) % 2))

/-! ### Memory -/

/-- A write at a physical address under a key is read back under that key, and every byte outside those that hold the written
bits reads as before: under every key where its line holds none of them, and where it does under every key of the written
material (03 R44, R55; 19 R308). An address that lies neither in HBM nor in the device-internal range is covered too: that it is written
and read as memory is log 74; that an empty key counts as material 0, and what a line reads as under a key that it was not written
under, is log 5. -/
def Obligations.PhysicalWriteThenRead : Prop :=
  ∀ (s : State) (c key key' pa w v : Nat), isInternal pa = false →
    physRead (physWrite s c key pa w v) key pa w = v % 2 ^ w ∧
    ∀ b, b < pa / 8 ∨ pa / 8 + byteSpan pa w ≤ b →
      (b / 64 < pa / 8 / 64 ∨ (pa / 8 + byteSpan pa w + 63) / 64 ≤ b / 64 ∨ materialOf s key' = materialOf s key) →
      keyedByte (physWrite s c key pa w v) key' b = keyedByte s key' b

/-- Loads, global and pool: the destination receives the w bits at the effective address, sign-extended when sx=1, and
nothing else changes but the core's count of crossbar waits, and for a global one that home slices are woken and leases of other
cores recalled (03 R44; 06 R122, R123; 07 R131, R135, R136; 12 R241). -/
def Obligations.Loads : Prop :=
  ∀ (gd : Guard) (d a b : GOp) (v : Fin 32) (w : BitVec 6) (sx : Bool) (o : LoadOrd) (sc : Scope) (x : BitVec 38)
    (s : State) (xs : List (Xlat × Nat × Nat)), AtOnce s →
    let st := turn s
    let k := turnCore s
    let n := if w = 0 then 64 else w.toNat
    let ea (z : Nat) : Nat := (BitVec.ofNat 64 (gVal st a) + BitVec.ofNat 64 (gVal st b) * BitVec.ofNat 64 z + x.signExtend 64).toNat
    let ext (r : Nat) : Word := if sx ∧ 2 ^ (n - 1) ≤ r then BitVec.ofNat 64 (r + (2 ^ 64 - 2 ^ n)) else BitVec.ofNat 64 r
    let counted : State :=
      putCore s s.cur.core { k with xbwait := k.xbwait + BitVec.ofNat 64 (Config.crossbarWaits s.draw) }
    let ready (u : Strand) : Strand := { u with pc := nextPc st.pc, status := .ready, readySince := k.cycles }
    (Runs s gd [.g a, .g b, .g d] →
      (Here s (accessParts (ea n) n) true false xs → ∃ t, exec (.ld gd d a b w sx o sc x) s = .next t ∧ ReadStep s t ∧
        turn t = ready (wrG st (gReg st d) (ext (readParts s (partsOf xs) % 2 ^ n)))) ∧
      (PoolHere s (ea n) n → exec (.ldp gd d a b w sx o sc x) s = .next (withTurn counted
        (ready (wrG st (gReg st d) (ext (k.pool.bits (ea n) n))))))) ∧
    (Runs s gd [.g a, .g b, .v v] →
      (Here s (accessParts (ea 128) 128) true false xs → ∃ t, exec (.vld gd v a b o sc x) s = .next t ∧ ReadStep s t ∧
        turn t = ready (wrV st v (BitVec.ofNat 128 (readParts s (partsOf xs))))) ∧
      (PoolHere s (ea 128) 128 → exec (.vldp gd v a b o sc x) s = .next (withTurn counted
        (ready (wrV st v (BitVec.ofNat 128 (k.pool.bits (ea 128) 128)))))))

/-- Global stores: the w low bits of the source stand at the effective address afterwards; every byte outside the parts stored
to, and outside the DT bits of their leaf entries, is unchanged, and so is every register (03 R44, R55; 07 R131, R135,
R136; 19 R308). Pool stores: the w low bits of the source stand at the pool address afterwards; every other byte of the
pool, all other memory and every register are unchanged (03 R44, R47; 07 R131, R135, R136). -/
def Obligations.Stores : Prop :=
  (∀ (gd : Guard) (d a b : GOp) (v : Fin 32) (w : BitVec 6) (o : StoreOrd) (sc : Scope) (x : BitVec 38)
     (s : State) (xs : List (Xlat × Nat × Nat)), AtOnce s →
     let st := turn s
     let n := if w = 0 then 64 else w.toNat
     let ea (z : Nat) : Nat := (BitVec.ofNat 64 (gVal st a) + BitVec.ofNat 64 (gVal st b) * BitVec.ofNat 64 z + x.signExtend 64).toNat
     let ps := partsOf xs
     let stored (i : Instr) (val : Nat) : Prop := ∃ t, exec i s = .next t ∧ MemoryStep s t ∧
       TurnBecame t { advanced st with readySince := (turnCore s).cycles } ∧
       Spares s t ps ∧ (Apart s ps → readParts t ps = val)
     Plain ps →
     (Runs s gd [.g a, .g b, .g d] → Here s (accessParts (ea n) n) false true xs →
       stored (.st gd d a b w o sc x) (gVal st d % 2 ^ n)) ∧
     (Runs s gd [.g a, .g b, .v v] → Here s (accessParts (ea 128) 128) false true xs →
       stored (.vst gd v a b o sc x) (vVal st v))) ∧
  (∀ (gd : Guard) (d a b : GOp) (v : Fin 32) (w : BitVec 6) (o : StoreOrd) (sc : Scope) (x : BitVec 38) (s : State),
     s.cur.inFlight = false →
     let st := turn s
     let k := turnCore s
     let n := if w = 0 then 64 else w.toNat
     let ea (z : Nat) : Nat := (BitVec.ofNat 64 (gVal st a) + BitVec.ofNat 64 (gVal st b) * BitVec.ofNat 64 z + x.signExtend 64).toNat
     let stored (i : Instr) (at_ wide val : Nat) : Prop := ∃ t, exec i s = .next t ∧
       TurnBecame t { advanced st with readySince := k.cycles } ∧ (turnCore t).pool.bits at_ wide = val ∧
       (∀ byte, byte < at_ / 8 ∨ at_ / 8 + byteSpan at_ wide ≤ byte → (turnCore t).pool.read byte = k.pool.read byte) ∧
       { turnCore t with pool := k.pool, xbwait := k.xbwait } = k ∧
       (∀ c, c ≠ s.cur.core → getCore t c = getCore s c) ∧
       (∀ i, i ≠ s.cur.core * 8 + s.cur.slot →
         { nget t.strands {} i with mon := (nget s.strands {} i).mon } = nget s.strands {} i) ∧
       t = { s with strands := t.strands, cores := t.cores }
     (Runs s gd [.g a, .g b, .g d] → PoolHere s (ea n) n →
       stored (.stp gd d a b w o sc x) (ea n) n (gVal st d % 2 ^ n)) ∧
     (Runs s gd [.g a, .g b, .v v] → PoolHere s (ea 128) 128 → stored (.vstp gd v a b o sc x) (ea 128) 128 (vVal st v)))

/-- The traps of a global access in their order, of the loads and stores, vector forms included, and of the atomics: 0x0C0 for a
part that is not canonical, then 0x103 for a missing read right and 0x102 for a missing write right, each with the effective address in
TVAL, whatever the ordering; a pool access traps with 0x100 beyond the pool and with 0x101 below the strand's part of it (03 R46, R47;
07 R133). -/
def Obligations.AccessTraps : Prop :=
  ∀ (gd : Guard) (d a b c : GOp) (v : Fin 32) (w : BitVec 6) (sx : Bool) (lo : LoadOrd) (so : StoreOrd) (o : Ord) (sc : Scope)
    (f : AmoArg) (ty : VType) (x : BitVec 38) (s : State) (xs : List (Xlat × Nat × Nat)),
    let n := accessWidth w
    let near := eaIndexed (turn s) a b n x
    let wide := eaIndexed (turn s) a b 128 x
    let plain := eaPlain (turn s) a x
    let base := 2 ^ 15 * ((turnCore s).pword.toNat % 2 ^ 6)
    let global (i : Instr) (ea : Nat) (ps : List (Nat × Nat)) (rd wr : Bool) : Prop :=
      ((∃ p ∈ ps, canonical p.1 = false) → exec i s = .next (trapped s 0x0C0 ea)) ∧
      ((∀ p ∈ ps, canonical p.1 = true) → locateParts s s.cur.core ps = .found xs →
        (rd = true → (∃ y ∈ xs, y.1.rd = false) → exec i s = .next (trapped s 0x103 ea)) ∧
        (wr = true → (rd = true → ∀ y ∈ xs, y.1.rd = true) → (∃ y ∈ xs, y.1.wr = false) →
          exec i s = .next (trapped s 0x102 ea)))
    let pool (i : Instr) (ea n : Nat) : Prop :=
      (2 ^ 20 < ea + n → exec i s = .next (trapped s 0x100 ea)) ∧
      (ea + n ≤ 2 ^ 20 → ea < base → exec i s = .next (trapped s 0x101 ea))
    let inWord (k : Nat) : Prop := plain / 64 = (plain + k - 1) / 64
    (Runs s gd [.g a, .g b, .g d] →
      global (.ld gd d a b w sx lo sc x) near (accessParts near n) true false ∧
      global (.st gd d a b w so sc x) near (accessParts near n) false true ∧
      pool (.ldp gd d a b w sx lo sc x) near n ∧ pool (.stp gd d a b w so sc x) near n ∧
      (inWord (amoWidth f) → global (.amo gd d a b f o sc x) plain [(plain, amoWidth f)] true true)) ∧
    (Runs s gd [.g a, .g b, .v v] →
      global (.vld gd v a b lo sc x) wide (accessParts wide 128) true false ∧
      global (.vst gd v a b so sc x) wide (accessParts wide 128) false true ∧
      pool (.vldp gd v a b lo sc x) wide 128 ∧ pool (.vstp gd v a b so sc x) wide 128) ∧
    (Runs s gd [.g a, .g b] → inWord (amoWidth f) → global (.red gd a b f o sc x) plain [(plain, amoWidth f)] true true) ∧
    (Runs s gd [.g a, .g b, .g c, .g d] → inWord (vtypeWidth ty) →
      global (.cas gd d a b c ty o sc x) plain [(plain, vtypeWidth ty)] true true)

/-- AMO returns the old value and writes op(old, b), CAS writes its new value only when the old one equals its comparand, and
RED returns nothing; every byte outside the operand and outside DT of its leaf entry is unchanged, and an operand of any of the three
that crosses a 64-bit boundary traps with 0x080 (07 R138 to R141). -/
def Obligations.Atomics : Prop :=
  ∀ (gd : Guard) (d a b c : GOp) (f : AmoArg) (ty : VType) (o : Ord) (sc : Scope) (x : BitVec 38) (s : State)
    (y : Xlat), AtOnce s →
    let st := turn s
    let ea := (BitVec.ofNat 64 (gVal st a) + x.signExtend 64).toNat
    let at_ (w : Nat) : List (Xlat × Nat × Nat) := [(y, ea, w)]
    let p (w : Nat) : Part := y.part ea w
    let old (w : Nat) : Nat := physRead s y.key (y.phys ea) w
    let inWord (w : Nat) : Prop := ea / 64 = (ea + w - 1) / 64
    let ready (u : Strand) : Strand := { u with pc := nextPc st.pc, status := .ready, readySince := (turnCore s).cycles }
    let done (i : Instr) (w : Nat) (u : Strand) (new : Nat) : Prop := ∃ t, exec i s = .next t ∧ MemoryStep s t ∧
      TurnBecame t (ready u) ∧ Spares s t [p w] ∧
      (Apart s [p w] → physRead t y.key (y.phys ea) w = new)
    isInternal (y.phys ea) = false →
    (Runs s gd [.g a, .g b, .g d] →
      (inWord (amoWidth f) → Here s [(ea, amoWidth f)] true true (at_ (amoWidth f)) →
        done (.amo gd d a b f o sc x) (amoWidth f)
          (wrG st (gReg st d) (BitVec.ofNat 64 (match f with
            | .int t _ => extendTyped t (old t.width : Nat)
            | .flt t _ => old (ftypeFmt t).width))) (amoNew f (old (amoWidth f)) (gVal st b))) ∧
      (¬ inWord (amoWidth f) → exec (.amo gd d a b f o sc x) s = .next (trapped s 0x080 ea))) ∧
    (Runs s gd [.g a, .g b] → ¬ inWord (amoWidth f) → exec (.red gd a b f o sc x) s = .next (trapped s 0x080 ea)) ∧
    (Runs s gd [.g a, .g b, .g c, .g d] → ¬ inWord (vtypeWidth ty) →
      exec (.cas gd d a b c ty o sc x) s = .next (trapped s 0x080 ea)) ∧
    (Runs s gd [.g a, .g b] → inWord (amoWidth f) → Here s [(ea, amoWidth f)] true true (at_ (amoWidth f)) →
      done (.red gd a b f o sc x) (amoWidth f) st (amoNew f (old (amoWidth f)) (gVal st b))) ∧
    (Runs s gd [.g a, .g b, .g c, .g d] → inWord (vtypeWidth ty) →
      Here s [(ea, vtypeWidth ty)] true true (at_ (vtypeWidth ty)) →
      let w := vtypeWidth ty
      done (.cas gd d a b c ty o sc x) w
        (wrG st (gReg st d) (BitVec.ofNat 64 (match ty with | .i t => extendTyped t (old w : Nat) | .f _ => old w)))
        (if old w = gVal st b % 2 ^ w then gVal st c % 2 ^ w else old w))

/-- A FENCE performs its strand's REDs, and waits for those at peers; one that releases also performs the strand's other accesses
where its scope holds the whole package, and otherwise leaves none of them that it has not passed (how a release orders is the
model's, log 39; the writes under way of its copies are not its accesses); with nothing in flight it only moves the pc. MARM arms a
monitor over a pool range or over the physical bits of a global one, and traps with 0x082 when they cross a 64-bit boundary; WAITA
returns the lowest fired monitor, which it disarms, or 5 when none is armed, and sleeps while armed ones have not fired; under a
cancelled node it retires its strand, or raises 0x206 where the node counts nothing; MDIS disarms one or all (07 R141, R143 to R145,
R147; 09 R195; 15 R277). -/
def Obligations.FencesAndMonitors : Prop :=
  ∀ (gd : Guard) (d a : GOp) (o : Ord) (sc : Scope) (w : BitVec 6) (m : BitVec 2) (x : BitVec 38) (i : Fin 4) (s : State)
    (y : Xlat),
    let st := turn s
    let n := if w = 0 then 64 else w.toNat
    let ea := (BitVec.ofNat 64 (gVal st a) + x.signExtend 64).toNat
    let armed (pool : Bool) (at_ : Nat) : Strand := advanced { st with mon := st.mon.set m.toNat (.armed pool at_ n) }
    (Runs s gd [] →
      (AtOnce s → exec (.fence gd o sc) s = .next (withTurn s (advanced st))) ∧
      ((∀ e ∈ s.peers, e.2.red = true → e.2.sid ≠ st.sid) → ∃ t, exec (.fence gd o sc) s = .next t ∧
        TurnBecame t (advanced st) ∧ (∀ q ∈ (turnCore t).reds, q.sid ≠ st.sid) ∧
        (o ≠ .acq → sc ∈ [Scope.pk, .fa, .sy] → ∀ c, ∀ q ∈ (getCore t c).requests, q.copy = none → q.sid ≠ st.sid) ∧
        (o ≠ .acq → sc ∉ [Scope.pk, .fa, .sy] → ∀ c, ∀ q ∈ (getCore t c).requests, q.copy = none → q.sid = st.sid →
          ⟨sc, s.cur.core, st.sid⟩ ∈ q.marks)) ∧
      ((∃ e ∈ s.peers, e.2.red = true ∧ e.2.sid = st.sid) →
        exec (.fence gd o sc) s = .next (withTurn s { st with status := .asleep .reds })) ∧
      exec (.mdis gd m false) s = .next (withTurn s (advanced { st with mon := st.mon.set m.toNat .disarmed })) ∧
      exec (.mdis gd m true) s = .next (withTurn s (advanced { st with mon := Vector.replicate 4 .disarmed }))) ∧
    (Runs s gd [.g a] → ea / 64 = (ea + n - 1) / 64 →
      (poolFault (turnCore s) ea n = none → exec (.marm gd a w m true x) s = .next (withTurn s (armed true ea))) ∧
      (AtOnce s → Here s [(ea, n)] true false [(y, ea, n)] →
        ∃ t, exec (.marm gd a w m false x) s = .next t ∧ ReadStep s t ∧ turn t = armed false (y.phys ea))) ∧
    (Runs s gd [.g a] → ea / 64 ≠ (ea + n - 1) / 64 → ∀ pool, exec (.marm gd a w m pool x) s = .next (trapped s 0x082 ea)) ∧
    (Runs s gd [.g a, .g d] →
      (strandCancelled s s.cur.core s.cur.slot = true → st.live = true →
        (counterEmpty s (tagOf s s.cur.core) st.node = true → exec (.waita gd d a x) s = .next (trapped s 0x206 st.node)) ∧
        (counterEmpty s (tagOf s s.cur.core) st.node = false → redsAtPeer s st.sid (fun _ => true) = false →
          ∃ t, exec (.waita gd d a x) s = .next t ∧ (turn t).live = false)) ∧
      (strandCancelled s s.cur.core s.cur.slot = false →
        ((∃ j : Fin 4, st.mon[j] ≠ .disarmed) → (∀ j : Fin 4, st.mon[j] ≠ .fired) → ∃ t, exec (.waita gd d a x) s = .next t ∧
          SameButCore s t ∧ turn t = { st with status := .asleep (.waita s.now ea (gReg st d)) }) ∧
        (st.mon = Vector.replicate 4 .disarmed →
          exec (.waita gd d a x) s = .next (withTurn s (advanced (wrG st (gReg st d) 5)))) ∧
        (st.mon[i] = .fired → (∀ j : Fin 4, j < i → st.mon[j] ≠ .fired) → exec (.waita gd d a x) s = .next (withTurn s
          (advanced (wrG { st with mon := st.mon.set i .disarmed } (gReg st d) (BitVec.ofNat 64 i.val)))))))

/-- Mark instructions on a cell of a live field: DEP writes the combined, saturated magnitude stamped with the field's tick
and returns it, MRD returns the cell's faded magnitude, TICKR the tick, and SENSE the best magnitude of its window, its
count and its position; TADV asks for an advance and sleeps. An address that is no multiple of 32 traps with 0x081, one in no live
or frozen field with 0x240, DEP and TADV on a frozen field with 0x241, DEP on the load field with 0x242, and TADV on a field that
another source advances with 0x243 (02 R40, R43; 07 R148 to R154; 18 R301, R306; that the load field's write right is not asked for
first is log 77). -/
def Obligations.Marks : Prop :=
  ∀ (gd : Guard) (d a b : GOp) (cmb : Cmb) (win : Window) (rot : Bool) (os : StoreOrd) (ol : LoadOrd) (sc : Scope) (x : BitVec 38)
    (s : State) (y : Xlat) (fid : Nat) (f : Field) (zs : List (Xlat × Nat × Nat)), AtOnce s →
    let st := turn s
    let c := s.cur.core
    let tag := tagOf s c
    let ea := (BitVec.ofNat 64 (gVal st a) + x.signExtend 64).toNat
    let p := y.part ea 32
    let old := markAt (physRead s y.key (y.phys ea) 32) f.tick f.fade
    let ready (u : Strand) : Strand := { u with pc := nextPc st.pc, status := .ready, readySince := (turnCore s).cycles }
    let gives (v : Nat) : Strand := ready (wrG st (gReg st d) (BitVec.ofNat 64 v))
    let onCell : Prop := ea % 32 = 0 ∧ fieldOf s tag ea = some (fid, f) ∧ getField? s tag fid = some f
    let dep := min (match cmb with
      | .add => min (old + gVal st b % 2 ^ 16) 65535
      | .max => max old (gVal st b % 2 ^ 16)
      | .set => gVal st b % 2 ^ 16) f.satv
    (Runs s gd [.g a, .g b, .g d] →
      (onCell → f.st = .live → fid ≠ 0 → isInternal (y.phys ea) = false → Here s [(ea, 32)] true true [(y, ea, 32)] →
        ∃ t, exec (.dep gd d a b cmb os sc x) s = .next t ∧ MemoryStep s t ∧
          TurnBecame t (gives (2 ^ 48 + f.tick % 2 ^ 16 * 2 ^ 16 + dep % 2 ^ 16)) ∧
          Spares s t [p] ∧
          (Apart s [p] → physRead t y.key (y.phys ea) 32 = dep % 2 ^ 16 * 2 ^ 16 + f.tick % 2 ^ 16)) ∧
      (ea % 32 ≠ 0 → exec (.dep gd d a b cmb os sc x) s = .next (trapped s 0x081 ea)) ∧
      (ea % 32 = 0 → fieldOf s tag ea = none → Here s [(ea, 32)] true true [(y, ea, 32)] →
        exec (.dep gd d a b cmb os sc x) s = .next (trapped s 0x240 ea)) ∧
      (ea % 32 = 0 → fieldOf s tag ea = some (fid, f) → Here s [(ea, 32)] true (fid != 0) [(y, ea, 32)] →
        (f.st = .frozen → exec (.dep gd d a b cmb os sc x) s = .next (trapped s 0x241 ea)) ∧
        (f.st ≠ .frozen → fid = 0 → exec (.dep gd d a b cmb os sc x) s = .next (trapped s 0x242 ea)))) ∧
    (Runs s gd [.g a, .g d] → ea % 32 ≠ 0 →
      exec (.mrd gd d a ol sc x) s = .next (trapped s 0x081 ea) ∧ exec (.sense gd d a win rot ol sc x) s = .next (trapped s 0x081 ea) ∧
      exec (.tickr gd d a x) s = .next (trapped s 0x081 ea) ∧ exec (.tadv gd d a x) s = .next (trapped s 0x081 ea)) ∧
    (Runs s gd [.g a, .g d] → ea % 32 = 0 → fieldOf s tag ea = none →
      (Here s [(ea, 32)] true false [(y, ea, 32)] → exec (.mrd gd d a ol sc x) s = .next (trapped s 0x240 ea) ∧
        exec (.sense gd d a win rot ol sc x) s = .next (trapped s 0x240 ea) ∧
        exec (.tickr gd d a x) s = .next (trapped s 0x240 ea)) ∧
      (Here s [(ea, 32)] true true [(y, ea, 32)] → exec (.tadv gd d a x) s = .next (trapped s 0x240 ea))) ∧
    (Runs s gd [.g a, .g d] → ea % 32 = 0 → fieldOf s tag ea = some (fid, f) →
      Here s [(ea, 32)] true (fid != 0) [(y, ea, 32)] →
      (f.st = .frozen → exec (.tadv gd d a x) s = .next (trapped s 0x241 ea)) ∧
      (f.st ≠ .frozen → f.tsrc ≠ 0 → exec (.tadv gd d a x) s = .next (trapped s 0x243 ea))) ∧
    (Runs s gd [.g a, .g d] → onCell → f.st ≠ .created →
      (Here s [(ea, 32)] true false [(y, ea, 32)] →
        (∃ t, exec (.mrd gd d a ol sc x) s = .next t ∧ ReadStep s t ∧
          turn t = gives (2 ^ 48 + f.tick % 2 ^ 16 * 2 ^ 16 + old % 2 ^ 16)) ∧
        (∃ t, exec (.tickr gd d a x) s = .next t ∧ SameButTurn s t ∧ turn t = gives f.tick) ∧
        (Here s ((senseCells f ea win).filterMap fun o => o.map fun q => (q, 32)) true false zs →
          let vals := (senseCells f ea win).map fun o => (o.bind fun q => (zs.find? fun z => z.2.1 == q).map fun z =>
            z.1.part q 32).map fun r => markAt (physRead s r.key r.pa 32) f.tick f.fade
          let start := if rot then strandNumber s c s.cur.slot % windowSize win else 0
          ∃ t, exec (.sense gd d a win rot ol sc x) s = .next t ∧ ReadStep s t ∧
            turn t = gives (senseResult f.tick start vals))) ∧
      (f.st = .live → f.tsrc = 0 → Here s [(ea, 32)] true true [(y, ea, 32)] →
        ∃ t, exec (.tadv gd d a x) s = .next t ∧
          turn t = { st with status := .asleep (.tadv fid (gReg st d)) } ∧
          getField? t tag fid = some { f with due := f.due + 1, waiters := f.waiters ++ [(c, s.cur.slot, st.sid, gReg st d)] }))

/-- CHAIN with a count of 0 only moves the pc; otherwise it does one element: it loads it, runs its program, stores the
result, steps gA and gB by the two widths and gD down, and stays at the instruction while elements are left: a step does one element,
where R126 gives the whole loop as the effect (log 40, DEDUCED). v(C + 1) is read only when vC holds no END, and then traps with 0x042
when it is not allocated; a slot to run that has an operation not assigned or a reserved bit traps with 0x181 and its index and bits; the
order of the two, and that they are checked at a count of 0 too, is log 78 (06 R125 to R127). -/
def Obligations.ChainElement : Prop :=
  ∀ (gd : Guard) (d a b : GOp) (v : Fin 32) (sty dty : CvtType) (rnd : Rnd) (prop ssp dsp : Bool) (s : State)
    (xs ys : List (Xlat × Nat × Nat)) (bits : Nat), AtOnce s → Runs s gd [.g a, .g b, .v v, .g d] →
    let st := turn s
    let long := ∀ i < 4, vVal st v / 2 ^ (32 * i + 28) % 2 ^ 4 ≠ 0
    let second := v.val + 1 < 32 ∧ v.val + 1 < (turnCore s).vcount
    let prog := chainProgram (vVal st v) (vNum st (v.val + 1))
    let bad (x : Nat) : Prop := 11 ≤ x / 2 ^ 28 ∨ x / 2 ^ 16 % 2 ^ 12 ≠ 0
    let ra := gReg st a
    let rb := gReg st b
    let rd := gReg st d
    let e : ChainOp := ⟨rd, ra, rb, sty, dty, rnd, prop, ssp, dsp, prog, none⟩
    let out := chainElement e st.srstate.toNat bits
    let eb := (rdG st rb).toNat
    (long → ¬ second → exec (.chain gd d a b v sty dty rnd prop ssp dsp) s = .next (trapped s 0x042 (v.val + 1))) ∧
    ((long → second) → ∀ i x, (chainSlots prog)[i]? = some x → bad x → (∀ y ∈ (chainSlots prog).take i, ¬ bad y) →
      exec (.chain gd d a b v sty dty rnd prop ssp dsp) s = .next (trapped s 0x181 (i * 2 ^ 32 + x))) ∧
    ((long → second) → (∀ y ∈ chainSlots prog, ¬ bad y) →
    (gVal st d = 0 → exec (.chain gd d a b v sty dty rnd prop ssp dsp) s = .next (withTurn s (advanced st))) ∧
    (gVal st d ≠ 0 →
      (ssp = true → PoolHere s (rdG st ra).toNat sty.width ∧ bits = (turnCore s).pool.bits (rdG st ra).toNat sty.width) →
      (ssp = false → Here s (accessParts (rdG st ra).toNat sty.width) true false xs ∧ bits = readParts s (partsOf xs)) →
      (dsp = true → PoolHere s eb dty.width) → (dsp = false → Here s (accessParts eb dty.width) false true ys) →
      ∃ t, exec (.chain gd d a b v sty dty rnd prop ssp dsp) s = .next t ∧ ElementStep s t ∧
        (let u0 := { st with srstate := BitVec.ofNat 32 out.2, status := .ready, readySince := (turnCore s).cycles }
         let u1 := wrG u0 ra (rdG u0 ra + BitVec.ofNat 64 sty.width)
         let u2 := wrG u1 rb (rdG u1 rb + BitVec.ofNat 64 dty.width)
         let u3 := wrG u2 rd (rdG u2 rd - 1)
         TurnBecame t (if rdG u3 rd = 0 then advanced u3 else u3)) ∧
        (dsp = true → (turnCore t).pool.bits eb dty.width = out.1 % 2 ^ dty.width ∧ SparesAll s t ∧
          (∀ byte, byte < eb / 8 ∨ eb / 8 + byteSpan eb dty.width ≤ byte → (turnCore t).pool.read byte =
            (turnCore s).pool.read byte)) ∧
        (dsp = false → (turnCore t).pool = (turnCore s).pool ∧
          Spares s t (partsOf ys) ∧
          (Plain (partsOf ys) → Apart s (partsOf ys) → readParts t (partsOf ys) = out.1 % 2 ^ dty.width))))

/-! ### Engine instructions -/

/-- A copy-unit or matrix command that finds a free place issues: it takes the last place of its queue with the operands,
subfields, descriptors and loop registers as they are then, its identifier goes to gD, and a copy-unit command clears its
tag and is counted outstanding on it, with its cmb=, fwd=, ch=, sc= and prop=, or hdr=, pro= and XO; CSTAGE does the same with
an entry of the core's static schedule, in the lowest pass left to it, and traps with 0x1D0 where there is none (08 R157, R158,
R165 to R170, R173, R177). That an MDLD releases at co, and that an entry's guard and own gD count for nothing, is the model's
reading (log 79). -/
def Obligations.EngineCommandsIssue : Prop :=
  ∀ (gd : Guard) (d a b o : GOp) (oc : Fin 63) (mode : CopyMode) (tag : BitVec 6) (ch : BitVec 2) (sc : Scope)
    (cvt prop : Bool) (hdr : BitVec 3) (pro : BitVec 6) (ta tb : BitVec 12) (lm ln lk : BitVec 3) (xo : BitVec 5)
    (x : BitVec 38) (ge : Guard) (de : GOp) (s : State), AtOnce s →
    let st := turn s
    let k := turnCore s
    let c := s.cur.core
    let ptag := tagOf s c
    let desc (id : BitVec 12) : TDesc := tdescOf (nget (getPart s ptag).tensors 0 id.toNat)
    let loop (bank : Vector (BitVec 32) 8) (i : BitVec 3) : Nat := bank[i.toNat].toNat
    let ready (id : Nat) : Strand :=
      { wrG st (gReg st d) (BitVec.ofNat 64 id) with pc := nextPc st.pc, status := .ready, readySince := k.cycles }
    let common (cmd : Cmd) : Prop := cmd.core = c ∧ cmd.slot = s.cur.slot ∧ cmd.sid = st.sid ∧ cmd.pc = st.pc.toNat ∧
      cmd.st = .held ∧ cmd.node = st.node ∧ cmd.pri = st.pri
    let copyIssued (i : Instr) (tg : BitVec 6) (entry : Option (Nat × Nat)) (want : Cmd → Prop) : Prop :=
      ∃ t, exec i s = .next t ∧
      turn t = ready (2 ^ 16 + k.nextCp % 2 ^ 16) ∧ (turnCore t).tags = k.tags &&& ~~~ BitVec.ofNat 64 (2 ^ tg.toNat) ∧
      nget (turnCore t).out 0 tg.toNat = nget k.out 0 tg.toNat + 1 ∧ (turnCore t).nextCp = k.nextCp + 1 ∧ (turnCore t).q0 = k.q0 ∧
      (turnCore t).q1.length = k.q1.length + 1 ∧ ∃ cmd, (turnCore t).q1.getLast? = some cmd ∧ common cmd ∧
        cmd.id = k.nextCp ∧ cmd.tag = tg.toNat ∧ cmd.opa = gVal st a ∧ cmd.opb = gVal st b ∧
        cmd.da = desc ta ∧ cmd.vlm = loop k.lcp lm ∧ cmd.vln = loop k.lcp ln ∧ cmd.entry = entry ∧ want cmd ∧
        ∀ n p, entry = some (n, p) → nget (turnCore t).sched.released 0 n = p
    let named (m : Cmd) : Prop := m.db = desc tb ∧ m.sc = sc ∧ m.prop = prop
    let asCopy (m : Cmd) : Prop := m.kind = .copy ∧ named m ∧
      (match mode with
        | .plain cmb => m.opc = 0 ∧ cmbOf m = cmb.code ∧ isFwd m = false
        | .fwd e => m.opc = gVal st e ∧ cmbOf m = 0 ∧ isFwd m = true)
    let asCopyv (m : Cmd) : Prop := m.kind = .copyv ∧ named m ∧ m.opc = gVal st o
    let asWmark (m : Cmd) : Prop := m.kind = .wmark ∧ named m ∧ channelOf m = ⟨ch.toNat, ch.isLt⟩
    let asMdld (m : Cmd) : Prop := m.kind = .mdld ∧ m.sc = .co ∧ m.prop = false
    let matIssued (i : Instr) (third : Nat) (remote : Remote) : Prop := ∃ t, exec i s = .next t ∧
      turn t = ready (k.nextMat % 2 ^ 16) ∧ (turnCore t).nextMat = k.nextMat + 1 ∧ (turnCore t).q1 = markReady s.now 4 k.q1 ∧
        (turnCore t).tags = k.tags ∧
      ∃ cmd, (turnCore t).q0 = k.q0 ++ [cmd] ∧ common cmd ∧ cmd.kind = (if cvt then .cvt else .mac) ∧
        cmd.id = k.nextMat ∧ cmd.opa = gVal st a ∧ cmd.opb = gVal st b ∧ cmd.opc = third ∧ cmd.da = desc ta ∧
        cmd.db = desc tb ∧ cmd.vlm = loop k.lmat lm ∧ cmd.vln = loop k.lmat ln ∧ cmd.vlk = loop k.lmat lk ∧
        cmd.remote = remote ∧ cmd.prop = prop ∧ headerOf cmd = hdr.toNat ∧ promotion cmd = pro.toNat + 1 ∧ cmd.xo = xo.toNat
    (∀ n, launchNodeOf s c = some n → counterFull s ptag n = false) →
    (k.q1.length < 8 →
      (Runs s gd ([.g a, .g b] ++ modeNames mode ++ [.g d]) →
        copyIssued (.copy gd d a b mode tag sc prop ta tb lm ln) tag none asCopy) ∧
      (Runs s gd [.g a, .g b, .g o, .g d] →
        copyIssued (.copyv gd d a b o tag sc prop ta tb lm ln) tag none asCopyv) ∧
      (Runs s gd [.g a, .g b, .g d] →
        copyIssued (.wmark gd d a b tag ch sc prop ta tb lm ln) tag none asWmark ∧
        copyIssued (.mdld gd d a b tag ta lm ln) tag none asMdld) ∧
      (Runs s gd [.g o, .g d] → ∀ slot e,
        let n := (BitVec.ofNat 64 (gVal st o) + x.signExtend 64).toNat
        let staged (want : Cmd → Prop) : Prop :=
          copyIssued (.cstage gd d o x) tag (some (n, nget k.sched.released 0 n + 1)) want
        k.sched.slots[n]? = some slot → decodeSlot slot = .ok e →
        (e = .copy ge de a b mode tag sc prop ta tb lm ln → staged asCopy) ∧
        (e = .copyv ge de a b o tag sc prop ta tb lm ln → staged asCopyv) ∧
        (e = .wmark ge de a b tag ch sc prop ta tb lm ln → staged asWmark) ∧
        (e = .mdld ge de a b tag ta lm ln → staged asMdld))) ∧
    (Runs s gd [.g o, .g d] → ∀ n, n = (BitVec.ofNat 64 (gVal st o) + x.signExtend 64).toNat →
      k.sched.slots.length ≤ n → exec (.cstage gd d o x) s = .next (trapped s 0x1D0 n)) ∧
    (k.q0.length < 4 →
      (Runs s gd [.g a, .g b, .g o, .g d] →
        matIssued (.mjob gd d a b o hdr pro cvt prop ta tb lm ln lk xo) (gVal st o) .no) ∧
      (Runs s gd (namesOf (.mjobr gd d a b oc hdr pro cvt prop ta tb lm ln lk xo)) →
        let cap := gVal st (.g ⟨oc.val + 1, by omega⟩)
        matIssued (.mjobr gd d a b oc hdr pro cvt prop ta tb lm ln lk xo) (gVal st (.g ⟨oc.val, by omega⟩))
          (.onWay (cap / 2 ^ 55 % 2 ^ 9) cap)))

/-- TWAIT returns when every tag of its mask is set and none carries a fault of the strand, and sleeps until then; TFIND
returns the lowest set tag of its mask, or 64; TCLR clears the tags of its mask. The mask is gA or X sign-extended, bit by
bit. Where no copy has a write under way, neither acquires anything, and nothing else changes (08 R170, R171; 13 R249).
TDSET writes a descriptor of the partition's table, or traps with 0x1D1 on a valid one that R161 refuses; TDGET reads one;
both trap with 0x042 when v(A + 1), or v(D + 1), is not allocated; LSET writes a loop register of the matrix or the copy
bank (08 R159, R161, R162). -/
def Obligations.TagsAndTables : Prop :=
  (∀ (gd : Guard) (d a : GOp) (x : BitVec 38) (s : State),
     let st := turn s
     let k := turnCore s
     let m : BitVec 64 := BitVec.ofNat 64 (gVal st a) ||| x.signExtend 64
     let ready (u : Strand) : Strand := { u with pc := nextPc st.pc, status := .ready, readySince := k.cycles }
     let noCopies : Prop := ∀ e ∈ s.cores, ∀ q ∈ e.2.requests ++ e.2.reds, q.copy = none
     (Runs s gd [.g a] →
       exec (.tclr gd a x) s = .next (withTurn (putCore s s.cur.core { k with tags := k.tags &&& ~~~ m }) (advanced st)) ∧
       ((∀ f ∈ s.pending, f.sid = st.sid → f.core = s.cur.core → f.tag = none) →
         (k.tags &&& m = m → noCopies → exec (.twait gd a x) s = .next (withTurn s (ready st))) ∧
         (k.tags &&& m ≠ m → strandCancelled s s.cur.core s.cur.slot = false →
           ∃ t, exec (.twait gd a x) s = .next t ∧ turn t = { st with status := .asleep (.twait m.toNat) }))) ∧
     (Runs s gd [.g a, .g d] → (∀ f ∈ s.pending, f.sid = st.sid → f.core = s.cur.core → f.tag = none) → noCopies →
       exec (.tfind gd d a x) s = .next (withTurn s (ready (wrG st (gReg st d)
         (BitVec.ofNat 64 ((List.range 64).takeWhile fun i => !(k.tags &&& m).getLsbD i).length)))))) ∧
  (∀ (gd : Guard) (a : GOp) (v : Fin 32) (w : Fin 32) (ta : BitVec 12) (cp : Bool) (lr : BitVec 3) (x : BitVec 38)
     (s : State),
     let st := turn s
     let k := turnCore s
     let tag := tagOf s s.cur.core
     let bits := vVal st v + vVal st w * 2 ^ 128
     let table := (getPart s tag).tensors
     let old := nget table 0 ta.toNat
     let value : BitVec 32 := BitVec.truncate 32 (BitVec.ofNat 64 (gVal st a) + x.signExtend 64)
     (Runs s gd [.v v] → k.vcount ≤ v.val + 1 ∨ v.val = 31 →
       exec (.tdset gd v ta) s = .next (trapped s 0x042 (v.val + 1)) ∧
       exec (.tdget gd v ta) s = .next (trapped s 0x042 (v.val + 1))) ∧
     (Runs s gd [.v v] → w.val = v.val + 1 → w.val < k.vcount →
       ((tdescOf bits).valid = false ∨ tdescBad (tdescOf bits) = false → exec (.tdset gd v ta) s = .next (withTurn
         (putPart s tag { getPart s tag with tensors := nset table ta.toNat bits }) (advanced st))) ∧
       ((tdescOf bits).valid = true → tdescBad (tdescOf bits) = true →
         exec (.tdset gd v ta) s = .next (trapped s 0x1D1 ta.toNat)) ∧
       exec (.tdget gd v ta) s = .next (withTurn s (advanced
         (wrV (wrV st v (BitVec.ofNat 128 old)) w (BitVec.ofNat 128 (old / 2 ^ 128)))))) ∧
     (Runs s gd [.g a] → exec (.lset gd a cp lr x) s = .next (withTurn (putCore s s.cur.core
       (if cp then { k with lcp := k.lcp.set lr.toNat value } else { k with lmat := k.lmat.set lr.toNat value }))
       (advanced st))))

/-- MPOLL and MWAIT pop the record of the strand's earliest job, and MPOLL returns all ones when there is none; MCLR clears
a tile header that no job names; MBURST declares a burst and ramps the engine (to the highest class, the model's reading,
log 21), or ends one; ADDW, RNDW and CLRW act on the window accumulator (08 R176, R178, R179, R183). -/
def Obligations.MatrixRecordsAndWindow : Prop :=
  ∀ (gd : Guard) (d : GOp) (a : GV) (sf : AddwType) (hdr lm : BitVec 3) (clr : Bool) (r : Result) (s : State),
    let st := turn s
    let k := turnCore s
    let c := s.cur.core
    let put (k' : CoreSt) (u : Strand) : Host.Outcome State Fault Refusal := .next (withTurn (putCore s c k') u)
    let ready (v : Word) : Strand :=
      { wrG st (gReg st d) v with pc := nextPc st.pc, status := .ready, readySince := k.cycles }
    let n := k.lmat[lm.toNat].toNat
    (Runs s gd [.g d] →
      ((∀ m ∈ k.q0, m.sid ≠ st.sid) → (∀ e ∈ k.res, e.sid ≠ st.sid) →
        exec (.mpoll gd d) s = .next (withTurn s (ready (-1)))) ∧
      (r ∈ k.res → r.sid = st.sid → (∀ m ∈ k.q0, m.sid = st.sid → r.job ≤ m.id) →
        (∀ e ∈ k.res, e.sid = st.sid → e ≠ r → r.job < e.job) →
        (∀ f ∈ s.pending, f.sid = st.sid → f.core = c → f.job ≠ some r.job) →
        exec (.mpoll gd d) s = put { k with res := k.res.erase r } (ready (BitVec.ofNat 64 r.word)) ∧
        exec (.mwait gd d) s = put { k with res := k.res.erase r } (ready (BitVec.ofNat 64 r.word))) ∧
      exec (.rndw gd d clr) s = (if clr then put { k with win := WinAcc.clear } else fun u => .next (withTurn s u))
        (advanced (wrG st (gReg st d) (BitVec.ofNat 64 k.win.round)))) ∧
    (Runs s gd [namedGV a] → exec (.addw gd a sf) s =
      put { k with win := (addwValues st a sf).foldl WinAcc.add k.win } (advanced st)) ∧
    (Runs s gd [] →
      exec (.clrw gd) s = put { k with win := WinAcc.clear } (advanced st) ∧
      ((∀ m ∈ k.q0, m.remote = .no → m.st ≠ .done → m.m % 8 ≠ hdr.toNat) →
        exec (.mclr gd hdr) s = put { k with th := k.th.set hdr.toNat 0 } (advanced st)) ∧
      (n = 0 → exec (.mburst gd lm) s = put { k with burst := none } (advanced st)) ∧
      (n ≠ 0 → isMgmt c = false → exec (.mburst gd lm) s = .next (withTurn (putCore
        (putCluster s (clusterOf c) { getCluster s (clusterOf c) with rampClass := some 3 }) c
        { k with burst := some ⟨n, s.now⟩ }) (advanced st))))

/-! ### Tasks -/

/-- FORK and SPAWNR push a child record on the head of the strand's own deque, with the operands and the registers R188 gives
it, count it in its node and disarm the strand's monitors; nothing else changes (09 R185, R188; 15 R277; 16 R284). That
the check of the target fills no cache and no TLB, and leaves a line that cannot be read to the child, is the model's
reading (logs 12, 70), and so is the child's identity (log 7). The traps of the task instructions, in their order: FORK on
its target, on a node that is absent or has ended, on a full deque and on a full counter; the others on a node that is
absent (JOIN before its own strand's cancellation: log 83); EXIT, and a YIELD at which a strand of a cancelled node would
retire, on a node that counts nothing; CLAMP on a clamp that is not configured (09 R188, R193, R195 to R198, R212; 15
R277). -/
def Obligations.ForksAndTraps : Prop :=
  (∀ (gd : Guard) (d a b o : GOp) (pri : PriSel) (grain : BitVec 6) (x : BitVec 38) (s : State) (nd : Node),
     AtOnce s → LoadCellPlain s s.cur.core →
     let st := turn s
     let k := turnCore s
     let c := s.cur.core
     let tag := tagOf s c
     let n := gVal st d % 2 ^ 12
     let target : Word := BitVec.ofNat 64 (gVal st a) + x.signExtend 64
     let child : Rec :=
       { pc := target, g3 := rdG st 3, g4 := rdG st 4, g5 := rdG st 5, node := n,
         pri := (match pri with | .same => st.pri | .pri p => p.val), kidx := st.kidx,
         checkTgt := checkTarget s c s.cur.slot target.toNat == .later, agedAt := s.now, sid := s.nextSid }
     let pushed (i : Instr) (r : Rec) : Prop := ∃ t, exec i s = .next t ∧ TaskStep s t tag n ∧
       turn t = advanced { disarmAll st with badLine := if child.checkTgt then none else st.badLine } ∧ getNode? t tag n = some { nd with cnt := nd.cnt + 1 } ∧
       (turnCore t).deque.head? = some r ∧
       (k.deque.length < 32 → (turnCore t).deque = r :: k.deque ∧ (turnCore t).ring = k.ring)
     getNode? s tag n = some nd → nodeLives nd = true → nd.cnt + 1 < 2 ^ 32 → roomHead k = true →
     strandCancelled s c s.cur.slot = false → (∀ code, checkTarget s c s.cur.slot target.toNat ≠ .fails code) →
     (∀ dev, checkTarget s c s.cur.slot target.toNat ≠ .ask dev) →
     (Runs s gd [.g a, .g b, .g d] → pushed (.fork gd d a b pri x)
       { child with fp := BitVec.ofNat 64 (gVal st b), g1 := rdG st 1, g2 := rdG st 2 }) ∧
     (Runs s gd [.g a, .g b, .g o, .g d] → pushed (.spawnr gd d a b o pri grain x)
       { child with
         fp := st.frame, g1 := BitVec.ofNat 64 (gVal st b), g2 := BitVec.ofNat 64 (gVal st o), kind := .range
         grain := grain.toNat })) ∧
  (∀ (gd : Guard) (d a b : GOp) (pri : PriSel) (lvl : OpenLevel) (x : BitVec 38) (s : State),
     let st := turn s
     let k := turnCore s
     let c := s.cur.core
     let tag := tagOf s c
     let target : Nat := (BitVec.ofNat 64 (gVal st a) + x.signExtend 64).toNat
     let n := gVal st d % 2 ^ 12
     let m := gVal st a % 2 ^ 12
     (Runs s gd [.g a, .g b, .g d] →
       (∀ code, checkTarget s c s.cur.slot target = .fails code → exec (.fork gd d a b pri x) s = .next (trapped s code target)) ∧
       ((∀ code, checkTarget s c s.cur.slot target ≠ .fails code) → (∀ dev, checkTarget s c s.cur.slot target ≠ .ask dev) →
         (liveNode? s tag n = none → exec (.fork gd d a b pri x) s = .next (trapped s 0x203 n)) ∧
         (∀ nd, liveNode? s tag n = some nd → strandCancelled s c s.cur.slot = false →
           (roomHead k = false → exec (.fork gd d a b pri x) s = .next (trapped s 0x201 n)) ∧
           (roomHead k = true → 2 ^ 32 ≤ nd.cnt + 1 → exec (.fork gd d a b pri x) s = .next (trapped s 0x206 n)))) ∧
       (liveNode? s tag m = none →
         exec (.lvladdAdd gd d a b x) s = .next (trapped s 0x203 m) ∧
         exec (.lvladdOpen gd d a b lvl x) s = .next (trapped s 0x203 m)) ∧
       (getNode? s tag m = none → exec (.lvladdDrain gd d a b x) s = .next (trapped s 0x203 m))) ∧
     (∀ nd, getNode? s tag st.node = some nd → nd.cnt = 0 → Runs s gd [] →
       exec (.exit gd) s = .next (trapped s 0x206 st.node) ∧
       (nd.cf = true → exec (.yield gd) s = .next (trapped s 0x206 st.node))) ∧
     (getNode? s tag m = none →
       (Runs s gd [.g a] → exec (.join gd a) s = .next (trapped s 0x203 m) ∧
         exec (.cancel gd a) s = .next (trapped s 0x203 m)) ∧
       (Runs s gd [.g a, .g d] → exec (.lvlwait gd d a) s = .next (trapped s 0x203 m))) ∧
     (Runs s gd [.g a, .g d] → (nget (getPart s tag).clamps {} (target % 64)).kind = 0 →
       exec (.clamp gd d a x) s = .next (trapped s 0x205 (target % 64))))

/-- JOIN passes a node whose counter is 0 and otherwise leaves its strand's record at the node; YIELD moves it to the tail of
the deque, when that has room; EXIT frees the slot and counts down in the strand's node, and a launch node that reaches 0
puts its launch in RETIRING; RNEXT takes the next index of a range, or returns all ones (09 R187, R189, R192 to R194;
14 R263; 15 R276, R277). -/
def Obligations.JoinYieldExit : Prop :=
  ∀ (gd : Guard) (d a : GOp) (s : State) (nd : Node), AtOnce s → LoadCellPlain s s.cur.core →
    let st := turn s
    let k := turnCore s
    let c := s.cur.core
    let tag := tagOf s c
    let n := gVal st a % 2 ^ 12
    let saved (pc : Word) : Rec :=
      { pc := pc, fp := st.frame, g1 := if st.kind = .range then st.rlo else rdG st 1
        g2 := if st.kind = .range then st.rhi else rdG st 2
        g3 := rdG st 3, g4 := rdG st 4, g5 := rdG st 5, node := st.node, grain := st.grain, pri := st.pri, kind := st.kind
        kidx := st.kidx, sid := st.sid, stage := st.stage }
    (Runs s gd [.g a] → getNode? s tag n = some nd → strandCancelled s c s.cur.slot = false →
      (nd.cnt = 0 → exec (.join gd a) s = .next (withTurn s (advanced st))) ∧
      (nd.cnt ≠ 0 → ∃ t, exec (.join gd a) s = .next t ∧ TaskStep s t tag n ∧ turn t = {} ∧
        (turnCore t).deque = k.deque ∧ (turnCore t).ring = k.ring ∧
        getNode? t tag n = some { nd with held := nd.held ++ [{ saved st.pc with waiting := true, joinCore := c }] })) ∧
    (Runs s gd [] →
      (strandCancelled s c s.cur.slot = false →
        (roomTail k = false → exec (.yield gd) s = .next (withTurn s (advanced st))) ∧
        (roomTail k = true → ∃ t, exec (.yield gd) s = .next t ∧ TaskStep s t tag n ∧ turn t = {} ∧
          (turnCore t).deque ++ (turnCore t).ring =
            k.deque ++ k.ring ++ [{ saved (nextPc st.pc) with agedAt := s.now }])) ∧
      ((∀ e ∈ s.cores, ∀ p ∈ e.2.q2, p.sid ≠ st.sid) → (∀ f ∈ s.pending, f.sid ≠ st.sid) → st.stage = none → getNode? s tag st.node = some nd →
        nodeLives nd = true →
        (1 < nd.cnt → ∃ t, exec (.exit gd) s = .next t ∧ turn t = {} ∧
          getNode? t tag st.node = some { nd with cnt := nd.cnt - 1 }) ∧
        (nd.cnt = 1 → nd.lvl = 1 → nd.held = [] → ∀ i x, (getPart s tag).launches.find? (fun e => e.2.node == st.node) =
          some (i, x) → x.st = .running → ∃ t, exec (.exit gd) s = .next t ∧ turn t = {} ∧
            getNode? t tag st.node = some { nd with cnt := 0 } ∧ getLaunch? t tag i = some { x with st := .retiring }))) ∧
    (Runs s gd [.g d] → ∃ t, exec (.rnext gd d) s = .next t ∧ MemoryStep s t ∧ TurnBecame t (advanced
      (if st.kind = .range ∧ st.rlo.toNat < st.rhi.toNat then
        { wrG st (gReg st d) st.rlo with rlo := st.rlo + 1 }
      else wrG st (gReg st d) (-1))))

/-- STEAL senses its window of the load field: it returns at once where every value is 0, and otherwise asks the core it chose
and waits (09 R191). CLAMP sends its arrival and waits; LAUNCH is accepted, with a launch node DRAINING at 0 beneath its
parent, or traps with 0x203, 0x206 or 0x202, and waits for its placement (09 R198, R199; 14 R257; 15 R276, R277). That 0x206 comes
before 0x202 is the model's order (log 83), and which free index the node takes is its choice in part (log 14). -/
def Obligations.StealClampLaunch : Prop :=
  ∀ (gd : Guard) (d a b o : GOp) (win : Window) (x : BitVec 38) (s : State) (pn : Node) (kn : Kernel) (m : Nat) (p' : Partn),
    AtOnce s →
    let st := turn s
    let c := s.cur.core
    let tag := tagOf s c
    let p := getPart s tag
    let asleep (w : Wait) : Strand := { st with status := .asleep w }
    let choice := stealChoice s c win 0
    let clamp := (BitVec.ofNat 64 (gVal st a) + x.signExtend 64).toNat % 64
    let kidx := gVal st a % 2 ^ 16
    let cores := gVal st a / 2 ^ 16 % 2 ^ 16
    let parent := gVal st o % 2 ^ 12
    (Runs s gd [.g d] →
      (choice.2.2.2 = none → exec (.steal gd d win) s = .next (withTurn s (goesOn s c (wrG st (gReg st d)
        (BitVec.ofNat 64 (choice.2.1 % 2 ^ 16 * 2 ^ 32 + choice.2.2.1 % 2 ^ 16 * 2 ^ 16 + choice.1 % 2 ^ 16)))))) ∧
      (∀ v, choice.2.2.2 = some v → exec (.steal gd d win) s = .next (withTurn
        { s with steals := s.steals ++ [⟨c, some (s.cur.slot, st.sid), v, (turnCore s).kidx, none⟩] }
        (asleep (.steal (gReg st d) choice.2.1 choice.2.2.1 choice.1))))) ∧
    (strandCancelled s c s.cur.slot = false →
      (Runs s gd [.g a, .g d] → (nget p.clamps {} clamp).kind ≠ 0 →
        ∃ t, exec (.clamp gd d a x) s = .next t ∧ turn t = asleep (.clamp clamp (gReg st d) none) ∧
          getPart t tag = { p with arrivals := p.arrivals ++ [(clamp, c, s.cur.slot, st.sid)] }) ∧
      (Runs s gd [.g a, .g b, .g o, .g d] →
        (∀ code tval, launchCheck s tag kidx cores = some (code, tval) →
          exec (.launch gd d a b o) s = .next (trapped s code tval)) ∧
        (launchCheck s tag kidx cores = none →
          (launchParentOk s tag parent = false → exec (.launch gd d a b o) s = .next (trapped s 0x203 parent)) ∧
          (launchParentOk s tag parent = true → getNode? s tag parent = some pn →
            (2 ^ 32 ≤ pn.cnt + 1 → exec (.launch gd d a b o) s = .next (trapped s 0x206 parent)) ∧
            (pn.cnt + 1 < 2 ^ 32 → (getTenant s p.tenant).nodeQuota ≤ tenantNodes s p.tenant →
              exec (.launch gd d a b o) s = .next (trapped s 0x202 parent))) ∧
          (launchParentOk s tag parent = true → getNode? s tag parent = some pn → pn.cnt + 1 < 2 ^ 32 →
            getKernel? s tag kidx = some kn → tenantNodes s p.tenant < (getTenant s p.tenant).nodeQuota →
            nodeStoreRoom s p.tenant = true →
            pickNode p = some (m, p') → m ≠ parent →
            ∃ t, exec (.launch gd d a b o) s = .next t ∧ turn t = asleep (.launch p.launchNext (gReg st d)) ∧
              getLaunch? t tag p.launchNext = some
                { kidx := kidx, n := if cores = 0 then p.cores.length else cores, node := m, parent := parent,
                  fp := BitVec.ofNat 64 (gVal st b), waiter := some ⟨c, s.cur.slot⟩, waiterSid := st.sid } ∧
              getNode? t tag m = some
                { hpc := kn.jig.tvec, parent := parent, lvl := 1, status := .draining, cf := pn.cf, cfCore := pn.cfCore } ∧
              getNode? t tag parent = some { pn with cnt := pn.cnt + 1 }))))

/-- LVLADD adds to a node's counter, opens a node beneath one, or drains one, and returns the counter or the new index; a node
that is drained at 0 is COMPLETE and counts down in its parent. LVLWAIT returns the status of a node that has ended, or
sleeps. CANCEL sets a node's cancel flag (09 R196, R197; 15 R274, R276 to R278). Which free index a new node takes is the
model's choice in part (log 14); that a drain of a node that is DRAINING or has ended traps with 0x203 is its reading (log 57). -/
def Obligations.LevelNodes : Prop :=
  ∀ (gd : Guard) (d a b : GOp) (lvl : OpenLevel) (x : BitVec 38) (s : State) (nd pn : Node) (m : Nat) (p' : Partn),
    AtOnce s →
    let st := turn s
    let c := s.cur.core
    let tag := tagOf s c
    let p := getPart s tag
    let n := gVal st a % 2 ^ 12
    let addend : Word := BitVec.ofNat 64 (gVal st b) + x.signExtend 64
    let r : Int := nd.cnt + addend.toInt
    let lv := match lvl with | .unit => 0 | .graph => 2 | .phase => 3 | .job => 4
    let returns (i : Instr) (v : Nat) (others : State → Prop) : Prop := ∃ t, exec i s = .next t ∧
      turn t = goesOn s c (wrG st (gReg st d) (BitVec.ofNat 64 v)) ∧ others t
    getNode? s tag n = some nd →
    (Runs s gd [.g a, .g b, .g d] → nodeLives nd = true →
      (0 < r → r < 2 ^ 32 → returns (.lvladdAdd gd d a b x) r.toNat fun t =>
        TaskStep s t tag n ∧ getNode? t tag n = some { nd with cnt := r.toNat }) ∧
      (r = 0 → nd.status = .opened → nd.cf = false → nd.lvl ≠ 1 → nd.held = [] → returns (.lvladdAdd gd d a b x) 0 fun t =>
        TaskStep s t tag n ∧ getNode? t tag n = some { nd with cnt := 0 }) ∧
      (r < 0 ∨ 2 ^ 32 ≤ r → exec (.lvladdAdd gd d a b x) s = .next (trapped s 0x206 n)) ∧
      (nd.lvl ≤ lv → exec (.lvladdOpen gd d a b lvl x) s = .next (trapped s 0x203 n)) ∧
      (lv < nd.lvl → nd.cnt + 1 < 2 ^ 32 →
        ((getTenant s p.tenant).nodeQuota ≤ tenantNodes s p.tenant →
          exec (.lvladdOpen gd d a b lvl x) s = .next (trapped s 0x202 n)) ∧
        (tenantNodes s p.tenant < (getTenant s p.tenant).nodeQuota → nodeStoreRoom s p.tenant = true →
          pickNode p = some (m, p') → m ≠ n → nd.cf = false →
          returns (.lvladdOpen gd d a b lvl x) m fun t =>
            getNode? t tag m = some
              { hpc := nd.hpc, cnt := (addend.truncate 32).toNat, parent := n, lvl := lv, status := .opened, cfCore := nd.cfCore } ∧
            getNode? t tag n = some { nd with cnt := nd.cnt + 1 })) ∧
      (nd.status ≠ .opened → exec (.lvladdDrain gd d a b x) s = .next (trapped s 0x203 n)) ∧
      (nd.status = .opened →
        (nd.cnt ≠ 0 → returns (.lvladdDrain gd d a b x) nd.cnt fun t =>
          TaskStep s t tag n ∧ getNode? t tag n = some { nd with status := .draining }) ∧
        (nd.cnt = 0 → nd.cf = false → nd.lvl ≠ 1 → nd.held = [] → nd.parent ≠ 0 → nd.parent ≠ n →
          nd.parent < 4096 → getNode? s tag nd.parent = some pn → nodeLives pn = true → 1 < pn.cnt →
          (∀ e ∈ p.nodes, e.1 = upOf pn → e.2.parent ≠ n) →
          returns (.lvladdDrain gd d a b x) 0 fun t =>
            getNode? t tag n = some { nd with status := .complete } ∧
            getNode? t tag nd.parent = some { pn with cnt := pn.cnt - 1 }))) ∧
    (Runs s gd [.g a, .g d] →
      (nd.status = .complete → exec (.lvlwait gd d a) s = .next (withTurn s (goesOn s c (wrG st (gReg st d) 2)))) ∧
      (nd.status = .cancelled → exec (.lvlwait gd d a) s = .next (withTurn s (goesOn s c (wrG st (gReg st d) 3)))) ∧
      (nodeLives nd = true → strandCancelled s c s.cur.slot = false → ∃ t, exec (.lvlwait gd d a) s = .next t ∧
        turn t = { st with status := .asleep (.lvlwait n (gReg st d) none) })) ∧
    (Runs s gd [.g a] →
      (nodeLives nd = false → ∃ t, exec (.cancel gd a) s = .next t ∧ TaskStep s t tag n ∧ turn t = advanced st ∧
        getNode? t tag n = some nd) ∧
      (nodeLives nd = true → nd.cnt ≠ 0 → nd.lvl ≠ 1 → sleepersUnder s tag n = [] → heldUnder s tag n = [] →
        (∀ e ∈ s.cores, e.2.q1 = []) → ∃ t, exec (.cancel gd a) s = .next t ∧ TaskStep s t tag n ∧ turn t = advanced st ∧
          getNode? t tag n = some { nd with cf := true, cfCore := some c }))

/-! ### Delta queues and arrangements -/

/-- DQPUSH takes the next place of q2 with the record its operands give, or sleeps while there is none or a drain of the queue
waits; DQPOP writes the oldest drained record to vD and v(D + 1), after a drain when the ring is empty, and sleeps when
there is none; each traps with 0x281 on a queue that is not bound, and DQPOP with 0x282 on a stage queue and 0x042 when
v(D + 1) is not allocated (09 R200, R201; 16 R288). That a queue bound by any launch of the partition counts as bound is
the model's reading (log 53), and so is the order 0x281, 0x282, 0x042 (log 44). QWAIT returns when every queue of its
graph holds nothing of its epoch or below, in buffer, ring or live batches, and sleeps until then; it traps with 0x203 on
a node that is absent or no graph node (09 R203; 16 R289). -/
def Obligations.DeltaQueues : Prop :=
  (∀ (gd : Guard) (a b o : GOp) (d e : Fin 32) (q : BitVec 5) (s : State) (x : Queue), AtOnce s →
     let st := turn s
     let k := turnCore s
     let c := s.cur.core
     let tag := tagOf s c
     let word : Word := BitVec.ofNat 64 (gVal st o)
     let popped (r : DRec) : Strand := goesOn s c (wrV
       (wrV st d (BitVec.ofNat 128 (r.key % 2 ^ 64 + r.value % 2 ^ 64 * 2 ^ 64))) e
       (BitVec.ofNat 128 ((r.mult % 2 ^ 32).toNat + r.epoch % 2 ^ 32 * 2 ^ 32)))
     let takes (r : DRec) (y : Queue) : Prop :=
       exec (.dqpop gd d q) s = .next (withTurn (putQueue s tag q.toNat y) (popped r))
     (getQueue? s tag q.toNat = none →
       (Runs s gd [.g a, .g b, .g o] → exec (.dqpush gd a b o q) s = .next (trapped s 0x281 q.toNat)) ∧
       (Runs s gd [.v d] → exec (.dqpop gd d q) s = .next (trapped s 0x281 q.toNat))) ∧
     (getQueue? s tag q.toNat = some x →
       (Runs s gd [.v d] →
         (x.stagePc ≠ 0 → exec (.dqpop gd d q) s = .next (trapped s 0x282 q.toNat)) ∧
         (x.stagePc = 0 → k.vcount ≤ d.val + 1 ∨ d.val = 31 →
           exec (.dqpop gd d q) s = .next (trapped s 0x042 (d.val + 1)))) ∧
       ((∀ f ∈ s.pending, f.sid = st.sid → f.tag ≠ none ∨ f.job ≠ none) →
         (Runs s gd [.g a, .g b, .g o] → 4 ≤ k.q2.length ∨ x.draining = true → strandCancelled s c s.cur.slot = false →
           ∃ t p, exec (.dqpush gd a b o q) s = .next t ∧ turn t = { st with status := .asleep (.pushPlace p) } ∧
             p.queue = q.toNat ∧ p.drec.key = gVal st a ∧ p.drec.value = gVal st b) ∧
         (Runs s gd [.g a, .g b, .g o] → k.q2.length < 4 → x.draining = false → ∃ t, exec (.dqpush gd a b o q) s = .next t ∧
           turn t = goesOn s c st ∧ (turnCore t).q2 = k.q2 ++
             [{ sid := st.sid, slot := s.cur.slot, node := st.node, kidx := st.kidx, tag := tag, queue := q.toNat,
                seq := pushSeq s st.sid,
                drec := { key := gVal st a, value := gVal st b, mult := (word.truncate 32).toInt,
                          epoch := (word.extractLsb' 32 32).toNat } }]) ∧
         (Runs s gd [.v d] → x.stagePc = 0 → e.val = d.val + 1 → e.val < k.vcount →
           (∀ r rest, x.ring = r :: rest → takes r { x with ring := rest }) ∧
           (∀ r, x.ring = [] → x.buf = [r] → takes r.1 { x with buf := [], draining := false }) ∧
           (x.ring = [] → x.buf = [] → strandCancelled s c s.cur.slot = false → ∃ t, exec (.dqpop gd d q) s = .next t ∧
             turn t = { st with status := .asleep (.dqpop q.toNat d) }))))) ∧
  (∀ (gd : Guard) (a b : GOp) (s : State), AtOnce s →
     let st := turn s
     let c := s.cur.core
     let tag := tagOf s c
     let n := gVal st b % 2 ^ 12
     let e := gVal st a % 2 ^ 32
     let holds (x : Queue) : Prop := (∃ r ∈ x.buf, r.1.epoch ≤ e) ∨ (∃ r ∈ x.ring, r.epoch ≤ e) ∨ ∃ y ∈ x.live, y ≤ e
     Runs s gd [.g a, .g b] →
     ((∀ x, getNode? s tag n = some x → x.lvl ≠ 2) → exec (.qwait gd a b) s = .next (trapped s 0x203 n)) ∧
     (∀ x, getNode? s tag n = some x → x.lvl = 2 → (∀ f ∈ s.pending, f.sid = st.sid → f.tag ≠ none ∨ f.job ≠ none) →
       (∀ k ∈ s.cores, k.2.q2 = []) →
       ((∀ q ∈ graphQueues s tag n, ∀ y, getQueue? s tag q = some y → ¬ holds y) →
         ∃ t, exec (.qwait gd a b) s = .next t ∧ turn t = goesOn s c st) ∧
       (strandCancelled s c s.cur.slot = false → (∃ q ∈ graphQueues s tag n, ∃ y, getQueue? s tag q = some y ∧ holds y) →
         ∃ t, exec (.qwait gd a b) s = .next t ∧ turn t = { st with status := .asleep (.qwait n e) })))

/-- ARRADD adds to the multiplicity of one pair, returns the sum and leaves every other pair, or traps with 0x285, 0x283 or
0x284; a full arrangement takes a sum for a pair that it holds, and one of multiplicity 0. ARRGET writes the pairs of a key by rising
value, and returns how many there are (09 R202; 16 R291). That it needs pages for the pairs it writes alone (log 50), and that any
launch's arrangement of the partition is bound (log 53), are the model's readings. -/
def Obligations.Arrangements : Prop :=
  ∀ (gd : Guard) (d a b o : GOp) (arr : BitVec 4) (s : State) (x : Arr) (ps : List (Nat × Int))
    (xs : List (Xlat × Nat × Nat)), AtOnce s →
    let st := turn s
    let c := s.cur.core
    let tag := tagOf s c
    let p := getPart s tag
    let held (z : Arr) (k v : Nat) : Option Int := (z.entries.find? fun e => e.1 == k && e.2.1 == v).map (·.2.2)
    let mult (z : Arr) (k v : Nat) : Int := (held z k v).getD 0
    let m : Int := ((BitVec.ofNat 64 (gVal st o)).truncate 32).toInt
    let key := gVal st a
    let sum := mult x key (gVal st b) + m
    let n := min (gVal st o) ps.length
    (nget? p.arrs arr.toNat = none → Runs s gd [.g a, .g b, .g o, .g d] →
      exec (.arradd gd d a b o arr) s = .next (trapped s 0x285 arr.toNat) ∧
      exec (.arrget gd d a b o arr) s = .next (trapped s 0x285 arr.toNat)) ∧
    (nget? p.arrs arr.toNat = some x → Runs s gd [.g a, .g b, .g o, .g d] →
      (held x key (gVal st b) ≠ none → (sum < -2 ^ 31 ∨ 2 ^ 31 ≤ sum) →
        exec (.arradd gd d a b o arr) s = .next (trapped s 0x283 arr.toNat)) ∧
      (held x key (gVal st b) = none → m ≠ 0 → 65536 ≤ x.entries.length →
        exec (.arradd gd d a b o arr) s = .next (trapped s 0x284 arr.toNat)) ∧
      (-2 ^ 31 ≤ sum → sum < 2 ^ 31 → held x key (gVal st b) ≠ none ∨ m = 0 ∨ x.entries.length < 65536 →
        ∃ t y, exec (.arradd gd d a b o arr) s = .next t ∧
          turn t = goesOn s c (wrG st (gReg st d) (BitVec.ofInt 64 sum)) ∧
          getPart t tag = { p with arrs := nset p.arrs arr.toNat y } ∧ y.launch = x.launch ∧
          mult y key (gVal st b) = sum ∧ (sum = 0 → held y key (gVal st b) = none) ∧
          ∀ k' v', (k', v') ≠ (key, gVal st b) → held y k' v' = held x k' v') ∧
      (ps.Pairwise (fun e f => e.1 < f.1) →
        ps.Perm ((x.entries.filter fun e => e.1 == key).map fun e => (e.2.1, e.2.2)) →
        Here s (lineParts (n + 2) (gVal st b) (128 * n)) false true xs → Plain (partsOf xs) →
        ∃ t, exec (.arrget gd d a b o arr) s = .next t ∧ MemoryStep s t ∧
          TurnBecame t (goesOn s c (wrG st (gReg st d) (BitVec.ofNat 64 ps.length))) ∧
          Spares s t (partsOf xs) ∧
          (Apart s (partsOf xs) → ∀ i (h : i < ps.length), i < n →
            bitsAt (readParts t (partsOf xs)) (128 * i) 64 = ps[i].1 % 2 ^ 64 ∧
            bitsAt (readParts t (partsOf xs)) (128 * i + 64) 64 = (ps[i].2 % 2 ^ 32).toNat)))

/-! ### Control registers and the system instructions -/

/-- CRR reads every control register as R204 lists them, the half that hi= selects; FEAT reads a bit of CAPS (01 R9; 09 R204,
R205, R211). CRW writes the control registers that R204 lets it write; a write of any other has no effect but the pc's. A
write of a channel register clears its FILL; SRSTATE takes 1 for 0 (01 R9; 02 R28; 08 R167; 09 R204). -/
def Obligations.ControlRegisters : Prop :=
  (∀ (gd : Guard) (d a : GOp) (kd : Fin 8) (hi : Bool) (cr : Cr) (x : BitVec 38) (s : State),
     let st := turn s
     let k := turnCore s
     let c := s.cur.core
     let p := getPart s (tagOf s c)
     let kind := match st.kind with | .plain => 0 | .range => 1 | .stage => 2
     let bits : Nat := match cr with
       | .core => c
       | .strand => strandNumber s c s.cur.slot
       | .part => p.cores.length * 2 ^ 16 + tagOf s c
       | .pword => k.pword.toNat
       | .caps => 2 ^ 14 - 1
       | .fduty => k.fduty
       | .status => kind * 2 ^ 6 + st.pri % 8 * 2 ^ 3 + (if isMgmt c then 2 else 0) + (if st.intrap then 1 else 0)
       | .cause => st.cause.toNat
       | .epc => st.epc.toNat
       | .tval => st.tval.toNat
       | .tvec => st.tvec.toNat
       | .eopd => st.eopd.toNat
       | .frame => st.frame.toNat
       | .node => st.node
       | .rlo => st.rlo.toNat
       | .rhi => st.rhi.toNat
       | .srstate => st.srstate.toNat
       | .lfbase => p.lfbase.toNat
       | .dbell => p.dbell.toNat
       | .tags => k.tags.toNat
       | .vfail => k.vfail.toNat
       | .xbwait => k.xbwait.toNat
       | .acnt => k.acnt.toNat
       | .wch n => k.wch[n].base % 2 ^ 64 * 2 ^ 64 + k.wch[n].len % 2 ^ 32 * 2 ^ 32 + k.wch[n].fill % 2 ^ 32
       | .th n => k.th[n].toNat
       | .privc => k.privc
     (Runs s gd [.g d] → (cr = .privc → isMgmt c = true) →
       exec (.crr gd d hi cr) s = .next (withTurn s (advanced (wrG st (gReg st d)
         (BitVec.ofNat 64 (if hi then bits / 2 ^ 64 else bits)))))) ∧
     (Runs s gd [.g a] → exec (.feat gd kd a x) s = .next (withTurn s (advanced (wrK st kd
       (decide ((BitVec.ofNat 64 (gVal st a) + x.signExtend 64).toNat % 128 < 14))))))) ∧
  (∀ (gd : Guard) (a : GOp) (hi : Bool) (cr : Cr) (s : State),
     let st := turn s
     let k := turnCore s
     let v : Word := BitVec.ofNat 64 (gVal st a)
     let strand (u : Strand) : State := withTurn s (advanced u)
     let core (k' : CoreSt) : State := withTurn (putCore s s.cur.core k') (advanced st)
     let channel (x : Channel) : Channel :=
       { base := if hi then v.toNat else x.base, len := if hi then x.len else v.toNat / 2 ^ 32, fill := 0, gen := x.gen + 1
         written := [] }
     let after : State := match cr with
       | .epc => strand { st with epc := v }
       | .tvec => strand { st with tvec := v }
       | .eopd => strand { st with eopd := v }
       | .frame => strand { st with frame := v }
       | .srstate => strand { st with srstate := if v.truncate 32 = 0#32 then 1 else v.truncate 32 }
       | .xbwait => core { k with xbwait := v }
       | .acnt => core { k with acnt := v }
       | .wch n => core { k with wch := k.wch.set n (channel k.wch[n]) }
       | .privc => core { k with privc := v.toNat % 2 ^ 6 }
       | _ => strand st
     Runs s gd [.g a] → (cr = .privc → isMgmt s.cur.core = true) → exec (.crw gd a hi cr) s = .next after)

/-- On a management core: TLBINV removes the translations it names from both levels of every core and die, keeps the others,
and waits; REPLAY has every open group of a partition walk again; SEAL returns 1 for a context that is not parked and 3 for a
chain or root that does not serve, and otherwise waits; UNSEAL waits for its checks (09 R209, R210; 19 R316, R318;
20 R332, R333). -/
def Obligations.SystemInstructions : Prop :=
  ∀ (gd : Guard) (d a b o : GOp) (all : Bool) (s : State), isMgmt s.cur.core = true → AtOnce s →
    let st := turn s
    let k := turnCore s
    let tag := k.privc
    let p := getPart s tag
    let stale (x : Xlat) : Prop := x.tag = tag ∧ (all = true ∨ x.covers tag (gVal st a) = true)
    let root := gVal st a % 2 ^ 6
    let chain := gVal st b % 2 ^ 8
    let ch := getChain s chain
    let serves : Prop := ch.st = .held ∧ ch.tenant = p.tenant ∧ ch.hw ≠ -1 ∧ ∃ r, nget? s.roots root = some (p.tenant, r)
    let status (v : Nat) : Prop :=
      exec (.seal gd d a b o) s = .next (withTurn s (goesOn s s.cur.core (wrG st (gReg st d) (BitVec.ofNat 64 v))))
    (Runs s gd [.g a, .g b] →
      (gVal st b ≠ 0 → exec (.tlbinv gd a b all) s = .next (trapped s 0x026 (encode (.tlbinv gd a b all)))) ∧
      (gVal st b = 0 → ∃ t, exec (.tlbinv gd a b all) s = .next t ∧
        turn t = { st with status := .asleep (.tlbinv tag (if all then none else some (gVal st a))) } ∧
        (∀ c x, x ∈ (getCore t c).tlb ↔ x ∈ (getCore s c).tlb ∧ ¬ stale x) ∧
        (∀ g x, x ∈ (getDie t g).tlb ↔ x ∈ (getDie s g).tlb ∧ ¬ stale x))) ∧
    (Runs s gd [.g a] → ∃ t, exec (.replay gd a) s = .next t ∧ turn t = advanced st ∧
      ∀ g, (getDie t g).groups =
        (getDie s g).groups.map fun x => if x.tag = gVal st a % 2 ^ 6 then { x with retry := true } else x) ∧
    (Runs s gd [.g a, .g b, .g o, .g d] →
      (p.st ≠ .parked → p.st ≠ .sealed → status 1) ∧
      (p.st = .parked ∨ p.st = .sealed → ¬ serves → status 3) ∧
      (p.st = .parked ∨ p.st = .sealed → serves → exec (.seal gd d a b o) s = .next (withTurn s
        { st with status := .asleep (.seal (gReg st d) tag root chain (gVal st o)) })) ∧
      exec (.unseal gd d a b o) s = .next (withTurn s
        { st with status := .asleep (.unseal (gReg st d) tag root chain (gVal st o)) }))

/-! ### Steps of the device: strands that wait -/

/-- The wakes of blocking waits: each returns what its instruction returns, once what it waits for holds (07 R145; 08 R158,
R167, R171, R176; 09 R197, R198, R200, R201, R203, R209). -/
def Obligations.Wakes : Prop :=
  ∀ (c l : Nat) (d : Fin 64) (w : Fin 32) (s : State),
    let st := getStrand s c l
    let k := getCore s c
    let tag := tagOf s c
    let back (i : Instr) (u : Strand) : Prop := exec i s = .next (resumed s c l u)
    let result (v : Nat) : Strand := wrG st d (BitVec.ofNat 64 v)
    (∀ since tm, Waits s c l (.waita since tm d) →
      (∀ i : Fin 4, st.mon[i] = .fired → (∀ j < i, st.mon[j] ≠ .fired) →
        back (.waitaWake c l) { result i.val with mon := st.mon.set i .disarmed }) ∧
      ((∀ i : Fin 4, st.mon[i] ≠ .fired) → tm ≠ 0 → since + tm ≤ s.now → back (.waitaTimeout c l) (result 4))) ∧
    (∀ m, Waits s c l (.twait m) → (∀ f ∈ s.pending, f.core = c → f.sid = st.sid → f.tag = none) → k.tags.toNat &&& m = m →
      (∀ e ∈ s.cores, ∀ q ∈ e.2.requests ++ e.2.reds, q.copy = none) → back (.twaitWake c l) st) ∧
    (∀ r, Waits s c l (.mwait d) → r ∈ k.res → r.sid = st.sid → (∀ m ∈ k.q0, m.sid = st.sid → r.job ≤ m.id) →
      (∀ e ∈ k.res, e.sid = st.sid → e ≠ r → r.job < e.job) →
      (∀ f ∈ s.pending, f.core = c → f.sid = st.sid → f.job ≠ some r.job) →
      exec (.mwaitWake c l) s = .next (resumed (putCore s c { k with res := k.res.erase r }) c l (result r.word))) ∧
    (∀ m, Waits s c l (.commandPlace m d) → m.core = c → Quiet s c st.sid → m.kind.matrix = true → k.q0.length < 4 →
      ∃ t, exec (.commandPlaceWake c l) s = .next t ∧ getStrand t c l = goesOn s c (result (k.nextMat % 2 ^ 16)) ∧
        (getCore t c).q0.length = k.q0.length + 1 ∧ (getCore t c).nextMat = k.nextMat + 1) ∧
    (∀ m, Waits s c l (.commandPlace m d) → m.core = c → Quiet s c st.sid → m.kind.matrix = false → k.q1.length < 8 →
      (∀ n, launchNodeOf s c = some n → counterFull s tag n = false) →
      ∃ t, exec (.commandPlaceWake c l) s = .next t ∧
        getStrand t c l = goesOn s c (result (2 ^ 16 + k.nextCp % 2 ^ 16)) ∧
        (getCore t c).q1.length = k.q1.length + 1 ∧ (getCore t c).nextCp = k.nextCp + 1) ∧
    (∀ p, Waits s c l (.pushPlace p) → Quiet s c st.sid → k.q2.length < 4 →
      (∀ x, getQueue? s p.tag p.queue = some x → x.draining = false) →
      ∃ t, exec (.commandPlaceWake c l) s = .next t ∧ getStrand t c l = goesOn s c st ∧ (getCore t c).q2 = k.q2 ++ [{ p with seq := pushSeq s p.sid }]) ∧
    (∀ ea n dst ord sc, Waits s c l (.watermark ⟨.load ea n false dst, ord, sc, true, false, false⟩) → poolFault k ea n = none →
      watermarkStalls k ea n = false →
      ∃ t, exec (.watermarkStallEnd c l) s = .next t ∧ getStrand t c l = goesOn s c (setDst st dst (k.pool.bits ea n))) ∧
    (∀ n v, Waits s c l (.lvlwait n d (some v)) → back (.lvlwaitWake c l) (result v)) ∧
    (∀ q x r rest, Waits s c l (.dqpop q w) → getQueue? s tag q = some x → x.ring = r :: rest →
      exec (.dqpopWake c l) s = .next (resumed (putQueue s tag q { x with ring := rest }) c l (setPopped st w r))) ∧
    (∀ n e, Waits s c l (.qwait n e) → (∀ x ∈ s.cores, x.2.q2 = []) →
      (∀ q ∈ graphQueues s tag n, ∀ x, getQueue? s tag q = some x → queueQuiet x e = true) →
      ∃ t, exec (.qwaitWake c l) s = .next t ∧ getStrand t c l = goesOn s c st) ∧
    (∀ g page, Waits s c l (.tlbinv g page) → (∀ x ∈ s.cores, tagOf s x.1 = g → x.2.requests = [] ∧ x.2.reds = []) →
      (∀ x ∈ s.peers, tagOf s x.2.core ≠ g) → ∃ t, exec (.tlbinvDone c l) s = .next t ∧ getStrand t c l = goesOn s c st ∧
        (∀ e x, x ∈ (getCore t e).tlb ↔ x ∈ (getCore s e).tlb ∧ staleXlat g page x = false) ∧
        ∀ e x, x ∈ (getDie t e).tlb ↔ x ∈ (getDie s e).tlb ∧ staleXlat g page x = false) ∧
    (∀ n v, Waits s c l (.clamp n d (some v)) →
      (∀ x ∈ (getPart s tag).fields, x.2.tsrc = 1 → x.2.targ = n → x.2.due = 0) →
      back (.clampWake c l) (wrG st d v))

/-! ### Steps of the device: memory and translation -/

/-- A request is performed at its home slice, of a split access one part each time: a read whose last part is read puts its
value, or 0x141 after a soft error, in the core's inbox; a write stores its part's value. A RED is performed, and meets no
soft error there (the model's reading, log 20). A reply returns to the strand that waits for it. A refetched line is kept
or the strand takes 0x140, which a copy that fails parity always does; where the strand stands outside the line, which it
reads for a target's check, it notes the line instead (01 R18; 03 R53 to R55; 04 R64, R69; 07 R134, R141). A walk of a
miss group ends in one of three ways: its accesses are made with the translation, in order; its accesses take 0x0C1, those
of engines 0x1C5; or the group is recorded in its partition's fault buffer and stays, when it holds a page-request entry
or one is free for its tenant, and waits otherwise. A retry is the same for a group that was recorded. A miss that waited
takes an entry that is free for its tenant and walks again (that it walks again is the model's reading, log 54; and so are
the accesses of its members, which no longer stay in flight and meet the soft errors that they would have met, log 18) (19
R309, R311, R312, R315 to R317). Fault buffers and error logs are cleared by their W1C bits, and an error log takes an
entry for an uncorrectable error, or for the eighth corrected one of a frame (19 R313, R321; 26 R369). -/
def Obligations.MemoryAndTranslation : Prop :=
  (∀ (c l i : Nat) (q : Req) (dst : Dst) (s : State),
     let k := getCore s c
     let st := getStrand s c l
     let left (got : List (Option Nat)) : List Nat := (List.range got.length).filter fun j => got[j]? = some none
     (k.requests[i]? = some q →
       let rest := k.requests.eraseIdx i
       let answered (err : Bool) (r : Reply) : Prop := ∃ t, exec (.homeSliceAccess c i err) s = .next t ∧ t.mem = s.mem ∧
         getCore t c = { k with requests := rest, inbox := k.inbox ++ [r] }
       (∀ w sx got, q.op = .read w sx dst got → got.length = q.parts.length →
         answered true (.trap q.slot q.sid 0x141 q.ea) ∧
         (∀ j p, left got = [j] → q.parts[j]? = some p → answered false (.value q.slot q.sid dst (loadedValue w sx
           (joinParts (q.parts.map (·.w)) (got.set j (some (physRead s p.key p.pa p.w))))))) ∧
         (2 ≤ (left got).length → ∃ t, exec (.homeSliceAccess c i false) s = .next t ∧ t.mem = s.mem ∧
           ∃ j ∈ left got, ∃ p, q.parts[j]? = some p ∧ getCore t c = { k with
             requests := k.requests.set i { q with op := .read w sx dst (got.set j (some (physRead s p.key p.pa p.w))) } })) ∧
       (∀ w p v ack err, q.op = .write w [v] ack → q.parts = [p] → Plain [p] → ∃ t,
         exec (.homeSliceAccess c i err) s = .next t ∧
         getCore t c = { k with requests := rest, inbox := k.inbox ++ (if ack then [.value q.slot q.sid .none 0] else []) } ∧
         Spares s t [p] ∧ (Apart s [p] → physRead t p.key p.pa p.w = v % 2 ^ p.w)) ∧
       (∀ w p p' v v' ack err, q.op = .write w [v, v'] ack → q.parts = [p, p'] → Plain [p, p'] →
         let first (p : Part) (v : Nat) (p' : Part) (v' : Nat) : Prop := ∃ t,
           exec (.homeSliceAccess c i err) s = .next t ∧
           getCore t c = { k with requests := k.requests.set i { q with parts := [p'], op := .write w [v'] ack } } ∧
           Spares s t [p] ∧ (Apart s [p] → physRead t p.key p.pa p.w = v % 2 ^ p.w)
         first p v p' v' ∨ first p' v' p v)) ∧
     (∀ p f b, k.reds[i]? = some q → q.op = .atomic (.amo f b) dst → q.parts = [p] → Plain [p] →
       (∀ r ∈ k.reds.take i, r.sid ≠ q.sid) → (∀ e ∈ s.peers, e.2.red = true → e.2.sid ≠ q.sid) →
       exec (.redPerform c i true) s = .next s ∧
       ∃ t, exec (.redPerform c i false) s = .next t ∧ (getCore t c).reds = k.reds.eraseIdx i ∧ Spares s t [p] ∧
         (Apart s [p] → physRead t p.key p.pa p.w = amoNew f (physRead s p.key p.pa p.w) b % 2 ^ p.w)) ∧
     (Waits s c l .access →
       (∀ v, k.inbox[i]? = some (.value l st.sid dst v) →
         exec (.loadReturn c i) s =
           .next (resumed (putCore s c { k with inbox := k.inbox.eraseIdx i }) c l (setDst st dst v))) ∧
       (∀ code tval, k.inbox[i]? = some (.trap l st.sid code tval) → trapEnters st code = true →
         exec (.loadReturn c i) s =
           .next (putStrand (putCore s c { k with inbox := k.inbox.eraseIdx i }) c l (enterTrap st code tval)))) ∧
     (∀ base line, Waits s c l (.refetch base) → lineSource s c base = .here line → k.icache.length < 128 →
       trapEnters st 0x140 = true → ∃ t, exec (.lineParityRefetch c l) s = .next t ∧
         let awake (u : Strand) : Strand := { u with status := .ready, readySince := k.cycles }
         let kept : Prop := getStrand t c l = awake st ∧ (getCore t c).icache = nset k.icache base line
         let bad : Prop := (getCore t c).icache = k.icache ∧ getStrand t c l =
           if lineBase st.pc.toNat = base then enterTrap st 0x140 base else awake { st with badLine := some base }
         (parityOk line = true → kept ∨ bad) ∧ (parityOk line = false → bad)) ∧
     (∀ base dev, Waits s c l (.refetch base) → lineSource s c base = .peer dev →
       exec (.lineParityRefetch c l) s = .next (sendPeer s c l dev base ⟨.fetch base true, .rlx, .sy, false, false, false⟩))) ∧
  (∀ (die i c l ptag : Nat) (g : Group) (s : State),
     let d := getDie s die
     let entry (f : FaultBuf) (e : LogEntry) : FaultBuf :=
       { f with entries := nset f.entries f.nrec { e with seq := f.seq % 2 ^ 16 }, nrec := f.nrec + 1, seq := f.seq + 1 }
     let f := (getPart s ptag).fbuf
     let gone : State := putDie (reachWalk s g.tag g.va) die { d with groups := d.groups.eraseIdx i }
     let holds : Prop := g.held = true ∨ (entryFree s die g.tag = true ∧ ∀ h ∈ d.waiting, holderOf s h.tag ≠ holderOf s g.tag)
     (d.groups[i]? = some g →
       let f := (getPart s g.tag).fbuf
       let ends (ev : Instr) : Prop :=
         (∀ lvl bad, walk s g.tag g.va = .miss lvl bad →
           (holds → f.nrec < 8 → ∃ t, exec ev s = .next t ∧
             getDie t die = { d with groups := d.groups.set i { g with walking := false, retry := false, held := true } } ∧
             (getPart t g.tag).fbuf =
               entry f { va := g.va, core := g.core, src := g.src, wlvl := lvl, bad := bad, job := g.job }) ∧
           (¬ holds → ∃ t, exec ev s = .next t ∧ (getPart t g.tag).fbuf = f ∧ getDie t die =
             { d with groups := d.groups.eraseIdx i, waiting := d.waiting ++ [{ g with walking := false, retry := false }] })) ∧
         (∀ x, walk s g.tag g.va = .hit x → g.members = [] → ∃ t, exec ev s = .next t ∧
           (getDie t die).groups = d.groups.eraseIdx i) ∧
         (∀ x ea w sx dst ord sc err, walk s g.tag g.va = .hit x → g.members = [.strand c l (getStrand s c l).sid] →
           (getStrand s c l).live = true →
           (getStrand s c l).status = .asleep (.translate ⟨.load ea w sx dst, ord, sc, false, err, false⟩) →
           exec ev s = .next (runMem { fillTlb (setAccessed gone x) c x with cur := ⟨c, l, false, err⟩ } c l
             ⟨.load ea w sx dst, ord, sc, false, err, false⟩)) ∧
         (∀ ea w sx dst ord sc err, walk s g.tag g.va = .refused → g.members = [.strand c l (getStrand s c l).sid] →
           (getStrand s c l).live = true →
           (getStrand s c l).status = .asleep (.translate ⟨.load ea w sx dst, ord, sc, false, err, false⟩) →
           exec ev s = .next (takeTrap gone c l 0x0C1 ea)) ∧
         (∀ id m, walk s g.tag g.va = .refused → g.members = [.engine c false id] → findCmd s c false id = some m →
           m.core = c → m.kind.matrix = false → m.stalled = true → ∃ t, exec ev s = .next t ∧
           findCmd t c false id =
             some { m with stalled := false, prog := { m.prog with ended := true, fault := some (0x1C5, m.prog.pos) } })
       (g.walking = true → g.retry = false → ends (.pageWalkComplete die i none)) ∧
       (g.walking = false → g.retry = true → ends (.retryWalk die i none))) ∧
     (d.waiting[i]? = some g → firstOfTenant s die i g = true →
       (∀ x ∈ d.groups, x.tag = g.tag → x.granule ≠ g.granule) → entryFree s die g.tag = true →
       ∃ t, exec (.groupOpenDeferred die i) s = .next t ∧ t = { s with dies := t.dies } ∧ getDie t die =
         { d with waiting := d.waiting.eraseIdx i,
                  groups := d.groups ++ [{ g with walking := true, retry := false, held := true }] }) ∧
     (ptag < 64 →
       (∃ t, exec (.faultBufferClr ptag) s = .next t ∧ getPart t ptag =
         { getPart s ptag with fbuf := { f with nrec := 0, lost := 0 } }) ∧
       (∃ t, exec (.faultBufferDropClear ptag) s = .next t ∧ getPart t ptag =
         { getPart s ptag with fbuf := { f with drop := false } })) ∧
     (die < 4 → d.log.nrec < 64 → ∀ pa,
       let n := nget s.corrected 0 (pa / 2 ^ 19)
       let counted : State := { s with corrected := nset s.corrected (pa / 2 ^ 19) (n + 1) }
       exec (.errorLogEntry die pa true) s =
         .next (putDie s die { d with log := entry d.log { va := pa, src := 1, job := min 65535 n } }) ∧
       (n + 1 ≠ 8 → exec (.errorLogEntry die pa false) s = .next counted) ∧
       (n + 1 = 8 → exec (.errorLogEntry die pa false) s =
         .next (putDie counted die { d with log := entry d.log { va := pa, src := 0, job := 8 } }))))

/-! ### Steps of the device: engines -/

/-- The schedulers choose the first ready command in the order of R270 that passes the budget check; a schedule entry counts
as started when it is chosen; waiting commands age by a level; a job owed its ramp is reserved it; bursts without a pending
job end after 2,000 ticks, and an idle engine is charged no ramp (08 R168, R179; 14 R269 to R271; 22 R351). -/
def Obligations.EngineScheduling : Prop :=
  ∀ (cl c j : Nat) (m : Cmd) (s : State),
    let x := getCluster s cl
    let k := getCore s c
    let first (mat : Bool) : Prop :=
      m ∈ readyCmds s cl mat ∧ ∀ m' ∈ readyCmds s cl mat, m' ≠ m → runsBefore s.now m m' = true
    (engineOn s cl = true →
      (x.runMat = none → x.noPass = false → first true → budgetPasses s cl m = true →
        ∃ t, exec (.engineSchedule cl true) s = .next t ∧ (getCluster t cl).runMat = some (m.core, m.id)) ∧
      (x.runCopy = none → first false → nodeCancelled s (tagOf s m.core) m.node = false →
        let sched := (getCore s m.core).sched
        (m.entry = none ∨ m.st = .running → ∃ t, exec (.engineSchedule cl false) s = .next t ∧
          (getCluster t cl).runCopy = some (m.core, m.id)) ∧
        (∀ e p, m.entry = some (e, p) → m.st = .held → (p - 1) * sched.slots.length + e = sched.started →
          ∃ t, exec (.scheduleEntryStart cl) s = .next t ∧ (getCluster t cl).runCopy = some (m.core, m.id) ∧
            (getCore t m.core).sched = { sched with started := sched.started + 1 }))) ∧
    (m.core = c → m.st = .held → m.ready = true → m.prog.ended = false → m.aged < 7 → m.agedAt + 65536 ≤ s.now →
      let older := { m with aged := m.aged + 1, agedAt := m.agedAt + 65536 }
      (m.kind.matrix = true → k.q0[j]? = some m → ∃ t, exec (.commandAging c true j) s = .next t ∧
        (getCore t c).q0[j]? = some older) ∧
      (m.kind.matrix = false → k.q1[j]? = some m → ∃ t, exec (.commandAging c false j) s = .next t ∧
        (getCore t c).q1[j]? = some older)) ∧
    (readyCmds s cl true = [m] → owedRamp s m = true → exec (.budgetReserve cl) s =
      .next (setCmd s { m with prog := { m.prog with reserved := true } })) ∧
    (∀ b, k.burst = some b → (∀ m ∈ k.q0, m.prog.ended = true) → b.idleSince + 2000 ≤ s.now →
      exec (.mburstTimeout c) s = .next (putCore s c { k with burst := none })) ∧
    (x.rampClass ≠ none → engineBusy s cl = false →
      exec (.rampDown cl) s = .next (putCluster s cl { x with rampClass := none }))

/-- A copy-unit command takes its steps: one that fails a check of R372 ends with that fault, and moves nothing; an element is copied
bit for bit between tensors of one format, in pools, in global memory and in the B store, or added or compared as a combine says; a
copy's writes stay under way, or are performed with the step, as the step's argument says (log 39). A COPYV compares first, fails with no write,
commits with version gC + 2, and leaves gC + 1 at a fault behind the compare; a WMARK's channel advances with its elements; an MDLD's
bits enter side memory. A forwarding chain gets its reservations, or 0x1C8 after 2,048 ticks; a command that has ended leaves q1, and
its tag is set when its count reaches 0 (08 R163 to R167, R169, R170, R372; 13 R249). -/
def Obligations.CopySteps : Prop :=
  ∀ (cl c id : Nat) (late : Bool) (m : Cmd) (s : State),
    let k := getCore s c
    let w := m.da.scalar.width
    let at1 := elemAddr m.da (originRow m.opa) (originCol m.opa)
    let at2 := elemAddr m.db (originRow m.opb) (originCol m.opb)
    let pool (t : State) (p a n : Nat) : Nat := (getCore t p).pool.bits a n
    let step (t : State) : Prop := exec (.copyStep cl ⟨none, late⟩) s = .next t
    let oneElement : Prop := (∀ e ∈ s.cores, e.2.requests = [] ∧ e.2.reds = []) ∧ m.prog.started = true ∧ m.prog.element = 0 ∧
      isFwd m = false ∧ m.vlm = 1 ∧ m.vln = 1 ∧ m.da.fmt < 16
    let sameKind : Prop := m.db.fmt = m.da.fmt ∧ m.db.sexp = m.da.sexp
    let ends (t : State) (p : Progress) : Prop := findCmd t c false id = some { m with prog := { p with ended := true } }
    let written : Progress := { m.prog with element := 1, answers := [], fault := none }
    ((getCluster s cl).runCopy = some (c, id) → findCmd s c false id = some m → m.core = c → m.kind.matrix = false →
      cmdGoes m = true →
      (∀ code, m.prog.started = false → copyFault s m = some code → ∃ t, step t ∧ t.mem = s.mem ∧
        ends t { m.prog with started := true, fault := some (code, 0, 0) }) ∧
      (∀ p1, oneElement → m.da.space = 1 → tensorCore s c m.da = some p1 →
        (m.kind = .mdld → ∃ t, step t ∧ ends t written ∧ (getCore t c).side.bits (m.opb % 2 ^ 16) w = pool s p1 at1 w) ∧
        (∀ p2, sameKind → m.db.space = 1 → tensorCore s c m.db = some p2 →
          (m.kind = .copy → cmbOf m = 0 → ∃ t, step t ∧ ends t written ∧
            (late = false → pool t p2 at2 w = pool s p1 at1 w) ∧
            (late = true → (getCore t p2).pool = (getCore s p2).pool ∧ ∃ q, (getCore t p2).requests = [q] ∧
              q.op = .poolWrite [(at2, w, pool s p1 at1 w)] ∧ q.copy = some ⟨c, id, m.tag, m.sc⟩)) ∧
          (m.kind = .copy → m.da.fmt = 0 →
            (cmbOf m = 1 → ∃ t, step t ∧ ends t written ∧
              pool t p2 at2 32 = floatAdd .f32 .rne 0 (pool s p2 at2 32) (pool s p1 at1 32) % 2 ^ 32) ∧
            (cmbOf m = 2 → ∃ t, step t ∧ ends t written ∧
              pool t p2 at2 32 = floatMax .f32 (pool s p2 at2 32) (pool s p1 at1 32) % 2 ^ 32)) ∧
          (m.kind = .copyv → m.prog.compared = false → m.opc < 2 ^ 64 →
            (pool s p2 (versionAddr m) 64 ≠ m.opc → ∃ t, step t ∧ (getCore t p2).pool = (getCore s p2).pool ∧
              ends t { m.prog with failed := true }) ∧
            (pool s p2 (versionAddr m) 64 = m.opc → p1 ≠ p2 →
              (late = false → versionAddr m + 64 ≤ at2 → ∃ t, step t ∧ ends t { written with compared := true } ∧
                pool t p2 at2 w = pool s p1 at1 w ∧ pool t p2 (versionAddr m) 64 = (m.opc + 2) % 2 ^ 64) ∧
              ∃ t, exec (.copyStep cl ⟨some 1, late⟩) s = .next t ∧
                ends t { m.prog with compared := true, answers := [], fault := some (0x1C7, 0, 0) } ∧
                pool t p2 (versionAddr m) 64 = (m.opc + 1) % 2 ^ 64)) ∧
          (m.kind = .wmark → p2 = c → ∀ h, h = channelOf m → k.wch[h].gen = m.chGen → k.wch[h].written = [] →
            k.wch[h].base + k.wch[h].fill = at2 → k.wch[h].fill + w ≤ k.wch[h].len → ∃ t, step t ∧ ends t written ∧
              pool t c at2 w = pool s p1 at1 w ∧
              (getCore t c).wch = k.wch.set h { k.wch[h] with fill := k.wch[h].fill + w })) ∧
        (∀ x, sameKind → m.kind = .copy → cmbOf m = 0 → late = false → m.db.space = 0 → cached s c at2 = some x →
          x.wr = true → x.peer = false → canonical at2 = true → at2 % 512 + w ≤ 512 → Plain [x.part at2 w] →
          Apart s [x.part at2 w] → ∃ t, step t ∧ ends t written ∧ physRead t x.key (x.phys at2) w = pool s p1 at1 w)) ∧
      (∀ x, oneElement → sameKind → m.kind = .copy → cmbOf m = 0 → m.da.space = 0 → m.db.space = 2 → cached s c at1 = some x →
        x.rd = true → x.peer = false → canonical at1 = true → at1 % 512 + w ≤ 512 → ∃ t, step t ∧ ends t written ∧
          (getCluster t (clusterOf c)).bstore.bits at2 w = physRead s x.key (x.phys at1) w) ∧
      (∀ since, isFwd m = true → m.prog.started = true → m.prog.reserved = false → m.prog.reserveFrom = some since →
        (s.now ≤ since + 2048 →
          exec (.forwardReservation cl) s = .next (setCmd s { m with prog := { m.prog with reserved := true } })) ∧
        (since + 2048 ≤ s.now → exec (.forwardReservationTimeout cl) s =
          .next (setCmd s { m with prog := { m.prog with ended := true, fault := some (0x1C8, 0, 0) } })))) ∧
    (∀ e, endedCopy s cl = some e → e.prog.fault = none → e.prog.failed = false →
      (∀ x, getLaunch? s (tagOf s e.core) e.launch = some x → ∃ n, getNode? s (tagOf s e.core) x.node = some n ∧
        nodeLives n = true ∧ 1 < n.cnt) →
      let h := getCore s e.core
      let left := nget h.out 0 e.tag - 1
      ∃ t, exec (.copyComplete cl) s = .next t ∧
        (getCore t e.core).tags = (if left = 0 then h.tags ||| BitVec.ofNat 64 (2 ^ e.tag) else h.tags) ∧
        (getCore t e.core).q1.length = (h.q1.filter fun x => x.id != e.id).length ∧
        (getCore t e.core).vfail = h.vfail &&& ~~~ BitVec.ofNat 64 (2 ^ e.tag) ∧
        (∀ x, getLaunch? s (tagOf s e.core) e.launch = some x → ∀ n, getNode? s (tagOf s e.core) x.node = some n →
          getNode? t (tagOf s e.core) x.node = some { n with cnt := n.cnt - 1 }))

/-- A matrix job takes its steps: one that fails a check of R372 ends with that fault; a group of products, of a dense or of a sparse
job, is accumulated into its tile element as R36 says, and its header counts what R37 says; metadata that R174 does not admit ends it
with 0x1C9; zi clears a tile; a cvt job converts an element; a job that has ended leaves its record in the result side, or waits in DONE while that is full;
a remote job with a capability that does not hold returns its record with ST 1 at once, and one that holds gets a remote place
in order of arrival (02 R36, R37; 08 R172 to R177, R372; 16 R281). -/
def Obligations.MatrixSteps : Prop :=
  ∀ (cl c id j : Nat) (m : Cmd) (s : State), m.core = c → m.kind.matrix = true →
    let k := getCore s c
    let gs := groupSize m
    let p := jobPool s m
    let old := (getCore s p).pool.bits (tileAddr m 0 0) 32
    let stepped : Cmd := { m with readyAt := s.now, aged := m.pri, agedAt := s.now }
    let oneElement : Prop := m.prog.started = true ∧ m.prog.rowBlock = 0 ∧ m.prog.group = 0 ∧ m.vlm = 1 ∧ m.vln = 1
    let counted (t : State) (nans ovfs : Nat) : Prop := (getCore t p).th.toList[headerOf m % 8]? =
      some (BitVec.ofNat 32 (stickyAdd ((getCore s p).th.toList.getD (headerOf m % 8) 0).toNat nans ovfs))
    let accumulates (pairs : List (FV × FV)) : Prop := ∃ t, exec (.matrixStep cl none) s = .next t ∧
      (getCluster t cl).runMat = none ∧
      let a := accStep (promotion m) true ⟨old, .fin false 0 0, 0, 0, 0⟩ pairs
      (getCore t p).pool.bits (tileAddr m 0 0) 32 = a.acc % 2 ^ 32 ∧ counted t a.nans a.ovfs ∧
      findCmd t c true id = some { stepped with prog := { m.prog with ended := true } }
    let code (q : Nat) : Nat := k.side.bits (m.opa / 2 ^ 32 % 2 ^ 16 + 4 * q) 4
    let good (q : Nat) : Prop := m.opa / 2 ^ 32 % 2 ^ 16 + 4 * q + 4 ≤ 2 ^ 16 ∧ code q % 4 < code q / 4
    let entered (t : State) (word : Nat) : Prop :=
      (k.res.length < 4 → k.doneQ = [] → sidAlive s m.sid = true →
        (getCore t c).res = k.res ++ [⟨m.sid, m.id, word⟩] ∧ (getCore t c).q0 = k.q0.filter fun x => x.id != m.id) ∧
      (4 ≤ k.res.length → (getCore t c).res = k.res ∧ (getCore t c).doneQ = k.doneQ ++ [⟨m.sid, m.id, word⟩])
    ((getCluster s cl).runMat = some (c, id) → findCmd s c true id = some m → cmdGoes m = true →
      (∀ code, m.prog.started = false → matrixFault s m = some code → ∃ t, exec (.matrixStep cl none) s = .next t ∧
        (getCluster t cl).runMat = none ∧ findCmd t c true id =
          some { m with prog := { m.prog with started := true, ended := true, fault := some (code, 0, 0) } }) ∧
      (oneElement → m.kind = .mac → m.vlk = gs →
        (isSparse m = false → accumulates ((List.range gs).map fun x => (aValue s m 0 x, bValue s m x 0))) ∧
        (isSparse m = true → (∀ q < gs / 4, good q) → accumulates ((List.range (gs / 4)).flatMap fun q =>
          [(aValue s m 0 (2 * q), bValue s m (4 * q + code q % 4) 0),
           (aValue s m 0 (2 * q + 1), bValue s m (4 * q + code q / 4) 0)])) ∧
        (∀ q < gs / 4, isSparse m = true → ¬ good q → (∀ r < q, good r) → ∃ t, exec (.matrixStep cl none) s = .next t ∧
          findCmd t c true id =
            some { stepped with prog := { m.prog with ended := true, fault := some (0x1C9, 0, 4 * q) } })) ∧
      (oneElement → m.kind = .cvt → m.db.fmt < 16 → ∃ t, exec (.matrixStep cl none) s = .next t ∧
        let y := cvtEncode m.db.scalar .rne m.prop 0 ((decodeF .f32 old).scale (-m.db.sexp))
        (getCore t p).pool.bits (elemAddr m.db (originRow m.opb) (originCol m.opb)) m.db.scalar.width =
          y.1 % 2 ^ m.db.scalar.width ∧ counted t 0 y.2.toNat ∧
        findCmd t c true id = some { stepped with prog := { m.prog with ended := true, fault := none } }) ∧
      (m.prog.started = false → matrixFault s m = none → m.kind = .mac → m.vlm = 1 → m.vln = 1 → m.vlk = 0 →
        ∃ t, exec (.matrixStep cl none) s = .next t ∧
          (getCore t p).pool.bits (tileAddr m 0 0) 32 = (if zeroFirst m then 0 else old) ∧ findCmd t c true id =
            some { m with prog := { m.prog with started := true, saved := [old], ended := true, fault := none } })) ∧
    (endedJob s cl = some m → m.prog.fault = none → ∃ t, exec (.matrixJobComplete cl) s = .next t ∧
      entered t (m.id % 2 ^ 16 * 2 ^ 48 + headerNow s m % 2 ^ 32 * 2 ^ 16)) ∧
    (∀ r rest, k.doneQ = r :: rest → k.res.length < 4 → sidAlive s r.sid = true →
      ∃ t, exec (.resultRecordEnter c) s = .next t ∧ (getCore t c).doneQ = rest ∧ (getCore t c).res = k.res ++ [r]) ∧
    (∀ e cap, k.q0[j]? = some m → m.remote = .onWay e cap →
      (cap / 2 ^ 49 % 2 ^ 6 ≠ tagOf s c → ∃ t, exec (.mjobrArrival c j) s = .next t ∧
        entered t (m.id % 2 ^ 16 * 2 ^ 48 + 1)) ∧
      (capOk s m e cap = true → ∃ t, exec (.mjobrArrival c j) s = .next t ∧
        (getCluster t e).remoteQ = (getCluster s e).remoteQ ++ [(c, m.id)] ∧
        (getCore t c).q0[j]? = some { m with remote := .waiting e cap })) ∧
    (∀ rest e cap, (getCluster s cl).remoteQ = (c, id) :: rest → (getCluster s cl).remotePlaces.length < 8 →
      findCmd s c true id = some m → m.remote = .waiting e cap → ∃ t, exec (.remotePlaceGrant cl) s = .next t ∧
        (getCluster t cl).remoteQ = rest ∧ (getCluster t cl).remotePlaces = (getCluster s cl).remotePlaces ++ [(c, id)] ∧
        findCmd t c true id = some
          { m with remote := .placed e cap, ready := true, readyAt := s.now, aged := m.pri, agedAt := s.now })

/-! ### Steps of the device: tasks -/

/-- A slot takes the record at the head of its core's deque, with the registers R187 gives the strand; records age by a level
in 65,536 ticks; a steal request is served from the tail of the victim's deque, a range that can be split at its middle;
the record stands at the head of the thief's deque from then on, and the STEAL returns with the reply; a parked thief's
reply goes to its inbox, with the record (09 R187, R190, R191; 14 R265, R266; 16 R284 to R286; 20 R328). Records that wait
at a node for room are pushed, oldest first; the cancel flag of a node reaches those beneath it; a strand that has been
eligible for 4,096 ticks is reported once with 0x3C3; a push in q2 is consolidated with its buffer; buffers drain, those
whose oldest entry is 4,096 ticks old at a tick, and batches of the lowest epoch become stage records (14 R268; 15 R278;
16 R284, R288 to R290; 26 R367). -/
def Obligations.TaskSteps : Prop :=
  (∀ (c l j : Nat) (r : Rec) (rest : List Rec) (s : State),
     let k := getCore s c
     let tag := tagOf s c
     let aged : Nat := max r.pri (min 7 (r.pri + (s.now - r.agedAt) / 65536))
     let seed : BitVec 32 := BitVec.ofNat 32 k.srseed ^^^ r.fp.truncate 32 ^^^ r.fp.extractLsb' 32 32
     let fresh : Strand :=
       { live := true, pc := r.pc, frame := r.fp, node := r.node
         g := ((((Vector.replicate 64 0).set 1 r.g1).set 2 r.g2).set 3 r.g3 |>.set 4 r.g4).set 5 r.g5
         rlo := if r.kind = .range then r.g1 else 0, rhi := if r.kind = .range then r.g2 else 0
         srstate := if seed = 0 then 1 else seed, tvec := k.tvec, eopd := k.eopd, kind := r.kind
         pri := aged, kidx := r.kidx, grain := r.grain, entry := r, stage := r.stage, readySince := k.cycles, tgtPending := r.checkTgt, sid := r.sid }
     (k.parked = false → k.deque = r :: rest → freeSlot s c = some l → nodeCancelled s tag r.node = false →
       runningLaunch s c = true → ∃ t, exec (.slotFill c) s = .next t ∧ TurnBecame { t with cur := ⟨c, l, false, false⟩ } fresh ∧
         (getCore t c).deque = rest ∧ (getCore t c).ring = k.ring) ∧
     (k.parked = false → (k.deque ++ k.ring)[j]? = some r → r.pri < 7 → r.agedAt + 65536 ≤ s.now →
       ∃ t, exec (.recordAging c j) s = .next t ∧ (getCore t c).deque ++ (getCore t c).ring =
         (k.deque ++ k.ring).set j { r with pri := r.pri + 1, agedAt := r.agedAt + 65536 }) ∧
     (k.parked = false → runningLaunch s c = true → k.deque = [] → k.ring = [] → k.stealing = false → k.lastSteal = none →
       freeSlot s c = some l → ∀ v, (stealChoice s c .box5 (strandNumber s c l % 25)).2.2.2 = some v →
       ∃ t, exec (.implicitSteal c) s = .next t ∧ t.steals = s.steals ++ [⟨c, none, v, k.kidx, none⟩] ∧
         getCore t c = { k with lastSteal := some s.now, stealing := true }) ∧
     (∀ q, s.steals[j]? = some q → q.reply = none →
       (tailRecord (getCore s q.victim) q.kidx = none → splittableSlot s q.victim q.kidx = none → ∃ t,
         exec (.stealRequestServe j) s = .next t ∧
         ((getCore s q.thief).parked = false → t.steals = s.steals.set j { q with reply := some (3, none) }) ∧
         ((getCore s q.thief).parked = true → t.steals = s.steals.eraseIdx j ∧
           (getCore t q.thief).inbox = (getCore s q.thief).inbox ++ [.steal q.slot 3 none])) ∧
       (q.thief = c → (getCore s q.victim).parked = false → k.parked = false → roomHead k = true → q.victim ≠ c →
         k.deque.length < 32 → tailRecord (getCore s q.victim) q.kidx = some r → nodeCancelled s (tagOf s q.victim) r.node = false →
         (r.kind ≠ .range ∨ r.g2.toNat - r.g1.toNat < 2 * 2 ^ r.grain → ∃ t, exec (.stealRequestServe j) s = .next t ∧
           t.steals = s.steals.set j { q with reply := some (1, none) } ∧
           (getCore t c).deque = { r with pri := aged, agedAt := s.now } :: k.deque ∧
           (getCore t q.victim).deque = (removeRecord (getCore s q.victim) r).deque ∧
           (getCore t q.victim).ring = (removeRecord (getCore s q.victim) r).ring) ∧
         (∀ nd, r.kind = .range → 2 * 2 ^ r.grain ≤ r.g2.toNat - r.g1.toNat → getNode? s (tagOf s q.victim) r.node = some nd →
           nd.cnt + 1 < 2 ^ 32 → (getCore s q.victim).ring = [] → (getCore s q.victim).deque = [r] →
           let mid : Word := BitVec.ofNat 64 (r.g1.toNat + (r.g2.toNat - r.g1.toNat) / 2)
           ∃ t piece, exec (.stealRequestServe j) s = .next t ∧
             t.steals = s.steals.set j { q with reply := some (2, none) } ∧ (getCore t c).deque = piece :: k.deque ∧
             piece = { r with g1 := mid, pri := aged, sid := s.nextSid, agedAt := s.now, waiting := false,
                              checkTgt := false, stage := none } ∧
             (getCore t q.victim).deque = [{ r with g2 := mid }] ∧
             getNode? t (tagOf s q.victim) r.node = some { nd with cnt := nd.cnt + 1 }))) ∧
     (∀ slot v kx out rec?, s.steals[j]? = some ⟨c, slot, v, kx, some (out, rec?)⟩ → k.parked = true → ∃ t,
       exec (.stealReply j) s = .next t ∧ t.steals = s.steals.eraseIdx j ∧
       getCore t c = { k with inbox := k.inbox ++ [.steal slot out rec?] }) ∧
     (∀ d idx tck val v kx, s.steals[j]? = some ⟨c, some (l, (getStrand s c l).sid), v, kx, some (3, none)⟩ →
       Waits s c l (.steal d idx tck val) → exec (.stealReply j) s = .next (resumed { s with steals := s.steals.eraseIdx j } c l
         (wrG (getStrand s c l) d (BitVec.ofNat 64 (stealResult 3 idx tck val))))) ∧
     (∀ v kx, s.steals[j]? = some ⟨c, none, v, kx, some (1, none)⟩ → k.parked = false →
       exec (.stealReply j) s = .next (putCore { s with steals := s.steals.eraseIdx j } c { k with stealing := false }))) ∧
  (∀ (c l tag n j q : Nat) (r : Rec) (nd : Node) (x : Queue) (p : Push) (s : State),
     let k := getCore s c
     let st := getStrand s c l
     (getNode? s tag n = some nd →
       (∀ rest, nd.room = (c, r) :: rest → nodeLives nd = true → roomHead k = true → k.deque.length < 32 → ∃ t,
         exec (.heldRecordPush tag n) s = .next t ∧ (getCore t c).deque = { r with agedAt := s.now } :: k.deque ∧
         getNode? t tag n = some { nd with room := rest }) ∧
       (∀ rest, nd.handlers = (c, r) :: rest → k.deque.length < 32 → roomTail k = true → ∃ t, exec (.handlerRecordPush tag n) s = .next t ∧
         getNode? t tag n = some { nd with handlers := rest } ∧
         (r.checkTgt = false → (getCore t c).deque = { r with agedAt := s.now } :: k.deque) ∧
         (r.checkTgt = true → (getCore t c).deque ++ (getCore t c).ring = k.deque ++ k.ring ++ [{ r with agedAt := s.now }])) ∧
       (∀ from? : Option Nat, nodeLives nd = true → nd.cf = false → ((nd.owed = true ∧ from? = nd.cfCore) ∨ (nd.owed = false ∧
           ∃ a y, ancestor s tag (fun z => z.cf || z.owed) 6 (upOf nd) = some a ∧ getNode? s tag a = some y ∧ from? = y.cfCore)) →
         nd.cnt ≠ 0 → nd.lvl ≠ 1 → sleepersUnder s tag n = [] → heldUnder s tag n = [] → (∀ e ∈ s.cores, e.2.q1 = []) →
         ∃ t, exec (.cancelPropagate tag n) s = .next t ∧
           getNode? t tag n = some { nd with cf := true, cfCore := from?.filter fun e => tagOf s e == tag })) ∧
     (st.live = true → 4096 ≤ st.eligible → st.reported = false → getNode? s (tagOf s c) st.node = some nd →
       nodeLives nd = true → nd.ncause = 0 → ∃ t, exec (.progressCheckReport c l) s = .next t ∧
         getStrand t c l = { st with reported := true } ∧
         (∃ y, getNode? t (tagOf s c) st.node = some y ∧ y.ncause = 1 ∧ y.fcause = 0x3C3) ∧
         t.reports.length = s.reports.length + 1) ∧
     (getQueue? s tag q = some x →
       (k.q2[j]? = some p → p.tag = tag → p.queue = q → firstPush s p = true → x.draining = false → x.stagePc = 0 →
         p.drec.mult ≠ 0 → (∀ b ∈ x.buf, sameRecord b.1 p.drec = false) → x.buf.length < 256 → ∃ t,
         exec (.deltaConsolidate c j) s = .next t ∧ (getCore t c).q2 = k.q2.erase p ∧
         getQueue? t tag q = some { x with buf := x.buf ++ [(p.drec, s.now)] }) ∧
       (∀ b, k.q2[j]? = some p → p.tag = tag → p.queue = q → firstPush s p = true → x.draining = false → x.stagePc = 0 →
         x.buf = [b] → sameRecord b.1 p.drec = true → b.1.mult + p.drec.mult = 0 → ∃ t,
         exec (.deltaConsolidate c j) s = .next t ∧ (getCore t c).q2 = k.q2.erase p ∧
         getQueue? t tag q = some { x with buf := [] }) ∧
       (x.buf ≠ [] → x.draining = false → x.ring.length + x.buf.length ≤ 65536 →
         exec (.bufferTimedDrain tag q) s =
           .next (putQueue s tag q { x with ring := x.ring ++ drainOrder x.buf, buf := [], draining := false })) ∧
       (∀ ag b rest, s.supply = true → s.boot.todo = [] → s.agenda = .tick :: ag → x.buf = b :: rest → b.2 + 4096 ≤ s.now + 1 →
         x.draining = false → x.ring.length + x.buf.length ≤ 65536 → ∃ t, step s = .next t ∧ getQueue? t tag q =
           some { x with ring := x.ring ++ drainOrder x.buf, buf := [], draining := false }) ∧
       (x.draining = true → x.ring.length + x.buf.length ≤ 65536 → exec (.drainRingRoom tag q) s =
         .next (putQueue s tag q { x with ring := x.ring ++ drainOrder x.buf, buf := [], draining := false })) ∧
       (∀ y e area, getLaunch? s tag x.launch = some y → y.cores ≠ [] → y.cores[q % y.cores.length]? = some c →
         getNode? s tag y.node = some nd → x.stagePc ≠ 0 → x.ring.map (·.epoch) = List.replicate x.ring.length e → x.ring ≠ [] →
         x.ring.length ≤ 64 → freeArea x = some area → nd.cnt + 1 < 2 ^ 32 → x.live.length < 4 → (∀ z ∈ x.live, z = e) → roomHead k = true →
         k.deque.length < 32 → ∃ t,
         exec (.stageBatchForm tag q) s = .next t ∧
         getQueue? t tag q = some { x with ring := [], busy := x.busy ++ [area], live := x.live ++ [e] } ∧
         getNode? t tag y.node = some { nd with cnt := nd.cnt + 1 } ∧ (getCore t c).deque.head? = some
           { pc := BitVec.ofNat 64 x.stagePc, g1 := BitVec.ofNat 64 (x.areas.getD area 0),
             g2 := BitVec.ofNat 64 x.ring.length, g3 := BitVec.ofNat 64 e, g4 := BitVec.ofNat 64 q, node := y.node, pri := 4,
             kind := .stage, kidx := y.kidx, checkTgt := true, sid := s.nextSid, stage := some ⟨q, e, area⟩,
             agedAt := s.now })))

/-- A launch is placed once enough cores are free: each gets the launch, a zeroed pool and its initial record, the fields of
the jig become LIVE and its queues are bound, and LAUNCH returns its node. A placement that fails leaves no core, field or
queue behind, and LAUNCH takes its cause, 0x387 to 0x38B. A launch that is RETIRING with its node at 0 and its jobs done
is RETIRED, and leaves its cores free (09 R199; 14 R260 to R263; 16 R287; 18 R302, R303). A kernel is loaded under a free
index once its object and its signatures check, and unloaded at once or after its last launch (the response to a load
carries its index, log 32); a job request is answered with the cause of the check that fails, or opens a job node, a graph
node beneath it where the jig binds queues, and the launch node beneath that, at the next unused indices (log 14); of a
parent that it carries only the level and status are checked (log 32), and its response waits for the placement (14 R255
to R258; 15 R274, R276; 21 R343; 26 R366). -/
def Obligations.LaunchesAndKernels : Prop :=
  (∀ (tag i c c' l : Nat) (d : Fin 64) (areas : List Nat) (x : Launch) (kn : Kernel) (nd pn : Node) (s : State),
     let p := getPart s tag
     let st := getStrand s c l
     let freed : List Nat := p.cores.filter fun e => (getCore s e).launch == 0
     let taken : List Nat := freed.take x.n
     let pending : Prop := firstPending s tag = some (i, x) ∧ getKernel? s tag x.kidx = some kn ∧ getNode? s tag x.node = some nd ∧
       nodeCancelled s tag x.parent = false ∧ nd.cf = false ∧ (p.st = .idle ∨ p.st = .active) ∧ x.n ≤ freed.length ∧
       x.reqid = none ∧ x.waiter = some ⟨c, l⟩ ∧ x.waiterSid = st.sid ∧ Waits s c l (.launch i d) ∧
       areasOk s tag kn.jig.queues.length areas = true
     let places (t : State) : Prop := exec (.launchPlacement tag areas) s = .next t ∧
       TurnBecame { t with cur := ⟨c, l, false, false⟩ } (goesOn s c (wrG st d (BitVec.ofNat 64 x.node))) ∧
       getLaunch? t tag i = some { x with st := .running, cores := taken }
     let fails (code tval : Nat) : Prop := trapEnters st code = true → ∃ t, exec (.launchPlacement tag areas) s = .next t ∧
       getStrand t c l = enterTrap st code tval ∧ getLaunch? t tag i = none ∧ getNode? t tag x.node = none ∧
       getNode? t tag x.parent = some { pn with cnt := pn.cnt - 1 } ∧ (∀ e, getCore t e = getCore s e) ∧
       (getPart t tag).fields = p.fields ∧ (getPart t tag).queues = p.queues ∧ (getPart t tag).arrs = p.arrs
     let alone : Prop := (p.launches.map (·.1)).Nodup ∧ (p.nodes.map (·.1)).Nodup ∧ x.parent ≠ x.node ∧
       getNode? s tag x.parent = some pn ∧ nodeLives pn = true ∧ 1 < pn.cnt
     (pending → kn.jig.recs = [] → nd.handlers = [] → (∀ f ∈ p.fields, f.2.launch ≠ i) → i ≠ 0 → p.cores.Nodup →
       (∀ e ∈ taken, (getCore s e).deque = [] ∧ (getCore s e).ring = [] ∧ (getCore s e).inbox = []) →
       (kn.jig.fields = [] → kn.jig.queues = [] → x.graph = none → ∃ t, places t ∧
         getNode? t tag x.node = some { nd with cnt := x.n } ∧
         ∀ j e, taken[j]? = some e → (getCore t e).launch = i ∧ (getCore t e).pool = [] ∧ (getCore t e).pword = kn.jig.pword ∧
           (getCore t e).deque =
             [{ pc := kn.jig.entry, fp := x.fp, g1 := BitVec.ofNat 64 j, g2 := BitVec.ofNat 64 x.n, node := x.node,
                kidx := x.kidx, checkTgt := true, sid := s.nextSid + j, agedAt := s.now }]) ∧
       (∀ fd, kn.jig.fields = [fd] → kn.jig.queues = [] → descOk s tag fd = true → nget? p.fields (descFid fd) = none →
         (∀ f ∈ p.fields, fieldsOverlap f.2 (fieldOfDesc fd i) = false) →
         tenantFields s p.tenant < (getTenant s p.tenant).fieldQuota → fieldRoom s p.tenant = true → ∃ t, places t ∧
           getField? t tag (descFid fd) = some { fieldOfDesc fd i with st := .live, timerAt := s.now }) ∧
       (∀ b, kn.jig.fields = [] → kn.jig.queues = [b] → tenantBuffers s p.tenant < (getTenant s p.tenant).bufferQuota →
         bufferRoom s p.tenant = true → nget? p.queues (b % 2 ^ 5) = none → p.arrs = [] → ∃ t, places t ∧
           (∃ home, getQueue? t tag (b % 2 ^ 5) =
             some { launch := i, stagePc := b / 2 ^ 64 % 2 ^ 64, areas := areas, home := home }) ∧
           ∀ a < 16, nget? (getPart t tag).arrs a = if b / 2 ^ (32 + a) % 2 = 1 then some { launch := i } else none)) ∧
     (pending → alone →
       (∀ fd, kn.jig.fields = [fd] → kn.jig.queues = [] →
         (descOk s tag fd = false → fails 0x389 (descFid fd)) ∧
         (descOk s tag fd = true → (nget? p.fields (descFid fd)).isSome = true ∨
           (∃ f ∈ p.fields, fieldsOverlap f.2 (fieldOfDesc fd i) = true) → fails 0x38A (descFid fd)) ∧
         (descOk s tag fd = true → nget? p.fields (descFid fd) = none →
           (∀ f ∈ p.fields, fieldsOverlap f.2 (fieldOfDesc fd i) = false) →
           (getTenant s p.tenant).fieldQuota ≤ tenantFields s p.tenant → fails 0x38B (descFid fd))) ∧
       (∀ b, kn.jig.fields = [] → kn.jig.queues = [b] →
         ((getTenant s p.tenant).bufferQuota ≤ tenantBuffers s p.tenant → fails 0x387 (b % 2 ^ 5)) ∧
         (tenantBuffers s p.tenant < (getTenant s p.tenant).bufferQuota → bufferRoom s p.tenant = true →
           ((nget? p.queues (b % 2 ^ 5)).isSome = true → fails 0x388 (b % 2 ^ 5)) ∧
           (∀ a y, nget? p.queues (b % 2 ^ 5) = none → p.arrs = [(a, y)] → a < 16 → b / 2 ^ (32 + a) % 2 = 1 → y.launch ≠ i →
             fails 0x388 a)))) ∧
     (∀ r, getLaunch? s tag i = some x → x.st = .retiring → x.cores = [c'] → getNode? s tag x.node = some nd → nd.cnt = 0 →
       nd.cf = false → nd.parent = r → r ≠ 0 → r ≠ x.node → r < 4096 → getNode? s tag r = some pn → nodeLives pn = true →
       1 < pn.cnt → (∀ e ∈ p.nodes, e.1 = upOf pn → e.2.parent ≠ x.node) →
       (∀ m ∈ (getCore s c').q0, m.st = .done) → getKernel? s tag x.kidx = some kn → kn.st = .active → kn.live = 1 →
       (∀ e ∈ p.launches, e.1 ≠ i → e.2.st = .pending) → (p.launches.map (·.1)).Nodup → p.st = .active →
       ∃ t, exec (.launchRetire tag i) s = .next t ∧ getLaunch? t tag i = none ∧ (getCore t c').launch = 0 ∧
         getNode? t tag x.node = some { nd with status := .complete } ∧
         getNode? t tag r = some { pn with cnt := pn.cnt - 1 } ∧
         getKernel? t tag x.kidx = some { kn with live := 0, st := .loaded } ∧ (getPart t tag).st = .idle)) ∧
  (∀ (h : ReqHdr) (kidx file bits n parent cause tval : Nat) (fp : Word) (frames tables : List Nat) (kn : Kernel)
     (xs : List Sec) (sj sg : Sec) (s : State),
     let tag := hdrTag h
     let p := getPart s tag
     let ok (kind : Nat) : Prop := arrives s h kind = true ∧ hdrFault s h kind = none ∧ ctxServes p.st = true ∧
       ∀ a ∈ s.asked, a.session ≠ h.session
     let said (t : State) (code body : Nat) : State := { t with responses := t.responses ++ [⟨hdrReqid h, code, body⟩] }
     (ok 3 →
       (checkSko file bits p.tenant = .error cause →
         exec (.loadRequest h kidx file bits frames tables) s = .next (said s cause 0)) ∧
       (checkSko file bits p.tenant = .ok (xs, sj, sg) → getKernel? s tag kidx = none → 1 ≤ kidx → kidx ≤ 1023 →
         (∀ pg ∈ filePages file xs, pageMapped s tag pg.va = false) → (filePages file xs).length ≤ frames.length →
         (mapKernel s tag ((filePages file xs).zip frames) tables).isSome = true → ∃ t,
         exec (.loadRequest h kidx file bits frames tables) s = .next t ∧
         getKernel? t tag kidx = some { jig := jigOf (secData file sj), pages := (filePages file xs).map (·.va)
                                        meas := bitsAt (secData file sg) 0 384 } ∧
         (getPart t tag).st = (if p.st = .empty then .idle else p.st) ∧
         t.responses = s.responses ++ [⟨hdrReqid h, 0, kidx⟩])) ∧
     (ok 4 →
       (getKernel? s tag kidx = none → exec (.unloadRequest h kidx) s = .next (said s 0x381 0)) ∧
       (getKernel? s tag kidx = some kn →
         (kn.st = .unloading → exec (.unloadRequest h kidx) s = .next (said s 0x381 0)) ∧
         (kn.st = .active → exec (.unloadRequest h kidx) s =
           .next (said (putKernel s tag kidx { kn with st := .unloading }) 0 0)) ∧
         (kn.st = .loaded → kn.pages = [] → exec (.unloadRequest h kidx) s =
           .next (said (putPart s tag { p with kernels := nerase p.kernels kidx }) 0 0)))) ∧
     (ok 5 →
       (launchCheck s tag kidx n = some (cause, tval) →
         exec (.launchRequest h kidx n fp parent) s = .next (said s cause tval)) ∧
       (launchCheck s tag kidx n = none → parent ≠ 0 → launchParentOk s tag parent = false →
         exec (.launchRequest h kidx n fp parent) s = .next (said s 0x203 parent)) ∧
       (launchCheck s tag kidx n = none → parent = 0 ∨ launchParentOk s tag parent = true → getKernel? s tag kidx = some kn →
         let job := p.nodeNext
         let launch (node : Nat) (graph : Option Nat) : Launch :=
           { kidx := kidx, n := if n = 0 then p.cores.length else n, node := node, parent := node - 1, fp := fp
             reqid := some (reqKey h), graph := graph }
         let room (k : Nat) : Prop := tenantNodes s p.tenant + k ≤ (getTenant s p.tenant).nodeQuota ∧ p.nodeNext + k ≤ 4096 ∧
           leavesReserved s (32769 - k) 256 p.tenant (s.parts.foldl (fun n e => n + e.2.nodes.length) 0) (tenantNodes s) = true
         let opens (k : Nat) (graph : Option Nat) : Prop := ∃ t, exec (.launchRequest h kidx n fp parent) s = .next t ∧
           t.responses = s.responses ∧ t.asked = s.asked ++ [⟨h.session, hdrReqid h, true, none⟩] ∧
           getLaunch? t tag p.launchNext = some (launch (job + k) graph) ∧
           getNode? t tag job = some { cnt := 1, lvl := 4, status := .draining } ∧
           (∀ m, graph = some m → getNode? t tag m = some { cnt := 1, parent := job, lvl := 2, status := .draining }) ∧
           getNode? t tag (job + k) = some { hpc := kn.jig.tvec, parent := job + k - 1, lvl := 1, status := .draining }
         ((getTenant s p.tenant).nodeQuota ≤ tenantNodes s p.tenant →
           exec (.launchRequest h kidx n fp parent) s = .next (said s 0x202 parent)) ∧
         ((p.nodes.map (·.1)).Nodup → p.nodeNext ≠ 0 → (∀ e ∈ p.nodes, e.1 < p.nodeNext) → (s.parts.map (·.1)).Nodup →
           getNode? s tag 0 = none →
           (kn.jig.queues = [] → room 2 → opens 1 none) ∧ (kn.jig.queues ≠ [] → room 3 → opens 2 (some (job + 1)))))))

/-! ### Steps of the device: clamps and fields -/

/-- The last arrival of an episode releases a clamp: REL rises by one, a new episode opens, and the strands that joined see
REL; an earlier arrival is counted. A clamp is configured anew while no strand sleeps at it, and otherwise the service
gets 0x3C4 (17 R293 to R295, R297; the response is the model's, log 33). An advance adds 1 to a field's tick, once, and
the TADV that asked for it returns the new tick; it does not begin while a SENSE is pinned. A timer field is due at the
end of each period; the fettler brings a cell's stamp up to the tick and keeps its value; a freeze and a thaw change the
field's state (17 R297 to R299; 18 R302, R304). -/
def Obligations.ClampsAndFields : Prop :=
  (∀ (tag c l n : Nat) (cfg : ClampCfg) (d : Fin 64) (s : State),
     let p := getPart s tag
     let st := getStrand s c l
     let x : Clamp := nget p.clamps {} n
     (p.arrivals = [(n, c, l, st.sid)] → x.joined = [] →
       (x.kind = 2 → x.arr + 1 < x.need → ∃ t, exec (.clampArrive tag 0) s = .next t ∧ (getPart t tag).arrivals = [] ∧
         nget (getPart t tag).clamps {} n = { x with arr := x.arr + 1, joined := [(c, l, st.sid)] }) ∧
       (x.kind = 2 → x.need ≤ x.arr + 1 → (∀ f ∈ p.fields, f.2.tsrc ≠ 1) → st.live = true →
         st.status = .asleep (.clamp n d none) → ∃ t, exec (.clampArrive tag 0) s = .next t ∧
         (getPart t tag).arrivals = [] ∧
         nget (getPart t tag).clamps {} n = { x with rel := x.rel + 1, arr := 0, counted := [], joined := [] } ∧
         getStrand t c l = { st with status := .asleep (.clamp n d (some (x.rel + 1))) }) ∧
       (x.kind = 1 → c ∈ x.counted → x.arr < x.need → ∃ t, exec (.clampArrive tag 0) s = .next t ∧
         nget (getPart t tag).clamps {} n = { x with joined := [(c, l, st.sid)] })) ∧
     (cfg.num < 64 → p.st ≠ .free → cfg.kind = 2 → 1 ≤ cfg.need → cfg.need < 65536 → cfg.root < 4096 →
       (clampInUse s tag cfg.num = true →
         exec (.clampReconfiguration tag cfg) s = .next { s with responses := s.responses ++ [⟨0, 0x3C4, 0⟩] }) ∧
       (clampInUse s tag cfg.num = false → exec (.clampReconfiguration tag cfg) s = .next (putPart s tag
         { p with clamps := nset p.clamps cfg.num { kind := 2, need := cfg.need, root := cfg.root } })))) ∧
  (∀ (tag fid cell c l : Nat) (d : Fin 64) (f : Field) (s : State), getField? s tag fid = some f →
     let st := getStrand s c l
     let part? := fieldCell s tag f cell
     (f.st = .live → f.due ≠ 0 → sensePinned s tag fid = false → f.fade = 0 →
       (f.waiters = [] → exec (.tickAdvance tag fid) s = .next (putField s tag fid { f with tick := f.tick + 1, due := f.due - 1 })) ∧
       (f.waiters = [(c, l, st.sid, d)] → Waits s c l (.tadv fid d) → exec (.tickAdvance tag fid) s = .next
         (resumed (putField s tag fid { f with tick := f.tick + 1, due := f.due - 1, waiters := [] }) c l
           (wrG st d (BitVec.ofNat 64 (f.tick + 1)))))) ∧
     (sensePinned s tag fid = true → exec (.tickAdvance tag fid) s = .next s) ∧
     (f.st = .live → f.tsrc = 2 → f.timerAt + f.targ ≤ s.now → exec (.fieldTimerTick tag fid) s =
       .next (putField s tag fid { f with due := f.due + 1, timerAt := f.timerAt + f.targ })) ∧
     (∀ p, f.st = .live → f.fade ≠ 0 → cell < f.rows * f.cols → part? = some p → isInternal p.pa = false → p.w = 32 →
       let v := markAt (physRead s p.key p.pa 32) f.tick f.fade
       ∃ t, exec (.fettlerNormalise tag fid cell) s = .next t ∧ physRead t p.key p.pa 32 = markWord v f.tick ∧
         Spares s t [p] ∧
         getField? t tag fid = some { f with norm := nset f.norm cell f.tick }) ∧
     (f.st = .live → f.due = 0 → (f.tsrc = 2 → s.now < f.timerAt + f.targ) → exec (.fieldFreeze tag fid) s = .next (putField s tag fid { f with st := .frozen })) ∧
     (f.st = .frozen → (getPart s tag).st ≠ .parked → (getPart s tag).st ≠ .sealed →
       exec (.fieldThaw tag fid) s = .next (putField s tag fid { f with st := .live, timerAt := s.now })))

/-! ### Steps of the device: power, heat and start-up -/

/-- A budget division, due every 1,000 ticks, takes the new cap in, shares the budget by water-filling, and writes each core's
FDUTY; the share is the whole demand where it fits, and never more than the budget (22 R344 to R346). -/
def Obligations.BudgetDivision : Prop :=
  (∀ (G : Nat) (ds : List Nat), ds.sum ≤ G → waterFill G ds = ds) ∧
  (∀ (G : Nat) (ds : List Nat), G < ds.sum → (waterFill G ds).sum = G ∧ (waterFill G ds).length = ds.length ∧
    ∀ i (h : i < ds.length), (waterFill G ds).getD i 0 ≤ ds[i]) ∧
  (∀ (measured : Nat) (demands : List (Nat × Nat)) (c : Nat) (s : State), s.power.lastDivision + 1000 ≤ s.now →
    ∃ t, exec (.budgetDivision measured demands [] []) s = .next t ∧ t.power.cap = s.power.capNext ∧
      t.power.lastDivision = s.now ∧ (s.power.thermal = .crit → (getCore t c).fduty = (getCore s c).fduty) ∧
      (s.power.thermal ≠ .crit → demands = [] → c < 4096 → (getCore t c).fduty = 16)) ∧
  (∀ (measured : Nat) (demands volts energy : List (Nat × Nat)) (s : State), s.now < s.power.lastDivision + 1000 →
    exec (.budgetDivision measured demands volts energy) s = .next s)

/-- The commands and counters of power: the cap is clamped to 800 to 2,600 W and reported; a partition votes a rail where it
has cores; energy words are cleared by 1; a late capture is counted and a second one raises the voltage by 5 mV; a paused
clock starts again; what may be gated is gated (which permits towards a cluster count is the model's reading, log 80), and
reads as zero when it wakes (22 R346 to R350, R352; 26 R369). A report of the dies' temperatures takes the package one
thermal state up at 95, 105 and 115 °C, one state in one report (the model's choice, log 67), stops every core in CRIT,
and takes the supply away at 125 °C; it comes a state down after eight cool reports; the board controller is told of the
alert and of the supply's removal (01 R21; 22 R354). A power loss keeps the counter chains (20 R332); the rest of the
state after it, and at 125 °C, is the model's choice (log 68). A miss of the heartbeat resets the management cores and is
told to the board controller (22 R353). -/
def Obligations.PowerAndHeat : Prop :=
  (∀ (c tag r v : Nat) (mask : Word) (s : State),
     let k := getCore s c
     let p := getPart s tag
     (let cap := max 800 (min 2600 v)
      exec (.capWrite v) s = .next { s with power := { s.power with capNext := cap }
                                            reports := s.reports ++ [⟨0x301, cap, 0, 0⟩] }) ∧
     (v < 4 → (∃ e ∈ p.cores, regionOf e = r) →
       exec (.railVote tag v r) s = .next (putPart s tag { p with vote := nset p.vote r v })) ∧
     (0 < tag → tag < 64 → ∃ t, exec (.enjClear tag mask) s = .next t ∧ getPart t tag = { p with enj := p.enj &&& ~~~ mask }) ∧
     (k.terr + 2 < 2 ^ 32 →
       exec (.lateCaptureReplay c false) s = .next (putCore s c { k with terr := k.terr + 1 }) ∧
       (k.vcore + 5 ≤ railVolts (railLevel s (regionOf c)) →
         exec (.lateCaptureReplay c true) s = .next (putCore s c { k with terr := k.terr + 2, vcore := k.vcore + 5 }))) ∧
     (k.clockPaused = true → clockNeeded s c = true →
       exec (.clockRestart c) s = .next (putCore s c { k with clockPaused := false })) ∧
     (v < 4 → (getUe s v).ready = false → isGated s (.uePort v) = false →
       exec (.gateBegin (.uePort v)) s = .next { s with gated := s.gated ++ [.uePort v] }) ∧
     (v < 512 → clusterIdle s v = true → isGated s (.cluster v) = false → ∃ t,
       exec (.gateBegin (.cluster v)) s = .next t ∧ t.gated = s.gated ++ [.cluster v] ∧
         ∀ e ∈ coresOf v, (getCore t e).pool = [] ∧ (getCore t e).side = []) ∧
     (∀ u, isGated s u = true → exec (.gateWake u) s = .next { s with gated := s.gated.filter (· != u) })) ∧
  (∀ (top : Int) (c : Nat) (v : Word) (s : State),
     let lost : State := { State.reset with supply := false, draw := s.draw, nextSid := s.nextSid, now := s.now,
                                            chains := s.chains.map fun e => (e.1, { e.2 with writing := none }),
                                            ingots := s.ingots, agenda := s.agenda }
     let w : Power := { s.power with lastReport := s.now }
     let reports (code : Nat) : List Report := s.reports ++ [⟨0x300, code, 0, 0⟩]
     exec .powerLoss s = .next lost ∧
     exec (.heartbeatWrite v) s = .next { s with power := { s.power with hbWord := v, heartbeat := s.now } } ∧
     (s.boot.ready.toNat % 2 = 1 → s.power.heartbeat + 2 ^ 24 ≤ s.now → s.boot.mgmt = [] → 0x1000 ≤ c → c < 0x1008 →
       ∃ t, exec .heartbeatMiss s = .next t ∧ t.power.heartbeat = s.now ∧
         t.power.notices = s.power.notices ++ [.heartbeatMissed] ∧ getCore t c = {} ∧
         (∀ l < 8, getStrand t c l = {}) ∧ ∀ c' l, c' < 0x1000 → l < 8 → getStrand t c' l = getStrand s c' l) ∧
     (s.power.lastReport + 1000 ≤ s.now →
       (125 ≤ top → exec (.thermalReport [top]) s = .next 
         { lost with power := { lost.power with thermal := .off, notices := s.power.notices ++ [.supplyRemoved] } }) ∧
       (s.power.thermal = .normal → 95 ≤ top → top < 125 → exec (.thermalReport [top]) s =
         .next { s with power := { w with thermal := .warn, coolCount := 0, halved := false, alert := true,
                                          notices := s.power.notices ++ [.thermalAlert] }, reports := reports 1 }) ∧
       (s.power.thermal = .warn → 105 ≤ top → top < 125 → exec (.thermalReport [top]) s =
         .next { s with power := { w with thermal := .hot, coolCount := 0, halved := true } }) ∧
       (s.power.thermal = .hot → 115 ≤ top → top < 125 → c < 4096 → ∃ t, exec (.thermalReport [top]) s = .next t ∧
         t.power.thermal = .crit ∧ t.reports = reports 3 ∧ (getCore t c).fduty = 0) ∧
       (s.power.thermal = .hot → top ≤ 100 → s.power.coolCount = 7 → exec (.thermalReport [top]) s =
         .next { s with power := { w with thermal := .warn, coolCount := 0, halved := false } }) ∧
       (s.power.thermal = .hot → top ≤ 100 → s.power.coolCount < 7 → exec (.thermalReport [top]) s =
         .next { s with power := { w with coolCount := s.power.coolCount + 1 } })))

/-- Power-good begins start-up, once, with the image that the firmware's check accepts; a unit that was skipped may be redone,
a stack while no leaf names its frames. A snapshot trigger joins the next latch, which the next tick begins; a latch that completes, within
64 ticks, can be read (23 R356, R358, R359, R362). -/
def Obligations.StartUpAndSnapshots : Prop :=
  ∀ (image backup : FwImage) (units : List UnitOutcome) (mgmt : List (Nat × Nat)) (root : Nat) (o : UnitOutcome)
    (e : StartEntry) (at_ : Nat) (s : State),
    (s.boot.started = true → exec (.powerGood image backup units mgmt root) s = .next s) ∧
    (s.boot.started = false → (∀ u ∈ plannedOutcomes units image backup, 0 < u.tick) → ∃ t,
      exec (.powerGood image backup units mgmt root) s = .next t ∧ t.supply = true ∧ t.boot.started = true ∧
        t.boot.todo = plannedOutcomes units image backup ∧ t.boot.startAt = s.now ∧ t.boot.record = [] ∧ t.boot.ready = 0 ∧
        (fwDetail image = none → t.boot.svn = image.svn % 2 ^ 32) ∧
        (fwDetail image ≠ none → fwDetail backup = none → t.boot.svn = backup.svn % 2 ^ 32)) ∧
    (o.step = 3 → o.fails ≤ 3 → stackNamed s o.unit = false → s.boot.record = [e] → e.step = 3 → e.unit = o.unit → e.res = 2 → s.boot.recovery = false →
      s.boot.todo = [] → exec (.unitRedo o) s =
        .next { s with boot := { s.boot with todo := [o], record := [{ e with res := 3 }] } }) ∧
    exec .snapshotTrigger s = .next { s with snap := { s.snap with pending := true } } ∧
    (∀ ag, s.supply = true → s.agenda = .tick :: ag → s.boot.todo = [] →
      (s.snap.pending = true → s.snap.latchedAt = none → ∃ t, step s = .next t ∧ t.snap.latchedAt = some (s.now + 1)) ∧
      (s.snap.pending = false → s.snap.latchedAt = some at_ → ∃ t, step s = .next t ∧
        (s.now + 1 < at_ + 64 → t.snap = s.snap) ∧
        (at_ + 64 ≤ s.now + 1 → t.snap = { seq := (s.snap.seq + 1) % 2 ^ 16, words := s.snap.shadow }))) ∧
    (s.snap.latchedAt = some at_ → exec .snapshotLatch s =
      .next { s with snap := { seq := (s.snap.seq + 1) % 2 ^ 16, words := s.snap.shadow } })

/-! ### Steps of the device: links -/

/-- The states of a scale-up port: enabled into TRAINING with its counters clear, UP once trained, FAILED after 100,000 ticks,
RETRAIN on a loss of signal or the eighth replay of one flit in a row, and OFF when disabled (21 R335 to R337). A peer's
answer within 65,536 ticks, through a port that is UP, completes the access; a later want of it, or a refusal, traps with
0x340 or 0x342; a request whose port is lost moves to another UP port to its peer, or traps with 0x341. A peer's write to
this device's memory is performed at its home slice. Packets of a mode that is not supported are dropped and counted; one
that is unsecured or too long is dropped, uncounted (the model's reading, log 85); an RMA write is delivered, and its
message, whole when its packets are in, is reported complete; an RMA read is answered, a send is received; a message of
the device is sent from its buffer once it has been posted (log 85) (13 R246, R247; 21 R336, R338, R342). -/
def Obligations.Links : Prop :=
  (∀ (p dev pp : Nat) (crc : Bool) (s : State),
     let x := getPort s p
     let becomes (i : Instr) (y : Port) : Prop := exec i s = .next (putPort s p y)
     (portUsable s p = true → x.st = .off ∨ x.st = .failed → becomes (.portEnable p) { st := .training, since := s.now }) ∧
     ((∀ e ∈ s.peers, e.2.port ≠ p) → x.st = .up ∨ x.st = .failed → becomes (.portDisable p) { x with st := .off, run := 0, since := s.now }) ∧
     (s.now < x.since + 100000 →
       (x.st = .training → 1 ≤ dev → dev ≤ 255 → pp < 128 →
         becomes (.portTrained p dev pp) { x with pdev := dev, pport := pp, st := .up, run := 0, since := s.now }) ∧
       (x.st = .retrain → becomes (.portTrained p dev pp) { x with st := .up, run := 0, since := s.now })) ∧
     (x.since + 100000 ≤ s.now → (∀ e ∈ s.peers, e.2.port ≠ p) → x.st = .training ∨ x.st = .retrain →
       becomes (.trainingTimeout p) { x with st := .failed, run := 0, since := s.now }) ∧
     (x.st = .up → becomes (.lossOfSignal p) { x with st := .retrain, run := 0, since := s.now }) ∧
     (x.st = .up → x.rply < 65535 → x.crce < 65535 →
       let y : Port := { x with rply := x.rply + 1, crce := x.crce + crc.toNat }
       becomes (.flitReplay p crc false) { y with run := 1 } ∧
       (x.run + 1 < 8 → becomes (.flitReplay p crc true) { y with run := x.run + 1 }) ∧
       (8 ≤ x.run + 1 → becomes (.flitReplay p crc true) { y with st := .retrain, run := 0, since := s.now }))) ∧
  (∀ (i c l ea n v pa key w : Nat) (d : Fin 64) (ord : Ord) (sc : Scope) (err : Bool) (pkt : UePacket) (p : Nat) (r : PeerReq)
     (s : State),
     let st := getStrand s c l
     let q : MemReq := ⟨.load ea n false (.g d), ord, sc, false, err, false⟩
     let x := getUe s p
     let fits : Prop := pkt.frame ≤ 9216 ∧ pkt.payload ≤ 4096
     let gone : State := { s with peers := nerase s.peers i }
     let off : State := putPort s p { getPort s p with st := .off, run := 0, since := s.now }
     (nget? s.peers i = some r → r.core = c → r.slot = l → r.sid = st.sid → r.engine = none → r.red = false → r.q = q →
       Waits s c l (.peer q i) →
       (s.now < r.at_ + 65536 →
         (portTo s r.dev = true →
           exec (.peerResponse i (.value v)) s = .next (resumed gone c l (wrG st d (BitVec.ofNat 64 (v % 2 ^ n)))) ∧
           exec (.peerResponse i .refused) s = .next (takeTrap gone c l 0x342 ea)) ∧
         (portTo s r.dev = false → exec (.peerResponse i (.value v)) s = .next s) ∧
         exec (.peerAccessTimeout i) s = .next s) ∧
       (r.at_ + 65536 ≤ s.now → exec (.peerAccessTimeout i) s = .next (takeTrap gone c l 0x340 ea) ∧
         exec (.peerResponse i (.value v)) s = .next s) ∧
       (s.peers = [(i, r)] → r.port = p → (getPort s p).st = .up →
         (∀ p', upPort off r.dev = some p' → exec (.portDisable p) s = .next { off with peers := [(i, { r with port := p' })] }) ∧
         (upPort off r.dev = none → exec (.portDisable p) s = .next (takeTrap { off with peers := [] } c l 0x341 ea)))) ∧
     (∀ ag, s.supply = true → s.agenda = .peer (.write key pa w v) :: ag → 0 < w → pa % 512 + w ≤ 512 → pa + w ≤ hbmBits →
       ∃ t, step s = .next t ∧ physRead t key pa w = v % 2 ^ w) ∧
     (p < 4 → x.ready = true → isGated s (.uePort p) = false →
       (pkt.mode = .uud ∨ pkt.mode = .rudi →
         exec (.uePacketReceive p pkt) s = .next (putUe s p { x with drops := x.drops + 1 })) ∧
       (pkt.mode = .rud ∨ pkt.mode = .rod →
         (pkt.secured = false ∨ ¬ fits → exec (.uePacketReceive p pkt) s = .next s) ∧
         (pkt.secured = true → fits →
           (w ≤ 8 * pkt.payload → pkt.op = .rmaWrite pa key w v → 0 < w → pa % 512 + w ≤ 512 → isInternal pa = false →
             ∃ t, exec (.uePacketReceive p pkt) s = .next t ∧ physRead t key pa w = v % 2 ^ w ∧
               (getUe t p).pending = x.pending + (if pkt.of_ ≤ nget x.parts 0 pkt.msg + 1 then 1 else 0)) ∧
           (pkt.op = .rmaRead pa key w → ∃ t, exec (.uePacketReceive p pkt) s = .next t ∧ t.mem = s.mem ∧
             (getUe t p).sent = x.sent ++ [(w, physRead s key pa w)]) ∧
           (∀ tagged, pkt.op = .send tagged v → exec (.uePacketReceive p pkt) s =
             .next (putUe s p { x with received := x.received ++ [(tagged, v % 2 ^ (8 * pkt.payload))] }))))) ∧
     (∀ ag, s.supply = true → s.agenda = .uePost p c l pa key w :: ag → p < 4 → x.ready = true → isMgmt c = true → st.live = true →
       pa + w ≤ hbmBits → ∃ t, step s = .next t ∧ getUe t p = { x with posted := x.posted ++ [(pa, key, w)] }) ∧
     (∀ ag rest, s.supply = true → s.agenda = .ueSend p :: ag → x.posted = (pa, key, w) :: rest → ∃ t, step s = .next t ∧
       t.mem = s.mem ∧ getUe t p = { x with posted := rest, sent := x.sent ++ [(w, physRead s key pa w)] }) ∧
     (x.pending ≠ 0 → exec (.rmaWriteComplete p) s =
       .next (putUe s p { x with pending := x.pending - 1, done := x.done + 1 })))

/-- A post of a collective is taken by its group with the SEQ it carries, which for the rank's first post may be any (the model's
reading, log 66), or turned away with a status word: WHY 5 where 64 were outstanding, 3 where its descriptor is bad, 4 where its SEQ
does not follow (its DEV is a free value) or the group is not known, or with the failure of the collective that it was missing from. A
collective whose contributions are all there writes every local participant's destination and status; one that fails, whose local posts
carry unlike SEQs, or whose deadline, counted from the first contribution, passes, ends the oldest post of every local participant with
WHY and DEV (21 R339 to R341). -/
def Obligations.Collectives : Prop :=
  ∀ (tag tag' g a dev why at_ at' d' v : Nat) (parts : List (Nat × Contribution)) (x : CollGroup) (s : State),
    let D := Config.deviceNumber
    let p := getPart s tag
    let d := partRead s tag a 512
    let w := collWidth d * collCount d
    let own := partRead s tag (collSrc d) w
    let taken : State := putPart s tag { p with posts := [] }
    let post : Post := ⟨tag, d, at_⟩
    let said (t : State) (st y e : Nat) : State :=
      partWrite t tag (collStat d) 64 (st * 2 ^ 62 + y * 2 ^ 56 + e % 256 * 2 ^ 48 + collSeq d)
    let next : CollGroup := { x with nextSeq := nset x.nextSeq 0 ((collSeq d + 1) % 2 ^ 16) }
    let posted (t : State) : Prop := exec (.collectivePost tag) s = .next t
    let reachable (n : Nat) : Prop := partDown s tag (collSrc d) w = none ∧ partDown s tag (collDst d) (collDstBits d n 0) = none
    let done (n r : Nat) (cs : List (Nat × Contribution)) : Prop := exec (.collectiveComplete g cs) s =
      .next (putGroup (said (partWrite s tag (collDst d) (collWidth d * (n * collCount d)) r) 1 0 0) g { x with posts := [] })
    let failed (y e : Nat) : State := putGroup (said s 2 y e) g { x with posts := [] }
    (∀ full, p.posts = [(a, full)] → partHas s tag a 512 false = true →
      (getGroup? s (collGroup d) = some x → (localRanks x).find? (fun e => e.2 == tag) = some (0, tag) →
        let ended (y : Nat) : Prop :=
          posted (putGroup (said taken 2 y D) (collGroup d) { next with ended := x.ended ++ [(0, collSeq d)] })
        let good : Prop := full = false ∧ collOk s tag d x.ranks.length 0 = true
        ((∀ e ∈ x.owed, e.1 ≠ 0) →
          (full = true → ended 5) ∧
          (full = false → collOk s tag d x.ranks.length 0 = false → ended 3) ∧
          (good → nget? x.nextSeq 0 = none ∨ nget? x.nextSeq 0 = some (collSeq d) →
            posted (putGroup taken (collGroup d) { next with posts := x.posts ++ [⟨tag, d, s.now⟩] })) ∧
          (good → x.ranks = [(D, tag)] → x.posts = [] → (∃ q, nget? x.nextSeq 0 = some q ∧ q ≠ collSeq d) →
            posted (putGroup (said taken 2 4 (Config.freeWord s.draw 4)) (collGroup d) next))) ∧
        (good → x.owed = [(0, why, dev)] → why < 64 →
          posted (putGroup (said taken 2 why dev) (collGroup d) { next with owed := [] }))) ∧
      (getGroup? s (collGroup d) = none →
        (full = true → posted (said taken 2 5 D)) ∧
        (full = false → collOk s tag d 256 0 = true → posted (said taken 2 4 (Config.freeWord s.draw 4))) ∧
        (full = false → collOk s tag d 256 0 = false → posted (said taken 2 3 D)))) ∧
    (getGroup? s g = some x → x.posts = [post] →
      (∀ b, x.ranks = [(D, tag), (dev, b)] → dev ≠ D → dev < 256 →
        (why ∈ [1, 2, 4, 6] → exec (.collectiveComplete g [(1, .failed why dev)]) s = .next (failed why dev)) ∧
        (at_ + collTmo d ≤ s.now → exec (.collectiveTimeout g dev) s = .next (failed 1 dev)) ∧
        (reachable 2 → (collOp d = 0 → done 1 (collReduce d [own, v] 0 (collCount d)) [(1, .bits v)]) ∧
          (collOp d = 3 → collRoot d = 1 → done 1 (v % 2 ^ w) [(1, .bits v)]))) ∧
      (x.ranks = [(D, tag), (D, tag')] → tag ≠ tag' → x.ended = [] →
        (s.now < at_ + collTmo d → exec (.collectiveTimeout g D) s = .next s) ∧
        (at_ + collTmo d ≤ s.now → exec (.collectiveTimeout g D) s =
          .next (putGroup (failed 1 D) g { x with posts := [], owed := x.owed ++ [(1, 1, D)] }))) ∧
      (x.ranks = [(D, tag)] → reachable 1 → collOp d = 2 → done 1 (own % 2 ^ w) [])) ∧
    (getGroup? s g = some x → x.ranks = [(D, tag), (D, tag')] → tag ≠ tag' → x.ended = [] → collSeq d' ≠ collSeq d →
      x.posts = [post, ⟨tag', d', at'⟩] → ∃ t, exec (.collectiveComplete g parts) s = .next t ∧
        getGroup? t g = some { x with posts := [] })

/-! ### Steps of the device: the resident service -/

/-- Every request that arrives is checked first: a malformed header, also one of another KIND (the model's reading, log 64),
or another tenant's session or partition, is answered with 0x3C6 or 0x3C5 and nothing else happens; a state of the context
that forbids the request is answered with 0x3C4. The response leaves at once, or waits for those of its session's earlier
requests. A request does not arrive while the service is not up, has set no session up, or has an earlier request of the
session to perform (20 R325; 21 R343). A query returns the context's state, the tenant's quotas and a signed quote over
the verifier's nonce (in the model's layout, log 32); a group is set up with the ranks it names, but not while posts of it
are outstanding (log 32); a quota changes within the bounds of R371; an engine's epoch advances (08 R177; 20 R371; 21
R339, R343; 23 R360). -/
def Obligations.RequestsAndAnswers : Prop :=
  (∀ (h : ReqHdr) (body : BuildBody) (kidx file bits n parent j root ch ea nonce size grp cause : Nat) (fp : Word)
     (frames keys tables : List Nat) (ranks : List (Nat × Nat)) (s : State),
     let st := (getPart s (hdrTag h)).st
     let answers (i : Instr) (code : Nat) : Prop := exec i s = .next
       (if s.asked.any (fun a => a.session == h.session) then
         { s with asked := s.asked ++ [⟨h.session, hdrReqid h, true, some (code, 0)⟩] }
       else { s with responses := s.responses ++ [⟨hdrReqid h, code, 0⟩] })
     let checked (kind : Nat) : Prop := arrives s h kind = true ∧ hdrFault s h kind = none
     let requests : List (Nat × Instr) :=
       [(1, .buildRequest h body), (2, .freeRequest h), (3, .loadRequest h kidx file bits frames tables),
        (4, .unloadRequest h kidx), (5, .launchRequest h kidx n fp parent), (6, .parkRequest h j), (7, .resumeRequest h),
        (8, .resetRequest h), (9, .sealRequest h root ch ea nonce size),
        (10, .unsealRequest h root ch ea frames keys tables), (11, .queryRequest ⟨h, nonce⟩), (12, .groupSetupRequest h grp ranks)]
     (∀ r ∈ requests, (arrives s h r.1 = false → exec r.2 s = .next s) ∧
       (arrives s h r.1 = true → hdrFault s h r.1 = some cause → answers r.2 cause)) ∧
     (checked 1 → st ≠ .free → answers (.buildRequest h body) 0x3C4) ∧
     (checked 2 → st = .active → answers (.freeRequest h) 0x3C4) ∧
     (checked 3 → st = .parked → answers (.loadRequest h kidx file bits frames tables) 0x3C4) ∧
     (checked 4 → st = .parked → answers (.unloadRequest h kidx) 0x3C4) ∧
     (checked 5 → st = .parked → answers (.launchRequest h kidx n fp parent) 0x3C4) ∧
     (checked 6 → st = .empty → answers (.parkRequest h j) 0x3C4) ∧
     (checked 7 → st = .active → answers (.resumeRequest h) 0x3C4) ∧
     (checked 8 → st = .free → answers (.resetRequest h) 0x3C4) ∧
     (∀ kind, (serviceUp s = false ∨ h.session ∉ s.sessions → arrives s h kind = false) ∧
       (serviceUp s = true → h.session ∈ s.sessions → (∀ a ∈ s.asked, a.session = h.session → a.performed = true) →
         arrives s h kind = true)) ∧
     (hdrKind h ≠ j → hdrFault s h j = some 0x3C6) ∧
     (hdrKind h = j → h.bits.toNat / 2 ^ 160 % 2 ^ 18 = 0 → h.bits.toNat % 2 ^ 128 = 0 →
       (hdrTenant h ≠ h.session → hdrFault s h j = some 0x3C5) ∧
       (hdrTenant h = h.session → st ≠ .free → (getPart s (hdrTag h)).tenant ≠ hdrTenant h → hdrFault s h j = some 0x3C5) ∧
       (hdrTenant h = h.session → st = .free → hdrFault s h j = none))) ∧
  (∀ (h : ReqHdr) (nonce grp cl tenant v : Nat) (kind : QuotaKind) (ranks : List (Nat × Nat)) (s : State),
     let p := getPart s (hdrTag h)
     let t := getTenant s (hdrTenant h)
     let ctx := match p.st with
       | .free => 0 | .empty => 1 | .idle => 2 | .active => 3 | .parking => 4 | .parked => 5 | .sealed => 6 | .resetting => 7
     let x := getCluster s cl
     let others := (s.tenants.filter fun e => e.1 != tenant && e.2.active).length
     let quote := quoteOf s.boot.fwMeasure (if hdrTag h = 0 ∨ p.st = .free then 0 else tenantMeasure p) deviceId s.boot.svn nonce
     let ok (kind : Nat) : Prop :=
       arrives s h kind = true ∧ hdrFault s h kind = none ∧ ∀ a ∈ s.asked, a.session ≠ h.session
     (ok 11 → exec (.queryRequest ⟨h, nonce⟩) s = .next { s with responses := s.responses ++ [⟨hdrReqid h, 0, ctx
       + (t.nodeQuota + t.bufferQuota * 2 ^ 32 + t.fieldQuota * 2 ^ 64 + t.tlbQuota * 2 ^ 96 + t.pageQuota * 2 ^ 128) * 2 ^ 8
       + (quote % 2 ^ 1280 + Config.identitySignature 0 (quote % 2 ^ 1280) % 2 ^ 512 * 2 ^ 1280
         + Config.identitySignature 1 (quote % 2 ^ 1280) % 2 ^ 26472 * 2 ^ 1792) * 2 ^ 256⟩] }) ∧
     (ok 12 → grp < 256 → ranks ≠ [] → ranks.length ≤ 256 → ranks.Nodup →
       (∀ e ∈ ranks, 1 ≤ e.1 ∧ e.1 ≤ 255 ∧ 1 ≤ e.2 ∧ e.2 ≤ 63) →
       ((∃ e ∈ ranks, e.1 = Config.deviceNumber ∧ (getPart s e.2).st = .free) → exec (.groupSetupRequest h grp ranks) s =
         .next { s with responses := s.responses ++ [⟨hdrReqid h, 0x3C5, 0⟩] }) ∧
       ((∀ e ∈ ranks, e.1 = Config.deviceNumber → (getPart s e.2).st ≠ .free ∧ (getPart s e.2).tenant = hdrTenant h) →
         (∃ y, getGroup? s grp = some y ∧ y.posts ≠ []) → exec (.groupSetupRequest h grp ranks) s =
         .next { s with responses := s.responses ++ [⟨hdrReqid h, 0x3C4, 0⟩] }) ∧
       ((∀ e ∈ ranks, e.1 = Config.deviceNumber → (getPart s e.2).st ≠ .free ∧ (getPart s e.2).tenant = hdrTenant h) →
         (∀ y, getGroup? s grp = some y → y.posts = []) → exec (.groupSetupRequest h grp ranks) s =
         .next { putGroup s grp { ranks := ranks } with responses := s.responses ++ [⟨hdrReqid h, 0, 0⟩] })) ∧
     (quotaReserve kind ≤ v → v + others * quotaReserve kind ≤ quotaTotal kind →
       (quotaHeld s tenant kind ≤ v →
         exec (.quotaChange tenant kind v) s = .next { s with tenants := nset s.tenants tenant (setQuota (getTenant s tenant) kind v) }) ∧
       (v < quotaHeld s tenant kind → exec (.quotaChange tenant kind v) s = .next s)) ∧
     exec (.engineEpochAdvance cl) s = .next (putCluster s cl { x with epoch := (x.epoch + 1) % 2 ^ 13 }))

/-- A context is built EMPTY with its cores, freed into the hold of its tag, parked core by core, resumed, and reset; its
state moves as R325 gives it. The body of a build's response, and that a park is answered when the context is PARKED and a
request that a reset overrides with 0x3C4, are the model's (logs 32, 61); the responses of a session leave in the order of
its requests (20 R322, R325, R327 to R329; 21 R343). What the service does of its own accord. It changes the cores and
granules of a partition that is EMPTY, or IDLE with no work, and zeroes those that come and go (20 R326). It watches a
fault buffer, wakes when the monitor over it fires, and 1,000 ticks later acts on its entries, clears it and arms the
monitor again; a granule that is mapped meanwhile it leaves (27 R368; these steps of its strands are the model's, log 82).
It sets a session up once the peer accepts its quote (21 R343; 23 R360). In recovery it does nothing (23 R356). -/
def Obligations.ContextStates : Prop :=
  (∀ (h : ReqHdr) (body : BuildBody) (j c : Nat) (r : Nat × Nat) (late : List (Nat × Nat × Nat)) (s : State),
     let tag := hdrTag h
     let p := getPart s tag
     let ok (kind : Nat) : Prop :=
       arrives s h kind = true ∧ hdrFault s h kind = none ∧ ∀ a ∈ s.asked, a.session ≠ h.session
     let reply (code body : Nat) : List Response := s.responses ++ [⟨hdrReqid h, code, body⟩]
     (∀ b, ok 1 → buildFree s tag body = true → buildOk s (hdrTenant h) body = true →
       buildContext s tag (hdrTenant h) body = some b → builtOk b tag body = true → ∃ t, exec (.buildRequest h body) s = .next t ∧
         (getPart t tag).st = .empty ∧ (getPart t tag).tenant = hdrTenant h ∧
         (getPart t tag).cores = body.cores.mergeSort ∧ t.responses = reply 0 (body.lfbase * 2 ^ 64 + body.dbell) ∧
         ∀ e ∈ body.cores, (getCore t e).tag = tag ∧ (getCore t e).pool = []) ∧
     (ok 2 → p.st = .idle ∨ p.st = .parked → sealing s tag = false → (∀ e ∈ p.launches, e.2.st ≠ .pending) →
       ∃ t, exec (.freeRequest h) s = .next t ∧
       (getPart t tag).st = .free ∧ (getPart t tag).cores = [] ∧ (getPart t tag).holdUntil = s.now + 4096 ∧
       (∀ e ∈ p.cores, (getCore t e).tag = 0 ∧ ∀ l < 8, (getStrand t e l).live = false)) ∧
     (ok 6 → p.st = .idle ∨ p.st = .active → (∀ e ∈ p.launches, e.2.st ≠ .pending) → p.cores[j]? = some c → (getCore s c).parked = false →
       ∃ t, exec (.parkRequest h j) s = .next t ∧ (getPart t tag).st = .parking ∧
         (getPart t tag).parkReq = some (reqKey h) ∧ (getCore t c).parked = true ∧ t.responses = s.responses ∧
         t.asked = s.asked ++ [⟨h.session, hdrReqid h, false, none⟩]) ∧
     (p.st = .parking → p.cores = [c] → (getCore s c).parked = true → commandsDone s c = true → stealsAnswered s [c] = true →
       (∀ x ∈ s.peers, tagOf s x.2.core ≠ tag) → (∀ f ∈ p.fields, advancesMade s.now f.2 = true) → Still s c →
       (∀ e ∈ s.cores, ∀ q ∈ e.2.q2, q.tag ≠ tag) → p.parkReq = some r →
       s.asked = ⟨r.1, r.2, false, none⟩ :: late.map (fun e => ⟨r.1, e.1, true, some e.2⟩) → ∃ t,
       exec (.contextParked tag) s = .next t ∧ t.asked = [] ∧
         t.responses = s.responses ++ ⟨r.2, 0, 0⟩ :: late.map (fun e => ⟨e.1, e.2.1, e.2.2⟩) ∧ getPart t tag =
         { p with st := .parked, parkReq := none, fields := p.fields.map fun e => (e.1, frozenField e.2) }) ∧
     (ok 7 → p.st = .parked → sealing s tag = false → p.cores = [c] → (getCore s c).inbox = [] →
       (∀ l < 8, ∀ cause, (getStrand s c l).status ≠ .asleep (.retire cause)) → ∃ t, exec (.resumeRequest h) s = .next t ∧
       (getPart t tag).st = (if anyLive p then .active else .idle) ∧ (getCore t c).parked = false ∧ t.responses = reply 0 0) ∧
     (ok 8 → p.st ≠ .free → ∃ t, exec (.resetRequest h) s = .next t ∧ (getPart t tag).st = .resetting ∧
       (getPart t tag).launches = [] ∧ (getPart t tag).nodes = [] ∧ (∀ e ∈ p.cores, (getCore t e).deque = []) ∧
       ∀ e ∈ p.cores, ∀ l < 8, (getStrand t e l).live = false) ∧
     (p.st ≠ .free → ∃ t, exec (.fatalFault tag) s = .next t ∧ (getPart t tag).st = .resetting ∧
       (p.launches = [] → (∀ e ∈ s.chains, e.2.writing = none) → p.parkReq = some r → s.asked = [⟨r.1, r.2, false, none⟩] →
         t.asked = [] ∧ t.responses = s.responses ++ [⟨r.2, 0x3C4, 0⟩])) ∧
     (p.st = .resetting → exec (.resetComplete tag) s = .next (putPart s tag { p with st := .empty })) ∧
     (p.holdUntil ≠ 0 → p.holdUntil ≤ s.now → exec (.tagHoldExpiry tag) s = .next (putPart s tag { p with holdUntil := 0 }))) ∧
  (∀ (tag c nonce tenant w0 frame : Nat) (cores frames tables : List Nat) (granules : List (Nat × Nat)) (ranges : List TouchRange)
     (copies : List (Nat × Nat)) (x : Choice) (ag : List Choice) (e : LogEntry) (left : List Nat) (s s' : State),
     let p := getPart s tag
     let rest : State := { s with agenda := ag, draw := s.draw + 1 }
     let watched (v : Watch) : State := { rest with watches := nset s.watches tag v }
     let touches : Choice := .firstTouch tag ranges copies frames tables
     s.supply = true → s.agenda = x :: ag →
       (x = .recore tag cores granules →
         (mayRecore s tag = true → recoreOk s tag cores granules = true → ∃ t, step s = .next t ∧
           (getPart t tag).cores = cores.mergeSort ∧ (getPart t tag).st = p.st ∧
           (c ∈ cores → c ∉ p.cores → (getCore t c).tag = tag ∧ (getCore t c).pool = [] ∧ (getCore t c).terr = 0) ∧
           (c ∈ p.cores → c ∉ cores → (getCore t c).tag = 0 ∧ (getCore t c).pool = [] ∧ ∀ l < 8, (getStrand t c l).live = false) ∧
           ∀ g ∈ granules, granuleHolder t g.1 g.2 = tag) ∧
         (mayRecore s tag = false ∨ recoreOk s tag cores granules = false → step s = .next rest)) ∧
       (x = .watch tag → serviceUp s = true → 0 < tag → tag < 64 → nget? s.watches tag = none → p.st ≠ .free →
         step s = .next (watched {})) ∧
       (x = .touchWake tag →
         (nget? s.watches tag = some ⟨true, none⟩ → step s = .next (watched ⟨false, some s.now⟩)) ∧
         (∀ v, nget? s.watches tag = some v → v.fired = false → step s = .next rest)) ∧
       (x = touches →
         (∀ v, nget? s.watches tag = some v → v.wokeAt = none → step s = .next rest) ∧
         (nget? s.watches tag = some ⟨false, some w0⟩ → s.now < w0 + 1000 → step s = .next rest) ∧
         (nget? s.watches tag = some ⟨false, some w0⟩ → w0 + 1000 ≤ s.now → serviceUp s = true → p.fbuf.nrec = 1 →
           nget p.fbuf.entries {} 0 = e → frames = [frame] → 0 < tag → tag < 64 →
           (touchGranule ranges copies tag rest (e, frame) tables = none → step s = .next rest) ∧
           (touchGranule ranges copies tag rest (e, frame) tables = some (s', left) → ∃ t, step s = .next t ∧ t.mem = s'.mem ∧
             nget? t.watches tag = some {} ∧
             (getPart t tag).fbuf = { (getPart s' tag).fbuf with nrec := 0, lost := 0, drop := false }) ∧
           (∀ y, e.bad = false → walk s tag (canonOf (bitsAt e.va 19 38 * 2 ^ 19)) = .hit y →
             ∃ t, step s = .next t ∧ t.mem = s.mem ∧ (getPart t tag).fbuf.nrec = 0))) ∧
       (x = .session tenant nonce →
         let quote := signedQuote (quoteBits rest 0 nonce)
         let good : Bool := quoteAccepted (Config.identityKey 0) (Config.identityKey 1) quote
         (serviceUp s = true → tenant ∉ s.sessions → good = true → step s = .next { rest with sessions := s.sessions ++ [tenant] }) ∧
         (serviceUp s = false ∨ good = false → step s = .next rest)) ∧
       (∀ i : Instr, x = .event i → s.boot.recovery = true → heardInRecovery i = false → step s = .next rest))

/-- A SEAL writes its ingot, whose header then stands in memory at gC with the ciphertext behind it (what the plaintext holds, and of
what size, is the model's choice, log 10), and then commits the chain's counter and leaves its context SEALED, whether a strand or a request
asked for it; an UNSEAL returns the first check of R333 that fails, or restores the context PARKED (09 R210; 20 R330, R332, R333; 21
R343). -/
def Obligations.SealAndUnseal : Prop :=
  ∀ (c l tag root ch ea nonce size : Nat) (d : Fin 64) (h : ReqHdr) (frames keys tables : List Nat) (g : Ingot) (j : SealJob)
    (s : State),
    let st := getStrand s c l
    let p := getPart s tag
    let x := getChain s ch
    let hd := partRead s 0 ea 1024
    let returned (i : Instr) (v : Nat) : Prop := exec i s = .next (resumed s c l (wrG st d (BitVec.ofNat 64 v)))
    let fits : Prop := size % 8 = 0 ∧ 1152 ≤ size ∧ partHas s 0 ea size true = true
    let header := ingotHeader ch (x.hw.toNat + 1) (tenantMeasure p) nonce size p.tenant p.cores.length
    let behind := ofLeBytes (ingotCipher ((rootIn s root).getD 0) header (ingotPlain s.draw size))
    let wrote (t : State) (sid : Nat) (reqid : Option (Nat × Nat)) : Prop :=
      getChain t ch = { x with writing := some ⟨x.hw.toNat + 1, tag, sid, reqid⟩ } ∧ (getPart t tag).st = p.st ∧
      (∃ y, nget? t.ingots s.draw = some y ∧ y.size = size ∧ y.header = header) ∧
      t.mem = (partWrite (partWrite s 0 ea 1024 header) 0 ((ea + 1024) % 2 ^ 64) (size - 1024) behind).mem ∧
      ∀ y : Xlat, partXlat s 0 ea = some y → y.peer = false → y.dirty = true → y.phys ea + size ≤ hbmBits →
        ea % 2 ^ 19 + size ≤ 2 ^ 19 → rootOf s 0 % 512 = 0 → (∀ n ∈ walkLinesFrom s ea 4 (rootOf s 0), n / 2 ^ 10 ≠ y.phys ea / 2 ^ 19) →
        physRead t y.key (y.phys ea) 1024 = header
    let committed (t : State) : Prop := getChain t ch = { x with hw := BitVec.ofNat 64 j.n, writing := none } ∧
      (getPart t j.tag).st = .sealed ∧ t.mem = s.mem
    let asked (kind : Nat) : Prop := arrives s h kind = true ∧ hdrFault s h kind = none ∧ tag = hdrTag h ∧ root < 64 ∧ ch < 256
    let first (kind : Nat) : Prop := asked kind ∧ ∀ a ∈ s.asked, a.session ≠ h.session
    let said (t : State) (v : Nat) : Prop := t.responses = s.responses ++ [⟨hdrReqid h, v, 0⟩]
    (Waits s c l (.seal d tag root ch ea) →
      (x.writing = none →
        (∀ v, sealRefused s tag root ch = some v → returned (.sealComplete c l nonce size) v) ∧
        (sealRefused s tag root ch = none → fits → ∃ t, exec (.sealComplete c l nonce size) s = .next t ∧
          (getStrand t c l).status = .asleep (.seal d tag root ch ea) ∧ wrote t st.sid none)) ∧
      (x.writing = some j → j.sid = st.sid → j.reqid = none → ∃ t, exec (.sealComplete c l nonce size) s = .next t ∧
        committed t ∧ getStrand t c l = goesOn s c (wrG st d 0))) ∧
    (first 9 → x.writing = none →
      (∀ v, sealRefused s tag root ch = some v → ∃ t, exec (.sealRequest h root ch ea nonce size) s = .next t ∧
        t = { s with responses := t.responses } ∧ said t v) ∧
      (sealRefused s tag root ch = none → fits → ∃ t, exec (.sealRequest h root ch ea nonce size) s = .next t ∧
        t.responses = s.responses ∧ t.asked = s.asked ++ [⟨h.session, hdrReqid h, false, none⟩] ∧ wrote t 0 (some (reqKey h)))) ∧
    (asked 9 → x.writing = some j → j.sid = 0 → j.reqid = some (reqKey h) → s.asked = [⟨h.session, hdrReqid h, false, none⟩] → ∃ t,
      exec (.sealRequest h root ch ea nonce size) s = .next t ∧ committed t ∧ said t 0 ∧ t.asked = []) ∧
    (x.writing = none → Waits s c l (.unseal d tag root ch ea) →
      (p.st ≠ .empty → returned (.unsealComplete c l frames keys tables) 3) ∧
      (p.st = .empty → p.cores.length = hd / 2 ^ 323 % 2 ^ 13 → ingotAt s root ea = none →
        (hd / 2 ^ 992 % 2 ^ 32 ≠ 0x494E4731 → returned (.unsealComplete c l frames keys tables) 2) ∧
        (hd / 2 ^ 992 % 2 ^ 32 = 0x494E4731 → hd / 2 ^ 984 % 2 ^ 8 = 1 → hd / 2 ^ 976 % 2 ^ 8 = ch →
          x.tenant = hd / 2 ^ 336 % 2 ^ 32 →
          (x.st = .unbound → returned (.unsealComplete c l frames keys tables) 2) ∧
          (x.st = .handed → returned (.unsealComplete c l frames keys tables) 1) ∧
          (x.st = .held → hd / 2 ^ 912 % 2 ^ 64 < x.hw.toNat → returned (.unsealComplete c l frames keys tables) 1) ∧
          (x.st = .held → x.hw.toNat < hd / 2 ^ 912 % 2 ^ 64 → returned (.unsealComplete c l frames keys tables) 2)))) ∧
    (x.writing = none → unsealStatus s tag root ch ea = 0 → ingotAt s root ea = some g → restoreOk s g frames keys = true →
      (restoreContext s tag g frames keys tables).isSome = true →
      (Waits s c l (.unseal d tag root ch ea) → ∃ t, exec (.unsealComplete c l frames keys tables) s = .next t ∧
        (getPart t tag).st = .parked ∧ (getPart t tag).cores = p.cores ∧ (getPart t tag).tenant = p.tenant) ∧
      (first 10 → ∃ t, exec (.unsealRequest h root ch ea frames keys tables) s = .next t ∧ (getPart t tag).st = .parked ∧
        said t 0))

/-- Counter chains and key stores: a handoff sets the sender's limit, and a chain that is HANDED takes HELD with the n it is handed
(the form of the message is the model's, log 34); any other chain, an UNBOUND one too, takes no handoff (the model's reading, log 35); a
token binds an UNBOUND chain when both signatures verify over its bytes (their order is the model's, log 11) and it names this device; a
release unbinds; a memory key goes into an empty slot and leaves when no leaf
names it; a sealing root goes into one of 64 slots (20 R324, R332, R334). -/
def Obligations.ChainsAndKeys : Prop :=
  ∀ (ch n tenant slot root : Nat) (tok : Token) (s : State),
    let x := getChain s ch
    (ch < 256 →
      (x.st = .held → x.writing = none → exec (.handoffSend ch) s =
        .next { putChain s ch { x with st := .handed, hw := -1 } with
                responses := s.responses ++ [⟨0, 0, ch + x.hw.toNat * 2 ^ 8 + x.tenant * 2 ^ 72⟩] }) ∧
      (x.st ≠ .held → exec (.handoffSend ch) s = .next s) ∧
      (x.st = .handed → x.tenant = tenant → exec (.handoffReceive ch n tenant) s =
        .next (putChain s ch { st := .held, hw := BitVec.ofNat 64 n, tenant := tenant })) ∧
      (x.st ≠ .handed → exec (.handoffReceive ch n tenant) s = .next s) ∧
      (x.st ≠ .unbound → x.writing = none → exec (.chainRelease ch) s = .next (putChain s ch {}))) ∧
    (tok.ch < 256 → (getChain s tok.ch).st = .unbound → tok.device = deviceId →
      let msg := leBytes 1 tok.ch ++ leBytes 8 tok.n ++ leBytes 4 tok.tenant ++ leBytes 8 tok.device
      let good : Bool := signatureOk 0 tok.tenant tok.kidE tok.sigE msg && signatureOk 1 tok.tenant tok.kidM tok.sigM msg
      (good = true → exec (.tenantToken tok) s =
        .next (putChain s tok.ch { st := .held, hw := BitVec.ofNat 64 tok.n, tenant := tok.tenant })) ∧
      (good = false → exec (.tenantToken tok) s = .next s)) ∧
    (1 ≤ slot → slot < 1024 →
      (nget? s.keys slot = none →
        exec (.memoryKeyInstall slot tenant (some n)) s = .next { s with keys := nset s.keys slot (tenant, n) }) ∧
      (nget? s.keys slot ≠ none →
        exec (.memoryKeyInstall slot tenant (some n)) s = .next s ∧
        (keyNamed s slot = false → exec (.memoryKeyInstall slot tenant none) s = .next { s with keys := nerase s.keys slot }) ∧
        (keyNamed s slot = true → exec (.memoryKeyInstall slot tenant none) s = .next s))) ∧
    (slot < 64 →
      exec (.sealingRootInstall slot tenant root) s = .next { s with roots := nset s.roots slot (tenant, root % 2 ^ 256) })

/-! ### Every step -/

/-- Every step keeps every memory in its canonical form: global memory, the pools, side memories and B stores, and what
ingots hold of them. -/
def Obligations.StepKeepsMemoriesCanonical : Prop :=
  ∀ s t : State, memoriesCanonical s = true → step s = .next t → memoriesCanonical t = true
end

