-- ==== Sys2Proof/Laws/Map.lean ====
section
/-! SUPPORT. Laws of finite maps and of memory: read after write, what a write leaves, and the canonical form (03 R44). -/

namespace Sys2Proof.Machine

/-! ### Finite maps -/

section Maps
variable {α : Type}

@[simp] theorem nget?_nil (k : Nat) : nget? ([] : NMap α) k = none := rfl

@[simp] theorem nget?_nset_self (m : NMap α) (k : Nat) (v : α) : nget? (nset m k v) k = some v := by
  induction m with
  | nil => simp [nset, nget?]
  | cons e m ih =>
    obtain ⟨i, a⟩ := e
    simp only [nset]
    split_ifs with h1 h2
    · simp [nget?]
    · simp [nget?]
    · simp [nget?, h1, ih]

theorem nget?_nset_other (m : NMap α) {k k' : Nat} (v : α) (h : k' ≠ k) : nget? (nset m k v) k' = nget? m k' := by
  induction m with
  | nil => simp [nset, nget?, Ne.symm h]
  | cons e m ih =>
    obtain ⟨i, a⟩ := e
    simp only [nset]
    split_ifs with h1 h2
    · subst h1; simp [nget?, Ne.symm h]
    · simp [nget?, Ne.symm h]
    · simp only [nget?, ih]

theorem nget?_nset (m : NMap α) (k k' : Nat) (v : α) :
    nget? (nset m k v) k' = if k' = k then some v else nget? m k' := by
  split_ifs with h
  · subst h; exact nget?_nset_self ..
  · exact nget?_nset_other m v h

@[simp] theorem nget_nset_self (m : NMap α) (d : α) (k : Nat) (v : α) : nget (nset m k v) d k = v := by
  simp [nget]

theorem nget_nset_other (m : NMap α) (d : α) {k k' : Nat} (v : α) (h : k' ≠ k) :
    nget (nset m k v) d k' = nget m d k' := by
  simp [nget, nget?_nset_other m v h]

/-- Writing a key again forgets the first value. -/
@[simp] theorem nset_nset_self (m : NMap α) (k : Nat) (v w : α) : nset (nset m k v) k w = nset m k w := by
  induction m with
  | nil => simp [nset]
  | cons e m ih =>
    obtain ⟨i, a⟩ := e
    simp only [nset]
    split_ifs with h1 h2
    · simp [nset]
    · simp [nset]
    · simp [nset, h1, h2, ih]

@[simp] theorem nget?_nerase_self (m : NMap α) (k : Nat) : nget? (nerase m k) k = none := by
  induction m with
  | nil => rfl
  | cons e m ih =>
    obtain ⟨i, a⟩ := e
    by_cases h : i = k
    · simpa [nerase, h] using ih
    · simpa [nerase, nget?, h] using ih

theorem nget?_nerase_other (m : NMap α) {k k' : Nat} (h : k' ≠ k) : nget? (nerase m k) k' = nget? m k' := by
  induction m with
  | nil => rfl
  | cons e m ih =>
    obtain ⟨i, a⟩ := e
    by_cases h1 : i = k
    · subst h1; simpa [nerase, nget?, Ne.symm h] using ih
    · have : nerase ((i, a) :: m) k = (i, a) :: nerase m k := by simp [nerase, h1]
      rw [this]; simp only [nget?, ih]

/-- A property of every value of a map holds of what is read, when the default has it. -/
theorem nget_of_all {p : α → Prop} {m : NMap α} {d : α} (hm : ∀ e ∈ m, p e.2) (hd : p d) (k : Nat) :
    p (nget m d k) := by
  induction m with
  | nil => simpa [nget] using hd
  | cons e m ih =>
    obtain ⟨i, a⟩ := e
    by_cases h : i = k
    · simpa [nget, nget?, h] using hm (i, a) (by simp)
    · simpa [nget, nget?, h] using ih fun e he => hm e (by simp [he])

/-- A write keeps a property of every value. -/
theorem all_nset {p : α → Prop} {m : NMap α} (hm : ∀ e ∈ m, p e.2) (k : Nat) {v : α} (hv : p v) :
    ∀ e ∈ nset m k v, p e.2 := by
  induction m with
  | nil => simpa [nset] using hv
  | cons e m ih =>
    obtain ⟨i, a⟩ := e
    have ha := hm (i, a) (by simp)
    have hm' : ∀ e ∈ m, p e.2 := fun e he => hm e (by simp [he])
    simp only [nset]
    split_ifs with h1 h2 <;> intro e he <;> simp only [List.mem_cons] at he
    · rcases he with rfl | he
      exacts [hv, hm' e he]
    · rcases he with rfl | rfl | he
      exacts [hv, ha, hm' e he]
    · rcases he with rfl | he
      exacts [ha, ih hm' e he]

end Maps

/-! ### Memory -/

/-- Canonical form, as a property: addresses rise and no byte is 0. -/
theorem Memory.wf_iff (m : Memory) : m.wf = true ↔ m.Pairwise (fun x y => x.1 < y.1) ∧ ∀ e ∈ m, e.2 ≠ 0 := by
  induction m with
  | nil => simp [Memory.wf]
  | cons e m ih =>
    obtain ⟨a, b⟩ := e
    cases m with
    | nil => simp [Memory.wf]
    | cons e' m =>
      obtain ⟨a', b'⟩ := e'
      simp only [Memory.wf, Bool.and_eq_true, bne_iff_ne, ne_eq, decide_eq_true_eq, ih]
      constructor
      · rintro ⟨⟨hb, hlt⟩, hp, hz⟩
        refine ⟨List.pairwise_cons.2 ⟨?_, hp⟩, ?_⟩
        · intro x hx
          rcases List.mem_cons.1 hx with rfl | hx
          · exact hlt
          · exact Nat.lt_trans hlt ((List.pairwise_cons.1 hp).1 x hx)
        · intro x hx
          rcases List.mem_cons.1 hx with rfl | hx
          exacts [hb, hz x hx]
      · rintro ⟨hp, hz⟩
        have h := List.pairwise_cons.1 hp
        exact ⟨⟨hz (a, b) List.mem_cons_self, h.1 (a', b') List.mem_cons_self⟩, h.2,
          fun x hx => hz x (List.mem_cons_of_mem _ hx)⟩

theorem Memory.wf_nil : Memory.wf [] = true := rfl

/-- Every key of a map with one more key is that key or an old one. -/
theorem mem_nset {α : Type} {m : NMap α} {k : Nat} {v : α} {e : Nat × α} (h : e ∈ nset m k v) : e = (k, v) ∨ e ∈ m := by
  induction m with
  | nil => simpa [nset] using h
  | cons x m ih =>
    obtain ⟨i, a⟩ := x
    simp only [nset] at h
    split_ifs at h with h1 h2 <;> simp only [List.mem_cons] at h ⊢
    · tauto
    · tauto
    · rcases h with h | h
      · exact .inr (.inl h)
      · rcases ih h with h | h <;> tauto

/-- The keys of a map that rises still rise when one is written. -/
theorem pairwise_nset {α : Type} {m : NMap α} (h : m.Pairwise fun x y => x.1 < y.1) (k : Nat) (v : α) :
    (nset m k v).Pairwise fun x y => x.1 < y.1 := by
  induction m with
  | nil => simp [nset]
  | cons x m ih =>
    obtain ⟨i, a⟩ := x
    have hp := List.pairwise_cons.1 h
    simp only [nset]
    split_ifs with h1 h2
    · subst h1; exact List.pairwise_cons.2 ⟨hp.1, hp.2⟩
    · refine List.pairwise_cons.2 ⟨fun y hy => ?_, h⟩
      rcases List.mem_cons.1 hy with rfl | hy
      exacts [h2, Nat.lt_trans h2 (hp.1 y hy)]
    · refine List.pairwise_cons.2 ⟨fun y hy => ?_, ih hp.2⟩
      rcases mem_nset hy with rfl | hy
      · exact Nat.lt_of_le_of_ne (Nat.le_of_not_lt h2) h1
      · exact hp.1 y hy

/-- A byte written keeps the canonical form. -/
theorem Memory.wf_write {m : Memory} (h : m.wf = true) (a : Nat) (b : Byte) : (m.write a b).wf = true := by
  rw [Memory.wf_iff] at h ⊢
  unfold Memory.write
  split_ifs with hb
  · exact ⟨h.1.filter _, fun e he => h.2 e (List.mem_of_mem_filter he)⟩
  · refine ⟨pairwise_nset h.1 a b, fun e he => ?_⟩
    rcases mem_nset he with rfl | he
    exacts [hb, h.2 e he]

@[simp] theorem Memory.read_write_self (m : Memory) (a : Nat) (b : Byte) : (m.write a b).read a = b := by
  unfold Memory.write Memory.read
  split_ifs with h
  · simp [nget, h]
  · simp

theorem Memory.read_write_other (m : Memory) {a a' : Nat} (b : Byte) (h : a' ≠ a) : (m.write a b).read a' = m.read a' := by
  unfold Memory.write Memory.read
  split_ifs
  · simp [nget, nget?_nerase_other m h]
  · exact nget_nset_other m 0 b h

theorem Memory.wf_setBytes {m : Memory} (h : m.wf = true) (a n v : Nat) : (m.setBytes a n v).wf = true := by
  induction n generalizing m a v with
  | zero => exact h
  | succ n ih => exact ih (Memory.wf_write h a _) (a + 1) _

/-- Bytes outside those written keep their values. -/
theorem Memory.read_setBytes_outside (m : Memory) (b n v : Nat) {a : Nat} (h : a < b ∨ b + n ≤ a) :
    (m.setBytes b n v).read a = m.read a := by
  induction n generalizing m b v with
  | zero => rfl
  | succ n ih =>
    rw [Memory.setBytes, ih _ _ _ (by omega)]
    exact Memory.read_write_other m _ (by omega)

/-- Bytes read are those of the memory where it has not changed. -/
theorem Memory.bytes_congr {m m' : Memory} {b n : Nat} (h : ∀ a, b ≤ a → a < b + n → m'.read a = m.read a) :
    m'.bytes b n = m.bytes b n := by
  induction n generalizing b with
  | zero => rfl
  | succ n ih =>
    simp only [Memory.bytes]
    rw [h b (by omega) (by omega), ih fun a h1 h2 => h a (by omega) (by omega)]

/-- What was written is read. -/
theorem Memory.bytes_setBytes (m : Memory) (b n v : Nat) : (m.setBytes b n v).bytes b n = v % 2 ^ (8 * n) := by
  induction n generalizing m b v with
  | zero => simp [Memory.bytes, Nat.mod_one]
  | succ n ih =>
    simp only [Memory.setBytes, Memory.bytes]
    rw [Memory.read_setBytes_outside _ _ _ _ (.inl (Nat.lt_succ_self b)), Memory.read_write_self, ih,
      BitVec.toNat_ofNat]
    have : 2 ^ (8 * (n + 1)) = 2 ^ 8 * 2 ^ (8 * n) := by rw [← Nat.pow_add]; congr 1; omega
    rw [this, Nat.mod_mul]

theorem Memory.wf_setBits {m : Memory} (h : m.wf = true) (a w v : Nat) : (m.setBits a w v).wf = true :=
  Memory.wf_setBytes h _ _ _

/-- The bytes that hold none of the written bits keep their values. -/
theorem Memory.read_setBits_outside (m : Memory) (a w v : Nat) {b : Nat} (h : b < a / 8 ∨ a / 8 + byteSpan a w ≤ b) :
    (m.setBits a w v).read b = m.read b := Memory.read_setBytes_outside _ _ _ _ h

/-- Field bits of a number with a field replaced. -/
theorem bitsAt_setBits_self (n lo w v : Nat) : bitsAt (setBits n lo w v) lo w = v % 2 ^ w := by
  have hlo : 0 < 2 ^ lo := Nat.two_pow_pos lo
  have e : setBits n lo w v = n % 2 ^ lo + 2 ^ lo * (v % 2 ^ w + 2 ^ w * (n / 2 ^ (lo + w))) := by
    simp only [setBits, Nat.pow_add]; ring
  rw [bitsAt, e, Nat.add_mul_div_left _ _ hlo, Nat.div_eq_of_lt (Nat.mod_lt _ hlo), Nat.zero_add,
    Nat.add_mul_mod_self_left, Nat.mod_mod]

/-- A number of k bits is still one of k bits when a field within them is replaced. -/
theorem setBits_lt {n lo w v k : Nat} (hn : n < 2 ^ k) (h : lo + w ≤ k) : setBits n lo w v < 2 ^ k := by
  have h1 : n % 2 ^ lo < 2 ^ lo := Nat.mod_lt _ (Nat.two_pow_pos _)
  have h2 : v % 2 ^ w < 2 ^ w := Nat.mod_lt _ (Nat.two_pow_pos _)
  obtain ⟨d, rfl⟩ := Nat.exists_eq_add_of_le h
  have h3 : n / 2 ^ (lo + w) < 2 ^ d := Nat.div_lt_of_lt_mul (by rwa [← Nat.pow_add])
  have h4 : n % 2 ^ lo + v % 2 ^ w * 2 ^ lo < 2 ^ (lo + w) := by
    have : v % 2 ^ w * 2 ^ lo + 2 ^ lo ≤ 2 ^ w * 2 ^ lo := by
      calc v % 2 ^ w * 2 ^ lo + 2 ^ lo = (v % 2 ^ w + 1) * 2 ^ lo := by ring
        _ ≤ 2 ^ w * 2 ^ lo := Nat.mul_le_mul_right _ h2
    rw [Nat.pow_add, Nat.mul_comm (2 ^ lo)]; omega
  calc setBits n lo w v < 2 ^ (lo + w) + n / 2 ^ (lo + w) * 2 ^ (lo + w) := by unfold setBits; omega
    _ = (n / 2 ^ (lo + w) + 1) * 2 ^ (lo + w) := by ring
    _ ≤ 2 ^ d * 2 ^ (lo + w) := Nat.mul_le_mul_right _ h3
    _ = 2 ^ (lo + w + d) := by rw [← Nat.pow_add]; congr 1; omega

theorem Memory.bytes_lt (m : Memory) (b n : Nat) : m.bytes b n < 2 ^ (8 * n) := by
  induction n generalizing b with
  | zero => simp [Memory.bytes]
  | succ n ih =>
    have h1 := (m.read b).isLt
    have h2 := ih (b + 1)
    have : 2 ^ (8 * (n + 1)) = 2 ^ 8 * 2 ^ (8 * n) := by rw [← Nat.pow_add]; congr 1; omega
    simp only [Memory.bytes, this]
    omega

theorem byteSpan_covers (a w : Nat) : a % 8 + w ≤ 8 * byteSpan a w := by unfold byteSpan; omega

/-- What was written at a bit address is read there (R44). -/
theorem Memory.bits_setBits_self (m : Memory) (a w v : Nat) : (m.setBits a w v).bits a w = v % 2 ^ w := by
  unfold Memory.bits Memory.setBits
  rw [Memory.bytes_setBytes, Nat.mod_eq_of_lt (setBits_lt (Memory.bytes_lt ..) (byteSpan_covers a w)),
    bitsAt_setBits_self]

end Sys2Proof.Machine
end

