-- ==== Sys2Proof/Laws/Phys.lean ====
section
/-! SUPPORT. Laws of physical memory under keys: what a write to a part leaves as it was, and what is read where it wrote
(03 R44, R55; 19 R308). -/

namespace Sys2Proof.Machine

/-! ### Bytes of a line -/

theorem Memory.byte_of_bytes (m : Memory) (b : Nat) {i n : Nat} (h : i < n) :
    m.bytes b n / 2 ^ (8 * i) % 2 ^ 8 = (m.read (b + i)).toNat := by
  induction n generalizing b i with
  | zero => omega
  | succ n ih =>
    have hb := (m.read b).isLt
    cases i with
    | zero => simp only [Memory.bytes, Nat.mul_zero, Nat.pow_zero, Nat.div_one, Nat.add_zero]; omega
    | succ i =>
      have e : 2 ^ (8 * (i + 1)) = 2 ^ 8 * 2 ^ (8 * i) := by rw [← Nat.pow_add]; congr 1; omega
      simp only [Memory.bytes]
      rw [e, ← Nat.div_div_eq_div_mul, Nat.add_mul_div_left _ _ (Nat.two_pow_pos 8), Nat.div_eq_of_lt hb, Nat.zero_add,
        ih (b + 1) (by omega), show b + 1 + i = b + (i + 1) by omega]

/-- A byte read under a key is that byte of its line as the key's material deciphers the line. -/
theorem keyedByte_eq (s : State) (key b : Nat) :
    keyedByte s key b = BitVec.ofNat 8 (lineUnder s (materialOf s key) (b / 64) / 2 ^ (8 * (b % 64))) := by
  have hb : b = 64 * (b / 64) + b % 64 := by omega
  have hr : s.mem.read b = BitVec.ofNat 8 (s.mem.bytes (64 * (b / 64)) 64 / 2 ^ (8 * (b % 64))) := by
    apply BitVec.eq_of_toNat_eq
    rw [BitVec.toNat_ofNat, Memory.byte_of_bytes _ _ (Nat.mod_lt b (by omega)), ← hb]
  unfold keyedByte lineUnder
  split
  · exact hr
  · split
    · simp only [hr]
    · rename_i h; simp only [h, if_false]

theorem lineUnder_lt (s : State) (k n : Nat) : lineUnder s k n < 2 ^ 512 := by
  unfold lineUnder
  have h := Memory.bytes_lt s.mem (64 * n) 64
  split
  · exact h
  · split
    · exact h
    · exact Nat.mod_lt _ (Nat.two_pow_pos 512)

/-! ### A line enciphered anew -/

@[simp] theorem rekeyLine_keys (s : State) (k n : Nat) : (rekeyLine s k n).keys = s.keys := rfl
@[simp] theorem rekeyLine_materialOf (s : State) (k n key : Nat) : materialOf (rekeyLine s k n) key = materialOf s key := rfl
theorem rekeyLine_keyOf (s : State) (k n : Nat) : (rekeyLine s k n).keyOf = nset s.keyOf n k := rfl

/-- Its memory is the old one, or has the line's bytes as the new material reads them. -/
theorem rekeyLine_mem (s : State) (k n : Nat) :
    (rekeyLine s k n).mem = s.mem ∨ (rekeyLine s k n).mem = s.mem.setBytes (64 * n) 64 (lineUnder s k n) := by
  simp only [rekeyLine]; exact (ite_eq_or_eq ..).symm

/-- What its new material reads of a line stays. -/
theorem lineUnder_rekeyLine_self (s : State) (k n : Nat) : lineUnder (rekeyLine s k n) k n = lineUnder s k n := by
  have hl := lineUnder_lt s k n
  rw [show lineUnder (rekeyLine s k n) k n = (rekeyLine s k n).mem.bytes (64 * n) 64 by
    simp only [lineUnder, rekeyLine_keyOf, nget?_nset_self, if_true]]
  unfold rekeyLine
  cases h : nget? s.keyOf n with
  | none => simp [lineUnder, h]
  | some m =>
    by_cases hm : m = k
    · simp [lineUnder, h, hm]
    · simp only [bne_iff_ne, ne_eq, hm, not_false_eq_true, if_true]
      rw [Memory.bytes_setBytes]
      exact Nat.mod_eq_of_lt hl

/-- What any material reads of another line stays. -/
theorem lineUnder_rekeyLine_other (s : State) (k k' : Nat) {n m : Nat} (h : m ≠ n) :
    lineUnder (rekeyLine s k n) k' m = lineUnder s k' m := by
  have hk : nget? (rekeyLine s k n).keyOf m = nget? s.keyOf m := by rw [rekeyLine_keyOf, nget?_nset_other _ _ h]
  have hm : (rekeyLine s k n).mem.bytes (64 * m) 64 = s.mem.bytes (64 * m) 64 := by
    rcases rekeyLine_mem s k n with e | e <;> rw [e]
    apply Memory.bytes_congr; intro a h1 h2
    apply Memory.read_setBytes_outside; omega
  simp only [lineUnder, hk, hm]

/-- What a material reads of a line stays, where the line is another or the material the new one. -/
theorem lineUnder_rekeyLine (s : State) {k k' n m : Nat} (h : m = n → k' = k) :
    lineUnder (rekeyLine s k n) k' m = lineUnder s k' m := by
  by_cases hm : m = n
  · rw [h hm, hm, lineUnder_rekeyLine_self]
  · exact lineUnder_rekeyLine_other s k k' hm

@[simp] theorem rekeyLines_keys (s : State) (k l n : Nat) : (rekeyLines s k l n).keys = s.keys := by
  induction n generalizing s l with
  | zero => rfl
  | succ n ih => simp [rekeyLines, ih]

theorem lineUnder_rekeyLines (s : State) {k k' l n m : Nat} (h : l ≤ m → m < l + n → k' = k) :
    lineUnder (rekeyLines s k l n) k' m = lineUnder s k' m := by
  induction n generalizing s l with
  | zero => rfl
  | succ n ih =>
    rw [rekeyLines, ih _ (fun h1 h2 => h (by omega) (by omega))]
    exact lineUnder_rekeyLine s fun e => h (by omega) (by omega)

/-- After it the lines have their new material, and others the one they had. -/
theorem keyOf_rekeyLines (s : State) (k l n m : Nat) :
    nget? (rekeyLines s k l n).keyOf m = if l ≤ m ∧ m < l + n then some k else nget? s.keyOf m := by
  induction n generalizing s l with
  | zero => rw [if_neg (by omega)]; rfl
  | succ n ih =>
    rw [rekeyLines, ih, rekeyLine_keyOf, nget?_nset]
    split_ifs <;> first | rfl | omega

/-! ### Bytes written under a material -/

@[simp] theorem keyedWrite_keys (s : State) (k b n v : Nat) : (keyedWrite s k b n v).keys = s.keys := by simp [keyedWrite]
@[simp] theorem keyedWrite_materialOf (s : State) (k b n v key : Nat) :
    materialOf (keyedWrite s k b n v) key = materialOf s key := by simp [materialOf, keyMaterial?]

/-- A byte outside those written reads as before, under every key where its line holds none of them, and under their material
where it does. -/
theorem keyedByte_keyedWrite_outside (s : State) (k b n v key : Nat) {a : Nat} (ha : a < b ∨ b + n ≤ a)
    (hk : b / 64 ≤ a / 64 → a / 64 < b / 64 + (b % 64 + n + 63) / 64 → materialOf s key = k) :
    keyedByte (keyedWrite s k b n v) key a = keyedByte s key a := by
  have hl := lineUnder_rekeyLines s (k := k) (k' := materialOf s key) (l := b / 64) (n := (b % 64 + n + 63) / 64) (m := a / 64) hk
  rw [keyedByte_eq s, ← hl]
  by_cases hin : b / 64 ≤ a / 64 ∧ a / 64 < b / 64 + (b % 64 + n + 63) / 64
  · have hm := hk hin.1 hin.2
    have ht : nget? (rekeyLines s k (b / 64) ((b % 64 + n + 63) / 64)).keyOf (a / 64) = some k := by
      rw [keyOf_rekeyLines, if_pos hin]
    have hr : keyedByte (keyedWrite s k b n v) key a =
        keyedByte (rekeyLines s k (b / 64) ((b % 64 + n + 63) / 64)) key a := by
      have e1 : materialOf (rekeyLines s k (b / 64) ((b % 64 + n + 63) / 64)) key = materialOf s key := by
        simp [materialOf, keyMaterial?]
      simp only [keyedByte, keyedWrite_materialOf, e1, hm]
      simp only [keyedWrite, ht, if_true, Memory.read_setBytes_outside _ _ _ _ ha]
    rw [hr, keyedByte_eq]
    simp [materialOf, keyMaterial?]
  · have hb : (keyedWrite s k b n v).mem.bytes (64 * (a / 64)) 64 =
        (rekeyLines s k (b / 64) ((b % 64 + n + 63) / 64)).mem.bytes (64 * (a / 64)) 64 := by
      apply Memory.bytes_congr; intro x h1 h2
      apply Memory.read_setBytes_outside; omega
    rw [keyedByte_eq, keyedWrite_materialOf]
    simp only [lineUnder, hb]; rfl

/-- The bytes written read back under a key of their material. -/
theorem keyedByte_keyedWrite_inside (s : State) (b n v key : Nat) {a : Nat} (h1 : b ≤ a) (h2 : a < b + n) :
    keyedByte (keyedWrite s (materialOf s key) b n v) key a =
      (keyedWrite s (materialOf s key) b n v).mem.read a := by
  have ht : nget? (keyedWrite s (materialOf s key) b n v).keyOf (a / 64) = some (materialOf s key) := by
    simp only [keyedWrite]; rw [keyOf_rekeyLines, if_pos]; omega
  simp [keyedByte, ht]

theorem keyedBytes_congr {s t : State} {key b n : Nat} (h : ∀ a, b ≤ a → a < b + n → keyedByte t key a = keyedByte s key a) :
    keyedBytes t key b n = keyedBytes s key b n := by
  induction n generalizing b with
  | zero => rfl
  | succ n ih =>
    simp only [keyedBytes]
    rw [h b (by omega) (by omega), ih fun a h1 h2 => h a (by omega) (by omega)]

theorem keyedBytes_lt (s : State) (key b n : Nat) : keyedBytes s key b n < 2 ^ (8 * n) := by
  induction n generalizing b with
  | zero => simp [keyedBytes]
  | succ n ih =>
    have h1 := (keyedByte s key b).isLt
    have h2 := ih (b + 1)
    have : 2 ^ (8 * (n + 1)) = 2 ^ 8 * 2 ^ (8 * n) := by rw [← Nat.pow_add]; congr 1; omega
    simp only [keyedBytes, this]
    omega

theorem keyedBytes_keyedWrite (s : State) (key b n v : Nat) :
    keyedBytes (keyedWrite s (materialOf s key) b n v) key b n = v % 2 ^ (8 * n) := by
  have : ∀ (c m : Nat), b ≤ c → c + m = b + n →
      keyedBytes (keyedWrite s (materialOf s key) b n v) key c m =
        (keyedWrite s (materialOf s key) b n v).mem.bytes c m := by
    intro c m
    induction m generalizing c with
    | zero => intros; rfl
    | succ m ih =>
      intro h1 h2
      simp only [keyedBytes, Memory.bytes]
      rw [keyedByte_keyedWrite_inside s b n v key h1 (by omega), ih (c + 1) (by omega) (by omega)]
  rw [this b n (Nat.le_refl b) rfl, keyedWrite, Memory.bytes_setBytes]

/-! ### Writes at a home slice -/

/-- What a byte reads as depends on memory, on the lines' keys and on the key stores alone. -/
theorem keyedByte_congr {s t : State} (hm : t.mem = s.mem) (ho : t.keyOf = s.keyOf) (hk : t.keys = s.keys) (key b : Nat) :
    keyedByte t key b = keyedByte s key b := by
  have e : lineUnder t (materialOf t key) (b / 64) = lineUnder s (materialOf s key) (b / 64) := by
    unfold lineUnder materialOf keyMaterial?
    rw [hm, ho, hk]
  rw [keyedByte_eq, keyedByte_eq, e]

theorem reachLine_same (s : State) (c line : Nat) :
    (reachLine s c line).mem = s.mem ∧ (reachLine s c line).keyOf = s.keyOf ∧ (reachLine s c line).keys = s.keys := by
  have h1 : ∀ x, (wakeBank s x).mem = s.mem ∧ (wakeBank s x).keyOf = s.keyOf ∧ (wakeBank s x).keys = s.keys := by
    intro x; unfold wakeBank wakeUnit; split <;> exact ⟨rfl, rfl, rfl⟩
  have h2 : ∀ x : State, (recallLease x c line).mem = x.mem ∧ (recallLease x c line).keyOf = x.keyOf ∧
      (recallLease x c line).keys = x.keys := by
    intro x; unfold recallLease
    split
    · split <;> exact ⟨rfl, rfl, rfl⟩
    · exact ⟨rfl, rfl, rfl⟩
  unfold reachLine
  exact ⟨(h2 _).1.trans (h1 _).1, (h2 _).2.1.trans (h1 _).2.1, (h2 _).2.2.trans (h1 _).2.2⟩

theorem internalWriteWord_same (s : State) (i v : Nat) :
    (internalWriteWord s i v).mem = s.mem ∧ (internalWriteWord s i v).keyOf = s.keyOf ∧
      (internalWriteWord s i v).keys = s.keys := by
  simp only [internalWriteWord, clearLog]
  repeat' split
  all_goals exact ⟨rfl, rfl, rfl⟩

theorem internalWriteWords_same (s : State) (i v n : Nat) :
    (internalWriteWords s i v n).mem = s.mem ∧ (internalWriteWords s i v n).keyOf = s.keyOf ∧
      (internalWriteWords s i v n).keys = s.keys := by
  induction n generalizing s i v with
  | zero => exact ⟨rfl, rfl, rfl⟩
  | succ n ih =>
    have h := internalWriteWord_same s i (v % 2 ^ 64)
    have h' := ih (internalWriteWord s i (v % 2 ^ 64)) (i + 1) (v / 2 ^ 64)
    exact ⟨h'.1.trans h.1, h'.2.1.trans h.2.1, h'.2.2.trans h.2.2⟩

/-- A write in plain memory as far as bytes read under keys go. -/
theorem keyedByte_physWrite (s : State) (c key pa w v key' a : Nat) (h : isInternal pa = false) :
    keyedByte (physWrite s c key pa w v) key' a =
      keyedByte (keyedWrite s (materialOf s key) (pa / 8) (byteSpan pa w)
        (setBits (keyedBytes s key (pa / 8) (byteSpan pa w)) (pa % 8) w v)) key' a := by
  obtain ⟨h1, h2, h3⟩ := reachLine_same s c (lineOf pa)
  have hm : ∀ k, materialOf (fireGlobal (reachLine s c (lineOf pa)) pa w) k = materialOf s k := by
    intro k; simp only [materialOf, keyMaterial?, fireGlobal, h3]
  have hb : keyedBytes (fireGlobal (reachLine s c (lineOf pa)) pa w) key (pa / 8) (byteSpan pa w) =
      keyedBytes s key (pa / 8) (byteSpan pa w) :=
    keyedBytes_congr fun a _ _ => keyedByte_congr h1 h2 h3 key a
  have hr : ∀ (x y : State) (k l n : Nat), x.mem = y.mem → x.keyOf = y.keyOf →
      (rekeyLines x k l n).mem = (rekeyLines y k l n).mem ∧ (rekeyLines x k l n).keyOf = (rekeyLines y k l n).keyOf := by
    intro x y k l n
    induction n generalizing x y l with
    | zero => exact fun e1 e2 => ⟨e1, e2⟩
    | succ n ih =>
      intro e1 e2
      refine ih _ _ _ ?_ ?_
      · simp only [rekeyLine, lineUnder, e1, e2]
      · simp only [rekeyLine, e2]
  have hs : ∀ (b n u : Nat), (keyedWrite (fireGlobal (reachLine s c (lineOf pa)) pa w) (materialOf s key) b n u).mem =
        (keyedWrite s (materialOf s key) b n u).mem ∧
      (keyedWrite (fireGlobal (reachLine s c (lineOf pa)) pa w) (materialOf s key) b n u).keyOf =
        (keyedWrite s (materialOf s key) b n u).keyOf := by
    intro b n u
    have e := hr (fireGlobal (reachLine s c (lineOf pa)) pa w) s (materialOf s key) (b / 64) ((b % 64 + n + 63) / 64) h1 h2
    simp only [keyedWrite]
    exact ⟨by rw [e.1], e.2⟩
  unfold physWrite
  simp only [h, Bool.false_eq_true, if_false, hm, hb]
  refine keyedByte_congr (hs ..).1 (hs ..).2 ?_ key' a
  rw [keyedWrite_keys, keyedWrite_keys]; exact h3

/-- A byte outside a write reads as before, under every key where its line holds none of what is written, and under the material
of the write's key where it does (R44, R55, R308). -/
theorem keyedByte_physWrite_outside (s : State) (c key pa w v key' : Nat) {a : Nat}
    (ha : a < pa / 8 ∨ pa / 8 + byteSpan pa w ≤ a)
    (hk : pa / 8 / 64 ≤ a / 64 → a / 64 < pa / 8 / 64 + (pa / 8 % 64 + byteSpan pa w + 63) / 64 →
      materialOf s key' = materialOf s key) :
    keyedByte (physWrite s c key pa w v) key' a = keyedByte s key' a := by
  cases h : isInternal pa with
  | false => rw [keyedByte_physWrite _ _ _ _ _ _ _ _ h]; exact keyedByte_keyedWrite_outside s _ _ _ _ key' ha hk
  | true =>
    obtain ⟨h1, h2, h3⟩ := reachLine_same s c (lineOf pa)
    unfold physWrite
    simp only [h, if_true]
    obtain ⟨e1, e2, e3⟩ := internalWriteWords_same (fireGlobal (reachLine s c (lineOf pa)) pa w) ((pa - internalBase) / 64)
      (v % 2 ^ w * 2 ^ (pa % 64)) ((pa % 64 + w + 63) / 64)
    exact keyedByte_congr (e1.trans h1) (e2.trans h2) (e3.trans h3) key' a

/-- What a write put in plain memory is read there under its key. -/
theorem physRead_physWrite_self (s : State) (c key pa w v : Nat) (h : isInternal pa = false) :
    physRead (physWrite s c key pa w v) key pa w = v % 2 ^ w := by
  unfold physRead
  simp only [h, Bool.false_eq_true, if_false]
  rw [keyedBytes_congr fun a _ _ => keyedByte_physWrite s c key pa w v key a h, keyedBytes_keyedWrite,
    Nat.mod_eq_of_lt (setBits_lt (keyedBytes_lt ..) (byteSpan_covers pa w)), bitsAt_setBits_self]

/-- A read depends on the bytes it reads alone. -/
theorem physRead_congr {s t : State} {key pa w : Nat} (h : isInternal pa = false)
    (hb : ∀ a, pa / 8 ≤ a → a < pa / 8 + byteSpan pa w → keyedByte t key a = keyedByte s key a) :
    physRead t key pa w = physRead s key pa w := by
  unfold physRead
  simp only [h, Bool.false_eq_true, if_false]
  rw [keyedBytes_congr hb]

@[simp] theorem physWrite_keys (s : State) (c key pa w v : Nat) : (physWrite s c key pa w v).keys = s.keys := by
  obtain ⟨_, _, h3⟩ := reachLine_same s c (lineOf pa)
  unfold physWrite; dsimp only
  split
  · exact (internalWriteWords_same ..).2.2.trans h3
  · rw [keyedWrite_keys]; exact h3

@[simp] theorem physWrite_materialOf (s : State) (c key pa w v k : Nat) :
    materialOf (physWrite s c key pa w v) k = materialOf s k := by simp [materialOf, keyMaterial?]

/-- Memory stays canonical. -/
theorem rekeyLine_wf {s : State} (h : s.mem.wf = true) (k n : Nat) : (rekeyLine s k n).mem.wf = true := by
  rcases rekeyLine_mem s k n with e | e <;> rw [e]
  exacts [h, Memory.wf_setBytes h ..]

theorem rekeyLines_wf {s : State} (h : s.mem.wf = true) (k l n : Nat) : (rekeyLines s k l n).mem.wf = true := by
  induction n generalizing s l with
  | zero => exact h
  | succ n ih => exact ih (rekeyLine_wf h k l) (l + 1)

theorem keyedWrite_wf {s : State} (h : s.mem.wf = true) (k b n v : Nat) : (keyedWrite s k b n v).mem.wf = true :=
  Memory.wf_setBytes (rekeyLines_wf h _ _ _) _ _ _

end Sys2Proof.Machine
end

