-- ==== Sys2Proof/Laws/Access.lean ====
section
/-! SUPPORT. What a write of an access's parts leaves as it was, and what is read of them afterwards (03 R44, R53, R55; 19 R308). -/

namespace Sys2Proof.Machine

/-! ### DT of a leaf -/

/-- An OR of one bit of a table entry sets that bit of memory and no line's key. -/
theorem pteOr_same (s : State) (a : Nat) :
    (pteOr s a).mem = s.mem.setBits a 1 1 ∧ (pteOr s a).keyOf = s.keyOf ∧ (pteOr s a).keys = s.keys := by
  obtain ⟨h1, h2, h3⟩ := reachLine_same s noCore (lineOf a)
  exact ⟨congrArg (fun m => Memory.setBits m a 1 1) h1, h2, h3⟩

theorem setDirty_same (s : State) (leaf : Nat) : (setDirty s leaf).keyOf = s.keyOf ∧ (setDirty s leaf).keys = s.keys := by
  unfold setDirty; split
  · exact ⟨rfl, rfl⟩
  · exact (pteOr_same s _).2

@[simp] theorem setDirty_materialOf (s : State) (leaf k : Nat) : materialOf (setDirty s leaf) k = materialOf s k := by
  simp only [materialOf, keyMaterial?, (setDirty_same s leaf).2]

/-- Setting DT changes one byte of memory. -/
theorem setDirty_read (s : State) (leaf : Nat) {a : Nat} (h : a ≠ (leaf + 75) / 8) :
    (setDirty s leaf).mem.read a = s.mem.read a := by
  unfold setDirty
  split
  · rfl
  · rw [(pteOr_same s _).1]
    apply Memory.read_setBits_outside
    have : byteSpan (leaf + 75) 1 = 1 := by unfold byteSpan; omega
    omega

/-- Every other byte reads as before, in the leaf entry's own line under the material the line has. -/
theorem keyedByte_setDirty (s : State) (leaf key : Nat) {a : Nat} (h : a ≠ (leaf + 75) / 8)
    (hk : (leaf + 75) / 8 / 64 = a / 64 → nget? s.keyOf (a / 64) = none ∨ nget? s.keyOf (a / 64) = some (materialOf s key)) :
    keyedByte (setDirty s leaf) key a = keyedByte s key a := by
  by_cases hl : (leaf + 75) / 8 / 64 = a / 64
  · rcases hk hl with e | e <;>
      simp only [keyedByte, setDirty_materialOf, (setDirty_same s leaf).1, e, if_true, setDirty_read s leaf h]
  · have hb : (setDirty s leaf).mem.bytes (64 * (a / 64)) 64 = s.mem.bytes (64 * (a / 64)) 64 := by
      apply Memory.bytes_congr; intro x _ _
      exact setDirty_read s leaf (by omega)
    rw [keyedByte_eq, keyedByte_eq, setDirty_materialOf]
    simp only [lineUnder, hb, (setDirty_same s leaf).1]

/-! ### One part -/

@[simp] theorem writePart_materialOf (s : State) (c : Nat) (p : Part) (v k : Nat) :
    materialOf (writePart s c p v) k = materialOf s k := by simp [writePart]

theorem keyOf_physWrite (s : State) (c key pa w v m : Nat) :
    nget? (physWrite s c key pa w v).keyOf m =
      if isInternal pa = false ∧ pa / 8 / 64 ≤ m ∧ m < pa / 8 / 64 + (pa / 8 % 64 + byteSpan pa w + 63) / 64 then
        some (materialOf s key)
      else nget? s.keyOf m := by
  obtain ⟨_, h2, h3⟩ := reachLine_same s c (lineOf pa)
  have hm : materialOf (fireGlobal (reachLine s c (lineOf pa)) pa w) key = materialOf s key := by
    simp only [materialOf, keyMaterial?, fireGlobal, h3]
  unfold physWrite
  cases h : isInternal pa with
  | true =>
    simp only [Bool.true_eq_false, false_and, if_false, if_true]
    rw [(internalWriteWords_same ..).2.1]
    show nget? (reachLine s c (lineOf pa)).keyOf m = _
    rw [h2]
  | false =>
    simp only [Bool.false_eq_true, if_false, true_and, hm, keyedWrite]
    rw [keyOf_rekeyLines]
    show (if _ then _ else nget? (reachLine s c (lineOf pa)).keyOf m) = _
    rw [h2]

/-- A write of one part spares every byte it does not touch. -/
theorem writePart_spares (s : State) (c : Nat) (p : Part) (v : Nat) : Spares s (writePart s c p v) [p] := by
  intro key a ht hk hd
  have ht' : ¬ ((p.pa / 8 ≤ a ∧ a < p.pa / 8 + byteSpan p.pa p.w) ∨ a = (p.leaf + 75) / 8) :=
    fun h => ht ⟨p, by simp, h⟩
  unfold writePart
  rw [keyedByte_physWrite_outside]
  · exact keyedByte_setDirty s p.leaf key (fun e => ht' (.inr e)) (hd p (by simp))
  · by_contra hc; exact ht' (.inl (by omega))
  · intro h1 h2
    simpa using hk p (by simp) ⟨h1, h2⟩

/-- The line of a byte keeps its material, or has that of the part written into it. -/
theorem keyOf_writePart (s : State) (c : Nat) (p : Part) (v a : Nat) :
    nget? (writePart s c p v).keyOf (a / 64) = nget? s.keyOf (a / 64) ∨
      (SharesLine p a ∧ nget? (writePart s c p v).keyOf (a / 64) = some (materialOf s p.key)) := by
  unfold writePart
  rw [keyOf_physWrite, setDirty_materialOf, (setDirty_same s p.leaf).1]
  split
  · rename_i h; exact .inr ⟨h.2, rfl⟩
  · exact .inl rfl

/-! ### All parts -/

@[simp] theorem writeParts_materialOf (s : State) (c : Nat) (ps : List Part) (v k : Nat) :
    materialOf (writeParts s c ps v) k = materialOf s k := by
  induction ps generalizing s v with
  | nil => rfl
  | cons p ps ih => simp [writeParts, ih]

/-- A write of an access's parts spares every byte it does not touch. -/
theorem writeParts_spares (s : State) (c : Nat) (ps : List Part) (v : Nat) : Spares s (writeParts s c ps v) ps := by
  induction ps generalizing s v with
  | nil => intro key a _ _ _; rfl
  | cons p ps ih =>
    intro key a ht hk hd
    rw [writeParts, ih (writePart s c p v) (v / 2 ^ p.w) key a]
    · refine writePart_spares s c p v key a ?_ ?_ ?_
      · rintro ⟨q, hq, h⟩; simp only [List.mem_singleton] at hq; subst hq; exact ht ⟨q, by simp, h⟩
      · intro q hq; simp only [List.mem_singleton] at hq; subst hq; exact hk q (by simp)
      · intro q hq; simp only [List.mem_singleton] at hq; subst hq; exact hd q (by simp)
    · rintro ⟨q, hq, h⟩; exact ht ⟨q, by simp [hq], h⟩
    · intro q hq h; simpa using hk q (by simp [hq]) h
    · intro q hq h
      rw [writePart_materialOf]
      rcases keyOf_writePart s c p v a with e | ⟨hs, e⟩ <;> rw [e]
      · exact hd q (by simp [hq]) h
      · exact .inr (by rw [hk p (by simp) hs])

/-- What a read of a part depends on: the bytes of the part. -/
theorem physRead_spared {s t : State} {ps : List Part} (h : Spares s t ps) {p : Part} (hp : isInternal p.pa = false)
    (h1 : ∀ q ∈ ps, p.pa / 8 + byteSpan p.pa p.w ≤ q.pa / 8 ∨ q.pa / 8 + byteSpan q.pa q.w ≤ p.pa / 8)
    (h2 : ∀ q ∈ ps, (q.leaf + 75) / 8 < p.pa / 8 ∨ p.pa / 8 + byteSpan p.pa p.w ≤ (q.leaf + 75) / 8)
    (h3 : ∀ q ∈ ps, firstLine p < firstLine q + lineSpan q → firstLine q < firstLine p + lineSpan p →
      materialOf s p.key = materialOf s q.key)
    (h4 : ∀ a, SharesLine p a → nget? s.keyOf (a / 64) = some (materialOf s p.key)) :
    physRead t p.key p.pa p.w = physRead s p.key p.pa p.w := by
  apply physRead_congr hp
  intro a ha1 ha2
  have hs : SharesLine p a := by unfold SharesLine firstLine lineSpan; omega
  refine h p.key a ?_ ?_ ?_
  · rintro ⟨q, hq, e | e⟩
    · rcases h1 q hq with e' | e' <;> omega
    · rcases h2 q hq with e' | e' <;> omega
  · intro q hq hs'
    apply h3 q hq <;> unfold SharesLine at hs hs' <;> omega
  · intro q hq _; exact .inr (h4 a hs)

/-- What was written part by part is read part by part. -/
theorem readParts_writeParts (s : State) (c : Nat) (ps : List Part) (v : Nat) (hp : Plain ps) (ha : Apart s ps) :
    readParts (writeParts s c ps v) ps = v % 2 ^ (ps.map (·.w)).sum := by
  induction ps generalizing s v with
  | nil => simp [readParts, Nat.mod_one]
  | cons p ps ih =>
    have hpp : isInternal p.pa = false := hp p (by simp)
    have ha' : Apart (writePart s c p v) ps := by
      refine ⟨fun x hx y hy => ⟨(ha.1 x (by simp [hx]) y (by simp [hy])).1, ?_⟩, (List.pairwise_cons.1 ha.2).2⟩
      intro e1 e2
      simpa using (ha.1 x (by simp [hx]) y (by simp [hy])).2 e1 e2
    have e1 : physRead (writeParts (writePart s c p v) c ps (v / 2 ^ p.w)) p.key p.pa p.w =
        physRead (writePart s c p v) p.key p.pa p.w := by
      refine physRead_spared (writeParts_spares _ _ _ _) hpp ?_ ?_ ?_ ?_
      · exact (List.pairwise_cons.1 ha.2).1
      · intro q hq; exact (ha.1 p (by simp) q (by simp [hq])).1
      · intro q hq e1 e2; simpa using (ha.1 p (by simp) q (by simp [hq])).2 e1 e2
      · intro a hs
        unfold writePart
        rw [keyOf_physWrite, if_pos ⟨hpp, hs.1, hs.2⟩]
        simp
    have e2 : physRead (writePart s c p v) p.key p.pa p.w = v % 2 ^ p.w := physRead_physWrite_self _ _ _ _ _ _ hpp
    rw [writeParts, readParts, e1, e2, ih (writePart s c p v) (v / 2 ^ p.w) (fun q hq => hp q (by simp [hq])) ha',
      List.map_cons, List.sum_cons, Nat.pow_add, Nat.mod_mul]

end Sys2Proof.Machine
end

