-- ==== Sys2Proof/Laws/Encode.lean ====
section
/-! SUPPORT. The encoder's fields fit their places, and the codes of the operand kinds are read back (04 R70 to R73). -/

namespace Sys2Proof

/-! ### Codes: their ranges, and reading them back -/

theorem IType.code_lt (x : IType) : x.code < 8 := by cases x <;> decide
@[simp] theorem IType.ofCode_code (x : IType) : IType.ofCode x.code = x := by cases x <;> rfl
theorem FType.code_lt (x : FType) : x.code < 3 := by cases x <;> decide
@[simp] theorem FType.ofCode_code (x : FType) : FType.ofCode x.code = x := by cases x <;> rfl
theorem CvtType.code_lt (x : CvtType) : x.code < 16 := by cases x <;> decide
@[simp] theorem CvtType.ofCode_code (x : CvtType) : CvtType.ofCode x.code = x := by cases x <;> rfl
theorem Cc.code_lt (x : Cc) : x.code < 8 := by cases x <;> decide
@[simp] theorem Cc.ofCode_code (x : Cc) : Cc.ofCode x.code = x := by cases x <;> rfl
theorem FCc.code_lt (x : FCc) : x.code < 7 := by cases x <;> decide
@[simp] theorem FCc.ofCode_code (x : FCc) : FCc.ofCode x.code = x := by cases x <;> rfl
theorem Rnd.code_lt (x : Rnd) : x.code < 5 := by cases x <;> decide
@[simp] theorem Rnd.ofCode_code (x : Rnd) : Rnd.ofCode x.code = x := by cases x <;> rfl
theorem LoadOrd.code_lt (x : LoadOrd) : x.code < 5 := by cases x <;> decide
@[simp] theorem LoadOrd.ofCode_code (x : LoadOrd) : LoadOrd.ofCode x.code = x := by cases x <;> rfl
theorem StoreOrd.code_lt (x : StoreOrd) : x.code < 5 := by cases x <;> decide
@[simp] theorem StoreOrd.ofCode_code (x : StoreOrd) : StoreOrd.ofCode x.code = x := by cases x <;> rfl
theorem Ord.code_lt (x : Ord) : x.code < 5 := by cases x <;> decide
@[simp] theorem Ord.ofCode_code (x : Ord) : Ord.ofCode x.code = x := by cases x <;> rfl
theorem Scope.code_lt (x : Scope) : x.code < 10 := by cases x <;> decide
@[simp] theorem Scope.ofCode_code (x : Scope) : Scope.ofCode x.code = x := by cases x <;> rfl
theorem Cmb.code_lt (x : Cmb) : x.code < 3 := by cases x <;> decide
@[simp] theorem Cmb.ofCode_code (x : Cmb) : Cmb.ofCode x.code = x := by cases x <;> rfl
theorem BqFmt.code_lt (x : BqFmt) : x.code < 3 := by cases x <;> decide
@[simp] theorem BqFmt.ofCode_code (x : BqFmt) : BqFmt.ofCode x.code = x := by cases x <;> rfl
theorem DotF.code_lt (x : DotF) : x.code < 7 := by cases x <;> decide
@[simp] theorem DotF.ofCode_code (x : DotF) : DotF.ofCode x.code = x := by cases x <;> rfl
theorem IRed.code_lt (x : IRed) : x.code < 6 := by cases x <;> decide
@[simp] theorem IRed.ofCode_code (x : IRed) : IRed.ofCode x.code = x := by cases x <;> rfl
theorem AmoI.code_lt (x : AmoI) : x.code < 7 := by cases x <;> decide
@[simp] theorem AmoI.ofCode_code (x : AmoI) : AmoI.ofCode x.code = x := by cases x <;> rfl
theorem AmoF.code_lt (x : AmoF) : x.code < 10 := by cases x <;> decide
@[simp] theorem AmoF.ofCode_code (x : AmoF) : AmoF.ofCode x.code = x := by cases x <;> rfl
theorem CopyCmb.code_lt (x : CopyCmb) : x.code < 3 := by cases x <;> decide
@[simp] theorem CopyCmb.ofCode_code (x : CopyCmb) : CopyCmb.ofCode x.code = x := by cases x <;> rfl
theorem AddwType.code_lt (x : AddwType) : x.code < 5 := by cases x <;> decide
@[simp] theorem AddwType.ofCode_code (x : AddwType) : AddwType.ofCode x.code = x := by cases x <;> rfl
theorem OpenLevel.code_lt (x : OpenLevel) : x.code < 5 := by cases x <;> decide
@[simp] theorem OpenLevel.ofCode_code (x : OpenLevel) : OpenLevel.ofCode x.code = x := by cases x <;> rfl
theorem VType.code_lt (x : VType) : x.code < 11 := by
  cases x with
  | i t => have := t.code_lt; simp only [VType.code]; omega
  | f t => have := t.code_lt; simp only [VType.code]; omega
@[simp] theorem VType.ofCode_code (x : VType) : VType.ofCode x.code = x := by
  cases x with
  | i t => simp [VType.code, VType.ofCode, t.code_lt]
  | f t => simp [VType.code, VType.ofCode]
theorem PriSel.code_lt (x : PriSel) : x.code < 9 := by
  cases x with
  | same => decide
  | pri p => have := p.isLt; simp only [PriSel.code]; omega
@[simp] theorem PriSel.ofCode_code (x : PriSel) : PriSel.ofCode x.code = x := by
  cases x with
  | same => rfl
  | pri p => simp [PriSel.code, PriSel.ofCode, Nat.add_comm 1]
theorem Guard.code_lt (g : Guard) : g.code < 16 := by
  have := g.k.isLt
  have := g.neg.toNat_lt
  simp only [Guard.code]; omega
@[simp] theorem Guard.ofCode_code (g : Guard) : Guard.ofCode g.code = g := by
  obtain ⟨n, k⟩ := g; revert n k; decide
theorem GOp.code_lt (x : GOp) : x.code < 128 := by
  cases x with
  | g n => have := n.isLt; simp only [GOp.code]; omega
  | rel j => have := j.isLt; simp only [GOp.code]; omega
@[simp] theorem GOp.ofCode_code (x : GOp) : GOp.ofCode x.code = x := by
  cases x with
  | g n => revert n; decide
  | rel j => revert j; decide
theorem vCode_lt (n : Fin 32) : vCode n < 128 := by have := n.isLt; simp only [vCode]; omega
@[simp] theorem vOfCode_vCode (n : Fin 32) : vOfCode (vCode n) = n := by revert n; decide
theorem kCode_lt (n : Fin 8) : kCode n < 128 := by have := n.isLt; simp only [kCode]; omega
@[simp] theorem kOfCode_kCode (n : Fin 8) : kOfCode (kCode n) = n := by revert n; decide
theorem jCode_lt (n : Fin 8) : jCode n < 128 := by have := n.isLt; simp only [jCode]; omega
@[simp] theorem jOfCode_jCode (n : Fin 8) : jOfCode (jCode n) = n := by revert n; decide
theorem GJK.code_lt (x : GJK) : x.code < 128 := by
  cases x with
  | g o => exact o.code_lt
  | j n => exact jCode_lt n
  | k n => exact kCode_lt n
@[simp] theorem GJK.ofCode_code (x : GJK) : GJK.ofCode x.code = x := by
  cases x with
  | g o => cases o with
    | g n => revert n; decide
    | rel j => revert j; decide
  | j n => revert n; decide
  | k n => revert n; decide
theorem GJ.code_lt (x : GJ) : x.code < 128 := by
  cases x with
  | g o => exact o.code_lt
  | j n => exact jCode_lt n
@[simp] theorem GJ.ofCode_code (x : GJ) : GJ.ofCode x.code = x := by
  cases x with
  | g o => cases o with
    | g n => revert n; decide
    | rel j => revert j; decide
  | j n => revert n; decide
theorem GV.code_lt (x : GV) : x.code < 128 := by
  cases x with
  | g o => exact o.code_lt
  | v n => exact vCode_lt n
@[simp] theorem GV.ofCode_code (x : GV) : GV.ofCode x.code = x := by
  cases x with
  | g o => cases o with
    | g n => revert n; decide
    | rel j => revert j; decide
  | v n => revert n; decide
theorem ShCount.bCode_lt (x : ShCount) : x.bCode < 128 := by
  cases x with
  | v r => exact vCode_lt r
  | g o _ => exact o.code_lt
theorem ShCount.xCode_lt (x : ShCount) : x.xCode < 2 ^ 38 := by
  cases x with
  | v r => simp [ShCount.xCode]
  | g _ x => exact x.isLt
@[simp] theorem ShCount.ofRaw_code (x : ShCount) : ShCount.ofRaw x.bCode x.xCode = x := by
  cases x with
  | v r => have := r.isLt; simp [ShCount.ofRaw, ShCount.bCode, vCode]; revert r; decide
  | g o x =>
    have : ¬(64 ≤ o.code ∧ o.code < 96) := by
      cases o with
      | g n => have := n.isLt; simp only [GOp.code]; omega
      | rel j => simp only [GOp.code]; omega
    simp [ShCount.ofRaw, ShCount.bCode, ShCount.xCode, this]
theorem Cr.code_lt (x : Cr) : x.code < 2 ^ 38 := by
  cases x <;> simp only [Cr.code] <;> omega
@[simp] theorem Cr.ofCode_code (x : Cr) : Cr.ofCode x.code = x := by
  cases x with
  | wch n => revert n; decide
  | th n => revert n; decide
  | _ => rfl
theorem Window.toM_lt (x : Window) : x.toM < 2 ^ 7 := by
  cases x with
  | run n => have := n.isLt; simp only [Window.toM]; omega
  | _ => simp [Window.toM]
theorem VArith.toM_lt (x : VArith) : x.toM < 2 ^ 16 := by
  cases x with
  | int t b => have := t.code_lt; have := b.toNat_lt; simp only [VArith.toM]; omega
  | flt t r => have := t.code_lt; have := r.code_lt; simp only [VArith.toM]; omega
theorem VSign.toM_lt (x : VSign) : x.toM < 2 ^ 16 := by
  cases x with
  | int t b => have := t.code_lt; have := b.toNat_lt; simp only [VSign.toM]; omega
  | flt t => have := t.code_lt; simp only [VSign.toM]; omega
theorem VCond.toM_lt (x : VCond) : x.toM < 2 ^ 16 := by
  cases x with
  | int t c => have := t.code_lt; have := c.code_lt; simp only [VCond.toM]; omega
  | flt t c => have := t.code_lt; have := c.code_lt; simp only [VCond.toM]; omega
theorem VDotArg.toM_lt (x : VDotArg) : x.toM < 2 ^ 16 := by
  cases x with
  | flt t r => have := t.code_lt; have := r.code_lt; simp only [VDotArg.toM]; omega
  | int a b => have := a.toNat_lt; have := b.toNat_lt; simp only [VDotArg.toM]; omega
theorem VRedArg.toM_lt (x : VRedArg) : x.toM < 2 ^ 16 := by
  cases x with
  | int t o => have := t.code_lt; have := o.code_lt; simp only [VRedArg.toM]; omega
  | fadd t r => have := t.code_lt; have := r.code_lt; simp only [VRedArg.toM]; omega
  | fmin t => have := t.code_lt; simp only [VRedArg.toM]; omega
  | fmax t => have := t.code_lt; simp only [VRedArg.toM]; omega
theorem AmoArg.toM_lt (x : AmoArg) : x.toM < 2 ^ 8 := by
  cases x with
  | int t o => have := t.code_lt; have := o.code_lt; simp only [AmoArg.toM]; omega
  | flt t o => have := t.code_lt; have := o.code_lt; simp only [AmoArg.toM]; omega
theorem PackArg.bCode_lt (x : PackArg) : x.bCode < 128 := by
  cases x with
  | int => simp [PackArg.bCode]
  | bq _ b _ => exact vCode_lt b
theorem PackArg.xCode_lt (x : PackArg) : x.xCode < 2 ^ 38 := by
  cases x with
  | int _ _ _ x => have := x.isLt; simp only [PackArg.xCode]; omega
  | bq => simp [PackArg.xCode]
theorem PackArg.toM_lt (x : PackArg) : x.toM < 2 ^ 16 := by
  cases x with
  | int t w b _ => have := t.code_lt; have := w.isLt; have := b.toNat_lt; simp only [PackArg.toM]; omega
  | bq f _ b => have := f.code_lt; have := b.toNat_lt; simp only [PackArg.toM]; omega
theorem UnpkArg.xCode_lt (x : UnpkArg) : x.xCode < 2 ^ 38 := by
  cases x with
  | int _ _ x => have := x.isLt; simp only [UnpkArg.xCode]; omega
  | bq _ p => have := p.isLt; simp only [UnpkArg.xCode]; omega
theorem UnpkArg.toM_lt (x : UnpkArg) : x.toM < 2 ^ 16 := by
  cases x with
  | int t w _ => have := t.code_lt; have := w.isLt; simp only [UnpkArg.toM]; omega
  | bq f _ => have := f.code_lt; simp only [UnpkArg.toM]; omega
theorem CopyMode.cCode_lt (x : CopyMode) : x.cCode < 128 := by
  cases x with
  | plain => simp [CopyMode.cCode]
  | fwd o => exact o.code_lt
theorem CopyMode.toM_lt (x : CopyMode) : x.toM ≤ 2 ^ 13 := by
  cases x with
  | plain c => have := c.code_lt; simp only [CopyMode.toM]; omega
  | fwd => simp [CopyMode.toM]

/-! ### Fields and their places -/

/-- Every field of an encoded instruction fits its place (R70 to R73). -/
def FieldsFit (fmt : Fmt) (f : Fields) : Prop :=
  f.op < 2 ^ 10 ∧ f.gd < 2 ^ 4 ∧
    match fmt with
    | .r => f.d < 2 ^ 7 ∧ f.a < 2 ^ 7 ∧ f.b < 2 ^ 7 ∧ f.c < 2 ^ 7 ∧ f.m < 2 ^ 16 ∧ f.x < 2 ^ 38
    | .w => f.d < 2 ^ 7 ∧ f.w < 2 ^ 64 ∧ f.m < 2 ^ 11
    | .b => f.r1 < 2 ^ 7 ∧ f.a < 2 ^ 7 ∧ f.r2 < 2 ^ 25 ∧ f.off < 2 ^ 40 ∧ f.slot < 2 ^ 3

/-- The fields of format R are read back from the slot they were laid out in (R70). -/
theorem unpack_packR {f : Fields} (h : FieldsFit .r f) (hw : f.w = 0) (h1 : f.r1 = 0) (h2 : f.r2 = 0) (ho : f.off = 0)
    (hs : f.slot = 0) : unpack .r (packR f) = f := by
  obtain ⟨op, gd, d, a, b, c, m, x, w, r1, r2, off, slot⟩ := f
  simp only [FieldsFit] at h
  simp only [unpack, packR, mBits, Fields.mk.injEq] at *
  omega

theorem unpack_packW {f : Fields} (h : FieldsFit .w f) (ha : f.a = 0) (hb : f.b = 0) (hc : f.c = 0) (hx : f.x = 0)
    (h1 : f.r1 = 0) (h2 : f.r2 = 0) (ho : f.off = 0) (hs : f.slot = 0) : unpack .w (packW f) = f := by
  obtain ⟨op, gd, d, a, b, c, m, x, w, r1, r2, off, slot⟩ := f
  simp only [FieldsFit] at h
  simp only [unpack, packW, mBits, Fields.mk.injEq] at *
  omega

theorem unpack_packB {f : Fields} (h : FieldsFit .b f) (hd : f.d = 0) (hb : f.b = 0) (hc : f.c = 0) (hm : f.m = 0)
    (hx : f.x = 0) (hw : f.w = 0) : unpack .b (packB f) = f := by
  obtain ⟨op, gd, d, a, b, c, m, x, w, r1, r2, off, slot⟩ := f
  simp only [FieldsFit] at h
  simp only [unpack, packB, mBits, Fields.mk.injEq] at *
  omega

end Sys2Proof
end

