-- ==== Sys2Proof/Laws/State.lean ====
section
/-! SUPPORT. The small laws of the state: what each accessor reads after each update, one lemma per field per update. -/

namespace Sys2Proof.Machine

/-! ### The parts of the state after an update of one part -/

section
variable (s : State) (c l : Nat) (x : Strand)
@[simp] theorem putStrand_now : (putStrand s c l x).now = s.now := rfl
@[simp] theorem putStrand_supply : (putStrand s c l x).supply = s.supply := rfl
@[simp] theorem putStrand_cur : (putStrand s c l x).cur = s.cur := rfl
@[simp] theorem putStrand_agenda : (putStrand s c l x).agenda = s.agenda := rfl
@[simp] theorem putStrand_draw : (putStrand s c l x).draw = s.draw := rfl
@[simp] theorem putStrand_nextSid : (putStrand s c l x).nextSid = s.nextSid := rfl
@[simp] theorem putStrand_mem : (putStrand s c l x).mem = s.mem := rfl
@[simp] theorem putStrand_keyOf : (putStrand s c l x).keyOf = s.keyOf := rfl
@[simp] theorem putStrand_leases : (putStrand s c l x).leases = s.leases := rfl
@[simp] theorem putStrand_corrected : (putStrand s c l x).corrected = s.corrected := rfl
@[simp] theorem putStrand_steals : (putStrand s c l x).steals = s.steals := rfl
@[simp] theorem putStrand_peers : (putStrand s c l x).peers = s.peers := rfl
@[simp] theorem putStrand_nextPeer : (putStrand s c l x).nextPeer = s.nextPeer := rfl
@[simp] theorem putStrand_pending : (putStrand s c l x).pending = s.pending := rfl
@[simp] theorem putStrand_svcRoot : (putStrand s c l x).svcRoot = s.svcRoot := rfl
@[simp] theorem putStrand_keys : (putStrand s c l x).keys = s.keys := rfl
@[simp] theorem putStrand_roots : (putStrand s c l x).roots = s.roots := rfl
@[simp] theorem putStrand_chains : (putStrand s c l x).chains = s.chains := rfl
@[simp] theorem putStrand_ingots : (putStrand s c l x).ingots = s.ingots := rfl
@[simp] theorem putStrand_reports : (putStrand s c l x).reports = s.reports := rfl
@[simp] theorem putStrand_responses : (putStrand s c l x).responses = s.responses := rfl
@[simp] theorem putStrand_asked : (putStrand s c l x).asked = s.asked := rfl
@[simp] theorem putStrand_sessions : (putStrand s c l x).sessions = s.sessions := rfl
@[simp] theorem putStrand_watches : (putStrand s c l x).watches = s.watches := rfl
@[simp] theorem putStrand_cores : (putStrand s c l x).cores = s.cores := rfl
@[simp] theorem putStrand_clusters : (putStrand s c l x).clusters = s.clusters := rfl
@[simp] theorem putStrand_dies : (putStrand s c l x).dies = s.dies := rfl
@[simp] theorem putStrand_parts : (putStrand s c l x).parts = s.parts := rfl
@[simp] theorem putStrand_tenants : (putStrand s c l x).tenants = s.tenants := rfl
@[simp] theorem putStrand_ports : (putStrand s c l x).ports = s.ports := rfl
@[simp] theorem putStrand_ues : (putStrand s c l x).ues = s.ues := rfl
@[simp] theorem putStrand_groups : (putStrand s c l x).groups = s.groups := rfl
@[simp] theorem putStrand_power : (putStrand s c l x).power = s.power := rfl
@[simp] theorem putStrand_boot : (putStrand s c l x).boot = s.boot := rfl
@[simp] theorem putStrand_gated : (putStrand s c l x).gated = s.gated := rfl
@[simp] theorem putStrand_snap : (putStrand s c l x).snap = s.snap := rfl
end

section
variable (s : State) (c : Nat) (x : CoreSt)
@[simp] theorem putCore_now : (putCore s c x).now = s.now := rfl
@[simp] theorem putCore_supply : (putCore s c x).supply = s.supply := rfl
@[simp] theorem putCore_cur : (putCore s c x).cur = s.cur := rfl
@[simp] theorem putCore_agenda : (putCore s c x).agenda = s.agenda := rfl
@[simp] theorem putCore_draw : (putCore s c x).draw = s.draw := rfl
@[simp] theorem putCore_nextSid : (putCore s c x).nextSid = s.nextSid := rfl
@[simp] theorem putCore_mem : (putCore s c x).mem = s.mem := rfl
@[simp] theorem putCore_keyOf : (putCore s c x).keyOf = s.keyOf := rfl
@[simp] theorem putCore_leases : (putCore s c x).leases = s.leases := rfl
@[simp] theorem putCore_corrected : (putCore s c x).corrected = s.corrected := rfl
@[simp] theorem putCore_steals : (putCore s c x).steals = s.steals := rfl
@[simp] theorem putCore_peers : (putCore s c x).peers = s.peers := rfl
@[simp] theorem putCore_nextPeer : (putCore s c x).nextPeer = s.nextPeer := rfl
@[simp] theorem putCore_pending : (putCore s c x).pending = s.pending := rfl
@[simp] theorem putCore_svcRoot : (putCore s c x).svcRoot = s.svcRoot := rfl
@[simp] theorem putCore_keys : (putCore s c x).keys = s.keys := rfl
@[simp] theorem putCore_roots : (putCore s c x).roots = s.roots := rfl
@[simp] theorem putCore_chains : (putCore s c x).chains = s.chains := rfl
@[simp] theorem putCore_ingots : (putCore s c x).ingots = s.ingots := rfl
@[simp] theorem putCore_reports : (putCore s c x).reports = s.reports := rfl
@[simp] theorem putCore_responses : (putCore s c x).responses = s.responses := rfl
@[simp] theorem putCore_asked : (putCore s c x).asked = s.asked := rfl
@[simp] theorem putCore_sessions : (putCore s c x).sessions = s.sessions := rfl
@[simp] theorem putCore_watches : (putCore s c x).watches = s.watches := rfl
@[simp] theorem putCore_strands : (putCore s c x).strands = s.strands := rfl
@[simp] theorem putCore_clusters : (putCore s c x).clusters = s.clusters := rfl
@[simp] theorem putCore_dies : (putCore s c x).dies = s.dies := rfl
@[simp] theorem putCore_parts : (putCore s c x).parts = s.parts := rfl
@[simp] theorem putCore_tenants : (putCore s c x).tenants = s.tenants := rfl
@[simp] theorem putCore_ports : (putCore s c x).ports = s.ports := rfl
@[simp] theorem putCore_ues : (putCore s c x).ues = s.ues := rfl
@[simp] theorem putCore_groups : (putCore s c x).groups = s.groups := rfl
@[simp] theorem putCore_power : (putCore s c x).power = s.power := rfl
@[simp] theorem putCore_boot : (putCore s c x).boot = s.boot := rfl
@[simp] theorem putCore_gated : (putCore s c x).gated = s.gated := rfl
@[simp] theorem putCore_snap : (putCore s c x).snap = s.snap := rfl
end

section
variable (s : State) (i : Nat) (x : Cluster)
@[simp] theorem putCluster_now : (putCluster s i x).now = s.now := rfl
@[simp] theorem putCluster_supply : (putCluster s i x).supply = s.supply := rfl
@[simp] theorem putCluster_cur : (putCluster s i x).cur = s.cur := rfl
@[simp] theorem putCluster_agenda : (putCluster s i x).agenda = s.agenda := rfl
@[simp] theorem putCluster_draw : (putCluster s i x).draw = s.draw := rfl
@[simp] theorem putCluster_nextSid : (putCluster s i x).nextSid = s.nextSid := rfl
@[simp] theorem putCluster_mem : (putCluster s i x).mem = s.mem := rfl
@[simp] theorem putCluster_keyOf : (putCluster s i x).keyOf = s.keyOf := rfl
@[simp] theorem putCluster_leases : (putCluster s i x).leases = s.leases := rfl
@[simp] theorem putCluster_corrected : (putCluster s i x).corrected = s.corrected := rfl
@[simp] theorem putCluster_steals : (putCluster s i x).steals = s.steals := rfl
@[simp] theorem putCluster_peers : (putCluster s i x).peers = s.peers := rfl
@[simp] theorem putCluster_nextPeer : (putCluster s i x).nextPeer = s.nextPeer := rfl
@[simp] theorem putCluster_pending : (putCluster s i x).pending = s.pending := rfl
@[simp] theorem putCluster_svcRoot : (putCluster s i x).svcRoot = s.svcRoot := rfl
@[simp] theorem putCluster_keys : (putCluster s i x).keys = s.keys := rfl
@[simp] theorem putCluster_roots : (putCluster s i x).roots = s.roots := rfl
@[simp] theorem putCluster_chains : (putCluster s i x).chains = s.chains := rfl
@[simp] theorem putCluster_ingots : (putCluster s i x).ingots = s.ingots := rfl
@[simp] theorem putCluster_reports : (putCluster s i x).reports = s.reports := rfl
@[simp] theorem putCluster_responses : (putCluster s i x).responses = s.responses := rfl
@[simp] theorem putCluster_asked : (putCluster s i x).asked = s.asked := rfl
@[simp] theorem putCluster_sessions : (putCluster s i x).sessions = s.sessions := rfl
@[simp] theorem putCluster_watches : (putCluster s i x).watches = s.watches := rfl
@[simp] theorem putCluster_strands : (putCluster s i x).strands = s.strands := rfl
@[simp] theorem putCluster_cores : (putCluster s i x).cores = s.cores := rfl
@[simp] theorem putCluster_dies : (putCluster s i x).dies = s.dies := rfl
@[simp] theorem putCluster_parts : (putCluster s i x).parts = s.parts := rfl
@[simp] theorem putCluster_tenants : (putCluster s i x).tenants = s.tenants := rfl
@[simp] theorem putCluster_ports : (putCluster s i x).ports = s.ports := rfl
@[simp] theorem putCluster_ues : (putCluster s i x).ues = s.ues := rfl
@[simp] theorem putCluster_groups : (putCluster s i x).groups = s.groups := rfl
@[simp] theorem putCluster_power : (putCluster s i x).power = s.power := rfl
@[simp] theorem putCluster_boot : (putCluster s i x).boot = s.boot := rfl
@[simp] theorem putCluster_gated : (putCluster s i x).gated = s.gated := rfl
@[simp] theorem putCluster_snap : (putCluster s i x).snap = s.snap := rfl
end

section
variable (s : State) (i : Nat) (x : Die)
@[simp] theorem putDie_now : (putDie s i x).now = s.now := rfl
@[simp] theorem putDie_supply : (putDie s i x).supply = s.supply := rfl
@[simp] theorem putDie_cur : (putDie s i x).cur = s.cur := rfl
@[simp] theorem putDie_agenda : (putDie s i x).agenda = s.agenda := rfl
@[simp] theorem putDie_draw : (putDie s i x).draw = s.draw := rfl
@[simp] theorem putDie_nextSid : (putDie s i x).nextSid = s.nextSid := rfl
@[simp] theorem putDie_mem : (putDie s i x).mem = s.mem := rfl
@[simp] theorem putDie_keyOf : (putDie s i x).keyOf = s.keyOf := rfl
@[simp] theorem putDie_leases : (putDie s i x).leases = s.leases := rfl
@[simp] theorem putDie_corrected : (putDie s i x).corrected = s.corrected := rfl
@[simp] theorem putDie_steals : (putDie s i x).steals = s.steals := rfl
@[simp] theorem putDie_peers : (putDie s i x).peers = s.peers := rfl
@[simp] theorem putDie_nextPeer : (putDie s i x).nextPeer = s.nextPeer := rfl
@[simp] theorem putDie_pending : (putDie s i x).pending = s.pending := rfl
@[simp] theorem putDie_svcRoot : (putDie s i x).svcRoot = s.svcRoot := rfl
@[simp] theorem putDie_keys : (putDie s i x).keys = s.keys := rfl
@[simp] theorem putDie_roots : (putDie s i x).roots = s.roots := rfl
@[simp] theorem putDie_chains : (putDie s i x).chains = s.chains := rfl
@[simp] theorem putDie_ingots : (putDie s i x).ingots = s.ingots := rfl
@[simp] theorem putDie_reports : (putDie s i x).reports = s.reports := rfl
@[simp] theorem putDie_responses : (putDie s i x).responses = s.responses := rfl
@[simp] theorem putDie_asked : (putDie s i x).asked = s.asked := rfl
@[simp] theorem putDie_sessions : (putDie s i x).sessions = s.sessions := rfl
@[simp] theorem putDie_watches : (putDie s i x).watches = s.watches := rfl
@[simp] theorem putDie_strands : (putDie s i x).strands = s.strands := rfl
@[simp] theorem putDie_cores : (putDie s i x).cores = s.cores := rfl
@[simp] theorem putDie_clusters : (putDie s i x).clusters = s.clusters := rfl
@[simp] theorem putDie_parts : (putDie s i x).parts = s.parts := rfl
@[simp] theorem putDie_tenants : (putDie s i x).tenants = s.tenants := rfl
@[simp] theorem putDie_ports : (putDie s i x).ports = s.ports := rfl
@[simp] theorem putDie_ues : (putDie s i x).ues = s.ues := rfl
@[simp] theorem putDie_groups : (putDie s i x).groups = s.groups := rfl
@[simp] theorem putDie_power : (putDie s i x).power = s.power := rfl
@[simp] theorem putDie_boot : (putDie s i x).boot = s.boot := rfl
@[simp] theorem putDie_gated : (putDie s i x).gated = s.gated := rfl
@[simp] theorem putDie_snap : (putDie s i x).snap = s.snap := rfl
end

section
variable (s : State) (i : Nat) (x : Partn)
@[simp] theorem putPart_now : (putPart s i x).now = s.now := rfl
@[simp] theorem putPart_supply : (putPart s i x).supply = s.supply := rfl
@[simp] theorem putPart_cur : (putPart s i x).cur = s.cur := rfl
@[simp] theorem putPart_agenda : (putPart s i x).agenda = s.agenda := rfl
@[simp] theorem putPart_draw : (putPart s i x).draw = s.draw := rfl
@[simp] theorem putPart_nextSid : (putPart s i x).nextSid = s.nextSid := rfl
@[simp] theorem putPart_mem : (putPart s i x).mem = s.mem := rfl
@[simp] theorem putPart_keyOf : (putPart s i x).keyOf = s.keyOf := rfl
@[simp] theorem putPart_leases : (putPart s i x).leases = s.leases := rfl
@[simp] theorem putPart_corrected : (putPart s i x).corrected = s.corrected := rfl
@[simp] theorem putPart_steals : (putPart s i x).steals = s.steals := rfl
@[simp] theorem putPart_peers : (putPart s i x).peers = s.peers := rfl
@[simp] theorem putPart_nextPeer : (putPart s i x).nextPeer = s.nextPeer := rfl
@[simp] theorem putPart_pending : (putPart s i x).pending = s.pending := rfl
@[simp] theorem putPart_svcRoot : (putPart s i x).svcRoot = s.svcRoot := rfl
@[simp] theorem putPart_keys : (putPart s i x).keys = s.keys := rfl
@[simp] theorem putPart_roots : (putPart s i x).roots = s.roots := rfl
@[simp] theorem putPart_chains : (putPart s i x).chains = s.chains := rfl
@[simp] theorem putPart_ingots : (putPart s i x).ingots = s.ingots := rfl
@[simp] theorem putPart_reports : (putPart s i x).reports = s.reports := rfl
@[simp] theorem putPart_responses : (putPart s i x).responses = s.responses := rfl
@[simp] theorem putPart_asked : (putPart s i x).asked = s.asked := rfl
@[simp] theorem putPart_sessions : (putPart s i x).sessions = s.sessions := rfl
@[simp] theorem putPart_watches : (putPart s i x).watches = s.watches := rfl
@[simp] theorem putPart_strands : (putPart s i x).strands = s.strands := rfl
@[simp] theorem putPart_cores : (putPart s i x).cores = s.cores := rfl
@[simp] theorem putPart_clusters : (putPart s i x).clusters = s.clusters := rfl
@[simp] theorem putPart_dies : (putPart s i x).dies = s.dies := rfl
@[simp] theorem putPart_tenants : (putPart s i x).tenants = s.tenants := rfl
@[simp] theorem putPart_ports : (putPart s i x).ports = s.ports := rfl
@[simp] theorem putPart_ues : (putPart s i x).ues = s.ues := rfl
@[simp] theorem putPart_groups : (putPart s i x).groups = s.groups := rfl
@[simp] theorem putPart_power : (putPart s i x).power = s.power := rfl
@[simp] theorem putPart_boot : (putPart s i x).boot = s.boot := rfl
@[simp] theorem putPart_gated : (putPart s i x).gated = s.gated := rfl
@[simp] theorem putPart_snap : (putPart s i x).snap = s.snap := rfl
end

section
variable (s : State) (i : Nat) (x : Port)
@[simp] theorem putPort_now : (putPort s i x).now = s.now := rfl
@[simp] theorem putPort_supply : (putPort s i x).supply = s.supply := rfl
@[simp] theorem putPort_cur : (putPort s i x).cur = s.cur := rfl
@[simp] theorem putPort_agenda : (putPort s i x).agenda = s.agenda := rfl
@[simp] theorem putPort_draw : (putPort s i x).draw = s.draw := rfl
@[simp] theorem putPort_nextSid : (putPort s i x).nextSid = s.nextSid := rfl
@[simp] theorem putPort_mem : (putPort s i x).mem = s.mem := rfl
@[simp] theorem putPort_keyOf : (putPort s i x).keyOf = s.keyOf := rfl
@[simp] theorem putPort_leases : (putPort s i x).leases = s.leases := rfl
@[simp] theorem putPort_corrected : (putPort s i x).corrected = s.corrected := rfl
@[simp] theorem putPort_steals : (putPort s i x).steals = s.steals := rfl
@[simp] theorem putPort_peers : (putPort s i x).peers = s.peers := rfl
@[simp] theorem putPort_nextPeer : (putPort s i x).nextPeer = s.nextPeer := rfl
@[simp] theorem putPort_pending : (putPort s i x).pending = s.pending := rfl
@[simp] theorem putPort_svcRoot : (putPort s i x).svcRoot = s.svcRoot := rfl
@[simp] theorem putPort_keys : (putPort s i x).keys = s.keys := rfl
@[simp] theorem putPort_roots : (putPort s i x).roots = s.roots := rfl
@[simp] theorem putPort_chains : (putPort s i x).chains = s.chains := rfl
@[simp] theorem putPort_ingots : (putPort s i x).ingots = s.ingots := rfl
@[simp] theorem putPort_reports : (putPort s i x).reports = s.reports := rfl
@[simp] theorem putPort_responses : (putPort s i x).responses = s.responses := rfl
@[simp] theorem putPort_asked : (putPort s i x).asked = s.asked := rfl
@[simp] theorem putPort_sessions : (putPort s i x).sessions = s.sessions := rfl
@[simp] theorem putPort_watches : (putPort s i x).watches = s.watches := rfl
@[simp] theorem putPort_strands : (putPort s i x).strands = s.strands := rfl
@[simp] theorem putPort_cores : (putPort s i x).cores = s.cores := rfl
@[simp] theorem putPort_clusters : (putPort s i x).clusters = s.clusters := rfl
@[simp] theorem putPort_dies : (putPort s i x).dies = s.dies := rfl
@[simp] theorem putPort_parts : (putPort s i x).parts = s.parts := rfl
@[simp] theorem putPort_tenants : (putPort s i x).tenants = s.tenants := rfl
@[simp] theorem putPort_ues : (putPort s i x).ues = s.ues := rfl
@[simp] theorem putPort_groups : (putPort s i x).groups = s.groups := rfl
@[simp] theorem putPort_power : (putPort s i x).power = s.power := rfl
@[simp] theorem putPort_boot : (putPort s i x).boot = s.boot := rfl
@[simp] theorem putPort_gated : (putPort s i x).gated = s.gated := rfl
@[simp] theorem putPort_snap : (putPort s i x).snap = s.snap := rfl
end

section
variable (s : State) (i : Nat) (x : Chain)
@[simp] theorem putChain_now : (putChain s i x).now = s.now := rfl
@[simp] theorem putChain_supply : (putChain s i x).supply = s.supply := rfl
@[simp] theorem putChain_cur : (putChain s i x).cur = s.cur := rfl
@[simp] theorem putChain_agenda : (putChain s i x).agenda = s.agenda := rfl
@[simp] theorem putChain_draw : (putChain s i x).draw = s.draw := rfl
@[simp] theorem putChain_nextSid : (putChain s i x).nextSid = s.nextSid := rfl
@[simp] theorem putChain_mem : (putChain s i x).mem = s.mem := rfl
@[simp] theorem putChain_keyOf : (putChain s i x).keyOf = s.keyOf := rfl
@[simp] theorem putChain_leases : (putChain s i x).leases = s.leases := rfl
@[simp] theorem putChain_corrected : (putChain s i x).corrected = s.corrected := rfl
@[simp] theorem putChain_steals : (putChain s i x).steals = s.steals := rfl
@[simp] theorem putChain_peers : (putChain s i x).peers = s.peers := rfl
@[simp] theorem putChain_nextPeer : (putChain s i x).nextPeer = s.nextPeer := rfl
@[simp] theorem putChain_pending : (putChain s i x).pending = s.pending := rfl
@[simp] theorem putChain_svcRoot : (putChain s i x).svcRoot = s.svcRoot := rfl
@[simp] theorem putChain_keys : (putChain s i x).keys = s.keys := rfl
@[simp] theorem putChain_roots : (putChain s i x).roots = s.roots := rfl
@[simp] theorem putChain_ingots : (putChain s i x).ingots = s.ingots := rfl
@[simp] theorem putChain_reports : (putChain s i x).reports = s.reports := rfl
@[simp] theorem putChain_responses : (putChain s i x).responses = s.responses := rfl
@[simp] theorem putChain_asked : (putChain s i x).asked = s.asked := rfl
@[simp] theorem putChain_sessions : (putChain s i x).sessions = s.sessions := rfl
@[simp] theorem putChain_watches : (putChain s i x).watches = s.watches := rfl
@[simp] theorem putChain_strands : (putChain s i x).strands = s.strands := rfl
@[simp] theorem putChain_cores : (putChain s i x).cores = s.cores := rfl
@[simp] theorem putChain_clusters : (putChain s i x).clusters = s.clusters := rfl
@[simp] theorem putChain_dies : (putChain s i x).dies = s.dies := rfl
@[simp] theorem putChain_parts : (putChain s i x).parts = s.parts := rfl
@[simp] theorem putChain_tenants : (putChain s i x).tenants = s.tenants := rfl
@[simp] theorem putChain_ports : (putChain s i x).ports = s.ports := rfl
@[simp] theorem putChain_ues : (putChain s i x).ues = s.ues := rfl
@[simp] theorem putChain_groups : (putChain s i x).groups = s.groups := rfl
@[simp] theorem putChain_power : (putChain s i x).power = s.power := rfl
@[simp] theorem putChain_boot : (putChain s i x).boot = s.boot := rfl
@[simp] theorem putChain_gated : (putChain s i x).gated = s.gated := rfl
@[simp] theorem putChain_snap : (putChain s i x).snap = s.snap := rfl
end

/-! ### Accessors after an update -/

@[simp] theorem getCore_putStrand (s : State) (i j : Nat) (x : Strand) (c : Nat) : getCore (putStrand s i j x) c = getCore s c := rfl
@[simp] theorem getCluster_putStrand (s : State) (i j : Nat) (x : Strand) (c : Nat) : getCluster (putStrand s i j x) c = getCluster s c := rfl
@[simp] theorem getDie_putStrand (s : State) (i j : Nat) (x : Strand) (c : Nat) : getDie (putStrand s i j x) c = getDie s c := rfl
@[simp] theorem getPart_putStrand (s : State) (i j : Nat) (x : Strand) (c : Nat) : getPart (putStrand s i j x) c = getPart s c := rfl
@[simp] theorem getTenant_putStrand (s : State) (i j : Nat) (x : Strand) (c : Nat) : getTenant (putStrand s i j x) c = getTenant s c := rfl
@[simp] theorem getPort_putStrand (s : State) (i j : Nat) (x : Strand) (c : Nat) : getPort (putStrand s i j x) c = getPort s c := rfl
@[simp] theorem getUe_putStrand (s : State) (i j : Nat) (x : Strand) (c : Nat) : getUe (putStrand s i j x) c = getUe s c := rfl
@[simp] theorem getChain_putStrand (s : State) (i j : Nat) (x : Strand) (c : Nat) : getChain (putStrand s i j x) c = getChain s c := rfl
@[simp] theorem getStrand_putCore (s : State) (i : Nat) (x : CoreSt) (c l : Nat) : getStrand (putCore s i x) c l = getStrand s c l := rfl
@[simp] theorem getCluster_putCore (s : State) (i : Nat) (x : CoreSt) (c : Nat) : getCluster (putCore s i x) c = getCluster s c := rfl
@[simp] theorem getDie_putCore (s : State) (i : Nat) (x : CoreSt) (c : Nat) : getDie (putCore s i x) c = getDie s c := rfl
@[simp] theorem getPart_putCore (s : State) (i : Nat) (x : CoreSt) (c : Nat) : getPart (putCore s i x) c = getPart s c := rfl
@[simp] theorem getTenant_putCore (s : State) (i : Nat) (x : CoreSt) (c : Nat) : getTenant (putCore s i x) c = getTenant s c := rfl
@[simp] theorem getPort_putCore (s : State) (i : Nat) (x : CoreSt) (c : Nat) : getPort (putCore s i x) c = getPort s c := rfl
@[simp] theorem getUe_putCore (s : State) (i : Nat) (x : CoreSt) (c : Nat) : getUe (putCore s i x) c = getUe s c := rfl
@[simp] theorem getChain_putCore (s : State) (i : Nat) (x : CoreSt) (c : Nat) : getChain (putCore s i x) c = getChain s c := rfl
@[simp] theorem getStrand_putCluster (s : State) (i : Nat) (x : Cluster) (c l : Nat) : getStrand (putCluster s i x) c l = getStrand s c l := rfl
@[simp] theorem getCore_putCluster (s : State) (i : Nat) (x : Cluster) (c : Nat) : getCore (putCluster s i x) c = getCore s c := rfl
@[simp] theorem getDie_putCluster (s : State) (i : Nat) (x : Cluster) (c : Nat) : getDie (putCluster s i x) c = getDie s c := rfl
@[simp] theorem getPart_putCluster (s : State) (i : Nat) (x : Cluster) (c : Nat) : getPart (putCluster s i x) c = getPart s c := rfl
@[simp] theorem getTenant_putCluster (s : State) (i : Nat) (x : Cluster) (c : Nat) : getTenant (putCluster s i x) c = getTenant s c := rfl
@[simp] theorem getPort_putCluster (s : State) (i : Nat) (x : Cluster) (c : Nat) : getPort (putCluster s i x) c = getPort s c := rfl
@[simp] theorem getUe_putCluster (s : State) (i : Nat) (x : Cluster) (c : Nat) : getUe (putCluster s i x) c = getUe s c := rfl
@[simp] theorem getChain_putCluster (s : State) (i : Nat) (x : Cluster) (c : Nat) : getChain (putCluster s i x) c = getChain s c := rfl
@[simp] theorem getStrand_putDie (s : State) (i : Nat) (x : Die) (c l : Nat) : getStrand (putDie s i x) c l = getStrand s c l := rfl
@[simp] theorem getCore_putDie (s : State) (i : Nat) (x : Die) (c : Nat) : getCore (putDie s i x) c = getCore s c := rfl
@[simp] theorem getCluster_putDie (s : State) (i : Nat) (x : Die) (c : Nat) : getCluster (putDie s i x) c = getCluster s c := rfl
@[simp] theorem getPart_putDie (s : State) (i : Nat) (x : Die) (c : Nat) : getPart (putDie s i x) c = getPart s c := rfl
@[simp] theorem getTenant_putDie (s : State) (i : Nat) (x : Die) (c : Nat) : getTenant (putDie s i x) c = getTenant s c := rfl
@[simp] theorem getPort_putDie (s : State) (i : Nat) (x : Die) (c : Nat) : getPort (putDie s i x) c = getPort s c := rfl
@[simp] theorem getUe_putDie (s : State) (i : Nat) (x : Die) (c : Nat) : getUe (putDie s i x) c = getUe s c := rfl
@[simp] theorem getChain_putDie (s : State) (i : Nat) (x : Die) (c : Nat) : getChain (putDie s i x) c = getChain s c := rfl
@[simp] theorem getStrand_putPart (s : State) (i : Nat) (x : Partn) (c l : Nat) : getStrand (putPart s i x) c l = getStrand s c l := rfl
@[simp] theorem getCore_putPart (s : State) (i : Nat) (x : Partn) (c : Nat) : getCore (putPart s i x) c = getCore s c := rfl
@[simp] theorem getCluster_putPart (s : State) (i : Nat) (x : Partn) (c : Nat) : getCluster (putPart s i x) c = getCluster s c := rfl
@[simp] theorem getDie_putPart (s : State) (i : Nat) (x : Partn) (c : Nat) : getDie (putPart s i x) c = getDie s c := rfl
@[simp] theorem getTenant_putPart (s : State) (i : Nat) (x : Partn) (c : Nat) : getTenant (putPart s i x) c = getTenant s c := rfl
@[simp] theorem getPort_putPart (s : State) (i : Nat) (x : Partn) (c : Nat) : getPort (putPart s i x) c = getPort s c := rfl
@[simp] theorem getUe_putPart (s : State) (i : Nat) (x : Partn) (c : Nat) : getUe (putPart s i x) c = getUe s c := rfl
@[simp] theorem getChain_putPart (s : State) (i : Nat) (x : Partn) (c : Nat) : getChain (putPart s i x) c = getChain s c := rfl
@[simp] theorem getStrand_putPort (s : State) (i : Nat) (x : Port) (c l : Nat) : getStrand (putPort s i x) c l = getStrand s c l := rfl
@[simp] theorem getCore_putPort (s : State) (i : Nat) (x : Port) (c : Nat) : getCore (putPort s i x) c = getCore s c := rfl
@[simp] theorem getCluster_putPort (s : State) (i : Nat) (x : Port) (c : Nat) : getCluster (putPort s i x) c = getCluster s c := rfl
@[simp] theorem getDie_putPort (s : State) (i : Nat) (x : Port) (c : Nat) : getDie (putPort s i x) c = getDie s c := rfl
@[simp] theorem getPart_putPort (s : State) (i : Nat) (x : Port) (c : Nat) : getPart (putPort s i x) c = getPart s c := rfl
@[simp] theorem getTenant_putPort (s : State) (i : Nat) (x : Port) (c : Nat) : getTenant (putPort s i x) c = getTenant s c := rfl
@[simp] theorem getUe_putPort (s : State) (i : Nat) (x : Port) (c : Nat) : getUe (putPort s i x) c = getUe s c := rfl
@[simp] theorem getChain_putPort (s : State) (i : Nat) (x : Port) (c : Nat) : getChain (putPort s i x) c = getChain s c := rfl
@[simp] theorem getStrand_putChain (s : State) (i : Nat) (x : Chain) (c l : Nat) : getStrand (putChain s i x) c l = getStrand s c l := rfl
@[simp] theorem getCore_putChain (s : State) (i : Nat) (x : Chain) (c : Nat) : getCore (putChain s i x) c = getCore s c := rfl
@[simp] theorem getCluster_putChain (s : State) (i : Nat) (x : Chain) (c : Nat) : getCluster (putChain s i x) c = getCluster s c := rfl
@[simp] theorem getDie_putChain (s : State) (i : Nat) (x : Chain) (c : Nat) : getDie (putChain s i x) c = getDie s c := rfl
@[simp] theorem getPart_putChain (s : State) (i : Nat) (x : Chain) (c : Nat) : getPart (putChain s i x) c = getPart s c := rfl
@[simp] theorem getTenant_putChain (s : State) (i : Nat) (x : Chain) (c : Nat) : getTenant (putChain s i x) c = getTenant s c := rfl
@[simp] theorem getPort_putChain (s : State) (i : Nat) (x : Chain) (c : Nat) : getPort (putChain s i x) c = getPort s c := rfl
@[simp] theorem getUe_putChain (s : State) (i : Nat) (x : Chain) (c : Nat) : getUe (putChain s i x) c = getUe s c := rfl

@[simp] theorem getStrand_putStrand_self (s : State) (c l : Nat) (x : Strand) : getStrand (putStrand s c l x) c l = x :=
  nget_nset_self ..
theorem getStrand_putStrand_other (s : State) {c l i j : Nat} (x : Strand) (h : i * 8 + j ≠ c * 8 + l) :
    getStrand (putStrand s c l x) i j = getStrand s i j := nget_nset_other _ _ _ h
@[simp] theorem putStrand_putStrand_self (s : State) (c l : Nat) (x y : Strand) :
    putStrand (putStrand s c l x) c l y = putStrand s c l y := by simp [putStrand]
@[simp] theorem getCore_putCore_self (s : State) (i : Nat) (x : CoreSt) : getCore (putCore s i x) i = x := nget_nset_self ..
theorem getCore_putCore_other (s : State) {i j : Nat} (x : CoreSt) (h : j ≠ i) : getCore (putCore s i x) j = getCore s j :=
  nget_nset_other _ _ _ h
@[simp] theorem getCluster_putCluster_self (s : State) (i : Nat) (x : Cluster) : getCluster (putCluster s i x) i = x := nget_nset_self ..
theorem getCluster_putCluster_other (s : State) {i j : Nat} (x : Cluster) (h : j ≠ i) : getCluster (putCluster s i x) j = getCluster s j :=
  nget_nset_other _ _ _ h
@[simp] theorem getDie_putDie_self (s : State) (i : Nat) (x : Die) : getDie (putDie s i x) i = x := nget_nset_self ..
theorem getDie_putDie_other (s : State) {i j : Nat} (x : Die) (h : j ≠ i) : getDie (putDie s i x) j = getDie s j :=
  nget_nset_other _ _ _ h
@[simp] theorem getPart_putPart_self (s : State) (i : Nat) (x : Partn) : getPart (putPart s i x) i = x := nget_nset_self ..
theorem getPart_putPart_other (s : State) {i j : Nat} (x : Partn) (h : j ≠ i) : getPart (putPart s i x) j = getPart s j :=
  nget_nset_other _ _ _ h
@[simp] theorem getPort_putPort_self (s : State) (i : Nat) (x : Port) : getPort (putPort s i x) i = x := nget_nset_self ..
theorem getPort_putPort_other (s : State) {i j : Nat} (x : Port) (h : j ≠ i) : getPort (putPort s i x) j = getPort s j :=
  nget_nset_other _ _ _ h
@[simp] theorem getChain_putChain_self (s : State) (i : Nat) (x : Chain) : getChain (putChain s i x) i = x := nget_nset_self ..
theorem getChain_putChain_other (s : State) {i j : Nat} (x : Chain) (h : j ≠ i) : getChain (putChain s i x) j = getChain s j :=
  nget_nset_other _ _ _ h

@[simp] theorem turn_withTurn (s : State) (t : Strand) : turn (withTurn s t) = t := getStrand_putStrand_self ..
@[simp] theorem turnCore_withTurn (s : State) (t : Strand) : turnCore (withTurn s t) = turnCore s := rfl
@[simp] theorem withTurn_withTurn (s : State) (t u : Strand) : withTurn (withTurn s t) u = withTurn s u :=
  putStrand_putStrand_self ..

/-! ### Changing a part is putting the changed part -/

@[simp] theorem onStrand_eq (s : State) (c l : Nat) (f : Strand → Strand) :
    onStrand s c l f = putStrand s c l (f (getStrand s c l)) := rfl
@[simp] theorem onCore_eq (s : State) (c : Nat) (f : CoreSt → CoreSt) : onCore s c f = putCore s c (f (getCore s c)) := rfl
@[simp] theorem onCluster_eq (s : State) (c : Nat) (f : Cluster → Cluster) :
    onCluster s c f = putCluster s c (f (getCluster s c)) := rfl
@[simp] theorem onDie_eq (s : State) (c : Nat) (f : Die → Die) : onDie s c f = putDie s c (f (getDie s c)) := rfl
@[simp] theorem onPart_eq (s : State) (c : Nat) (f : Partn → Partn) : onPart s c f = putPart s c (f (getPart s c)) := rfl

/-! ### The registers of a strand -/

@[simp] theorem rdG_zero (t : Strand) : rdG t 0 = 0 := by simp [rdG]
@[simp] theorem rdK_zero (t : Strand) : rdK t 0 = true := by simp [rdK]
/-- Writes to g0 and k0 are ignored (R77). -/
@[simp] theorem wrG_zero (t : Strand) (x : Word) : wrG t 0 x = t := by simp [wrG]
@[simp] theorem wrK_zero (t : Strand) (x : Bool) : wrK t 0 x = t := by simp [wrK]

theorem rdG_wrG_self (t : Strand) {n : Fin 64} (x : Word) (h : n ≠ 0) : rdG (wrG t n x) n = x := by simp [rdG, wrG, h]
theorem rdG_wrG_other (t : Strand) {m n : Fin 64} (x : Word) (h : m ≠ n) : rdG (wrG t n x) m = rdG t m := by
  unfold rdG wrG
  split_ifs <;> first | rfl | skip
  have hv : n.val ≠ m.val := fun e => h (Fin.ext e.symm)
  exact Vector.getElem_set_ne n.isLt m.isLt hv
@[simp] theorem rdV_wrV_self (t : Strand) (n : Fin 32) (x : VWord) : rdV (wrV t n x) n = x := by simp [rdV, wrV]
theorem rdV_wrV_other (t : Strand) {m n : Fin 32} (x : VWord) (h : m ≠ n) : rdV (wrV t n x) m = rdV t m :=
  Vector.getElem_set_ne n.isLt m.isLt fun e => h (Fin.ext e.symm)
theorem rdK_wrK_self (t : Strand) {n : Fin 8} (x : Bool) (h : n ≠ 0) : rdK (wrK t n x) n = x := by simp [rdK, wrK, h]
theorem rdK_wrK_other (t : Strand) {m n : Fin 8} (x : Bool) (h : m ≠ n) : rdK (wrK t n x) m = rdK t m := by
  unfold rdK wrK
  split_ifs <;> first | rfl | skip
  have hv : n.val ≠ m.val := fun e => h (Fin.ext e.symm)
  exact Vector.getElem_set_ne n.isLt m.isLt hv
@[simp] theorem rdJ_wrJ_self (t : Strand) (n : Fin 8) (x : BitVec 16) : rdJ (wrJ t n x) n = x := by simp [rdJ, wrJ]
theorem rdJ_wrJ_other (t : Strand) {m n : Fin 8} (x : BitVec 16) (h : m ≠ n) : rdJ (wrJ t n x) m = rdJ t m :=
  Vector.getElem_set_ne n.isLt m.isLt fun e => h (Fin.ext e.symm)

section
variable (t : Strand) (n : Fin 64) (x : Word)
@[simp] theorem wrG_live : (wrG t n x).live = t.live := by unfold wrG; split <;> rfl
@[simp] theorem wrG_pc : (wrG t n x).pc = t.pc := by unfold wrG; split <;> rfl
@[simp] theorem wrG_v : (wrG t n x).v = t.v := by unfold wrG; split <;> rfl
@[simp] theorem wrG_k : (wrG t n x).k = t.k := by unfold wrG; split <;> rfl
@[simp] theorem wrG_j : (wrG t n x).j = t.j := by unfold wrG; split <;> rfl
@[simp] theorem wrG_frame : (wrG t n x).frame = t.frame := by unfold wrG; split <;> rfl
@[simp] theorem wrG_node : (wrG t n x).node = t.node := by unfold wrG; split <;> rfl
@[simp] theorem wrG_rlo : (wrG t n x).rlo = t.rlo := by unfold wrG; split <;> rfl
@[simp] theorem wrG_rhi : (wrG t n x).rhi = t.rhi := by unfold wrG; split <;> rfl
@[simp] theorem wrG_srstate : (wrG t n x).srstate = t.srstate := by unfold wrG; split <;> rfl
@[simp] theorem wrG_intrap : (wrG t n x).intrap = t.intrap := by unfold wrG; split <;> rfl
@[simp] theorem wrG_cause : (wrG t n x).cause = t.cause := by unfold wrG; split <;> rfl
@[simp] theorem wrG_epc : (wrG t n x).epc = t.epc := by unfold wrG; split <;> rfl
@[simp] theorem wrG_tval : (wrG t n x).tval = t.tval := by unfold wrG; split <;> rfl
@[simp] theorem wrG_tvec : (wrG t n x).tvec = t.tvec := by unfold wrG; split <;> rfl
@[simp] theorem wrG_eopd : (wrG t n x).eopd = t.eopd := by unfold wrG; split <;> rfl
@[simp] theorem wrG_kind : (wrG t n x).kind = t.kind := by unfold wrG; split <;> rfl
@[simp] theorem wrG_pri : (wrG t n x).pri = t.pri := by unfold wrG; split <;> rfl
@[simp] theorem wrG_kidx : (wrG t n x).kidx = t.kidx := by unfold wrG; split <;> rfl
@[simp] theorem wrG_grain : (wrG t n x).grain = t.grain := by unfold wrG; split <;> rfl
@[simp] theorem wrG_entry : (wrG t n x).entry = t.entry := by unfold wrG; split <;> rfl
@[simp] theorem wrG_stage : (wrG t n x).stage = t.stage := by unfold wrG; split <;> rfl
@[simp] theorem wrG_mon : (wrG t n x).mon = t.mon := by unfold wrG; split <;> rfl
@[simp] theorem wrG_status : (wrG t n x).status = t.status := by unfold wrG; split <;> rfl
@[simp] theorem wrG_readySince : (wrG t n x).readySince = t.readySince := by unfold wrG; split <;> rfl
@[simp] theorem wrG_eligible : (wrG t n x).eligible = t.eligible := by unfold wrG; split <;> rfl
@[simp] theorem wrG_tgtPending : (wrG t n x).tgtPending = t.tgtPending := by unfold wrG; split <;> rfl
@[simp] theorem wrG_badLine : (wrG t n x).badLine = t.badLine := by unfold wrG; split <;> rfl
@[simp] theorem wrG_redFault : (wrG t n x).redFault = t.redFault := by unfold wrG; split <;> rfl
@[simp] theorem wrG_issued : (wrG t n x).issued = t.issued := by unfold wrG; split <;> rfl
@[simp] theorem wrG_reported : (wrG t n x).reported = t.reported := by unfold wrG; split <;> rfl
@[simp] theorem wrG_sid : (wrG t n x).sid = t.sid := by unfold wrG; split <;> rfl
end

section
variable (t : Strand) (n : Fin 32) (x : VWord)
@[simp] theorem wrV_live : (wrV t n x).live = t.live := rfl
@[simp] theorem wrV_pc : (wrV t n x).pc = t.pc := rfl
@[simp] theorem wrV_g : (wrV t n x).g = t.g := rfl
@[simp] theorem wrV_k : (wrV t n x).k = t.k := rfl
@[simp] theorem wrV_j : (wrV t n x).j = t.j := rfl
@[simp] theorem wrV_frame : (wrV t n x).frame = t.frame := rfl
@[simp] theorem wrV_node : (wrV t n x).node = t.node := rfl
@[simp] theorem wrV_rlo : (wrV t n x).rlo = t.rlo := rfl
@[simp] theorem wrV_rhi : (wrV t n x).rhi = t.rhi := rfl
@[simp] theorem wrV_srstate : (wrV t n x).srstate = t.srstate := rfl
@[simp] theorem wrV_intrap : (wrV t n x).intrap = t.intrap := rfl
@[simp] theorem wrV_cause : (wrV t n x).cause = t.cause := rfl
@[simp] theorem wrV_epc : (wrV t n x).epc = t.epc := rfl
@[simp] theorem wrV_tval : (wrV t n x).tval = t.tval := rfl
@[simp] theorem wrV_tvec : (wrV t n x).tvec = t.tvec := rfl
@[simp] theorem wrV_eopd : (wrV t n x).eopd = t.eopd := rfl
@[simp] theorem wrV_kind : (wrV t n x).kind = t.kind := rfl
@[simp] theorem wrV_pri : (wrV t n x).pri = t.pri := rfl
@[simp] theorem wrV_kidx : (wrV t n x).kidx = t.kidx := rfl
@[simp] theorem wrV_grain : (wrV t n x).grain = t.grain := rfl
@[simp] theorem wrV_entry : (wrV t n x).entry = t.entry := rfl
@[simp] theorem wrV_stage : (wrV t n x).stage = t.stage := rfl
@[simp] theorem wrV_mon : (wrV t n x).mon = t.mon := rfl
@[simp] theorem wrV_status : (wrV t n x).status = t.status := rfl
@[simp] theorem wrV_readySince : (wrV t n x).readySince = t.readySince := rfl
@[simp] theorem wrV_eligible : (wrV t n x).eligible = t.eligible := rfl
@[simp] theorem wrV_tgtPending : (wrV t n x).tgtPending = t.tgtPending := rfl
@[simp] theorem wrV_badLine : (wrV t n x).badLine = t.badLine := rfl
@[simp] theorem wrV_redFault : (wrV t n x).redFault = t.redFault := rfl
@[simp] theorem wrV_issued : (wrV t n x).issued = t.issued := rfl
@[simp] theorem wrV_reported : (wrV t n x).reported = t.reported := rfl
@[simp] theorem wrV_sid : (wrV t n x).sid = t.sid := rfl
end

section
variable (t : Strand) (n : Fin 8) (x : Bool)
@[simp] theorem wrK_live : (wrK t n x).live = t.live := by unfold wrK; split <;> rfl
@[simp] theorem wrK_pc : (wrK t n x).pc = t.pc := by unfold wrK; split <;> rfl
@[simp] theorem wrK_g : (wrK t n x).g = t.g := by unfold wrK; split <;> rfl
@[simp] theorem wrK_v : (wrK t n x).v = t.v := by unfold wrK; split <;> rfl
@[simp] theorem wrK_j : (wrK t n x).j = t.j := by unfold wrK; split <;> rfl
@[simp] theorem wrK_frame : (wrK t n x).frame = t.frame := by unfold wrK; split <;> rfl
@[simp] theorem wrK_node : (wrK t n x).node = t.node := by unfold wrK; split <;> rfl
@[simp] theorem wrK_rlo : (wrK t n x).rlo = t.rlo := by unfold wrK; split <;> rfl
@[simp] theorem wrK_rhi : (wrK t n x).rhi = t.rhi := by unfold wrK; split <;> rfl
@[simp] theorem wrK_srstate : (wrK t n x).srstate = t.srstate := by unfold wrK; split <;> rfl
@[simp] theorem wrK_intrap : (wrK t n x).intrap = t.intrap := by unfold wrK; split <;> rfl
@[simp] theorem wrK_cause : (wrK t n x).cause = t.cause := by unfold wrK; split <;> rfl
@[simp] theorem wrK_epc : (wrK t n x).epc = t.epc := by unfold wrK; split <;> rfl
@[simp] theorem wrK_tval : (wrK t n x).tval = t.tval := by unfold wrK; split <;> rfl
@[simp] theorem wrK_tvec : (wrK t n x).tvec = t.tvec := by unfold wrK; split <;> rfl
@[simp] theorem wrK_eopd : (wrK t n x).eopd = t.eopd := by unfold wrK; split <;> rfl
@[simp] theorem wrK_kind : (wrK t n x).kind = t.kind := by unfold wrK; split <;> rfl
@[simp] theorem wrK_pri : (wrK t n x).pri = t.pri := by unfold wrK; split <;> rfl
@[simp] theorem wrK_kidx : (wrK t n x).kidx = t.kidx := by unfold wrK; split <;> rfl
@[simp] theorem wrK_grain : (wrK t n x).grain = t.grain := by unfold wrK; split <;> rfl
@[simp] theorem wrK_entry : (wrK t n x).entry = t.entry := by unfold wrK; split <;> rfl
@[simp] theorem wrK_stage : (wrK t n x).stage = t.stage := by unfold wrK; split <;> rfl
@[simp] theorem wrK_mon : (wrK t n x).mon = t.mon := by unfold wrK; split <;> rfl
@[simp] theorem wrK_status : (wrK t n x).status = t.status := by unfold wrK; split <;> rfl
@[simp] theorem wrK_readySince : (wrK t n x).readySince = t.readySince := by unfold wrK; split <;> rfl
@[simp] theorem wrK_eligible : (wrK t n x).eligible = t.eligible := by unfold wrK; split <;> rfl
@[simp] theorem wrK_tgtPending : (wrK t n x).tgtPending = t.tgtPending := by unfold wrK; split <;> rfl
@[simp] theorem wrK_badLine : (wrK t n x).badLine = t.badLine := by unfold wrK; split <;> rfl
@[simp] theorem wrK_redFault : (wrK t n x).redFault = t.redFault := by unfold wrK; split <;> rfl
@[simp] theorem wrK_issued : (wrK t n x).issued = t.issued := by unfold wrK; split <;> rfl
@[simp] theorem wrK_reported : (wrK t n x).reported = t.reported := by unfold wrK; split <;> rfl
@[simp] theorem wrK_sid : (wrK t n x).sid = t.sid := by unfold wrK; split <;> rfl
end

section
variable (t : Strand) (n : Fin 8) (x : BitVec 16)
@[simp] theorem wrJ_live : (wrJ t n x).live = t.live := rfl
@[simp] theorem wrJ_pc : (wrJ t n x).pc = t.pc := rfl
@[simp] theorem wrJ_g : (wrJ t n x).g = t.g := rfl
@[simp] theorem wrJ_v : (wrJ t n x).v = t.v := rfl
@[simp] theorem wrJ_k : (wrJ t n x).k = t.k := rfl
@[simp] theorem wrJ_frame : (wrJ t n x).frame = t.frame := rfl
@[simp] theorem wrJ_node : (wrJ t n x).node = t.node := rfl
@[simp] theorem wrJ_rlo : (wrJ t n x).rlo = t.rlo := rfl
@[simp] theorem wrJ_rhi : (wrJ t n x).rhi = t.rhi := rfl
@[simp] theorem wrJ_srstate : (wrJ t n x).srstate = t.srstate := rfl
@[simp] theorem wrJ_intrap : (wrJ t n x).intrap = t.intrap := rfl
@[simp] theorem wrJ_cause : (wrJ t n x).cause = t.cause := rfl
@[simp] theorem wrJ_epc : (wrJ t n x).epc = t.epc := rfl
@[simp] theorem wrJ_tval : (wrJ t n x).tval = t.tval := rfl
@[simp] theorem wrJ_tvec : (wrJ t n x).tvec = t.tvec := rfl
@[simp] theorem wrJ_eopd : (wrJ t n x).eopd = t.eopd := rfl
@[simp] theorem wrJ_kind : (wrJ t n x).kind = t.kind := rfl
@[simp] theorem wrJ_pri : (wrJ t n x).pri = t.pri := rfl
@[simp] theorem wrJ_kidx : (wrJ t n x).kidx = t.kidx := rfl
@[simp] theorem wrJ_grain : (wrJ t n x).grain = t.grain := rfl
@[simp] theorem wrJ_entry : (wrJ t n x).entry = t.entry := rfl
@[simp] theorem wrJ_stage : (wrJ t n x).stage = t.stage := rfl
@[simp] theorem wrJ_mon : (wrJ t n x).mon = t.mon := rfl
@[simp] theorem wrJ_status : (wrJ t n x).status = t.status := rfl
@[simp] theorem wrJ_readySince : (wrJ t n x).readySince = t.readySince := rfl
@[simp] theorem wrJ_eligible : (wrJ t n x).eligible = t.eligible := rfl
@[simp] theorem wrJ_tgtPending : (wrJ t n x).tgtPending = t.tgtPending := rfl
@[simp] theorem wrJ_badLine : (wrJ t n x).badLine = t.badLine := rfl
@[simp] theorem wrJ_redFault : (wrJ t n x).redFault = t.redFault := rfl
@[simp] theorem wrJ_issued : (wrJ t n x).issued = t.issued := rfl
@[simp] theorem wrJ_reported : (wrJ t n x).reported = t.reported := rfl
@[simp] theorem wrJ_sid : (wrJ t n x).sid = t.sid := rfl
end

@[simp] theorem advanced_live (t : Strand) : (advanced t).live = t.live := rfl
@[simp] theorem advanced_g (t : Strand) : (advanced t).g = t.g := rfl
@[simp] theorem advanced_v (t : Strand) : (advanced t).v = t.v := rfl
@[simp] theorem advanced_k (t : Strand) : (advanced t).k = t.k := rfl
@[simp] theorem advanced_j (t : Strand) : (advanced t).j = t.j := rfl
@[simp] theorem advanced_frame (t : Strand) : (advanced t).frame = t.frame := rfl
@[simp] theorem advanced_node (t : Strand) : (advanced t).node = t.node := rfl
@[simp] theorem advanced_rlo (t : Strand) : (advanced t).rlo = t.rlo := rfl
@[simp] theorem advanced_rhi (t : Strand) : (advanced t).rhi = t.rhi := rfl
@[simp] theorem advanced_srstate (t : Strand) : (advanced t).srstate = t.srstate := rfl
@[simp] theorem advanced_intrap (t : Strand) : (advanced t).intrap = t.intrap := rfl
@[simp] theorem advanced_cause (t : Strand) : (advanced t).cause = t.cause := rfl
@[simp] theorem advanced_epc (t : Strand) : (advanced t).epc = t.epc := rfl
@[simp] theorem advanced_tval (t : Strand) : (advanced t).tval = t.tval := rfl
@[simp] theorem advanced_tvec (t : Strand) : (advanced t).tvec = t.tvec := rfl
@[simp] theorem advanced_eopd (t : Strand) : (advanced t).eopd = t.eopd := rfl
@[simp] theorem advanced_kind (t : Strand) : (advanced t).kind = t.kind := rfl
@[simp] theorem advanced_pri (t : Strand) : (advanced t).pri = t.pri := rfl
@[simp] theorem advanced_kidx (t : Strand) : (advanced t).kidx = t.kidx := rfl
@[simp] theorem advanced_grain (t : Strand) : (advanced t).grain = t.grain := rfl
@[simp] theorem advanced_entry (t : Strand) : (advanced t).entry = t.entry := rfl
@[simp] theorem advanced_stage (t : Strand) : (advanced t).stage = t.stage := rfl
@[simp] theorem advanced_mon (t : Strand) : (advanced t).mon = t.mon := rfl
@[simp] theorem advanced_readySince (t : Strand) : (advanced t).readySince = t.readySince := rfl
@[simp] theorem advanced_eligible (t : Strand) : (advanced t).eligible = t.eligible := rfl
@[simp] theorem advanced_tgtPending (t : Strand) : (advanced t).tgtPending = t.tgtPending := rfl
@[simp] theorem advanced_badLine (t : Strand) : (advanced t).badLine = t.badLine := rfl
@[simp] theorem advanced_redFault (t : Strand) : (advanced t).redFault = t.redFault := rfl
@[simp] theorem advanced_issued (t : Strand) : (advanced t).issued = t.issued := rfl
@[simp] theorem advanced_reported (t : Strand) : (advanced t).reported = t.reported := rfl
@[simp] theorem advanced_sid (t : Strand) : (advanced t).sid = t.sid := rfl
@[simp] theorem advanced_pc (t : Strand) : (advanced t).pc = nextPc t.pc := rfl
@[simp] theorem advanced_status (t : Strand) : (advanced t).status = .ready := rfl

end Sys2Proof.Machine
end

