-- ==== Sys2Proof/Laws/Ops.lean ====
section
/-! SUPPORT. What each shared operation can do: the frame of an instruction (04 R78, R80, R81), taking a trap and returning
from one (09 R206, R207), and how every instruction of the table runs in that frame. -/

namespace Sys2Proof.Machine

/-! ### The frame of an instruction -/

/-- An instruction whose operands are allocated and whose guard holds does its body. -/
theorem frame_runs {s : State} {gd : Guard} {names : List Named} (h : Runs s gd names)
    (body : Nat → Nat → State → State) : frame gd names body s = body s.cur.core s.cur.slot s := by
  obtain ⟨h1, h2, h3⟩ := h
  unfold Allocated at h1; unfold Indexed at h3
  simp only [turn, turnCore] at *
  simp [frame, h1, h2, h3]

/-- One whose guard is false only moves the pc (R80). -/
theorem frame_skips {s : State} {gd : Guard} {names : List Named} (h1 : Allocated s names)
    (h2 : guardHolds (turn s) gd = false) (body : Nat → Nat → State → State) :
    frame gd names body s = withTurn s (advanced (turn s)) := by
  unfold Allocated at h1
  simp only [turn, turnCore] at *
  simp [frame, h1, h2, advance, withTurn]

/-- One that names a register beyond the allocation traps, whatever its guard (R78). -/
theorem frame_unallocated {s : State} {gd : Guard} {names : List Named} {code v : Nat}
    (h : firstFault (directFault (turnCore s).gcount (turnCore s).vcount) names = some (code, v))
    (body : Nat → Nat → State → State) : frame gd names body s = trapped s code v := by
  simp only [turnCore] at h
  simp [frame, h, trapped]

/-- One whose relative index lies beyond the allocation traps when its guard holds (R78, R79). -/
theorem frame_unindexed {s : State} {gd : Guard} {names : List Named} {code v : Nat} (h1 : Allocated s names)
    (h2 : guardHolds (turn s) gd = true)
    (h3 : firstFault (relativeFault (turnCore s).gcount (turn s)) names = some (code, v))
    (body : Nat → Nat → State → State) : frame gd names body s = trapped s code v := by
  unfold Allocated at h1
  simp only [turn, turnCore] at *
  simp [frame, h1, h2, h3, trapped]

theorem guarded_runs {s : State} {gd : Guard} {names : List Named} (h : Runs s gd names)
    (body : Nat → Nat → State → State) : guarded gd names body s = .next (body s.cur.core s.cur.slot s) := by
  rw [guarded, frame_runs h]

theorem regOp_runs {s : State} {gd : Guard} {names : List Named} (h : Runs s gd names) (f : Strand → Strand) :
    regOp gd names f s = .next (withTurn s (advanced (f (turn s)))) := by
  rw [regOp, guarded_runs h]; rfl

theorem checkedOp_runs {s : State} {gd : Guard} {names : List Named} (h : Runs s gd names)
    {check : CoreSt → Strand → Option (Nat × Nat)} (hc : check (turnCore s) (turn s) = none) (f : Strand → Strand) :
    checkedOp gd names check f s = .next (withTurn s (advanced (f (turn s)))) := by
  simp only [turn, turnCore] at hc
  rw [checkedOp, guarded_runs h]; simp [hc, withTurn, turn]

theorem checkedOp_traps {s : State} {gd : Guard} {names : List Named} (h : Runs s gd names)
    {check : CoreSt → Strand → Option (Nat × Nat)} {code v : Nat} (hc : check (turnCore s) (turn s) = some (code, v))
    (f : Strand → Strand) : checkedOp gd names check f s = .next (trapped s code v) := by
  simp only [turn, turnCore] at hc
  rw [checkedOp, guarded_runs h]; simp [hc, trapped]

theorem sysGuarded_runs {s : State} {gd : Guard} {names : List Named} (hm : isMgmt s.cur.core = true) (h : Runs s gd names)
    (bits : Nat) (body : Nat → Nat → State → State) :
    sysGuarded bits gd names body s = .next (body s.cur.core s.cur.slot s) := by
  simp [sysGuarded, hm, frame_runs h]

theorem sysGuarded_traps {s : State} (hm : isMgmt s.cur.core = false) (bits : Nat) (gd : Guard) (names : List Named)
    (body : Nat → Nat → State → State) : sysGuarded bits gd names body s = .next (trapped s 0x03A bits) := by
  simp [sysGuarded, hm, trapped]

/-! ### Traps -/

/-- A trap that enters a handler changes nothing but the strand (R206). -/
theorem takeTrap_enters {s : State} {c l code : Nat} (h : trapEnters (getStrand s c l) code = true) (tval : Nat) :
    takeTrap s c l code tval = putStrand s c l (enterTrap (getStrand s c l) code tval) := by
  simp [takeTrap, h]

theorem trapped_enters {s : State} {code : Nat} (h : trapEnters (turn s) code = true) (tval : Nat) :
    trapped s code tval = withTurn s (enterTrap (turn s) code tval) := takeTrap_enters h tval

/-- A trap that cannot enter one retires the strand with its cause, or with 0x3C1 inside a handler (R206). -/
theorem takeTrap_retires {s : State} {c l code : Nat} (h : trapEnters (getStrand s c l) code = false) (tval : Nat) :
    takeTrap s c l code tval =
      retireStrand s c l (some (if (getStrand s c l).intrap then (0x3C1, openTval s) else (code, tval))) := by
  simp [takeTrap, h]

/-- RETT inside a handler goes on at EPC (R207). -/
theorem returnFromTrap_returns {s : State} {c l : Nat} (h1 : (getStrand s c l).intrap = true)
    (h2 : isSlotPos (getStrand s c l).epc.toNat = true) :
    returnFromTrap s c l =
      putStrand s c l { getStrand s c l with intrap := false, pc := (getStrand s c l).epc, status := .ready } := by
  simp [returnFromTrap, h1, h2]

/-- RETT outside a handler raises 0x3C2 (R207). -/
theorem returnFromTrap_outside {s : State} {c l : Nat} (h : (getStrand s c l).intrap = false) :
    returnFromTrap s c l = takeTrap s c l 0x3C2 (openTval s) := by simp [returnFromTrap, h]

/-! ### Every instruction runs in the frame -/

/-- An instruction of user privilege is its guard and names around a body. -/
theorem exec_guarded (i : Instr) (gd : Guard) (h : guardOf i = some gd) (hp : privileged i = false) :
    ∃ body : Nat → Nat → State → State, ∀ s, exec i s = .next (frame gd (namesOf i) body s) := by
  cases i <;> simp only [guardOf, reduceCtorEq, Option.some.injEq] at h <;> subst h
  case vpack p => cases p <;> exact ⟨_, fun _ => rfl⟩
  case copy m _ _ _ _ _ _ _ => cases m <;> exact ⟨_, fun _ => rfl⟩
  case crr cr => cases cr <;> first | exact ⟨_, fun _ => rfl⟩ | cases hp
  case crw cr => cases cr <;> first | exact ⟨_, fun _ => rfl⟩ | cases hp
  all_goals first | exact ⟨_, fun _ => rfl⟩ | cases hp

/-- One that needs the system privilege is the same after the privilege check (R81 step 9). -/
theorem exec_privileged (i : Instr) (gd : Guard) (h : guardOf i = some gd) (hp : privileged i = true) :
    ∃ body : Nat → Nat → State → State, ∀ s, exec i s = sysGuarded (encode i) gd (namesOf i) body s := by
  cases i <;> simp only [guardOf, reduceCtorEq, Option.some.injEq] at h <;> subst h
  case crr cr => cases cr <;> first | exact ⟨_, fun _ => rfl⟩ | cases hp
  case crw cr => cases cr <;> first | exact ⟨_, fun _ => rfl⟩ | cases hp
  all_goals first | (cases hp; done) | exact ⟨_, fun _ => rfl⟩

end Sys2Proof.Machine
end

