-- ==== Sys2Proof/Laws/PerInstr.lean ====
section
/-! SUPPORT. A statement about every instruction, one lemma for each constructor: the fields that the encoder gives it fit
their places in the slot (04 R70 to R73). A step of the device has no slot. -/

namespace Sys2Proof

/-- The fields of the instruction's slot fit their places. -/
def Laws.SlotFields.Statement (i : Instr) : Prop :=
  match i.raw with
  | some (fmt, f) => FieldsFit fmt f
  | none => True

theorem Laws.SlotFields.of_raw {i : Instr} {fmt : Fmt} {f : Fields} (h : i.raw = some (fmt, f)) (hf : FieldsFit fmt f) : Laws.SlotFields.Statement i := by
  unfold Laws.SlotFields.Statement; rw [h]; exact hf

theorem Laws.SlotFields.nop : Laws.SlotFields.Statement (.nop) := by
  refine Laws.SlotFields.of_raw rfl ?_
  simp only [FieldsFit]; omega
theorem Laws.SlotFields.br (gd : Guard) (off : BitVec 40) (slot : BitVec 3) : Laws.SlotFields.Statement (.br gd off slot) := by
  have := gd.code_lt
  have := off.isLt
  have := slot.isLt
  refine Laws.SlotFields.of_raw rfl ?_
  simp only [FieldsFit]; omega
theorem Laws.SlotFields.bri (gd : Guard) (a : GOp) (x : BitVec 38) : Laws.SlotFields.Statement (.bri gd a x) := by
  have := gd.code_lt
  have := a.code_lt
  have := x.isLt
  refine Laws.SlotFields.of_raw rfl ?_
  simp only [FieldsFit]; omega
theorem Laws.SlotFields.call (gd : Guard) (a : GOp) (off : BitVec 40) (slot : BitVec 3) : Laws.SlotFields.Statement (.call gd a off slot) := by
  have := gd.code_lt
  have := a.code_lt
  have := off.isLt
  have := slot.isLt
  refine Laws.SlotFields.of_raw rfl ?_
  simp only [FieldsFit]; omega
theorem Laws.SlotFields.ret (gd : Guard) (a : GOp) : Laws.SlotFields.Statement (.ret gd a) := by
  have := gd.code_lt
  have := a.code_lt
  refine Laws.SlotFields.of_raw rfl ?_
  simp only [FieldsFit]; omega
theorem Laws.SlotFields.loop (gd : Guard) (a : GOp) (off : BitVec 40) (slot : BitVec 3) : Laws.SlotFields.Statement (.loop gd a off slot) := by
  have := gd.code_lt
  have := a.code_lt
  have := off.isLt
  have := slot.isLt
  refine Laws.SlotFields.of_raw rfl ?_
  simp only [FieldsFit]; omega
theorem Laws.SlotFields.addR (gd : Guard) (d : GOp) (a : GOp) (b : GOp) (t : IType) : Laws.SlotFields.Statement (.addR gd d a b t) := by
  have := gd.code_lt
  have := d.code_lt
  have := a.code_lt
  have := b.code_lt
  have := t.code_lt
  refine Laws.SlotFields.of_raw rfl ?_
  simp only [FieldsFit]; omega
theorem Laws.SlotFields.subR (gd : Guard) (d : GOp) (a : GOp) (b : GOp) (t : IType) : Laws.SlotFields.Statement (.subR gd d a b t) := by
  have := gd.code_lt
  have := d.code_lt
  have := a.code_lt
  have := b.code_lt
  have := t.code_lt
  refine Laws.SlotFields.of_raw rfl ?_
  simp only [FieldsFit]; omega
theorem Laws.SlotFields.mulR (gd : Guard) (d : GOp) (a : GOp) (b : GOp) (t : IType) : Laws.SlotFields.Statement (.mulR gd d a b t) := by
  have := gd.code_lt
  have := d.code_lt
  have := a.code_lt
  have := b.code_lt
  have := t.code_lt
  refine Laws.SlotFields.of_raw rfl ?_
  simp only [FieldsFit]; omega
theorem Laws.SlotFields.mulhR (gd : Guard) (d : GOp) (a : GOp) (b : GOp) (t : IType) : Laws.SlotFields.Statement (.mulhR gd d a b t) := by
  have := gd.code_lt
  have := d.code_lt
  have := a.code_lt
  have := b.code_lt
  have := t.code_lt
  refine Laws.SlotFields.of_raw rfl ?_
  simp only [FieldsFit]; omega
theorem Laws.SlotFields.mulhnR (gd : Guard) (d : GOp) (a : GOp) (b : GOp) (t : IType) : Laws.SlotFields.Statement (.mulhnR gd d a b t) := by
  have := gd.code_lt
  have := d.code_lt
  have := a.code_lt
  have := b.code_lt
  have := t.code_lt
  refine Laws.SlotFields.of_raw rfl ?_
  simp only [FieldsFit]; omega
theorem Laws.SlotFields.divR (gd : Guard) (d : GOp) (a : GOp) (b : GOp) (t : IType) : Laws.SlotFields.Statement (.divR gd d a b t) := by
  have := gd.code_lt
  have := d.code_lt
  have := a.code_lt
  have := b.code_lt
  have := t.code_lt
  refine Laws.SlotFields.of_raw rfl ?_
  simp only [FieldsFit]; omega
theorem Laws.SlotFields.divnR (gd : Guard) (d : GOp) (a : GOp) (b : GOp) (t : IType) : Laws.SlotFields.Statement (.divnR gd d a b t) := by
  have := gd.code_lt
  have := d.code_lt
  have := a.code_lt
  have := b.code_lt
  have := t.code_lt
  refine Laws.SlotFields.of_raw rfl ?_
  simp only [FieldsFit]; omega
theorem Laws.SlotFields.remR (gd : Guard) (d : GOp) (a : GOp) (b : GOp) (t : IType) : Laws.SlotFields.Statement (.remR gd d a b t) := by
  have := gd.code_lt
  have := d.code_lt
  have := a.code_lt
  have := b.code_lt
  have := t.code_lt
  refine Laws.SlotFields.of_raw rfl ?_
  simp only [FieldsFit]; omega
theorem Laws.SlotFields.remnR (gd : Guard) (d : GOp) (a : GOp) (b : GOp) (t : IType) : Laws.SlotFields.Statement (.remnR gd d a b t) := by
  have := gd.code_lt
  have := d.code_lt
  have := a.code_lt
  have := b.code_lt
  have := t.code_lt
  refine Laws.SlotFields.of_raw rfl ?_
  simp only [FieldsFit]; omega
theorem Laws.SlotFields.andR (gd : Guard) (d : GOp) (a : GOp) (b : GOp) (t : IType) : Laws.SlotFields.Statement (.andR gd d a b t) := by
  have := gd.code_lt
  have := d.code_lt
  have := a.code_lt
  have := b.code_lt
  have := t.code_lt
  refine Laws.SlotFields.of_raw rfl ?_
  simp only [FieldsFit]; omega
theorem Laws.SlotFields.orR (gd : Guard) (d : GOp) (a : GOp) (b : GOp) (t : IType) : Laws.SlotFields.Statement (.orR gd d a b t) := by
  have := gd.code_lt
  have := d.code_lt
  have := a.code_lt
  have := b.code_lt
  have := t.code_lt
  refine Laws.SlotFields.of_raw rfl ?_
  simp only [FieldsFit]; omega
theorem Laws.SlotFields.xorR (gd : Guard) (d : GOp) (a : GOp) (b : GOp) (t : IType) : Laws.SlotFields.Statement (.xorR gd d a b t) := by
  have := gd.code_lt
  have := d.code_lt
  have := a.code_lt
  have := b.code_lt
  have := t.code_lt
  refine Laws.SlotFields.of_raw rfl ?_
  simp only [FieldsFit]; omega
theorem Laws.SlotFields.andnR (gd : Guard) (d : GOp) (a : GOp) (b : GOp) (t : IType) : Laws.SlotFields.Statement (.andnR gd d a b t) := by
  have := gd.code_lt
  have := d.code_lt
  have := a.code_lt
  have := b.code_lt
  have := t.code_lt
  refine Laws.SlotFields.of_raw rfl ?_
  simp only [FieldsFit]; omega
theorem Laws.SlotFields.ornR (gd : Guard) (d : GOp) (a : GOp) (b : GOp) (t : IType) : Laws.SlotFields.Statement (.ornR gd d a b t) := by
  have := gd.code_lt
  have := d.code_lt
  have := a.code_lt
  have := b.code_lt
  have := t.code_lt
  refine Laws.SlotFields.of_raw rfl ?_
  simp only [FieldsFit]; omega
theorem Laws.SlotFields.shlR (gd : Guard) (d : GOp) (a : GOp) (b : GOp) (t : IType) : Laws.SlotFields.Statement (.shlR gd d a b t) := by
  have := gd.code_lt
  have := d.code_lt
  have := a.code_lt
  have := b.code_lt
  have := t.code_lt
  refine Laws.SlotFields.of_raw rfl ?_
  simp only [FieldsFit]; omega
theorem Laws.SlotFields.shrR (gd : Guard) (d : GOp) (a : GOp) (b : GOp) (t : IType) : Laws.SlotFields.Statement (.shrR gd d a b t) := by
  have := gd.code_lt
  have := d.code_lt
  have := a.code_lt
  have := b.code_lt
  have := t.code_lt
  refine Laws.SlotFields.of_raw rfl ?_
  simp only [FieldsFit]; omega
theorem Laws.SlotFields.sarR (gd : Guard) (d : GOp) (a : GOp) (b : GOp) (t : IType) : Laws.SlotFields.Statement (.sarR gd d a b t) := by
  have := gd.code_lt
  have := d.code_lt
  have := a.code_lt
  have := b.code_lt
  have := t.code_lt
  refine Laws.SlotFields.of_raw rfl ?_
  simp only [FieldsFit]; omega
theorem Laws.SlotFields.rolR (gd : Guard) (d : GOp) (a : GOp) (b : GOp) (t : IType) : Laws.SlotFields.Statement (.rolR gd d a b t) := by
  have := gd.code_lt
  have := d.code_lt
  have := a.code_lt
  have := b.code_lt
  have := t.code_lt
  refine Laws.SlotFields.of_raw rfl ?_
  simp only [FieldsFit]; omega
theorem Laws.SlotFields.rorR (gd : Guard) (d : GOp) (a : GOp) (b : GOp) (t : IType) : Laws.SlotFields.Statement (.rorR gd d a b t) := by
  have := gd.code_lt
  have := d.code_lt
  have := a.code_lt
  have := b.code_lt
  have := t.code_lt
  refine Laws.SlotFields.of_raw rfl ?_
  simp only [FieldsFit]; omega
theorem Laws.SlotFields.minR (gd : Guard) (d : GOp) (a : GOp) (b : GOp) (t : IType) : Laws.SlotFields.Statement (.minR gd d a b t) := by
  have := gd.code_lt
  have := d.code_lt
  have := a.code_lt
  have := b.code_lt
  have := t.code_lt
  refine Laws.SlotFields.of_raw rfl ?_
  simp only [FieldsFit]; omega
theorem Laws.SlotFields.maxR (gd : Guard) (d : GOp) (a : GOp) (b : GOp) (t : IType) : Laws.SlotFields.Statement (.maxR gd d a b t) := by
  have := gd.code_lt
  have := d.code_lt
  have := a.code_lt
  have := b.code_lt
  have := t.code_lt
  refine Laws.SlotFields.of_raw rfl ?_
  simp only [FieldsFit]; omega
theorem Laws.SlotFields.minnR (gd : Guard) (d : GOp) (a : GOp) (b : GOp) (t : IType) : Laws.SlotFields.Statement (.minnR gd d a b t) := by
  have := gd.code_lt
  have := d.code_lt
  have := a.code_lt
  have := b.code_lt
  have := t.code_lt
  refine Laws.SlotFields.of_raw rfl ?_
  simp only [FieldsFit]; omega
theorem Laws.SlotFields.maxnR (gd : Guard) (d : GOp) (a : GOp) (b : GOp) (t : IType) : Laws.SlotFields.Statement (.maxnR gd d a b t) := by
  have := gd.code_lt
  have := d.code_lt
  have := a.code_lt
  have := b.code_lt
  have := t.code_lt
  refine Laws.SlotFields.of_raw rfl ?_
  simp only [FieldsFit]; omega
theorem Laws.SlotFields.cmpR (gd : Guard) (d : Fin 8) (a : GOp) (b : GOp) (t : IType) (cc : Cc) : Laws.SlotFields.Statement (.cmpR gd d a b t cc) := by
  have := gd.code_lt
  have := d.isLt
  have := a.code_lt
  have := b.code_lt
  have := t.code_lt
  have := cc.code_lt
  refine Laws.SlotFields.of_raw rfl ?_
  simp only [FieldsFit, kCode]; omega
theorem Laws.SlotFields.addI (gd : Guard) (d : GOp) (a : GOp) (t : IType) (x : BitVec 38) : Laws.SlotFields.Statement (.addI gd d a t x) := by
  have := gd.code_lt
  have := d.code_lt
  have := a.code_lt
  have := t.code_lt
  have := x.isLt
  refine Laws.SlotFields.of_raw rfl ?_
  simp only [FieldsFit]; omega
theorem Laws.SlotFields.subI (gd : Guard) (d : GOp) (a : GOp) (t : IType) (x : BitVec 38) : Laws.SlotFields.Statement (.subI gd d a t x) := by
  have := gd.code_lt
  have := d.code_lt
  have := a.code_lt
  have := t.code_lt
  have := x.isLt
  refine Laws.SlotFields.of_raw rfl ?_
  simp only [FieldsFit]; omega
theorem Laws.SlotFields.mulI (gd : Guard) (d : GOp) (a : GOp) (t : IType) (x : BitVec 38) : Laws.SlotFields.Statement (.mulI gd d a t x) := by
  have := gd.code_lt
  have := d.code_lt
  have := a.code_lt
  have := t.code_lt
  have := x.isLt
  refine Laws.SlotFields.of_raw rfl ?_
  simp only [FieldsFit]; omega
theorem Laws.SlotFields.mulhI (gd : Guard) (d : GOp) (a : GOp) (t : IType) (x : BitVec 38) : Laws.SlotFields.Statement (.mulhI gd d a t x) := by
  have := gd.code_lt
  have := d.code_lt
  have := a.code_lt
  have := t.code_lt
  have := x.isLt
  refine Laws.SlotFields.of_raw rfl ?_
  simp only [FieldsFit]; omega
theorem Laws.SlotFields.mulhnI (gd : Guard) (d : GOp) (a : GOp) (t : IType) (x : BitVec 38) : Laws.SlotFields.Statement (.mulhnI gd d a t x) := by
  have := gd.code_lt
  have := d.code_lt
  have := a.code_lt
  have := t.code_lt
  have := x.isLt
  refine Laws.SlotFields.of_raw rfl ?_
  simp only [FieldsFit]; omega
theorem Laws.SlotFields.divI (gd : Guard) (d : GOp) (a : GOp) (t : IType) (x : BitVec 38) : Laws.SlotFields.Statement (.divI gd d a t x) := by
  have := gd.code_lt
  have := d.code_lt
  have := a.code_lt
  have := t.code_lt
  have := x.isLt
  refine Laws.SlotFields.of_raw rfl ?_
  simp only [FieldsFit]; omega
theorem Laws.SlotFields.divnI (gd : Guard) (d : GOp) (a : GOp) (t : IType) (x : BitVec 38) : Laws.SlotFields.Statement (.divnI gd d a t x) := by
  have := gd.code_lt
  have := d.code_lt
  have := a.code_lt
  have := t.code_lt
  have := x.isLt
  refine Laws.SlotFields.of_raw rfl ?_
  simp only [FieldsFit]; omega
theorem Laws.SlotFields.remI (gd : Guard) (d : GOp) (a : GOp) (t : IType) (x : BitVec 38) : Laws.SlotFields.Statement (.remI gd d a t x) := by
  have := gd.code_lt
  have := d.code_lt
  have := a.code_lt
  have := t.code_lt
  have := x.isLt
  refine Laws.SlotFields.of_raw rfl ?_
  simp only [FieldsFit]; omega
theorem Laws.SlotFields.remnI (gd : Guard) (d : GOp) (a : GOp) (t : IType) (x : BitVec 38) : Laws.SlotFields.Statement (.remnI gd d a t x) := by
  have := gd.code_lt
  have := d.code_lt
  have := a.code_lt
  have := t.code_lt
  have := x.isLt
  refine Laws.SlotFields.of_raw rfl ?_
  simp only [FieldsFit]; omega
theorem Laws.SlotFields.andI (gd : Guard) (d : GOp) (a : GOp) (t : IType) (x : BitVec 38) : Laws.SlotFields.Statement (.andI gd d a t x) := by
  have := gd.code_lt
  have := d.code_lt
  have := a.code_lt
  have := t.code_lt
  have := x.isLt
  refine Laws.SlotFields.of_raw rfl ?_
  simp only [FieldsFit]; omega
theorem Laws.SlotFields.orI (gd : Guard) (d : GOp) (a : GOp) (t : IType) (x : BitVec 38) : Laws.SlotFields.Statement (.orI gd d a t x) := by
  have := gd.code_lt
  have := d.code_lt
  have := a.code_lt
  have := t.code_lt
  have := x.isLt
  refine Laws.SlotFields.of_raw rfl ?_
  simp only [FieldsFit]; omega
theorem Laws.SlotFields.xorI (gd : Guard) (d : GOp) (a : GOp) (t : IType) (x : BitVec 38) : Laws.SlotFields.Statement (.xorI gd d a t x) := by
  have := gd.code_lt
  have := d.code_lt
  have := a.code_lt
  have := t.code_lt
  have := x.isLt
  refine Laws.SlotFields.of_raw rfl ?_
  simp only [FieldsFit]; omega
theorem Laws.SlotFields.andnI (gd : Guard) (d : GOp) (a : GOp) (t : IType) (x : BitVec 38) : Laws.SlotFields.Statement (.andnI gd d a t x) := by
  have := gd.code_lt
  have := d.code_lt
  have := a.code_lt
  have := t.code_lt
  have := x.isLt
  refine Laws.SlotFields.of_raw rfl ?_
  simp only [FieldsFit]; omega
theorem Laws.SlotFields.ornI (gd : Guard) (d : GOp) (a : GOp) (t : IType) (x : BitVec 38) : Laws.SlotFields.Statement (.ornI gd d a t x) := by
  have := gd.code_lt
  have := d.code_lt
  have := a.code_lt
  have := t.code_lt
  have := x.isLt
  refine Laws.SlotFields.of_raw rfl ?_
  simp only [FieldsFit]; omega
theorem Laws.SlotFields.shlI (gd : Guard) (d : GOp) (a : GOp) (t : IType) (x : BitVec 38) : Laws.SlotFields.Statement (.shlI gd d a t x) := by
  have := gd.code_lt
  have := d.code_lt
  have := a.code_lt
  have := t.code_lt
  have := x.isLt
  refine Laws.SlotFields.of_raw rfl ?_
  simp only [FieldsFit]; omega
theorem Laws.SlotFields.shrI (gd : Guard) (d : GOp) (a : GOp) (t : IType) (x : BitVec 38) : Laws.SlotFields.Statement (.shrI gd d a t x) := by
  have := gd.code_lt
  have := d.code_lt
  have := a.code_lt
  have := t.code_lt
  have := x.isLt
  refine Laws.SlotFields.of_raw rfl ?_
  simp only [FieldsFit]; omega
theorem Laws.SlotFields.sarI (gd : Guard) (d : GOp) (a : GOp) (t : IType) (x : BitVec 38) : Laws.SlotFields.Statement (.sarI gd d a t x) := by
  have := gd.code_lt
  have := d.code_lt
  have := a.code_lt
  have := t.code_lt
  have := x.isLt
  refine Laws.SlotFields.of_raw rfl ?_
  simp only [FieldsFit]; omega
theorem Laws.SlotFields.rolI (gd : Guard) (d : GOp) (a : GOp) (t : IType) (x : BitVec 38) : Laws.SlotFields.Statement (.rolI gd d a t x) := by
  have := gd.code_lt
  have := d.code_lt
  have := a.code_lt
  have := t.code_lt
  have := x.isLt
  refine Laws.SlotFields.of_raw rfl ?_
  simp only [FieldsFit]; omega
theorem Laws.SlotFields.rorI (gd : Guard) (d : GOp) (a : GOp) (t : IType) (x : BitVec 38) : Laws.SlotFields.Statement (.rorI gd d a t x) := by
  have := gd.code_lt
  have := d.code_lt
  have := a.code_lt
  have := t.code_lt
  have := x.isLt
  refine Laws.SlotFields.of_raw rfl ?_
  simp only [FieldsFit]; omega
theorem Laws.SlotFields.minI (gd : Guard) (d : GOp) (a : GOp) (t : IType) (x : BitVec 38) : Laws.SlotFields.Statement (.minI gd d a t x) := by
  have := gd.code_lt
  have := d.code_lt
  have := a.code_lt
  have := t.code_lt
  have := x.isLt
  refine Laws.SlotFields.of_raw rfl ?_
  simp only [FieldsFit]; omega
theorem Laws.SlotFields.maxI (gd : Guard) (d : GOp) (a : GOp) (t : IType) (x : BitVec 38) : Laws.SlotFields.Statement (.maxI gd d a t x) := by
  have := gd.code_lt
  have := d.code_lt
  have := a.code_lt
  have := t.code_lt
  have := x.isLt
  refine Laws.SlotFields.of_raw rfl ?_
  simp only [FieldsFit]; omega
theorem Laws.SlotFields.minnI (gd : Guard) (d : GOp) (a : GOp) (t : IType) (x : BitVec 38) : Laws.SlotFields.Statement (.minnI gd d a t x) := by
  have := gd.code_lt
  have := d.code_lt
  have := a.code_lt
  have := t.code_lt
  have := x.isLt
  refine Laws.SlotFields.of_raw rfl ?_
  simp only [FieldsFit]; omega
theorem Laws.SlotFields.maxnI (gd : Guard) (d : GOp) (a : GOp) (t : IType) (x : BitVec 38) : Laws.SlotFields.Statement (.maxnI gd d a t x) := by
  have := gd.code_lt
  have := d.code_lt
  have := a.code_lt
  have := t.code_lt
  have := x.isLt
  refine Laws.SlotFields.of_raw rfl ?_
  simp only [FieldsFit]; omega
theorem Laws.SlotFields.cmpI (gd : Guard) (d : Fin 8) (a : GOp) (t : IType) (cc : Cc) (x : BitVec 38) : Laws.SlotFields.Statement (.cmpI gd d a t cc x) := by
  have := gd.code_lt
  have := d.isLt
  have := a.code_lt
  have := t.code_lt
  have := cc.code_lt
  have := x.isLt
  refine Laws.SlotFields.of_raw rfl ?_
  simp only [FieldsFit, kCode]; omega
theorem Laws.SlotFields.clz (gd : Guard) (d : GOp) (a : GOp) (t : IType) : Laws.SlotFields.Statement (.clz gd d a t) := by
  have := gd.code_lt
  have := d.code_lt
  have := a.code_lt
  have := t.code_lt
  refine Laws.SlotFields.of_raw rfl ?_
  simp only [FieldsFit]; omega
theorem Laws.SlotFields.ctz (gd : Guard) (d : GOp) (a : GOp) (t : IType) : Laws.SlotFields.Statement (.ctz gd d a t) := by
  have := gd.code_lt
  have := d.code_lt
  have := a.code_lt
  have := t.code_lt
  refine Laws.SlotFields.of_raw rfl ?_
  simp only [FieldsFit]; omega
theorem Laws.SlotFields.popc (gd : Guard) (d : GOp) (a : GOp) (t : IType) : Laws.SlotFields.Statement (.popc gd d a t) := by
  have := gd.code_lt
  have := d.code_lt
  have := a.code_lt
  have := t.code_lt
  refine Laws.SlotFields.of_raw rfl ?_
  simp only [FieldsFit]; omega
theorem Laws.SlotFields.brev (gd : Guard) (d : GOp) (a : GOp) (t : IType) : Laws.SlotFields.Statement (.brev gd d a t) := by
  have := gd.code_lt
  have := d.code_lt
  have := a.code_lt
  have := t.code_lt
  refine Laws.SlotFields.of_raw rfl ?_
  simp only [FieldsFit]; omega
theorem Laws.SlotFields.bext (gd : Guard) (d : GOp) (a : GOp) (b : GOp) (sx : Bool) (x : BitVec 38) : Laws.SlotFields.Statement (.bext gd d a b sx x) := by
  have := gd.code_lt
  have := d.code_lt
  have := a.code_lt
  have := b.code_lt
  have := sx.toNat_lt
  have := x.isLt
  refine Laws.SlotFields.of_raw rfl ?_
  simp only [FieldsFit]; omega
theorem Laws.SlotFields.bins (gd : Guard) (d : GOp) (a : GOp) (b : GOp) (x : BitVec 38) : Laws.SlotFields.Statement (.bins gd d a b x) := by
  have := gd.code_lt
  have := d.code_lt
  have := a.code_lt
  have := b.code_lt
  have := x.isLt
  refine Laws.SlotFields.of_raw rfl ?_
  simp only [FieldsFit]; omega
theorem Laws.SlotFields.sext (gd : Guard) (d : GOp) (a : GOp) (x : BitVec 38) : Laws.SlotFields.Statement (.sext gd d a x) := by
  have := gd.code_lt
  have := d.code_lt
  have := a.code_lt
  have := x.isLt
  refine Laws.SlotFields.of_raw rfl ?_
  simp only [FieldsFit]; omega
theorem Laws.SlotFields.zext (gd : Guard) (d : GOp) (a : GOp) (x : BitVec 38) : Laws.SlotFields.Statement (.zext gd d a x) := by
  have := gd.code_lt
  have := d.code_lt
  have := a.code_lt
  have := x.isLt
  refine Laws.SlotFields.of_raw rfl ?_
  simp only [FieldsFit]; omega
theorem Laws.SlotFields.abs (gd : Guard) (d : GOp) (a : GOp) (t : IType) : Laws.SlotFields.Statement (.abs gd d a t) := by
  have := gd.code_lt
  have := d.code_lt
  have := a.code_lt
  have := t.code_lt
  refine Laws.SlotFields.of_raw rfl ?_
  simp only [FieldsFit]; omega
theorem Laws.SlotFields.neg (gd : Guard) (d : GOp) (a : GOp) (t : IType) : Laws.SlotFields.Statement (.neg gd d a t) := by
  have := gd.code_lt
  have := d.code_lt
  have := a.code_lt
  have := t.code_lt
  refine Laws.SlotFields.of_raw rfl ?_
  simp only [FieldsFit]; omega
theorem Laws.SlotFields.sel (gd : Guard) (d : GOp) (a : GOp) (b : GOp) (c : Fin 8) : Laws.SlotFields.Statement (.sel gd d a b c) := by
  have := gd.code_lt
  have := d.code_lt
  have := a.code_lt
  have := b.code_lt
  have := c.isLt
  refine Laws.SlotFields.of_raw rfl ?_
  simp only [FieldsFit, kCode]; omega
theorem Laws.SlotFields.mov (gd : Guard) (d : GJK) (a : GJK) : Laws.SlotFields.Statement (.mov gd d a) := by
  have := gd.code_lt
  have := d.code_lt
  have := a.code_lt
  refine Laws.SlotFields.of_raw rfl ?_
  simp only [FieldsFit]; omega
theorem Laws.SlotFields.movi (gd : Guard) (d : GJ) (imm : BitVec 64) : Laws.SlotFields.Statement (.movi gd d imm) := by
  have := gd.code_lt
  have := d.code_lt
  have := imm.isLt
  refine Laws.SlotFields.of_raw rfl ?_
  simp only [FieldsFit]; omega
theorem Laws.SlotFields.gand (gd : Guard) (d : Fin 8) (a : Fin 8) (b : Fin 8) : Laws.SlotFields.Statement (.gand gd d a b) := by
  have := gd.code_lt
  have := d.isLt
  have := a.isLt
  have := b.isLt
  refine Laws.SlotFields.of_raw rfl ?_
  simp only [FieldsFit, kCode]; omega
theorem Laws.SlotFields.gor (gd : Guard) (d : Fin 8) (a : Fin 8) (b : Fin 8) : Laws.SlotFields.Statement (.gor gd d a b) := by
  have := gd.code_lt
  have := d.isLt
  have := a.isLt
  have := b.isLt
  refine Laws.SlotFields.of_raw rfl ?_
  simp only [FieldsFit, kCode]; omega
theorem Laws.SlotFields.gxor (gd : Guard) (d : Fin 8) (a : Fin 8) (b : Fin 8) : Laws.SlotFields.Statement (.gxor gd d a b) := by
  have := gd.code_lt
  have := d.isLt
  have := a.isLt
  have := b.isLt
  refine Laws.SlotFields.of_raw rfl ?_
  simp only [FieldsFit, kCode]; omega
theorem Laws.SlotFields.gnot (gd : Guard) (d : Fin 8) (a : Fin 8) : Laws.SlotFields.Statement (.gnot gd d a) := by
  have := gd.code_lt
  have := d.isLt
  have := a.isLt
  refine Laws.SlotFields.of_raw rfl ?_
  simp only [FieldsFit, kCode]; omega
theorem Laws.SlotFields.padd (gd : Guard) (d : GOp) (a : GOp) (b : GOp) (w : BitVec 10) (x : BitVec 38) : Laws.SlotFields.Statement (.padd gd d a b w x) := by
  have := gd.code_lt
  have := d.code_lt
  have := a.code_lt
  have := b.code_lt
  have := w.isLt
  have := x.isLt
  refine Laws.SlotFields.of_raw rfl ?_
  simp only [FieldsFit]; omega
theorem Laws.SlotFields.pdif (gd : Guard) (d : GOp) (a : GOp) (b : GOp) (w : BitVec 10) : Laws.SlotFields.Statement (.pdif gd d a b w) := by
  have := gd.code_lt
  have := d.code_lt
  have := a.code_lt
  have := b.code_lt
  have := w.isLt
  refine Laws.SlotFields.of_raw rfl ?_
  simp only [FieldsFit]; omega
theorem Laws.SlotFields.paln (gd : Guard) (d : GOp) (a : GOp) (w : BitVec 10) (up : Bool) : Laws.SlotFields.Statement (.paln gd d a w up) := by
  have := gd.code_lt
  have := d.code_lt
  have := a.code_lt
  have := w.isLt
  have := up.toNat_lt
  refine Laws.SlotFields.of_raw rfl ?_
  simp only [FieldsFit]; omega
theorem Laws.SlotFields.pblk (gd : Guard) (d : GOp) (a : GOp) (b : GOp) (fmt : BqFmt) : Laws.SlotFields.Statement (.pblk gd d a b fmt) := by
  have := gd.code_lt
  have := d.code_lt
  have := a.code_lt
  have := b.code_lt
  have := fmt.code_lt
  refine Laws.SlotFields.of_raw rfl ?_
  simp only [FieldsFit]; omega
theorem Laws.SlotFields.pchk (gd : Guard) (d : Fin 8) (a : GOp) (w : BitVec 10) (cls : BitVec 2) (x : BitVec 38) : Laws.SlotFields.Statement (.pchk gd d a w cls x) := by
  have := gd.code_lt
  have := d.isLt
  have := a.code_lt
  have := w.isLt
  have := cls.isLt
  have := x.isLt
  refine Laws.SlotFields.of_raw rfl ?_
  simp only [FieldsFit, kCode]; omega
theorem Laws.SlotFields.jset (gd : Guard) (d : Fin 8) (a : GOp) (x : BitVec 38) : Laws.SlotFields.Statement (.jset gd d a x) := by
  have := gd.code_lt
  have := d.isLt
  have := a.code_lt
  have := x.isLt
  refine Laws.SlotFields.of_raw rfl ?_
  simp only [FieldsFit, jCode]; omega
theorem Laws.SlotFields.jadd (gd : Guard) (d : Fin 8) (a : Fin 8) (b : GOp) (x : BitVec 38) : Laws.SlotFields.Statement (.jadd gd d a b x) := by
  have := gd.code_lt
  have := d.isLt
  have := a.isLt
  have := b.code_lt
  have := x.isLt
  refine Laws.SlotFields.of_raw rfl ?_
  simp only [FieldsFit, jCode]; omega
theorem Laws.SlotFields.fadd (gd : Guard) (d : GOp) (a : GOp) (b : GOp) (t : FType) (rnd : Rnd) : Laws.SlotFields.Statement (.fadd gd d a b t rnd) := by
  have := gd.code_lt
  have := d.code_lt
  have := a.code_lt
  have := b.code_lt
  have := t.code_lt
  have := rnd.code_lt
  refine Laws.SlotFields.of_raw rfl ?_
  simp only [FieldsFit]; omega
theorem Laws.SlotFields.fsub (gd : Guard) (d : GOp) (a : GOp) (b : GOp) (t : FType) (rnd : Rnd) : Laws.SlotFields.Statement (.fsub gd d a b t rnd) := by
  have := gd.code_lt
  have := d.code_lt
  have := a.code_lt
  have := b.code_lt
  have := t.code_lt
  have := rnd.code_lt
  refine Laws.SlotFields.of_raw rfl ?_
  simp only [FieldsFit]; omega
theorem Laws.SlotFields.fmul (gd : Guard) (d : GOp) (a : GOp) (b : GOp) (t : FType) (rnd : Rnd) : Laws.SlotFields.Statement (.fmul gd d a b t rnd) := by
  have := gd.code_lt
  have := d.code_lt
  have := a.code_lt
  have := b.code_lt
  have := t.code_lt
  have := rnd.code_lt
  refine Laws.SlotFields.of_raw rfl ?_
  simp only [FieldsFit]; omega
theorem Laws.SlotFields.ffma (gd : Guard) (d : GOp) (a : GOp) (b : GOp) (c : GOp) (t : FType) (rnd : Rnd) : Laws.SlotFields.Statement (.ffma gd d a b c t rnd) := by
  have := gd.code_lt
  have := d.code_lt
  have := a.code_lt
  have := b.code_lt
  have := c.code_lt
  have := t.code_lt
  have := rnd.code_lt
  refine Laws.SlotFields.of_raw rfl ?_
  simp only [FieldsFit]; omega
theorem Laws.SlotFields.fdiv (gd : Guard) (d : GOp) (a : GOp) (b : GOp) (t : FType) (rnd : Rnd) : Laws.SlotFields.Statement (.fdiv gd d a b t rnd) := by
  have := gd.code_lt
  have := d.code_lt
  have := a.code_lt
  have := b.code_lt
  have := t.code_lt
  have := rnd.code_lt
  refine Laws.SlotFields.of_raw rfl ?_
  simp only [FieldsFit]; omega
theorem Laws.SlotFields.fsqrt (gd : Guard) (d : GOp) (a : GOp) (t : FType) (rnd : Rnd) : Laws.SlotFields.Statement (.fsqrt gd d a t rnd) := by
  have := gd.code_lt
  have := d.code_lt
  have := a.code_lt
  have := t.code_lt
  have := rnd.code_lt
  refine Laws.SlotFields.of_raw rfl ?_
  simp only [FieldsFit]; omega
theorem Laws.SlotFields.fmin (gd : Guard) (d : GOp) (a : GOp) (b : GOp) (t : FType) : Laws.SlotFields.Statement (.fmin gd d a b t) := by
  have := gd.code_lt
  have := d.code_lt
  have := a.code_lt
  have := b.code_lt
  have := t.code_lt
  refine Laws.SlotFields.of_raw rfl ?_
  simp only [FieldsFit]; omega
theorem Laws.SlotFields.fmax (gd : Guard) (d : GOp) (a : GOp) (b : GOp) (t : FType) : Laws.SlotFields.Statement (.fmax gd d a b t) := by
  have := gd.code_lt
  have := d.code_lt
  have := a.code_lt
  have := b.code_lt
  have := t.code_lt
  refine Laws.SlotFields.of_raw rfl ?_
  simp only [FieldsFit]; omega
theorem Laws.SlotFields.fcmp (gd : Guard) (d : Fin 8) (a : GOp) (b : GOp) (t : FType) (cc : FCc) : Laws.SlotFields.Statement (.fcmp gd d a b t cc) := by
  have := gd.code_lt
  have := d.isLt
  have := a.code_lt
  have := b.code_lt
  have := t.code_lt
  have := cc.code_lt
  refine Laws.SlotFields.of_raw rfl ?_
  simp only [FieldsFit, kCode]; omega
theorem Laws.SlotFields.fcvt (gd : Guard) (d : GOp) (a : GOp) (df : CvtType) (sf : CvtType) (rnd : Rnd) (prop : Bool) : Laws.SlotFields.Statement (.fcvt gd d a df sf rnd prop) := by
  have := gd.code_lt
  have := d.code_lt
  have := a.code_lt
  have := df.code_lt
  have := sf.code_lt
  have := rnd.code_lt
  have := prop.toNat_lt
  refine Laws.SlotFields.of_raw rfl ?_
  simp only [FieldsFit]; omega
theorem Laws.SlotFields.fclass (gd : Guard) (d : GOp) (a : GOp) (t : FType) : Laws.SlotFields.Statement (.fclass gd d a t) := by
  have := gd.code_lt
  have := d.code_lt
  have := a.code_lt
  have := t.code_lt
  refine Laws.SlotFields.of_raw rfl ?_
  simp only [FieldsFit]; omega
theorem Laws.SlotFields.fneg (gd : Guard) (d : GOp) (a : GOp) (t : FType) : Laws.SlotFields.Statement (.fneg gd d a t) := by
  have := gd.code_lt
  have := d.code_lt
  have := a.code_lt
  have := t.code_lt
  refine Laws.SlotFields.of_raw rfl ?_
  simp only [FieldsFit]; omega
theorem Laws.SlotFields.vadd (gd : Guard) (d : Fin 32) (a : Fin 32) (b : Fin 32) (ar : VArith) : Laws.SlotFields.Statement (.vadd gd d a b ar) := by
  have := gd.code_lt
  have := d.isLt
  have := a.isLt
  have := b.isLt
  have := ar.toM_lt
  refine Laws.SlotFields.of_raw rfl ?_
  simp only [FieldsFit, vCode]; omega
theorem Laws.SlotFields.vsub (gd : Guard) (d : Fin 32) (a : Fin 32) (b : Fin 32) (ar : VArith) : Laws.SlotFields.Statement (.vsub gd d a b ar) := by
  have := gd.code_lt
  have := d.isLt
  have := a.isLt
  have := b.isLt
  have := ar.toM_lt
  refine Laws.SlotFields.of_raw rfl ?_
  simp only [FieldsFit, vCode]; omega
theorem Laws.SlotFields.vmul (gd : Guard) (d : Fin 32) (a : Fin 32) (b : Fin 32) (ar : VArith) : Laws.SlotFields.Statement (.vmul gd d a b ar) := by
  have := gd.code_lt
  have := d.isLt
  have := a.isLt
  have := b.isLt
  have := ar.toM_lt
  refine Laws.SlotFields.of_raw rfl ?_
  simp only [FieldsFit, vCode]; omega
theorem Laws.SlotFields.vfma (gd : Guard) (d : Fin 32) (a : Fin 32) (b : Fin 32) (c : Fin 32) (ar : VArith) : Laws.SlotFields.Statement (.vfma gd d a b c ar) := by
  have := gd.code_lt
  have := d.isLt
  have := a.isLt
  have := b.isLt
  have := c.isLt
  have := ar.toM_lt
  refine Laws.SlotFields.of_raw rfl ?_
  simp only [FieldsFit, vCode]; omega
theorem Laws.SlotFields.vmin (gd : Guard) (d : Fin 32) (a : Fin 32) (b : Fin 32) (t : VType) : Laws.SlotFields.Statement (.vmin gd d a b t) := by
  have := gd.code_lt
  have := d.isLt
  have := a.isLt
  have := b.isLt
  have := t.code_lt
  refine Laws.SlotFields.of_raw rfl ?_
  simp only [FieldsFit, vCode]; omega
theorem Laws.SlotFields.vmax (gd : Guard) (d : Fin 32) (a : Fin 32) (b : Fin 32) (t : VType) : Laws.SlotFields.Statement (.vmax gd d a b t) := by
  have := gd.code_lt
  have := d.isLt
  have := a.isLt
  have := b.isLt
  have := t.code_lt
  refine Laws.SlotFields.of_raw rfl ?_
  simp only [FieldsFit, vCode]; omega
theorem Laws.SlotFields.vabs (gd : Guard) (d : Fin 32) (a : Fin 32) (sg : VSign) : Laws.SlotFields.Statement (.vabs gd d a sg) := by
  have := gd.code_lt
  have := d.isLt
  have := a.isLt
  have := sg.toM_lt
  refine Laws.SlotFields.of_raw rfl ?_
  simp only [FieldsFit, vCode]; omega
theorem Laws.SlotFields.vneg (gd : Guard) (d : Fin 32) (a : Fin 32) (sg : VSign) : Laws.SlotFields.Statement (.vneg gd d a sg) := by
  have := gd.code_lt
  have := d.isLt
  have := a.isLt
  have := sg.toM_lt
  refine Laws.SlotFields.of_raw rfl ?_
  simp only [FieldsFit, vCode]; omega
theorem Laws.SlotFields.vand (gd : Guard) (d : Fin 32) (a : Fin 32) (b : Fin 32) (t : IType) : Laws.SlotFields.Statement (.vand gd d a b t) := by
  have := gd.code_lt
  have := d.isLt
  have := a.isLt
  have := b.isLt
  have := t.code_lt
  refine Laws.SlotFields.of_raw rfl ?_
  simp only [FieldsFit, vCode]; omega
theorem Laws.SlotFields.vor (gd : Guard) (d : Fin 32) (a : Fin 32) (b : Fin 32) (t : IType) : Laws.SlotFields.Statement (.vor gd d a b t) := by
  have := gd.code_lt
  have := d.isLt
  have := a.isLt
  have := b.isLt
  have := t.code_lt
  refine Laws.SlotFields.of_raw rfl ?_
  simp only [FieldsFit, vCode]; omega
theorem Laws.SlotFields.vxor (gd : Guard) (d : Fin 32) (a : Fin 32) (b : Fin 32) (t : IType) : Laws.SlotFields.Statement (.vxor gd d a b t) := by
  have := gd.code_lt
  have := d.isLt
  have := a.isLt
  have := b.isLt
  have := t.code_lt
  refine Laws.SlotFields.of_raw rfl ?_
  simp only [FieldsFit, vCode]; omega
theorem Laws.SlotFields.vshl (gd : Guard) (d : Fin 32) (a : Fin 32) (cnt : ShCount) (t : IType) : Laws.SlotFields.Statement (.vshl gd d a cnt t) := by
  have := gd.code_lt
  have := d.isLt
  have := a.isLt
  have := cnt.bCode_lt
  have := cnt.xCode_lt
  have := t.code_lt
  refine Laws.SlotFields.of_raw rfl ?_
  simp only [FieldsFit, vCode]; omega
theorem Laws.SlotFields.vshr (gd : Guard) (d : Fin 32) (a : Fin 32) (cnt : ShCount) (t : IType) : Laws.SlotFields.Statement (.vshr gd d a cnt t) := by
  have := gd.code_lt
  have := d.isLt
  have := a.isLt
  have := cnt.bCode_lt
  have := cnt.xCode_lt
  have := t.code_lt
  refine Laws.SlotFields.of_raw rfl ?_
  simp only [FieldsFit, vCode]; omega
theorem Laws.SlotFields.vsar (gd : Guard) (d : Fin 32) (a : Fin 32) (cnt : ShCount) (t : IType) : Laws.SlotFields.Statement (.vsar gd d a cnt t) := by
  have := gd.code_lt
  have := d.isLt
  have := a.isLt
  have := cnt.bCode_lt
  have := cnt.xCode_lt
  have := t.code_lt
  refine Laws.SlotFields.of_raw rfl ?_
  simp only [FieldsFit, vCode]; omega
theorem Laws.SlotFields.vcmp (gd : Guard) (d : Fin 32) (a : Fin 32) (b : Fin 32) (cond : VCond) : Laws.SlotFields.Statement (.vcmp gd d a b cond) := by
  have := gd.code_lt
  have := d.isLt
  have := a.isLt
  have := b.isLt
  have := cond.toM_lt
  refine Laws.SlotFields.of_raw rfl ?_
  simp only [FieldsFit, vCode]; omega
theorem Laws.SlotFields.vsel (gd : Guard) (d : Fin 32) (a : Fin 32) (b : Fin 32) (c : Fin 32) : Laws.SlotFields.Statement (.vsel gd d a b c) := by
  have := gd.code_lt
  have := d.isLt
  have := a.isLt
  have := b.isLt
  have := c.isLt
  refine Laws.SlotFields.of_raw rfl ?_
  simp only [FieldsFit, vCode]; omega
theorem Laws.SlotFields.vdot (gd : Guard) (d : Fin 32) (a : Fin 32) (b : Fin 32) (dot : VDotArg) : Laws.SlotFields.Statement (.vdot gd d a b dot) := by
  have := gd.code_lt
  have := d.isLt
  have := a.isLt
  have := b.isLt
  have := dot.toM_lt
  refine Laws.SlotFields.of_raw rfl ?_
  simp only [FieldsFit, vCode]; omega
theorem Laws.SlotFields.vcvt (gd : Guard) (d : Fin 32) (a : Fin 32) (df : CvtType) (sf : CvtType) (rnd : Rnd) (prop : Bool) (part : BitVec 3) : Laws.SlotFields.Statement (.vcvt gd d a df sf rnd prop part) := by
  have := gd.code_lt
  have := d.isLt
  have := a.isLt
  have := df.code_lt
  have := sf.code_lt
  have := rnd.code_lt
  have := prop.toNat_lt
  have := part.isLt
  refine Laws.SlotFields.of_raw rfl ?_
  simp only [FieldsFit, vCode]; omega
theorem Laws.SlotFields.vpack (gd : Guard) (d : Fin 32) (a : Fin 32) (p : PackArg) : Laws.SlotFields.Statement (.vpack gd d a p) := by
  have := gd.code_lt
  have := d.isLt
  have := a.isLt
  have := p.bCode_lt
  have := p.xCode_lt
  have := p.toM_lt
  refine Laws.SlotFields.of_raw rfl ?_
  simp only [FieldsFit, vCode]; omega
theorem Laws.SlotFields.vunpk (gd : Guard) (d : Fin 32) (a : Fin 32) (p : UnpkArg) : Laws.SlotFields.Statement (.vunpk gd d a p) := by
  have := gd.code_lt
  have := d.isLt
  have := a.isLt
  have := p.xCode_lt
  have := p.toM_lt
  refine Laws.SlotFields.of_raw rfl ?_
  simp only [FieldsFit, vCode]; omega
theorem Laws.SlotFields.vsplat (gd : Guard) (d : Fin 32) (a : GOp) (t : VType) (x : BitVec 38) : Laws.SlotFields.Statement (.vsplat gd d a t x) := by
  have := gd.code_lt
  have := d.isLt
  have := a.code_lt
  have := t.code_lt
  have := x.isLt
  refine Laws.SlotFields.of_raw rfl ?_
  simp only [FieldsFit, vCode]; omega
theorem Laws.SlotFields.vext (gd : Guard) (d : GOp) (a : Fin 32) (b : GOp) (t : VType) (x : BitVec 38) : Laws.SlotFields.Statement (.vext gd d a b t x) := by
  have := gd.code_lt
  have := d.code_lt
  have := a.isLt
  have := b.code_lt
  have := t.code_lt
  have := x.isLt
  refine Laws.SlotFields.of_raw rfl ?_
  simp only [FieldsFit, vCode]; omega
theorem Laws.SlotFields.vins (gd : Guard) (d : Fin 32) (a : GOp) (b : GOp) (t : VType) (x : BitVec 38) : Laws.SlotFields.Statement (.vins gd d a b t x) := by
  have := gd.code_lt
  have := d.isLt
  have := a.code_lt
  have := b.code_lt
  have := t.code_lt
  have := x.isLt
  refine Laws.SlotFields.of_raw rfl ?_
  simp only [FieldsFit, vCode]; omega
theorem Laws.SlotFields.vperm (gd : Guard) (d : Fin 32) (a : Fin 32) (b : Fin 32) (c : Fin 32) (t : VType) : Laws.SlotFields.Statement (.vperm gd d a b c t) := by
  have := gd.code_lt
  have := d.isLt
  have := a.isLt
  have := b.isLt
  have := c.isLt
  have := t.code_lt
  refine Laws.SlotFields.of_raw rfl ?_
  simp only [FieldsFit, vCode]; omega
theorem Laws.SlotFields.vtbl (gd : Guard) (d : Fin 32) (a : Fin 32) (b : Fin 32) (tn : BitVec 3) (x : BitVec 38) : Laws.SlotFields.Statement (.vtbl gd d a b tn x) := by
  have := gd.code_lt
  have := d.isLt
  have := a.isLt
  have := b.isLt
  have := tn.isLt
  have := x.isLt
  refine Laws.SlotFields.of_raw rfl ?_
  simp only [FieldsFit, vCode]; omega
theorem Laws.SlotFields.vred (gd : Guard) (d : GOp) (a : Fin 32) (ra : VRedArg) : Laws.SlotFields.Statement (.vred gd d a ra) := by
  have := gd.code_lt
  have := d.code_lt
  have := a.isLt
  have := ra.toM_lt
  refine Laws.SlotFields.of_raw rfl ?_
  simp only [FieldsFit, vCode]; omega
theorem Laws.SlotFields.chain (gd : Guard) (d : GOp) (a : GOp) (b : GOp) (c : Fin 32) (sty : CvtType) (dty : CvtType) (rnd : Rnd) (prop : Bool) (ssp : Bool) (dsp : Bool) : Laws.SlotFields.Statement (.chain gd d a b c sty dty rnd prop ssp dsp) := by
  have := gd.code_lt
  have := d.code_lt
  have := a.code_lt
  have := b.code_lt
  have := c.isLt
  have := sty.code_lt
  have := dty.code_lt
  have := rnd.code_lt
  have := prop.toNat_lt
  have := ssp.toNat_lt
  have := dsp.toNat_lt
  refine Laws.SlotFields.of_raw rfl ?_
  simp only [FieldsFit, vCode]; omega
theorem Laws.SlotFields.ld (gd : Guard) (d : GOp) (a : GOp) (b : GOp) (w : BitVec 6) (sx : Bool) (o : LoadOrd) (sc : Scope) (x : BitVec 38) : Laws.SlotFields.Statement (.ld gd d a b w sx o sc x) := by
  have := gd.code_lt
  have := d.code_lt
  have := a.code_lt
  have := b.code_lt
  have := w.isLt
  have := sx.toNat_lt
  have := o.code_lt
  have := sc.code_lt
  have := x.isLt
  refine Laws.SlotFields.of_raw rfl ?_
  simp only [FieldsFit]; omega
theorem Laws.SlotFields.ldp (gd : Guard) (d : GOp) (a : GOp) (b : GOp) (w : BitVec 6) (sx : Bool) (o : LoadOrd) (sc : Scope) (x : BitVec 38) : Laws.SlotFields.Statement (.ldp gd d a b w sx o sc x) := by
  have := gd.code_lt
  have := d.code_lt
  have := a.code_lt
  have := b.code_lt
  have := w.isLt
  have := sx.toNat_lt
  have := o.code_lt
  have := sc.code_lt
  have := x.isLt
  refine Laws.SlotFields.of_raw rfl ?_
  simp only [FieldsFit]; omega
theorem Laws.SlotFields.st (gd : Guard) (d : GOp) (a : GOp) (b : GOp) (w : BitVec 6) (o : StoreOrd) (sc : Scope) (x : BitVec 38) : Laws.SlotFields.Statement (.st gd d a b w o sc x) := by
  have := gd.code_lt
  have := d.code_lt
  have := a.code_lt
  have := b.code_lt
  have := w.isLt
  have := o.code_lt
  have := sc.code_lt
  have := x.isLt
  refine Laws.SlotFields.of_raw rfl ?_
  simp only [FieldsFit]; omega
theorem Laws.SlotFields.stp (gd : Guard) (d : GOp) (a : GOp) (b : GOp) (w : BitVec 6) (o : StoreOrd) (sc : Scope) (x : BitVec 38) : Laws.SlotFields.Statement (.stp gd d a b w o sc x) := by
  have := gd.code_lt
  have := d.code_lt
  have := a.code_lt
  have := b.code_lt
  have := w.isLt
  have := o.code_lt
  have := sc.code_lt
  have := x.isLt
  refine Laws.SlotFields.of_raw rfl ?_
  simp only [FieldsFit]; omega
theorem Laws.SlotFields.vld (gd : Guard) (d : Fin 32) (a : GOp) (b : GOp) (o : LoadOrd) (sc : Scope) (x : BitVec 38) : Laws.SlotFields.Statement (.vld gd d a b o sc x) := by
  have := gd.code_lt
  have := d.isLt
  have := a.code_lt
  have := b.code_lt
  have := o.code_lt
  have := sc.code_lt
  have := x.isLt
  refine Laws.SlotFields.of_raw rfl ?_
  simp only [FieldsFit, vCode]; omega
theorem Laws.SlotFields.vst (gd : Guard) (d : Fin 32) (a : GOp) (b : GOp) (o : StoreOrd) (sc : Scope) (x : BitVec 38) : Laws.SlotFields.Statement (.vst gd d a b o sc x) := by
  have := gd.code_lt
  have := d.isLt
  have := a.code_lt
  have := b.code_lt
  have := o.code_lt
  have := sc.code_lt
  have := x.isLt
  refine Laws.SlotFields.of_raw rfl ?_
  simp only [FieldsFit, vCode]; omega
theorem Laws.SlotFields.vldp (gd : Guard) (d : Fin 32) (a : GOp) (b : GOp) (o : LoadOrd) (sc : Scope) (x : BitVec 38) : Laws.SlotFields.Statement (.vldp gd d a b o sc x) := by
  have := gd.code_lt
  have := d.isLt
  have := a.code_lt
  have := b.code_lt
  have := o.code_lt
  have := sc.code_lt
  have := x.isLt
  refine Laws.SlotFields.of_raw rfl ?_
  simp only [FieldsFit, vCode]; omega
theorem Laws.SlotFields.vstp (gd : Guard) (d : Fin 32) (a : GOp) (b : GOp) (o : StoreOrd) (sc : Scope) (x : BitVec 38) : Laws.SlotFields.Statement (.vstp gd d a b o sc x) := by
  have := gd.code_lt
  have := d.isLt
  have := a.code_lt
  have := b.code_lt
  have := o.code_lt
  have := sc.code_lt
  have := x.isLt
  refine Laws.SlotFields.of_raw rfl ?_
  simp only [FieldsFit, vCode]; omega
theorem Laws.SlotFields.pref (gd : Guard) (a : GOp) (b : GOp) (x : BitVec 38) : Laws.SlotFields.Statement (.pref gd a b x) := by
  have := gd.code_lt
  have := a.code_lt
  have := b.code_lt
  have := x.isLt
  refine Laws.SlotFields.of_raw rfl ?_
  simp only [FieldsFit]; omega
theorem Laws.SlotFields.dep (gd : Guard) (d : GOp) (a : GOp) (b : GOp) (cmb : Cmb) (o : StoreOrd) (sc : Scope) (x : BitVec 38) : Laws.SlotFields.Statement (.dep gd d a b cmb o sc x) := by
  have := gd.code_lt
  have := d.code_lt
  have := a.code_lt
  have := b.code_lt
  have := cmb.code_lt
  have := o.code_lt
  have := sc.code_lt
  have := x.isLt
  refine Laws.SlotFields.of_raw rfl ?_
  simp only [FieldsFit]; omega
theorem Laws.SlotFields.mrd (gd : Guard) (d : GOp) (a : GOp) (o : LoadOrd) (sc : Scope) (x : BitVec 38) : Laws.SlotFields.Statement (.mrd gd d a o sc x) := by
  have := gd.code_lt
  have := d.code_lt
  have := a.code_lt
  have := o.code_lt
  have := sc.code_lt
  have := x.isLt
  refine Laws.SlotFields.of_raw rfl ?_
  simp only [FieldsFit]; omega
theorem Laws.SlotFields.sense (gd : Guard) (d : GOp) (a : GOp) (win : Window) (rot : Bool) (o : LoadOrd) (sc : Scope) (x : BitVec 38) : Laws.SlotFields.Statement (.sense gd d a win rot o sc x) := by
  have := gd.code_lt
  have := d.code_lt
  have := a.code_lt
  have := win.toM_lt
  have := rot.toNat_lt
  have := o.code_lt
  have := sc.code_lt
  have := x.isLt
  refine Laws.SlotFields.of_raw rfl ?_
  simp only [FieldsFit]; omega
theorem Laws.SlotFields.tickr (gd : Guard) (d : GOp) (a : GOp) (x : BitVec 38) : Laws.SlotFields.Statement (.tickr gd d a x) := by
  have := gd.code_lt
  have := d.code_lt
  have := a.code_lt
  have := x.isLt
  refine Laws.SlotFields.of_raw rfl ?_
  simp only [FieldsFit]; omega
theorem Laws.SlotFields.tadv (gd : Guard) (d : GOp) (a : GOp) (x : BitVec 38) : Laws.SlotFields.Statement (.tadv gd d a x) := by
  have := gd.code_lt
  have := d.code_lt
  have := a.code_lt
  have := x.isLt
  refine Laws.SlotFields.of_raw rfl ?_
  simp only [FieldsFit]; omega
theorem Laws.SlotFields.amo (gd : Guard) (d : GOp) (a : GOp) (b : GOp) (f : AmoArg) (o : Ord) (sc : Scope) (x : BitVec 38) : Laws.SlotFields.Statement (.amo gd d a b f o sc x) := by
  have := gd.code_lt
  have := d.code_lt
  have := a.code_lt
  have := b.code_lt
  have := f.toM_lt
  have := o.code_lt
  have := sc.code_lt
  have := x.isLt
  refine Laws.SlotFields.of_raw rfl ?_
  simp only [FieldsFit]; omega
theorem Laws.SlotFields.cas (gd : Guard) (d : GOp) (a : GOp) (b : GOp) (c : GOp) (t : VType) (o : Ord) (sc : Scope) (x : BitVec 38) : Laws.SlotFields.Statement (.cas gd d a b c t o sc x) := by
  have := gd.code_lt
  have := d.code_lt
  have := a.code_lt
  have := b.code_lt
  have := c.code_lt
  have := t.code_lt
  have := o.code_lt
  have := sc.code_lt
  have := x.isLt
  refine Laws.SlotFields.of_raw rfl ?_
  simp only [FieldsFit]; omega
theorem Laws.SlotFields.red (gd : Guard) (a : GOp) (b : GOp) (f : AmoArg) (o : Ord) (sc : Scope) (x : BitVec 38) : Laws.SlotFields.Statement (.red gd a b f o sc x) := by
  have := gd.code_lt
  have := a.code_lt
  have := b.code_lt
  have := f.toM_lt
  have := o.code_lt
  have := sc.code_lt
  have := x.isLt
  refine Laws.SlotFields.of_raw rfl ?_
  simp only [FieldsFit]; omega
theorem Laws.SlotFields.fence (gd : Guard) (o : Ord) (sc : Scope) : Laws.SlotFields.Statement (.fence gd o sc) := by
  have := gd.code_lt
  have := o.code_lt
  have := sc.code_lt
  refine Laws.SlotFields.of_raw rfl ?_
  simp only [FieldsFit]; omega
theorem Laws.SlotFields.marm (gd : Guard) (a : GOp) (w : BitVec 6) (mon : BitVec 2) (sp : Bool) (x : BitVec 38) : Laws.SlotFields.Statement (.marm gd a w mon sp x) := by
  have := gd.code_lt
  have := a.code_lt
  have := w.isLt
  have := mon.isLt
  have := sp.toNat_lt
  have := x.isLt
  refine Laws.SlotFields.of_raw rfl ?_
  simp only [FieldsFit]; omega
theorem Laws.SlotFields.waita (gd : Guard) (d : GOp) (a : GOp) (x : BitVec 38) : Laws.SlotFields.Statement (.waita gd d a x) := by
  have := gd.code_lt
  have := d.code_lt
  have := a.code_lt
  have := x.isLt
  refine Laws.SlotFields.of_raw rfl ?_
  simp only [FieldsFit]; omega
theorem Laws.SlotFields.mdis (gd : Guard) (mon : BitVec 2) (all : Bool) : Laws.SlotFields.Statement (.mdis gd mon all) := by
  have := gd.code_lt
  have := mon.isLt
  have := all.toNat_lt
  refine Laws.SlotFields.of_raw rfl ?_
  simp only [FieldsFit]; omega
theorem Laws.SlotFields.copy (gd : Guard) (d : GOp) (a : GOp) (b : GOp) (mode : CopyMode) (tag : BitVec 6) (sc : Scope) (prop : Bool) (ta : BitVec 12) (tb : BitVec 12) (lm : BitVec 3) (ln : BitVec 3) : Laws.SlotFields.Statement (.copy gd d a b mode tag sc prop ta tb lm ln) := by
  have := gd.code_lt
  have := d.code_lt
  have := a.code_lt
  have := b.code_lt
  have := mode.cCode_lt
  have := mode.toM_lt
  have := tag.isLt
  have := sc.code_lt
  have := prop.toNat_lt
  have := ta.isLt
  have := tb.isLt
  have := lm.isLt
  have := ln.isLt
  refine Laws.SlotFields.of_raw rfl ?_
  simp only [FieldsFit, eBits]; omega
theorem Laws.SlotFields.copyv (gd : Guard) (d : GOp) (a : GOp) (b : GOp) (c : GOp) (tag : BitVec 6) (sc : Scope) (prop : Bool) (ta : BitVec 12) (tb : BitVec 12) (lm : BitVec 3) (ln : BitVec 3) : Laws.SlotFields.Statement (.copyv gd d a b c tag sc prop ta tb lm ln) := by
  have := gd.code_lt
  have := d.code_lt
  have := a.code_lt
  have := b.code_lt
  have := c.code_lt
  have := tag.isLt
  have := sc.code_lt
  have := prop.toNat_lt
  have := ta.isLt
  have := tb.isLt
  have := lm.isLt
  have := ln.isLt
  refine Laws.SlotFields.of_raw rfl ?_
  simp only [FieldsFit, eBits]; omega
theorem Laws.SlotFields.cstage (gd : Guard) (d : GOp) (a : GOp) (x : BitVec 38) : Laws.SlotFields.Statement (.cstage gd d a x) := by
  have := gd.code_lt
  have := d.code_lt
  have := a.code_lt
  have := x.isLt
  refine Laws.SlotFields.of_raw rfl ?_
  simp only [FieldsFit]; omega
theorem Laws.SlotFields.wmark (gd : Guard) (d : GOp) (a : GOp) (b : GOp) (tag : BitVec 6) (ch : BitVec 2) (sc : Scope) (prop : Bool) (ta : BitVec 12) (tb : BitVec 12) (lm : BitVec 3) (ln : BitVec 3) : Laws.SlotFields.Statement (.wmark gd d a b tag ch sc prop ta tb lm ln) := by
  have := gd.code_lt
  have := d.code_lt
  have := a.code_lt
  have := b.code_lt
  have := tag.isLt
  have := ch.isLt
  have := sc.code_lt
  have := prop.toNat_lt
  have := ta.isLt
  have := tb.isLt
  have := lm.isLt
  have := ln.isLt
  refine Laws.SlotFields.of_raw rfl ?_
  simp only [FieldsFit, eBits]; omega
theorem Laws.SlotFields.twait (gd : Guard) (a : GOp) (x : BitVec 38) : Laws.SlotFields.Statement (.twait gd a x) := by
  have := gd.code_lt
  have := a.code_lt
  have := x.isLt
  refine Laws.SlotFields.of_raw rfl ?_
  simp only [FieldsFit]; omega
theorem Laws.SlotFields.tfind (gd : Guard) (d : GOp) (a : GOp) (x : BitVec 38) : Laws.SlotFields.Statement (.tfind gd d a x) := by
  have := gd.code_lt
  have := d.code_lt
  have := a.code_lt
  have := x.isLt
  refine Laws.SlotFields.of_raw rfl ?_
  simp only [FieldsFit]; omega
theorem Laws.SlotFields.tclr (gd : Guard) (a : GOp) (x : BitVec 38) : Laws.SlotFields.Statement (.tclr gd a x) := by
  have := gd.code_lt
  have := a.code_lt
  have := x.isLt
  refine Laws.SlotFields.of_raw rfl ?_
  simp only [FieldsFit]; omega
theorem Laws.SlotFields.mdld (gd : Guard) (d : GOp) (a : GOp) (b : GOp) (tag : BitVec 6) (ta : BitVec 12) (lm : BitVec 3) (ln : BitVec 3) : Laws.SlotFields.Statement (.mdld gd d a b tag ta lm ln) := by
  have := gd.code_lt
  have := d.code_lt
  have := a.code_lt
  have := b.code_lt
  have := tag.isLt
  have := ta.isLt
  have := lm.isLt
  have := ln.isLt
  refine Laws.SlotFields.of_raw rfl ?_
  simp only [FieldsFit, eBits]; omega
theorem Laws.SlotFields.tdset (gd : Guard) (a : Fin 32) (ta : BitVec 12) : Laws.SlotFields.Statement (.tdset gd a ta) := by
  have := gd.code_lt
  have := a.isLt
  have := ta.isLt
  refine Laws.SlotFields.of_raw rfl ?_
  simp only [FieldsFit, vCode, eBits]; omega
theorem Laws.SlotFields.tdget (gd : Guard) (d : Fin 32) (ta : BitVec 12) : Laws.SlotFields.Statement (.tdget gd d ta) := by
  have := gd.code_lt
  have := d.isLt
  have := ta.isLt
  refine Laws.SlotFields.of_raw rfl ?_
  simp only [FieldsFit, vCode, eBits]; omega
theorem Laws.SlotFields.lset (gd : Guard) (a : GOp) (cp : Bool) (lr : BitVec 3) (x : BitVec 38) : Laws.SlotFields.Statement (.lset gd a cp lr x) := by
  have := gd.code_lt
  have := a.code_lt
  have := cp.toNat_lt
  have := lr.isLt
  have := x.isLt
  refine Laws.SlotFields.of_raw rfl ?_
  simp only [FieldsFit]; omega
theorem Laws.SlotFields.mjob (gd : Guard) (d : GOp) (a : GOp) (b : GOp) (c : GOp) (hdr : BitVec 3) (pro : BitVec 6) (cvt : Bool) (prop : Bool) (ta : BitVec 12) (tb : BitVec 12) (lm : BitVec 3) (ln : BitVec 3) (lk : BitVec 3) (xo : BitVec 5) : Laws.SlotFields.Statement (.mjob gd d a b c hdr pro cvt prop ta tb lm ln lk xo) := by
  have := gd.code_lt
  have := d.code_lt
  have := a.code_lt
  have := b.code_lt
  have := c.code_lt
  have := hdr.isLt
  have := pro.isLt
  have := cvt.toNat_lt
  have := prop.toNat_lt
  have := ta.isLt
  have := tb.isLt
  have := lm.isLt
  have := ln.isLt
  have := lk.isLt
  have := xo.isLt
  refine Laws.SlotFields.of_raw rfl ?_
  simp only [FieldsFit, eBits]; omega
theorem Laws.SlotFields.mjobr (gd : Guard) (d : GOp) (a : GOp) (b : GOp) (c : Fin 63) (hdr : BitVec 3) (pro : BitVec 6) (cvt : Bool) (prop : Bool) (ta : BitVec 12) (tb : BitVec 12) (lm : BitVec 3) (ln : BitVec 3) (lk : BitVec 3) (xo : BitVec 5) : Laws.SlotFields.Statement (.mjobr gd d a b c hdr pro cvt prop ta tb lm ln lk xo) := by
  have := gd.code_lt
  have := d.code_lt
  have := a.code_lt
  have := b.code_lt
  have := c.isLt
  have := hdr.isLt
  have := pro.isLt
  have := cvt.toNat_lt
  have := prop.toNat_lt
  have := ta.isLt
  have := tb.isLt
  have := lm.isLt
  have := ln.isLt
  have := lk.isLt
  have := xo.isLt
  refine Laws.SlotFields.of_raw rfl ?_
  simp only [FieldsFit, eBits]; omega
theorem Laws.SlotFields.mpoll (gd : Guard) (d : GOp) : Laws.SlotFields.Statement (.mpoll gd d) := by
  have := gd.code_lt
  have := d.code_lt
  refine Laws.SlotFields.of_raw rfl ?_
  simp only [FieldsFit]; omega
theorem Laws.SlotFields.mwait (gd : Guard) (d : GOp) : Laws.SlotFields.Statement (.mwait gd d) := by
  have := gd.code_lt
  have := d.code_lt
  refine Laws.SlotFields.of_raw rfl ?_
  simp only [FieldsFit]; omega
theorem Laws.SlotFields.mclr (gd : Guard) (hdr : BitVec 3) : Laws.SlotFields.Statement (.mclr gd hdr) := by
  have := gd.code_lt
  have := hdr.isLt
  refine Laws.SlotFields.of_raw rfl ?_
  simp only [FieldsFit]; omega
theorem Laws.SlotFields.mburst (gd : Guard) (lm : BitVec 3) : Laws.SlotFields.Statement (.mburst gd lm) := by
  have := gd.code_lt
  have := lm.isLt
  refine Laws.SlotFields.of_raw rfl ?_
  simp only [FieldsFit, eBits]; omega
theorem Laws.SlotFields.addw (gd : Guard) (a : GV) (sf : AddwType) : Laws.SlotFields.Statement (.addw gd a sf) := by
  have := gd.code_lt
  have := a.code_lt
  have := sf.code_lt
  refine Laws.SlotFields.of_raw rfl ?_
  simp only [FieldsFit]; omega
theorem Laws.SlotFields.rndw (gd : Guard) (d : GOp) (clr : Bool) : Laws.SlotFields.Statement (.rndw gd d clr) := by
  have := gd.code_lt
  have := d.code_lt
  have := clr.toNat_lt
  refine Laws.SlotFields.of_raw rfl ?_
  simp only [FieldsFit]; omega
theorem Laws.SlotFields.clrw (gd : Guard) : Laws.SlotFields.Statement (.clrw gd) := by
  have := gd.code_lt
  refine Laws.SlotFields.of_raw rfl ?_
  simp only [FieldsFit]; omega
theorem Laws.SlotFields.fork (gd : Guard) (d : GOp) (a : GOp) (b : GOp) (pri : PriSel) (x : BitVec 38) : Laws.SlotFields.Statement (.fork gd d a b pri x) := by
  have := gd.code_lt
  have := d.code_lt
  have := a.code_lt
  have := b.code_lt
  have := pri.code_lt
  have := x.isLt
  refine Laws.SlotFields.of_raw rfl ?_
  simp only [FieldsFit]; omega
theorem Laws.SlotFields.join (gd : Guard) (a : GOp) : Laws.SlotFields.Statement (.join gd a) := by
  have := gd.code_lt
  have := a.code_lt
  refine Laws.SlotFields.of_raw rfl ?_
  simp only [FieldsFit]; omega
theorem Laws.SlotFields.spawnr (gd : Guard) (d : GOp) (a : GOp) (b : GOp) (c : GOp) (pri : PriSel) (grain : BitVec 6) (x : BitVec 38) : Laws.SlotFields.Statement (.spawnr gd d a b c pri grain x) := by
  have := gd.code_lt
  have := d.code_lt
  have := a.code_lt
  have := b.code_lt
  have := c.code_lt
  have := pri.code_lt
  have := grain.isLt
  have := x.isLt
  refine Laws.SlotFields.of_raw rfl ?_
  simp only [FieldsFit]; omega
theorem Laws.SlotFields.rnext (gd : Guard) (d : GOp) : Laws.SlotFields.Statement (.rnext gd d) := by
  have := gd.code_lt
  have := d.code_lt
  refine Laws.SlotFields.of_raw rfl ?_
  simp only [FieldsFit]; omega
theorem Laws.SlotFields.steal (gd : Guard) (d : GOp) (win : Window) : Laws.SlotFields.Statement (.steal gd d win) := by
  have := gd.code_lt
  have := d.code_lt
  have := win.toM_lt
  refine Laws.SlotFields.of_raw rfl ?_
  simp only [FieldsFit]; omega
theorem Laws.SlotFields.yield (gd : Guard) : Laws.SlotFields.Statement (.yield gd) := by
  have := gd.code_lt
  refine Laws.SlotFields.of_raw rfl ?_
  simp only [FieldsFit]; omega
theorem Laws.SlotFields.exit (gd : Guard) : Laws.SlotFields.Statement (.exit gd) := by
  have := gd.code_lt
  refine Laws.SlotFields.of_raw rfl ?_
  simp only [FieldsFit]; omega
theorem Laws.SlotFields.lvladdAdd (gd : Guard) (d : GOp) (a : GOp) (b : GOp) (x : BitVec 38) : Laws.SlotFields.Statement (.lvladdAdd gd d a b x) := by
  have := gd.code_lt
  have := d.code_lt
  have := a.code_lt
  have := b.code_lt
  have := x.isLt
  refine Laws.SlotFields.of_raw rfl ?_
  simp only [FieldsFit]; omega
theorem Laws.SlotFields.lvladdOpen (gd : Guard) (d : GOp) (a : GOp) (b : GOp) (lvl : OpenLevel) (x : BitVec 38) : Laws.SlotFields.Statement (.lvladdOpen gd d a b lvl x) := by
  have := gd.code_lt
  have := d.code_lt
  have := a.code_lt
  have := b.code_lt
  have := lvl.code_lt
  have := x.isLt
  refine Laws.SlotFields.of_raw rfl ?_
  simp only [FieldsFit]; omega
theorem Laws.SlotFields.lvladdDrain (gd : Guard) (d : GOp) (a : GOp) (b : GOp) (x : BitVec 38) : Laws.SlotFields.Statement (.lvladdDrain gd d a b x) := by
  have := gd.code_lt
  have := d.code_lt
  have := a.code_lt
  have := b.code_lt
  have := x.isLt
  refine Laws.SlotFields.of_raw rfl ?_
  simp only [FieldsFit]; omega
theorem Laws.SlotFields.lvlwait (gd : Guard) (d : GOp) (a : GOp) : Laws.SlotFields.Statement (.lvlwait gd d a) := by
  have := gd.code_lt
  have := d.code_lt
  have := a.code_lt
  refine Laws.SlotFields.of_raw rfl ?_
  simp only [FieldsFit]; omega
theorem Laws.SlotFields.cancel (gd : Guard) (a : GOp) : Laws.SlotFields.Statement (.cancel gd a) := by
  have := gd.code_lt
  have := a.code_lt
  refine Laws.SlotFields.of_raw rfl ?_
  simp only [FieldsFit]; omega
theorem Laws.SlotFields.clamp (gd : Guard) (d : GOp) (a : GOp) (x : BitVec 38) : Laws.SlotFields.Statement (.clamp gd d a x) := by
  have := gd.code_lt
  have := d.code_lt
  have := a.code_lt
  have := x.isLt
  refine Laws.SlotFields.of_raw rfl ?_
  simp only [FieldsFit]; omega
theorem Laws.SlotFields.launch (gd : Guard) (d : GOp) (a : GOp) (b : GOp) (c : GOp) : Laws.SlotFields.Statement (.launch gd d a b c) := by
  have := gd.code_lt
  have := d.code_lt
  have := a.code_lt
  have := b.code_lt
  have := c.code_lt
  refine Laws.SlotFields.of_raw rfl ?_
  simp only [FieldsFit]; omega
theorem Laws.SlotFields.dqpush (gd : Guard) (a : GOp) (b : GOp) (c : GOp) (q : BitVec 5) : Laws.SlotFields.Statement (.dqpush gd a b c q) := by
  have := gd.code_lt
  have := a.code_lt
  have := b.code_lt
  have := c.code_lt
  have := q.isLt
  refine Laws.SlotFields.of_raw rfl ?_
  simp only [FieldsFit]; omega
theorem Laws.SlotFields.dqpop (gd : Guard) (d : Fin 32) (q : BitVec 5) : Laws.SlotFields.Statement (.dqpop gd d q) := by
  have := gd.code_lt
  have := d.isLt
  have := q.isLt
  refine Laws.SlotFields.of_raw rfl ?_
  simp only [FieldsFit, vCode]; omega
theorem Laws.SlotFields.arradd (gd : Guard) (d : GOp) (a : GOp) (b : GOp) (c : GOp) (arr : BitVec 4) : Laws.SlotFields.Statement (.arradd gd d a b c arr) := by
  have := gd.code_lt
  have := d.code_lt
  have := a.code_lt
  have := b.code_lt
  have := c.code_lt
  have := arr.isLt
  refine Laws.SlotFields.of_raw rfl ?_
  simp only [FieldsFit]; omega
theorem Laws.SlotFields.arrget (gd : Guard) (d : GOp) (a : GOp) (b : GOp) (c : GOp) (arr : BitVec 4) : Laws.SlotFields.Statement (.arrget gd d a b c arr) := by
  have := gd.code_lt
  have := d.code_lt
  have := a.code_lt
  have := b.code_lt
  have := c.code_lt
  have := arr.isLt
  refine Laws.SlotFields.of_raw rfl ?_
  simp only [FieldsFit]; omega
theorem Laws.SlotFields.qwait (gd : Guard) (a : GOp) (b : GOp) : Laws.SlotFields.Statement (.qwait gd a b) := by
  have := gd.code_lt
  have := a.code_lt
  have := b.code_lt
  refine Laws.SlotFields.of_raw rfl ?_
  simp only [FieldsFit]; omega
theorem Laws.SlotFields.trap (gd : Guard) (x : BitVec 38) : Laws.SlotFields.Statement (.trap gd x) := by
  have := gd.code_lt
  have := x.isLt
  refine Laws.SlotFields.of_raw rfl ?_
  simp only [FieldsFit]; omega
theorem Laws.SlotFields.rett (gd : Guard) : Laws.SlotFields.Statement (.rett gd) := by
  have := gd.code_lt
  refine Laws.SlotFields.of_raw rfl ?_
  simp only [FieldsFit]; omega
theorem Laws.SlotFields.crr (gd : Guard) (d : GOp) (hi : Bool) (cr : Cr) : Laws.SlotFields.Statement (.crr gd d hi cr) := by
  have := gd.code_lt
  have := d.code_lt
  have := hi.toNat_lt
  have := cr.code_lt
  refine Laws.SlotFields.of_raw rfl ?_
  simp only [FieldsFit]; omega
theorem Laws.SlotFields.crw (gd : Guard) (a : GOp) (hi : Bool) (cr : Cr) : Laws.SlotFields.Statement (.crw gd a hi cr) := by
  have := gd.code_lt
  have := a.code_lt
  have := hi.toNat_lt
  have := cr.code_lt
  refine Laws.SlotFields.of_raw rfl ?_
  simp only [FieldsFit]; omega
theorem Laws.SlotFields.tlbinv (gd : Guard) (a : GOp) (b : GOp) (all : Bool) : Laws.SlotFields.Statement (.tlbinv gd a b all) := by
  have := gd.code_lt
  have := a.code_lt
  have := b.code_lt
  have := all.toNat_lt
  refine Laws.SlotFields.of_raw rfl ?_
  simp only [FieldsFit]; omega
theorem Laws.SlotFields.replay (gd : Guard) (a : GOp) : Laws.SlotFields.Statement (.replay gd a) := by
  have := gd.code_lt
  have := a.code_lt
  refine Laws.SlotFields.of_raw rfl ?_
  simp only [FieldsFit]; omega
theorem Laws.SlotFields.seal (gd : Guard) (d : GOp) (a : GOp) (b : GOp) (c : GOp) : Laws.SlotFields.Statement (.seal gd d a b c) := by
  have := gd.code_lt
  have := d.code_lt
  have := a.code_lt
  have := b.code_lt
  have := c.code_lt
  refine Laws.SlotFields.of_raw rfl ?_
  simp only [FieldsFit]; omega
theorem Laws.SlotFields.unseal (gd : Guard) (d : GOp) (a : GOp) (b : GOp) (c : GOp) : Laws.SlotFields.Statement (.unseal gd d a b c) := by
  have := gd.code_lt
  have := d.code_lt
  have := a.code_lt
  have := b.code_lt
  have := c.code_lt
  refine Laws.SlotFields.of_raw rfl ?_
  simp only [FieldsFit]; omega
theorem Laws.SlotFields.feat (gd : Guard) (d : Fin 8) (a : GOp) (x : BitVec 38) : Laws.SlotFields.Statement (.feat gd d a x) := by
  have := gd.code_lt
  have := d.isLt
  have := a.code_lt
  have := x.isLt
  refine Laws.SlotFields.of_raw rfl ?_
  simp only [FieldsFit, kCode]; omega
theorem Laws.SlotFields.handlerRecordPush (ptag : Nat) (node : Nat) : Laws.SlotFields.Statement (.handlerRecordPush ptag node) := trivial
theorem Laws.SlotFields.waitaWake (c : Nat) (l : Nat) : Laws.SlotFields.Statement (.waitaWake c l) := trivial
theorem Laws.SlotFields.waitaTimeout (c : Nat) (l : Nat) : Laws.SlotFields.Statement (.waitaTimeout c l) := trivial
theorem Laws.SlotFields.twaitWake (c : Nat) (l : Nat) : Laws.SlotFields.Statement (.twaitWake c l) := trivial
theorem Laws.SlotFields.mwaitWake (c : Nat) (l : Nat) : Laws.SlotFields.Statement (.mwaitWake c l) := trivial
theorem Laws.SlotFields.commandPlaceWake (c : Nat) (l : Nat) : Laws.SlotFields.Statement (.commandPlaceWake c l) := trivial
theorem Laws.SlotFields.watermarkStallEnd (c : Nat) (l : Nat) : Laws.SlotFields.Statement (.watermarkStallEnd c l) := trivial
theorem Laws.SlotFields.lvlwaitWake (c : Nat) (l : Nat) : Laws.SlotFields.Statement (.lvlwaitWake c l) := trivial
theorem Laws.SlotFields.dqpopWake (c : Nat) (l : Nat) : Laws.SlotFields.Statement (.dqpopWake c l) := trivial
theorem Laws.SlotFields.qwaitWake (c : Nat) (l : Nat) : Laws.SlotFields.Statement (.qwaitWake c l) := trivial
theorem Laws.SlotFields.tlbinvDone (c : Nat) (l : Nat) : Laws.SlotFields.Statement (.tlbinvDone c l) := trivial
theorem Laws.SlotFields.sealComplete (c : Nat) (l : Nat) (nonce : Nat) (size : Nat) : Laws.SlotFields.Statement (.sealComplete c l nonce size) := trivial
theorem Laws.SlotFields.unsealComplete (c : Nat) (l : Nat) (frames : List Nat) (keys : List Nat) (tables : List Nat) : Laws.SlotFields.Statement (.unsealComplete c l frames keys tables) := trivial
theorem Laws.SlotFields.homeSliceAccess (c : Nat) (i : Nat) (softErr : Bool) : Laws.SlotFields.Statement (.homeSliceAccess c i softErr) := trivial
theorem Laws.SlotFields.redPerform (c : Nat) (i : Nat) (softErr : Bool) : Laws.SlotFields.Statement (.redPerform c i softErr) := trivial
theorem Laws.SlotFields.loadReturn (c : Nat) (i : Nat) : Laws.SlotFields.Statement (.loadReturn c i) := trivial
theorem Laws.SlotFields.lineParityRefetch (c : Nat) (l : Nat) : Laws.SlotFields.Statement (.lineParityRefetch c l) := trivial
theorem Laws.SlotFields.groupOpenDeferred (die : Nat) (i : Nat) : Laws.SlotFields.Statement (.groupOpenDeferred die i) := trivial
theorem Laws.SlotFields.pageWalkComplete (die : Nat) (i : Nat) (bad : Option Nat) : Laws.SlotFields.Statement (.pageWalkComplete die i bad) := trivial
theorem Laws.SlotFields.retryWalk (die : Nat) (i : Nat) (bad : Option Nat) : Laws.SlotFields.Statement (.retryWalk die i bad) := trivial
theorem Laws.SlotFields.faultBufferClr (ptag : Nat) : Laws.SlotFields.Statement (.faultBufferClr ptag) := trivial
theorem Laws.SlotFields.faultBufferDropClear (ptag : Nat) : Laws.SlotFields.Statement (.faultBufferDropClear ptag) := trivial
theorem Laws.SlotFields.errorLogEntry (die : Nat) (pa : Nat) (hard : Bool) : Laws.SlotFields.Statement (.errorLogEntry die pa hard) := trivial
theorem Laws.SlotFields.engineSchedule (cl : Nat) (mat : Bool) : Laws.SlotFields.Statement (.engineSchedule cl mat) := trivial
theorem Laws.SlotFields.copyStep (cl : Nat) (turn : CopyTurn) : Laws.SlotFields.Statement (.copyStep cl turn) := trivial
theorem Laws.SlotFields.copyComplete (cl : Nat) : Laws.SlotFields.Statement (.copyComplete cl) := trivial
theorem Laws.SlotFields.forwardReservation (cl : Nat) : Laws.SlotFields.Statement (.forwardReservation cl) := trivial
theorem Laws.SlotFields.forwardReservationTimeout (cl : Nat) : Laws.SlotFields.Statement (.forwardReservationTimeout cl) := trivial
theorem Laws.SlotFields.scheduleEntryStart (cl : Nat) : Laws.SlotFields.Statement (.scheduleEntryStart cl) := trivial
theorem Laws.SlotFields.matrixStep (cl : Nat) (softErr : Option Nat) : Laws.SlotFields.Statement (.matrixStep cl softErr) := trivial
theorem Laws.SlotFields.matrixJobComplete (cl : Nat) : Laws.SlotFields.Statement (.matrixJobComplete cl) := trivial
theorem Laws.SlotFields.resultRecordEnter (c : Nat) : Laws.SlotFields.Statement (.resultRecordEnter c) := trivial
theorem Laws.SlotFields.mjobrArrival (c : Nat) (i : Nat) : Laws.SlotFields.Statement (.mjobrArrival c i) := trivial
theorem Laws.SlotFields.remotePlaceGrant (cl : Nat) : Laws.SlotFields.Statement (.remotePlaceGrant cl) := trivial
theorem Laws.SlotFields.mburstTimeout (c : Nat) : Laws.SlotFields.Statement (.mburstTimeout c) := trivial
theorem Laws.SlotFields.rampDown (cl : Nat) : Laws.SlotFields.Statement (.rampDown cl) := trivial
theorem Laws.SlotFields.budgetReserve (cl : Nat) : Laws.SlotFields.Statement (.budgetReserve cl) := trivial
theorem Laws.SlotFields.commandAging (c : Nat) (mat : Bool) (i : Nat) : Laws.SlotFields.Statement (.commandAging c mat i) := trivial
theorem Laws.SlotFields.slotFill (c : Nat) : Laws.SlotFields.Statement (.slotFill c) := trivial
theorem Laws.SlotFields.recordAging (c : Nat) (i : Nat) : Laws.SlotFields.Statement (.recordAging c i) := trivial
theorem Laws.SlotFields.implicitSteal (c : Nat) : Laws.SlotFields.Statement (.implicitSteal c) := trivial
theorem Laws.SlotFields.stealRequestServe (i : Nat) : Laws.SlotFields.Statement (.stealRequestServe i) := trivial
theorem Laws.SlotFields.stealReply (i : Nat) : Laws.SlotFields.Statement (.stealReply i) := trivial
theorem Laws.SlotFields.heldRecordPush (ptag : Nat) (node : Nat) : Laws.SlotFields.Statement (.heldRecordPush ptag node) := trivial
theorem Laws.SlotFields.cancelPropagate (ptag : Nat) (node : Nat) : Laws.SlotFields.Statement (.cancelPropagate ptag node) := trivial
theorem Laws.SlotFields.progressCheckReport (c : Nat) (l : Nat) : Laws.SlotFields.Statement (.progressCheckReport c l) := trivial
theorem Laws.SlotFields.deltaConsolidate (c : Nat) (i : Nat) : Laws.SlotFields.Statement (.deltaConsolidate c i) := trivial
theorem Laws.SlotFields.bufferTimedDrain (ptag : Nat) (q : Nat) : Laws.SlotFields.Statement (.bufferTimedDrain ptag q) := trivial
theorem Laws.SlotFields.drainRingRoom (ptag : Nat) (q : Nat) : Laws.SlotFields.Statement (.drainRingRoom ptag q) := trivial
theorem Laws.SlotFields.stageBatchForm (ptag : Nat) (q : Nat) : Laws.SlotFields.Statement (.stageBatchForm ptag q) := trivial
theorem Laws.SlotFields.clampArrive (ptag : Nat) (i : Nat) : Laws.SlotFields.Statement (.clampArrive ptag i) := trivial
theorem Laws.SlotFields.clampWake (c : Nat) (l : Nat) : Laws.SlotFields.Statement (.clampWake c l) := trivial
theorem Laws.SlotFields.tickAdvance (ptag : Nat) (fid : Nat) : Laws.SlotFields.Statement (.tickAdvance ptag fid) := trivial
theorem Laws.SlotFields.fieldTimerTick (ptag : Nat) (fid : Nat) : Laws.SlotFields.Statement (.fieldTimerTick ptag fid) := trivial
theorem Laws.SlotFields.fettlerNormalise (ptag : Nat) (fid : Nat) (cell : Nat) : Laws.SlotFields.Statement (.fettlerNormalise ptag fid cell) := trivial
theorem Laws.SlotFields.fieldFreeze (ptag : Nat) (fid : Nat) : Laws.SlotFields.Statement (.fieldFreeze ptag fid) := trivial
theorem Laws.SlotFields.fieldThaw (ptag : Nat) (fid : Nat) : Laws.SlotFields.Statement (.fieldThaw ptag fid) := trivial
theorem Laws.SlotFields.launchPlacement (ptag : Nat) (areas : List Nat) : Laws.SlotFields.Statement (.launchPlacement ptag areas) := trivial
theorem Laws.SlotFields.launchRetire (ptag : Nat) (i : Nat) : Laws.SlotFields.Statement (.launchRetire ptag i) := trivial
theorem Laws.SlotFields.lateCaptureReplay (c : Nat) (again : Bool) : Laws.SlotFields.Statement (.lateCaptureReplay c again) := trivial
theorem Laws.SlotFields.budgetDivision (measured : Nat) (demands : List (Nat × Nat)) (volts : List (Nat × Nat)) (energy : List (Nat × Nat)) : Laws.SlotFields.Statement (.budgetDivision measured demands volts energy) := trivial
theorem Laws.SlotFields.thermalReport (temps : List Int) : Laws.SlotFields.Statement (.thermalReport temps) := trivial
theorem Laws.SlotFields.capWrite (watts : Nat) : Laws.SlotFields.Statement (.capWrite watts) := trivial
theorem Laws.SlotFields.snapshotTrigger : Laws.SlotFields.Statement (.snapshotTrigger) := trivial
theorem Laws.SlotFields.snapshotLatch : Laws.SlotFields.Statement (.snapshotLatch) := trivial
theorem Laws.SlotFields.heartbeatWrite (v : Word) : Laws.SlotFields.Statement (.heartbeatWrite v) := trivial
theorem Laws.SlotFields.heartbeatMiss : Laws.SlotFields.Statement (.heartbeatMiss) := trivial
theorem Laws.SlotFields.enjClear (ptag : Nat) (mask : Word) : Laws.SlotFields.Statement (.enjClear ptag mask) := trivial
theorem Laws.SlotFields.gateBegin (unit : GateUnit) : Laws.SlotFields.Statement (.gateBegin unit) := trivial
theorem Laws.SlotFields.gateWake (unit : GateUnit) : Laws.SlotFields.Statement (.gateWake unit) := trivial
theorem Laws.SlotFields.clockRestart (c : Nat) : Laws.SlotFields.Statement (.clockRestart c) := trivial
theorem Laws.SlotFields.powerGood (image : FwImage) (backup : FwImage) (units : List UnitOutcome) (mgmt : List (Nat × Nat)) (svcRoot : Nat) : Laws.SlotFields.Statement (.powerGood image backup units mgmt svcRoot) := trivial
theorem Laws.SlotFields.unitRedo (o : UnitOutcome) : Laws.SlotFields.Statement (.unitRedo o) := trivial
theorem Laws.SlotFields.portEnable (p : Nat) : Laws.SlotFields.Statement (.portEnable p) := trivial
theorem Laws.SlotFields.portDisable (p : Nat) : Laws.SlotFields.Statement (.portDisable p) := trivial
theorem Laws.SlotFields.portTrained (p : Nat) (dev : Nat) (pport : Nat) : Laws.SlotFields.Statement (.portTrained p dev pport) := trivial
theorem Laws.SlotFields.trainingTimeout (p : Nat) : Laws.SlotFields.Statement (.trainingTimeout p) := trivial
theorem Laws.SlotFields.lossOfSignal (p : Nat) : Laws.SlotFields.Statement (.lossOfSignal p) := trivial
theorem Laws.SlotFields.flitReplay (p : Nat) (crc : Bool) (same : Bool) : Laws.SlotFields.Statement (.flitReplay p crc same) := trivial
theorem Laws.SlotFields.peerResponse (i : Nat) (r : PeerAnswer) : Laws.SlotFields.Statement (.peerResponse i r) := trivial
theorem Laws.SlotFields.peerAccessTimeout (i : Nat) : Laws.SlotFields.Statement (.peerAccessTimeout i) := trivial
theorem Laws.SlotFields.collectivePost (ptag : Nat) : Laws.SlotFields.Statement (.collectivePost ptag) := trivial
theorem Laws.SlotFields.collectiveComplete (grp : Nat) (parts : List (Nat × Contribution)) : Laws.SlotFields.Statement (.collectiveComplete grp parts) := trivial
theorem Laws.SlotFields.collectiveTimeout (grp : Nat) (dev : Nat) : Laws.SlotFields.Statement (.collectiveTimeout grp dev) := trivial
theorem Laws.SlotFields.uePacketReceive (p : Nat) (pkt : UePacket) : Laws.SlotFields.Statement (.uePacketReceive p pkt) := trivial
theorem Laws.SlotFields.rmaWriteComplete (p : Nat) : Laws.SlotFields.Statement (.rmaWriteComplete p) := trivial
theorem Laws.SlotFields.buildRequest (h : ReqHdr) (body : BuildBody) : Laws.SlotFields.Statement (.buildRequest h body) := trivial
theorem Laws.SlotFields.freeRequest (h : ReqHdr) : Laws.SlotFields.Statement (.freeRequest h) := trivial
theorem Laws.SlotFields.loadRequest (h : ReqHdr) (kidx : Nat) (file : Nat) (bits : Nat) (frames : List Nat) (tables : List Nat) : Laws.SlotFields.Statement (.loadRequest h kidx file bits frames tables) := trivial
theorem Laws.SlotFields.unloadRequest (h : ReqHdr) (kidx : Nat) : Laws.SlotFields.Statement (.unloadRequest h kidx) := trivial
theorem Laws.SlotFields.launchRequest (h : ReqHdr) (kidx : Nat) (n : Nat) (fp : Word) (parent : Nat) : Laws.SlotFields.Statement (.launchRequest h kidx n fp parent) := trivial
theorem Laws.SlotFields.parkRequest (h : ReqHdr) (i : Nat) : Laws.SlotFields.Statement (.parkRequest h i) := trivial
theorem Laws.SlotFields.contextParked (ptag : Nat) : Laws.SlotFields.Statement (.contextParked ptag) := trivial
theorem Laws.SlotFields.resumeRequest (h : ReqHdr) : Laws.SlotFields.Statement (.resumeRequest h) := trivial
theorem Laws.SlotFields.resetRequest (h : ReqHdr) : Laws.SlotFields.Statement (.resetRequest h) := trivial
theorem Laws.SlotFields.fatalFault (ptag : Nat) : Laws.SlotFields.Statement (.fatalFault ptag) := trivial
theorem Laws.SlotFields.resetComplete (ptag : Nat) : Laws.SlotFields.Statement (.resetComplete ptag) := trivial
theorem Laws.SlotFields.tagHoldExpiry (ptag : Nat) : Laws.SlotFields.Statement (.tagHoldExpiry ptag) := trivial
theorem Laws.SlotFields.sealRequest (h : ReqHdr) (root : Nat) (ch : Nat) (ea : Nat) (nonce : Nat) (size : Nat) : Laws.SlotFields.Statement (.sealRequest h root ch ea nonce size) := trivial
theorem Laws.SlotFields.unsealRequest (h : ReqHdr) (root : Nat) (ch : Nat) (ea : Nat) (frames : List Nat) (keys : List Nat) (tables : List Nat) : Laws.SlotFields.Statement (.unsealRequest h root ch ea frames keys tables) := trivial
theorem Laws.SlotFields.queryRequest (q : QueryAsk) : Laws.SlotFields.Statement (.queryRequest q) := trivial
theorem Laws.SlotFields.groupSetupRequest (h : ReqHdr) (grp : Nat) (ranks : List (Nat × Nat)) : Laws.SlotFields.Statement (.groupSetupRequest h grp ranks) := trivial
theorem Laws.SlotFields.handoffSend (ch : Nat) : Laws.SlotFields.Statement (.handoffSend ch) := trivial
theorem Laws.SlotFields.handoffReceive (ch : Nat) (n : Nat) (tenant : Nat) : Laws.SlotFields.Statement (.handoffReceive ch n tenant) := trivial
theorem Laws.SlotFields.tenantToken (tok : Token) : Laws.SlotFields.Statement (.tenantToken tok) := trivial
theorem Laws.SlotFields.chainRelease (ch : Nat) : Laws.SlotFields.Statement (.chainRelease ch) := trivial
theorem Laws.SlotFields.powerLoss : Laws.SlotFields.Statement (.powerLoss) := trivial
theorem Laws.SlotFields.clampReconfiguration (ptag : Nat) (cfg : ClampCfg) : Laws.SlotFields.Statement (.clampReconfiguration ptag cfg) := trivial
theorem Laws.SlotFields.engineEpochAdvance (cl : Nat) : Laws.SlotFields.Statement (.engineEpochAdvance cl) := trivial
theorem Laws.SlotFields.quotaChange (tenant : Nat) (kind : QuotaKind) (value : Nat) : Laws.SlotFields.Statement (.quotaChange tenant kind value) := trivial
theorem Laws.SlotFields.memoryKeyInstall (slot : Nat) (tenant : Nat) (material : Option Nat) : Laws.SlotFields.Statement (.memoryKeyInstall slot tenant material) := trivial
theorem Laws.SlotFields.sealingRootInstall (slot : Nat) (tenant : Nat) (root : Nat) : Laws.SlotFields.Statement (.sealingRootInstall slot tenant root) := trivial
theorem Laws.SlotFields.railVote (ptag : Nat) (level : Nat) (region : Nat) : Laws.SlotFields.Statement (.railVote ptag level region) := trivial

end Sys2Proof
end

