-- ==== Sys2Proof/Machine/Skas.lean ====
section
/-! DEFINITION. What the tools skas and sklink make: expressions and their values, the codes of clauses, slots placed in lines, data
values, and relocations (10 R214 to R217, R222, R370). Directives and whole objects stand in SkasSource.lean (log 71). -/

namespace Sys2Proof.Machine

/-! ### Expressions (R214) -/

inductive SkasOp where
  | mul | div | mod | add | sub | shl | shr | band | bxor | bor
  deriving DecidableEq, Repr

inductive SkasExpr where
  | num (n : Int)
  | sym (name : String)
  | here
  | neg (a : SkasExpr)
  | compl (a : SkasExpr)
  | bin (op : SkasOp) (a b : SkasExpr)
  deriving DecidableEq, Repr

/-- The value of an operator: / and % truncate towards zero. A division by zero and a shift by a negative count are errors
(log 71). -/
def SkasOp.value (op : SkasOp) (a b : Int) : Option Int :=
  match op with
  | .mul => some (a * b)
  | .div => if b = 0 then none else some (a.tdiv b)
  | .mod => if b = 0 then none else some (a.tmod b)
  | .add => some (a + b)
  | .sub => some (a - b)
  | .shl => if b < 0 then none else some (a * 2 ^ b.toNat)
  | .shr => if b < 0 then none else some (a.fdiv (2 ^ b.toNat))
  | .band => some (Int.land a b)
  | .bxor => some (Int.xor a b)
  | .bor => some (Int.lor a b)

/-- The value of an expression, on unbounded integers; none for an error or a symbol that has no value yet. -/
def SkasExpr.value (syms : List (String × Int)) (loc : Int) : SkasExpr → Option Int
  | .num n => some n
  | .sym x => (syms.find? fun e => e.1 == x).map (·.2)
  | .here => some loc
  | .neg a => (a.value syms loc).map fun n => -n
  | .compl a => (a.value syms loc).map fun n => -n - 1
  | .bin op a b => (a.value syms loc).bind fun m => (b.value syms loc).bind fun n => op.value m n

/-- An expression with the symbols of known values, and the location where it is given, put in. -/
def SkasExpr.subst (syms : List (String × Int)) (loc : Option Int) : SkasExpr → SkasExpr
  | .num n => .num n
  | .sym x => ((syms.find? fun e => e.1 == x).map fun e => SkasExpr.num e.2).getD (.sym x)
  | .here => (loc.map SkasExpr.num).getD .here
  | .neg a => .neg (a.subst syms loc)
  | .compl a => .compl (a.subst syms loc)
  | .bin op a b => .bin op (a.subst syms loc) (b.subst syms loc)

/-- A sum of symbols with factors, and a constant; the location stands in it under the name of a full stop. -/
structure SkasSum where
  terms : List (String × Int)
  const : Int
  deriving DecidableEq, Repr

/-- A sum with a factor n times another added. -/
def SkasSum.plus (a : SkasSum) (n : Int) (b : SkasSum) : SkasSum :=
  let name := (a.terms ++ b.terms).map (·.1) |>.eraseDups
  let of_ := fun (s : SkasSum) (x : String) => ((s.terms.find? fun e => e.1 == x).map (·.2)).getD 0
  { terms := (name.map fun x => (x, of_ a x + n * of_ b x)).filter fun e => e.2 != 0, const := a.const + n * b.const }

/-- An expression as such a sum, where it is one. -/
def SkasExpr.sum : SkasExpr → Option SkasSum
  | .num n => some ⟨[], n⟩
  | .sym x => some ⟨[(x, 1)], 0⟩
  | .here => some ⟨[(".", 1)], 0⟩
  | .neg a => a.sum.map fun s => SkasSum.plus ⟨[], 0⟩ (-1) s
  | .compl a => a.sum.map fun s => SkasSum.plus ⟨[], -1⟩ (-1) s
  | .bin op a b => a.sum.bind fun s => b.sum.bind fun t =>
    match op with
    | .add => some (s.plus 1 t)
    | .sub => some (s.plus (-1) t)
    | .mul =>
      if t.terms.isEmpty then some (SkasSum.plus ⟨[], 0⟩ t.const s)
      else if s.terms.isEmpty then some (SkasSum.plus ⟨[], 0⟩ s.const t) else none
    | _ => if s.terms.isEmpty && t.terms.isEmpty then (op.value s.const t.const).map fun n => ⟨[], n⟩ else none

/-! ### The text of an expression (R213, R214) -/

/-- A term or sign of an expression's text. -/
inductive SkasTok where
  | num (n : Nat)
  | name (x : String)
  | op (o : SkasOp)
  | compl | lpar | rpar | here
  deriving DecidableEq, Repr

def isNameChar (c : Char) : Bool := c.isAlphanum || c == '_'

/-- The value of a digit below a base. -/
def digitOf (base : Nat) (c : Char) : Option Nat :=
  let d := if c.isDigit then c.toNat - 48 else if 'a' ≤ c ∧ c ≤ 'f' then c.toNat - 87 else if 'A' ≤ c ∧ c ≤ 'F' then c.toNat - 55 else 99
  if d < base then some d else none

/-- A natural number in digits of a base, with underscores between them (R3). -/
def digitsValue (base : Nat) (cs : List Char) : Option Nat :=
  let ds := cs.filter (· != '_')
  if ds.isEmpty then none
  else ds.foldl (fun o c => o.bind fun n => (digitOf base c).map fun d => base * n + d) (some 0)

/-- The size suffixes and what they multiply by (R214). -/
def sizeSuffixes : List (List Char × Nat) :=
  [(['K', 'i', 'B'], 2 ^ 13), (['M', 'i', 'B'], 2 ^ 23), (['G', 'i', 'B'], 2 ^ 33), (['B'], 8)]

/-- A literal: decimal, 0x or 0b, with or without a size suffix. B is a digit of a 0x literal. -/
def literalValue (cs : List Char) : Option Nat :=
  let plain (cs : List Char) : Option Nat :=
    match cs with
    | '0' :: 'x' :: ds => digitsValue 16 ds
    | '0' :: 'b' :: ds => digitsValue 2 ds
    | ds => digitsValue 10 ds
  match plain cs with
  | some n => some n
  | none => (sizeSuffixes.find? fun e => e.1.isSuffixOf cs).bind fun e =>
      (plain (cs.take (cs.length - e.1.length))).map (· * e.2)

/-- The terms and signs of an expression's text, the fuel above its length. -/
def skasTokens : Nat → List Char → Option (List SkasTok)
  | 0, _ => none
  | n + 1, cs =>
    let sign (t : SkasTok) (rest : List Char) := (skasTokens n rest).map (t :: ·)
    match cs with
    | [] => some []
    | '<' :: '<' :: rest => sign (.op .shl) rest
    | '>' :: '>' :: rest => sign (.op .shr) rest
    | '*' :: rest => sign (.op .mul) rest
    | '/' :: rest => sign (.op .div) rest
    | '%' :: rest => sign (.op .mod) rest
    | '+' :: rest => sign (.op .add) rest
    | '-' :: rest => sign (.op .sub) rest
    | '&' :: rest => sign (.op .band) rest
    | '^' :: rest => sign (.op .bxor) rest
    | '|' :: rest => sign (.op .bor) rest
    | '~' :: rest => sign .compl rest
    | '(' :: rest => sign .lpar rest
    | ')' :: rest => sign .rpar rest
    | '.' :: rest => sign .here rest
    | c :: rest =>
      if c.isWhitespace then skasTokens n rest
      else if c.isDigit then
        (literalValue (cs.takeWhile isNameChar)).bind fun v => sign (.num v) (cs.dropWhile isNameChar)
      else if isNameChar c then
        let inName := fun d => isNameChar d || d == '.'
        sign (.name (String.ofList (cs.takeWhile inName))) (cs.dropWhile inName)
      else none

/-- How tightly an operator binds, the loosest 0. -/
def SkasOp.level : SkasOp → Nat
  | .bor => 0 | .bxor => 1 | .band => 2 | .shl | .shr => 3 | .add | .sub => 4 | .mul | .div | .mod => 5

/-- An expression whose operators are of a level or tighter, or, when its left part is read already, the rest of it; and what follows.
Operators of one level group to the left. -/
def skasParse : Nat → Nat → Option SkasExpr → List SkasTok → Option (SkasExpr × List SkasTok)
  | 0, _, _, _ => none
  | n + 1, lvl, some a, ts =>
    match ts with
    | .op o :: rest =>
      if o.level = lvl then
        (skasParse n (lvl + 1) none rest).bind fun r => skasParse n lvl (some (.bin o a r.1)) r.2
      else some (a, ts)
    | _ => some (a, ts)
  | n + 1, lvl, none, ts =>
    if lvl < 6 then (skasParse n (lvl + 1) none ts).bind fun r => skasParse n lvl (some r.1) r.2
    else match ts with
      | .num v :: rest => some (.num v, rest)
      | .name x :: rest => some (.sym x, rest)
      | .here :: rest => some (.here, rest)
      | .op .sub :: rest => (skasParse n 6 none rest).map fun r => (.neg r.1, r.2)
      | .compl :: rest => (skasParse n 6 none rest).map fun r => (.compl r.1, r.2)
      | .lpar :: rest => (skasParse n 0 none rest).bind fun r => match r.2 with
        | .rpar :: rest => some (r.1, rest)
        | _ => none
      | _ => none

/-- The expression that a text is. -/
def skasExpr (x : String) : Option SkasExpr :=
  (skasTokens (x.length + 1) x.toList).bind fun ts =>
    (skasParse (16 * ts.length + 16) 0 none ts).bind fun r => if r.2.isEmpty then some r.1 else none

/-- A value in a field of w bits, signed or natural; one that does not fit is an error (R214). -/
def skasFit (sgn : Bool) (w : Nat) (v : Int) : Option Nat :=
  if intLo sgn w ≤ v ∧ v ≤ intHi sgn w then some (wrapTo w v) else none

/-! ### Codes of clauses (R215) -/

/-- The subfields whose code differs from the value written, and one whose code is that value. -/
inductive SkasClause where
  | pro | tn | len | pri | width
  | plain (w : Nat)
  deriving DecidableEq, Repr

/-- The code of a clause's value; none for a value that the clause does not take. Of pri= an absent value is `inh`. -/
def SkasClause.code (k : SkasClause) (v : Option Int) : Option Nat :=
  let within (lo hi : Int) (f : Int → Nat) : Option Nat := v.bind fun n => if lo ≤ n ∧ n ≤ hi then some (f n) else none
  match k with
  | .pro => within 1 64 fun n => (n - 1).toNat
  | .tn => within 1 8 fun n => (n - 1).toNat
  | .len => within 0 16 fun n => n.toNat % 16
  | .width => within 1 64 fun n => n.toNat % 64
  | .pri => match v with
    | none => some 0
    | some _ => within 0 7 fun n => n.toNat + 1
  | .plain w => v.bind (skasFit false w)

/-- A slot that skas encodes traps at no step from 2 to 8 of R81. -/
def skasSlotOk (bits : Nat) : Bool :=
  match decodeSlot bits with
  | .ok _ => true
  | .bad _ => false

/-! ### Slots in lines (R216, R217) -/

/-- What a symbol leaves in a slot or datum: a relocation's kind, where its field lies above the first bit, its width, the symbol and the
addend (R214, R222). -/
structure SkasRef where
  kind : Nat
  at_ : Nat
  width : Nat
  sym : String
  addend : Int
  deriving DecidableEq, Repr

/-- How a field takes its value: as a natural or a signed number that fits, as either of both (a register's 64 bits; W of MOVI), modulo
its width (.bits), or as a branch's target. -/
inductive SkasTake where
  | natural | signed | word | wide | modulo | branch
  deriving DecidableEq, Repr

/-- The kind of the relocation that a field allows (R222). -/
def SkasTake.kind : SkasTake → Nat
  | .natural | .word | .modulo => 1
  | .signed => 2
  | .branch => 3
  | .wide => 4

/-- A value in a field of w bits; none when it does not fit (R214). -/
def SkasTake.fit (t : SkasTake) (w : Nat) (v : Int) : Option Nat :=
  match t with
  | .natural => skasFit false w v
  | .signed => skasFit true w v
  | .word | .wide => if intLo true w ≤ v ∧ v ≤ intHi false w then some (wrapTo w v) else none
  | .modulo => some (wrapTo w v)
  | .branch => none

/-- A field whose value waits until the places of the source are known: where it lies above the first bit, its width and its
expression. -/
structure SkasUse where
  take : SkasTake
  at_ : Nat
  width : Nat
  e : SkasExpr
  deriving DecidableEq, Repr

/-- The value of a sum that the final addresses do not change: of each section, the labels in it and the location stand with factors that
cancel. `place` gives the section and the offset of a name, `own` those of the field. -/
def SkasSum.fixed (place : String → Option (Nat × Nat)) (own : Nat × Nat) (s : SkasSum) : Option Int :=
  (s.terms.mapM fun e => (if e.1 == "." then some own else place e.1).map fun p => (p, e.2)).bind fun ps =>
    let balanced := ps.all fun p => (ps.foldl (fun n q => if q.1.1 = p.1.1 then n + q.2 else n) 0) == 0
    if balanced then some (ps.foldl (fun n p => n + p.2 * p.1.2) s.const) else none

/-- A sum in which the location is a number, as a symbol and an addend; none for another form. -/
def SkasSum.linear (loc : Nat) (s : SkasSum) : Option (String × Int) :=
  let dot := ((s.terms.find? fun e => e.1 == ".").map (·.2)).getD 0
  match s.terms.filter fun e => e.1 != "." with
  | [(x, 1)] => some (x, s.const + dot * loc)
  | _ => none

/-- A field that waited, once the places of the source are known: its bits, or what a symbol leaves in it. ABS and SABS fields have at
most 64 bits (R214, R222). -/
def SkasUse.solve (place : String → Option (Nat × Nat)) (own : Nat × Nat) (u : SkasUse) : Except String (Nat × List SkasRef) :=
  let put := fun v => match u.take.fit u.width v with
    | some n => Except.ok (n * 2 ^ u.at_, [])
    | none => .error "value does not fit"
  let left := fun (r : String × Int) => Except.ok (0, [⟨u.take.kind, u.at_, u.width, r.1, r.2⟩])
  if u.take = .branch then match u.e.sum with
    | some ⟨[(x, 1)], n⟩ => left (x, n)
    | _ => .error "target"
  else match u.e.value [] own.2 with
    | some v => put v
    | none => match u.e.sum.bind (SkasSum.fixed place own) with
      | some v => put v
      | none => match u.e.sum.bind (SkasSum.linear own.2) with
        | some r => if u.width ≤ 64 then left r else .error "width of a relocation"
        | none => .error "expression"

/-- A slot of a code section in source order: its 96 bits, whether `|` joins it to the one before, whether it bears what sets
its TGT bit, its labels, the fields that wait, and the multiples of lines in bits that are filled before it, in order. -/
structure SkasSlot where
  bits : Nat
  joined : Bool := false
  target : Bool := false
  labels : List String := []
  uses : List SkasUse := []
  aligns : List Nat := []
  deriving DecidableEq, Repr

def nopSlot : SkasSlot := { bits := encode .nop }

/-- Issue groups in source order. -/
def skasGroups : List SkasSlot → List (List SkasSlot)
  | [] => []
  | x :: xs =>
    match skasGroups xs with
    | [] => [[x]]
    | g :: gs =>
      match g with
      | y :: _ => if y.joined then (x :: g) :: gs else [x] :: g :: gs
      | [] => [x] :: gs

/-- A group of at most five slots with one slot of each side (R67). -/
def skasGroupOk (g : List SkasSlot) : Bool :=
  let sides := g.map fun x => slotSide x.bits
  decide (g.length ≤ 5) && decide (sides.count .scalar ≤ 1) && decide (sides.count .vector ≤ 1)

/-- n slots filled with NOP to a multiple of k. -/
def nopFill (n k : Nat) : List SkasSlot := List.replicate ((k - n % k) % k) nopSlot

/-- Slots filled with NOP to each of the multiples of lines in turn (R218). -/
def skasAligned (out : List SkasSlot) (aligns : List Nat) : List SkasSlot :=
  aligns.foldl (fun out n => out ++ nopFill out.length (5 * (n / 512))) out

/-- Groups laid one after another: one that would not fit in the rest of its line begins at the next, and one that directives
align after their fill. -/
def skasLay (groups : List (List SkasSlot)) : List SkasSlot :=
  groups.foldl (fun out g =>
    let out := skasAligned out ((g.head?.map (·.aligns)).getD [])
    (if out.length % 5 + g.length ≤ 5 then out else out ++ nopFill out.length 5) ++ g) []

/-- The bit address of slot i of a code section within it. -/
def slotAddr (i : Nat) : Nat := i / 5 * 512 + 32 + 96 * (i % 5)

/-- The slots of whole lines: the last line filled with NOP, and TGT set after a CALL. -/
def skasFill (xs : List SkasSlot) : List SkasSlot :=
  let xs := xs ++ nopFill xs.length 5
  (xs.zip (nopSlot :: xs)).map fun e =>
    { e.1 with target := e.1.target || bitsAt e.2.bits 86 10 == bitsAt (encode (.call ⟨false, 0⟩ (.g 0) 0 0)) 86 10 }

/-- A line of five slots with its line word. -/
def skasLine (xs : List SkasSlot) : Nat :=
  let xs := xs.zipIdx
  let body := xs.foldl (fun n e => n + e.1.bits % 2 ^ 96 * 2 ^ (32 + 96 * e.2)) 0
  let tgt := xs.foldl (fun n e => n + e.1.target.toNat * 2 ^ e.2) 0
  let grp := xs.foldl (fun n e => if e.2 = 0 || e.1.joined then n else n + 2 ^ (e.2 - 1)) 0
  lineParity body * 2 ^ 16 + 2 ^ 12 + grp * 2 ^ 5 + tgt + body

/-- The lines of a list of slots, five by five. -/
def skasLines : Nat → List SkasSlot → List Nat
  | 0, _ => []
  | n + 1, xs => if xs.isEmpty then [] else skasLine (xs.take 5) :: skasLines n (xs.drop 5)

/-- The slots of a code section in their places, with the fill of directives after the last one; none when a group breaks R67, or
when a fill stands before a slot that `|` joins to the one before (log 71). -/
def skasPlaced (xs : List SkasSlot) (aligns : List Nat) : Option (List SkasSlot) :=
  let gs := skasGroups xs
  if gs.all skasGroupOk && xs.all fun x => !x.joined || x.aligns.isEmpty then some (skasFill (skasAligned (skasLay gs) aligns)) else none

/-- A code section: its lines, or none when a group breaks R67. -/
def skasCode (xs : List SkasSlot) : Option (List Nat) := (skasPlaced xs []).map fun ys => skasLines (ys.length + 1) ys

/-! ### Data (R218, R370) -/

/-- A value of .data or of a block directive: an integer expression's, a decimal literal's exact rational, an infinity or a NaN. -/
inductive SkasValue where
  | int (n : Int)
  | rat (neg : Bool) (num den : Nat)
  | inf (neg : Bool)
  | nan (neg : Bool)
  deriving DecidableEq, Repr

/-- An element of a type: a float rounded once under rne; for an integer type an integer expression's value that fits, and no other
form; none for an error. Of zeros, the literal -0.0 keeps its sign and the integer expression -0 is +0 (DESIGN CHOICE, log 71: R370
speaks of the exact rational value alone). -/
def skasElement (t : CvtType) (prop : Bool) (v : SkasValue) : Option Nat :=
  match cvtKind t, v with
  | .flt f, .int n => if n = 0 then some (f.signed false 0) else some (encodeMag f .rne prop 0 (n < 0) (.rat n.natAbs 1 0)).1
  | .flt f, .rat s 0 _ => some (f.signed s 0)
  | .flt f, .rat s num den => if den = 0 then none else some (encodeMag f .rne prop 0 s (.rat num den 0)).1
  | .flt f, .inf s => some (infTo f prop s)
  | .flt f, .nan s => some (nanTo f s)
  | .int sgn w, .int n => skasFit sgn w n
  | .int .., _ => none

/-- The types of .data: those of a conversion, and mark words, which an integer gives as 32 natural bits (R8, R218). -/
inductive SkasType where
  | cvt (t : CvtType)
  | mk32
  deriving DecidableEq, Repr

def SkasType.width : SkasType → Nat
  | .cvt t => t.width
  | .mk32 => 32

/-- How a type's element takes a symbol's value: an integer type of at most 64 bits as ABS or SABS does; none for a float. -/
def SkasType.take : SkasType → Option SkasTake
  | .cvt t => match cvtKind t with
    | .int sgn _ => some (if sgn then .signed else .natural)
    | .flt _ => none
  | .mk32 => some .natural

def SkasType.element (t : SkasType) (prop : Bool) (v : SkasValue) : Option Nat :=
  match t, v with
  | .cvt t, v => skasElement t prop v
  | .mk32, .int n => skasFit false 32 n
  | .mk32, _ => none

/-- A decimal literal without sign: digits, a fraction after a full stop, an exponent; as digits of a numerator and a power of ten
(R370). -/
def decimalParts (cs : List Char) : Option (Nat × Int) :=
  let whole := cs.takeWhile Char.isDigit
  let rest := cs.dropWhile Char.isDigit
  let (frac, rest) := match rest with
    | '.' :: r => (r.takeWhile Char.isDigit, r.dropWhile Char.isDigit)
    | r => ([], r)
  let exp : Option Int := match rest with
    | [] => some 0
    | e :: r =>
      if e != 'e' && e != 'E' then none
      else match r with
        | '-' :: ds => if ds.contains '_' then none else (digitsValue 10 ds).map fun n => -(n : Int)
        | '+' :: ds => if ds.contains '_' then none else (digitsValue 10 ds).map fun n => (n : Int)
        | ds => if ds.contains '_' then none else (digitsValue 10 ds).map fun n => (n : Int)
  if whole.isEmpty then none
  else exp.bind fun e => (digitsValue 10 (whole ++ frac)).map fun n => (n, e - frac.length)

/-- A decimal literal with its sign. -/
def decimalValue (neg : Bool) (cs : List Char) : Option SkasValue :=
  (decimalParts cs).map fun e =>
    if 0 ≤ e.2 then .rat neg (e.1 * 10 ^ e.2.toNat) 1 else .rat neg e.1 (10 ^ (-e.2).toNat)

/-- Text without the white space around it. -/
def trimText (cs : List Char) : List Char := ((cs.dropWhile Char.isWhitespace).reverse.dropWhile Char.isWhitespace).reverse

/-- A value by its text: one of the four words, an integer expression, or a decimal literal (R370). -/
def skasValue (syms : List (String × Int)) (loc : Int) (x : String) : Option SkasValue :=
  let cs := trimText x.toList
  match cs.map Char.toLower with
  | ['i', 'n', 'f'] => some (.inf false)
  | ['-', 'i', 'n', 'f'] => some (.inf true)
  | ['n', 'a', 'n'] => some (.nan false)
  | ['-', 'n', 'a', 'n'] => some (.nan true)
  | _ => match (skasExpr x).bind fun e => e.value syms loc with
    | some n => some (.int n)
    | none => match cs with
      | '-' :: cs => decimalValue true cs
      | '+' :: cs => decimalValue false cs
      | cs => decimalValue false cs

/-- A rational as a dyadic number of 192 bits or more whose last bit stands for whatever is below it, which no rounding of R35
tells from the rational. -/
def skasExact : SkasValue → FV
  | .inf s => .inf s
  | .nan s => .nan s
  | .int n => .fin (n < 0) n.natAbs 0
  | .rat s num den =>
    if num = 0 ∨ den = 0 then .fin s 0 0
    else
      let k := 192 + den.log2
      let q := num * 2 ^ k / den
      .fin s (2 * q + (if num * 2 ^ k % den = 0 then 0 else 1)) (-(k : Int) - 1)

/-- A block of sixteen values (R35, R218). -/
def skasBlock (fmt : BqFmt) (prop : Bool) (vs : List SkasValue) : Option Nat :=
  if vs.length = 16 then some (bqEncode fmt prop (vs.map skasExact)) else none

/-! ### Relocations (R222) -/

structure Reloc where
  offset : Nat
  sym : Nat
  kind : Nat
  width : Nat
  addend : Int
  deriving DecidableEq, Repr

def relocOf (n : Nat) : Reloc :=
  { offset := bitsAt n 192 64, sym := bitsAt n 160 32, kind := bitsAt n 152 8, width := bitsAt n 144 8
    addend := signedOf 64 (bitsAt n 64 64) }

/-- w bits of a section from bit p on are v. -/
def patchBits (sec p w v : Nat) : Nat := sec - bitsAt sec p w * 2 ^ p + v % 2 ^ w * 2 ^ p

/-- One relocation of a section at an address, for a symbol of value S; `tgt` says whether the slot at an address has TGT set. None
for an error. -/
def applyReloc (addr : Nat) (tgt : Nat → Bool) (r : Reloc) (S : Nat) (sec : Nat) : Option Nat :=
  let sized := decide (1 ≤ r.width) && decide (r.width ≤ 64)
  let V : Int := S + r.addend
  let base (x : Int) : Int := x - (x - 32) % 512
  match r.kind with
  | 1 => if sized ∧ 0 ≤ V ∧ V < 2 ^ r.width then some (patchBits sec r.offset r.width V.toNat) else none
  | 2 =>
    if sized ∧ -(2 ^ r.width : Int) ≤ 2 * V ∧ 2 * V < 2 ^ r.width then some (patchBits sec r.offset r.width (wrapTo r.width V)) else none
  | 3 =>
    let off := (base V - base ((addr + r.offset : Nat) : Int)) / 512
    let slot := (V - 32) % 512
    if slot % 96 = 0 ∧ slot ≤ 384 ∧ tgt V.toNat = true ∧ -(2 ^ 39 : Int) ≤ off ∧ off < 2 ^ 39 then
      some (patchBits (patchBits sec (r.offset + 3) 40 (wrapTo 40 off)) r.offset 3 (slot / 96).toNat)
    else none
  | 4 => some (patchBits sec (r.offset + 11) 64 (wrapTo 64 V))
  | _ => none

/-- All relocations of a section, in entry order. -/
def applyRelocs (addr : Nat) (tgt : Nat → Bool) (rs : List (Reloc × Nat)) (sec : Nat) : Option Nat :=
  rs.foldl (fun s e => s.bind fun n => applyReloc addr tgt e.1 e.2 n) (some sec)

/-- The lines of a code section with PAR computed anew (R62). -/
def relineParity (lines : List Nat) : List Nat := lines.map fun n => patchBits n 16 16 (lineParity n)

end Sys2Proof.Machine
end

