-- ==== Sys2Proof/Machine/SkasLine.lean ====
section
/-! DEFINITION. An instruction line of skas: its parts as text, the rows of the opcode tables with the names of their clauses, and the
slot that a line encodes (10 R213, R215; 04 R75, R83 to R85; 06 R110; 07 R129; 08 R157; 09 R185). -/

namespace Sys2Proof.Machine

/-! ### A line's parts (R213) -/

/-- An instruction line: whether `|` leads it, its guard, its mnemonic, its operands and its clauses, as they are written. -/
structure SkasLine where
  joined : Bool := false
  guard : Option String := none
  mnemonic : String
  operands : List String := []
  clauses : List (String × String) := []
  deriving DecidableEq, Repr

/-- Text up to the comment that a semicolon or two slashes begin. -/
def uncomment : List Char → List Char
  | [] => []
  | ';' :: _ => []
  | '/' :: '/' :: _ => []
  | c :: cs => c :: uncomment cs

/-- Text at its commas. -/
def splitCommas : List Char → List (List Char)
  | [] => [[]]
  | c :: cs =>
    match splitCommas cs with
    | [] => [[c]]
    | x :: xs => if c = ',' then [] :: x :: xs else (c :: x) :: xs

/-- Whether text is a label's name: a letter or underscore, then letters, digits, underscores and full stops. -/
def isLabelText : List Char → Bool
  | [] => false
  | c :: cs => (c.isAlpha || c == '_') && cs.all fun d => isNameChar d || d == '.'

/-- The label of a line, if it has one, and the text after it. -/
def splitLabel (cs : List Char) : Option String × List Char :=
  let name := trimText (cs.takeWhile (· != ':'))
  if cs.contains ':' && isLabelText name then (some (String.ofList name), (cs.dropWhile (· != ':')).drop 1) else (none, cs)

/-- The first word of text, and what follows it. -/
def splitWord (cs : List Char) : List Char × List Char :=
  let cs := trimText cs
  (cs.takeWhile fun c => !c.isWhitespace, trimText (cs.dropWhile fun c => !c.isWhitespace))

/-- An operand or clause of a line added to it. -/
def SkasLine.addPart (x : SkasLine) (part : List Char) : SkasLine :=
  if part.contains '=' then
    { x with clauses := x.clauses ++ [(String.ofList (trimText (part.takeWhile (· != '='))),
                                       String.ofList (trimText ((part.dropWhile (· != '=')).drop 1)))] }
  else { x with operands := x.operands ++ [String.ofList (trimText part)] }

/-- A source line that is no directive: its label and its instruction, each where it has one. -/
def skasLineOf (text : String) : Option String × Option SkasLine :=
  let (label, rest) := splitLabel (uncomment text.toList)
  let rest := trimText rest
  let (joined, rest) := match rest with
    | '|' :: cs => (true, trimText cs)
    | cs => (false, cs)
  let (first, after) := splitWord rest
  let (guard, first, after) := if first.head? = some '?' then (some (String.ofList first), splitWord after) else (none, first, after)
  if first.isEmpty then (label, none)
  else
    let x : SkasLine := { joined := joined, guard := guard, mnemonic := String.ofList first }
    (label, some (if after.isEmpty then x else (splitCommas after).foldl SkasLine.addPart x))

/-! ### Names (R77, R84; R213: without regard to case) -/

/-- Text in lower case. -/
def lowerText (x : String) : List Char := x.toList.map Char.toLower

/-- A number below a bound, in decimal digits. -/
def numberBelow (n : Nat) (cs : List Char) : Option Nat :=
  if cs.all Char.isDigit then (digitsValue 10 cs).bind fun v => if v < n then some v else none else none

/-- The code of a register's name. -/
def registerCode (x : String) : Option Nat :=
  match lowerText x with
  | ['g', '[', 'j', d, ']'] => (numberBelow 8 [d]).map (112 + ·)
  | 'g' :: cs => numberBelow 64 cs
  | 'v' :: cs => (numberBelow 32 cs).map (64 + ·)
  | 'k' :: cs => (numberBelow 8 cs).map (96 + ·)
  | 'q' :: cs => (numberBelow 8 cs).map (104 + ·)
  | 'j' :: cs => (numberBelow 8 cs).map (120 + ·)
  | _ => none

/-- GD of a guard as it is written; k0 of a line without one. -/
def guardCode : Option String → Option Nat
  | none => some 0
  | some x => match lowerText x with
    | ['?', 'k', d] => numberBelow 8 [d]
    | ['?', '~', 'k', d] => (numberBelow 8 [d]).map (8 + ·)
    | _ => none

/-! ### Clauses (R75, R215) -/

/-- How a clause's value is read: as a number, by one of its names or as a number, or as a condition, whose names depend on whether
t= is a float type (VCMP). -/
inductive SkasRead where
  | number (k : SkasClause)
  | named (names : List (String × Nat))
  | condition
  deriving DecidableEq, Repr

/-- A clause of an opcode: its name, the lowest bit and the width of its subfield in M, and how its value is read. -/
structure SkasSub where
  name : String
  lo : Nat
  width : Nat
  read : SkasRead
  deriving DecidableEq, Repr

/-- A subfield that holds the number written. -/
def numSub (name : String) (lo w : Nat) : SkasSub := ⟨name, lo, w, .number (.plain w)⟩

/-- A subfield whose values have names, coded from 0. -/
def nameSub (name : String) (lo w : Nat) (xs : List String) : SkasSub := ⟨name, lo, w, .named xs.zipIdx⟩

def iTypeNames : List String := ["i64", "i32", "i16", "i8", "n64", "n32", "n16", "n8"]
def fTypeNames : List String := ["f32", "bf16", "f16"]
def cvtNames : List String := fTypeNames ++ ["e4m3", "e5m2", "e3m2", "e2m3", "e2m1", "i8", "i16", "i32", "i64", "n8", "n16", "n32", "n64"]
def ccNames : List String := ["eq", "ne", "lt", "ge", "le", "gt", "tst", "ntst"]
def fccNames : List String := ["eq", "lt", "le", "un", "ne", "gt", "ge"]
def loopNames : List String := ["L0", "L1", "L2", "L3", "L4", "L5", "L6", "L7"]

def tInt : SkasSub := nameSub "t" 0 3 iTypeNames
def tFlt : SkasSub := nameSub "t" 0 2 fTypeNames
def tAny : SkasSub := nameSub "t" 0 4 (iTypeNames ++ fTypeNames)
def rndAt (lo : Nat) : SkasSub := nameSub "rnd" lo 3 ["rne", "rtz", "rup", "rdn", "rsr"]
def satAt (lo : Nat) : SkasSub := nameSub "sat" lo 1 ["wrap", "sat"]
def ovfAt (lo : Nat) : SkasSub := nameSub "ovf" lo 1 ["sat", "prop"]
def cvtAt (name : String) (lo : Nat) : SkasSub := nameSub name lo 4 cvtNames
/-- ord= and sc= from a bit on (R76). -/
def ordAt (lo : Nat) : SkasSub := nameSub "ord" lo 3 ["rlx", "acq", "rel", "ar", "sc"]
def scAt (lo : Nat) : SkasSub := nameSub "sc" lo 4 ["pa", "st", "co", "cl", "rg", "di", "pk", "te", "fa", "sy"]
def widthSub : SkasSub := ⟨"w", 0, 6, .number .width⟩
def sxSub (lo : Nat) : SkasSub := nameSub "sx" lo 1 ["zx", "sx"]
def winSub : SkasSub := nameSub "win" 0 3 ["run", "cross", "box3", "box5"]
def lenSub : SkasSub := ⟨"len", 3, 4, .number .len⟩
def cmbAt (lo : Nat) (xs : List String) : SkasSub := nameSub "cmb" lo 2 xs
def priSub : SkasSub := ⟨"pri", 0, 4, .number .pri⟩
def amoSub : SkasSub := nameSub "op" 4 4 ["add", "and", "or", "xor", "min", "max", "swap", "fadd", "fmin", "fmax"]

/-! ### The rows (R82, R85, R110, R129, R157, R185) -/

/-- An opcode as a line names it: its mnemonic, its OP and its clauses in M. -/
structure SkasRow where
  mnemonic : String
  op : Nat
  subs : List SkasSub := []
  deriving DecidableEq, Repr

/-- Opcodes that stand side by side in the map of R82 and have the same clauses. -/
def rowsFrom (op : Nat) (subs : List SkasSub) (names : List String) : List SkasRow :=
  names.zipIdx.map fun e => ⟨e.1, op + e.2, subs⟩

def scalarRows : List SkasRow :=
  rowsFrom 0x000 [] ["NOP", "BR", "BRI", "CALL", "RET", "LOOP"] ++
  rowsFrom 0x040 [tInt] ["ADD", "SUB", "MUL", "MULH", "MULHN", "DIV", "DIVN", "REM", "REMN", "AND", "OR", "XOR", "ANDN", "ORN", "SHL",
    "SHR", "SAR", "ROL", "ROR", "MIN", "MAX", "MINN", "MAXN"] ++
  rowsFrom 0x057 [tInt, nameSub "cc" 3 4 ccNames] ["CMP"] ++ rowsFrom 0x080 [tInt] ["CLZ", "CTZ", "POPC", "BREV"] ++
  rowsFrom 0x084 [numSub "sx" 0 1] ["BEXT"] ++ rowsFrom 0x085 [] ["BINS", "SEXT", "ZEXT"] ++ rowsFrom 0x088 [tInt] ["ABS", "NEG"] ++
  rowsFrom 0x08A [] ["SEL", "MOV", "MOVI"] ++ rowsFrom 0x0A0 [] ["GAND", "GOR", "GXOR", "GNOT"] ++
  rowsFrom 0x100 [numSub "w" 0 10] ["PADD", "PDIF"] ++ rowsFrom 0x102 [numSub "w" 0 10, nameSub "dir" 10 1 ["dn", "up"]] ["PALN"] ++
  rowsFrom 0x103 [nameSub "fmt" 0 2 ["bq3", "bq5", "bq8"]] ["PBLK"] ++
  rowsFrom 0x104 [numSub "w" 0 10, nameSub "cls" 10 2 ["A0", "A1", "A2", "A3"]] ["PCHK"] ++ rowsFrom 0x108 [] ["JSET", "JADD"] ++
  rowsFrom 0x140 [tFlt, rndAt 2] ["FADD", "FSUB", "FMUL", "FFMA", "FDIV", "FSQRT"] ++ rowsFrom 0x146 [tFlt] ["FMIN", "FMAX"] ++
  rowsFrom 0x148 [tFlt, nameSub "cc" 2 4 fccNames] ["FCMP"] ++
  rowsFrom 0x149 [cvtAt "df" 0, cvtAt "sf" 4, rndAt 8, ovfAt 11] ["FCVT"] ++ rowsFrom 0x14A [tFlt] ["FCLASS", "FNEG"]

def vectorRows : List SkasRow :=
  rowsFrom 0x180 [tAny, rndAt 4, satAt 7] ["VADD", "VSUB", "VMUL", "VFMA", "VMIN", "VMAX"] ++ rowsFrom 0x186 [tAny, satAt 7] ["VABS", "VNEG"] ++
  rowsFrom 0x188 [tAny] ["VAND", "VOR", "VXOR", "VSHL", "VSHR", "VSAR"] ++ rowsFrom 0x18E [tAny, ⟨"cc", 8, 4, .condition⟩] ["VCMP"] ++
  rowsFrom 0x18F [] ["VSEL"] ++
  rowsFrom 0x1A0 [nameSub "sf" 0 4 ["e4m3", "e5m2", "e3m2", "e2m3", "e2m1", "bf16", "f16", "i8", "n8"], rndAt 4, satAt 7] ["VDOT"] ++
  rowsFrom 0x1A1 [cvtAt "df" 0, cvtAt "sf" 4, rndAt 8, ovfAt 11, numSub "part" 12 3] ["VCVT"] ++
  rowsFrom 0x1A2 [nameSub "fmt" 0 3 ["int", "bq3", "bq5", "bq8"], nameSub "t" 3 4 iTypeNames, numSub "w" 7 7, satAt 14, ovfAt 15] ["VPACK"] ++
  rowsFrom 0x1A3 [nameSub "fmt" 0 3 ["int", "bq3", "bq5", "bq8"], nameSub "t" 3 4 iTypeNames, numSub "w" 7 7] ["VUNPK"] ++
  rowsFrom 0x1A4 [tAny] ["VSPLAT", "VEXT", "VINS", "VPERM"] ++ rowsFrom 0x1A8 [⟨"tn", 0, 3, .number .tn⟩] ["VTBL"] ++
  rowsFrom 0x1A9 [tAny, nameSub "op" 4 3 ["add", "min", "max", "and", "or", "xor"], rndAt 7] ["VRED"] ++
  rowsFrom 0x1AA [cvtAt "st" 0, cvtAt "dt" 4, rndAt 8, ovfAt 11, numSub "ssp" 12 1, numSub "dsp" 13 1] ["CHAIN"]

def memoryRows : List SkasRow :=
  ["LD", "ST", "LDP", "STP"].zipIdx.map (fun e => ⟨e.1, 0x200 + e.2, [widthSub] ++ (if e.2 % 2 = 0 then [sxSub 6] else []) ++ [ordAt 7, scAt 10]⟩) ++
  rowsFrom 0x204 [ordAt 7, scAt 10] ["VLD", "VST", "VLDP", "VSTP"] ++ rowsFrom 0x208 [] ["PREF"] ++
  rowsFrom 0x280 [cmbAt 0 ["add", "max", "set"], ordAt 2, scAt 5] ["DEP"] ++ rowsFrom 0x281 [ordAt 2, scAt 5] ["MRD"] ++
  rowsFrom 0x282 [winSub, lenSub, nameSub "tie" 7 1 ["low", "rot"], ordAt 8, scAt 11] ["SENSE"] ++ rowsFrom 0x283 [] ["TICKR", "TADV"] ++
  rowsFrom 0x2C0 [tAny, amoSub, ordAt 8, scAt 11] ["AMO"] ++ rowsFrom 0x2C1 [tAny, ordAt 8, scAt 11] ["CAS"] ++
  rowsFrom 0x2C2 [tAny, amoSub, ordAt 8, scAt 11] ["RED"] ++ rowsFrom 0x2C3 [ordAt 0, scAt 3] ["FENCE"] ++
  rowsFrom 0x2C4 [widthSub, numSub "mon" 6 2, numSub "sp" 8 1] ["MARM"] ++ rowsFrom 0x2C5 [] ["WAITA"] ++
  rowsFrom 0x2C6 [numSub "mon" 0 2, numSub "all" 2 1] ["MDIS"]

def engineRows : List SkasRow :=
  rowsFrom 0x300 [numSub "tag" 0 6, cmbAt 6 ["none", "add", "max"], scAt 8, ovfAt 12, numSub "fwd" 13 1] ["COPY"] ++
  rowsFrom 0x301 [numSub "tag" 0 6, scAt 8, ovfAt 12] ["COPYV"] ++ rowsFrom 0x302 [] ["CSTAGE"] ++
  rowsFrom 0x303 [numSub "tag" 0 6, numSub "ch" 6 2, scAt 8, ovfAt 12] ["WMARK"] ++ rowsFrom 0x304 [] ["TWAIT", "TFIND", "TCLR"] ++
  rowsFrom 0x307 [numSub "tag" 0 6] ["MDLD"] ++ rowsFrom 0x308 [] ["TDSET", "TDGET"] ++
  rowsFrom 0x340 [nameSub "eng" 0 1 ["mat", "cp"], nameSub "lr" 1 3 loopNames] ["LSET"] ++
  rowsFrom 0x341 [numSub "hdr" 0 3, ⟨"pro", 3, 6, .number .pro⟩, nameSub "acc" 9 2 ["fa26"], nameSub "ord" 11 2 ["asc"],
    nameSub "kind" 13 1 ["mac", "cvt"], ovfAt 14] ["MJOB", "MJOBR"] ++
  rowsFrom 0x343 [] ["MPOLL", "MWAIT"] ++ rowsFrom 0x345 [numSub "hdr" 0 3] ["MCLR"] ++ rowsFrom 0x346 [] ["MBURST"] ++
  rowsFrom 0x350 [nameSub "sf" 0 4 ["f32", "bf16", "f16", "e4m3", "e5m2"]] ["ADDW"] ++ rowsFrom 0x351 [numSub "clr" 0 1] ["RNDW"] ++
  rowsFrom 0x352 [] ["CLRW"]

def taskRows : List SkasRow :=
  rowsFrom 0x380 [priSub] ["FORK"] ++ rowsFrom 0x381 [] ["JOIN"] ++ rowsFrom 0x382 [priSub, numSub "grain" 4 6] ["SPAWNR"] ++
  rowsFrom 0x383 [] ["RNEXT"] ++ rowsFrom 0x384 [winSub, lenSub] ["STEAL"] ++ rowsFrom 0x385 [] ["YIELD", "EXIT"] ++
  rowsFrom 0x388 [nameSub "op" 0 2 ["add", "open", "drain"], ⟨"lvl", 2, 3, .named [("unit", 0), ("graph", 2), ("phase", 3), ("job", 4)]⟩]
    ["LVLADD"] ++
  rowsFrom 0x389 [] ["LVLWAIT", "CANCEL", "CLAMP", "LAUNCH"] ++ rowsFrom 0x3C0 [numSub "q" 0 5] ["DQPUSH", "DQPOP"] ++
  rowsFrom 0x3C2 [numSub "arr" 0 4] ["ARRADD", "ARRGET"] ++ rowsFrom 0x3C4 [] ["QWAIT"] ++ rowsFrom 0x3E0 [] ["TRAP", "RETT"] ++
  rowsFrom 0x3E2 [numSub "hi" 0 1] ["CRR", "CRW"] ++ rowsFrom 0x3E4 [numSub "all" 0 1] ["TLBINV"] ++
  rowsFrom 0x3E5 [] ["REPLAY", "SEAL", "UNSEAL", "FEAT"]

def skasRows : List SkasRow := scalarRows ++ vectorRows ++ memoryRows ++ engineRows ++ taskRows

/-- The clauses of a format E opcode's engine subfields: the lowest bit in X (R73, R84). -/
def engineSubs : List SkasSub :=
  [numSub "ta" 26 12, numSub "tb" 14 12, nameSub "lm" 11 3 loopNames, nameSub "ln" 8 3 loopNames, nameSub "lk" 5 3 loopNames, numSub "xo" 0 5]

/-! ### The slot of a line (R83, R84, R215) -/

/-- The code of a clause's value under known symbols; `flt` says whether t= is a float type. -/
def SkasSub.code (x : SkasSub) (flt : Bool) (value : String → Option Int) (text : String) : Option Nat :=
  let named := fun (xs : List (String × Nat)) =>
    match xs.find? fun e => lowerText e.1 == lowerText text with
    | some e => some e.2
    | none => (value text).bind (skasFit false x.width)
  match x.read with
  | .number .pri => if lowerText text == ['i', 'n', 'h'] then some 0 else (value text).bind fun n => SkasClause.code .pri (some n)
  | .number k => k.code (value text)
  | .named xs => named xs
  | .condition => named (if flt then fccNames.zipIdx else ccNames.zipIdx)

/-- M or X from a line's clauses for some subfields, each at its place. -/
def subBits (subs : List SkasSub) (flt : Bool) (value : String → Option Int) (clauses : List (String × String)) : Option Nat :=
  subs.foldl (fun o x => o.bind fun n =>
    match clauses.find? fun e => e.1 == x.name with
    | none => some n
    | some e => (x.code flt value e.2).map fun v => n + v * 2 ^ x.lo) (some 0)

/-- Whether a position takes a register: those that an instruction does not use are left out, C of COPY but under fwd=1 and B of VPACK
but for a block (R84, R110, R157). -/
def positionUsed (a : Acc) (m : Nat) : Bool :=
  match a with
  | .zero => false
  | .pack => mBits m 0 3 != 0
  | .fwd => mBits m 13 1 == 1
  | _ => true

/-- Whether B may be left out: of the forms of R131, and of JADD, as R99's example writes it. -/
def mayOmitB (op : Nat) : Bool := (decide (0x200 ≤ op) && decide (op ≤ 0x208)) || op == 0x109

/-- Registers for positions in order, and the operands after them. -/
def takeRegisters : List (Nat × Bool) → List String → Option (List (Nat × Nat) × List String)
  | [], xs => some ([], xs)
  | (p, free) :: ps, xs =>
    match xs with
    | x :: rest => match registerCode x with
      | some n => (takeRegisters ps rest).map fun r => ((p, n) :: r.1, r.2)
      | none => if free then takeRegisters ps (x :: rest) else none
    | [] => if free then takeRegisters ps [] else none

/-- The row that a line names: in row 0x040 of the map, the immediate form of row 0x060 when the last operand is no register (R83). -/
def rowOfLine (x : SkasLine) : Option (SkasRow × OpRow) :=
  (skasRows.find? fun r => lowerText r.mnemonic == lowerText x.mnemonic).bind fun r =>
    let number := match x.operands.getLast? with
      | some y => (registerCode y).isNone
      | none => false
    let op := if 0x040 ≤ r.op && r.op ≤ 0x057 && number then r.op + 0x20 else r.op
    (rowOf op).map fun row => (r, row)

/-- The field that a line's last operand gives: W of MOVI, the target of format B, else X, which an instruction takes as signed unless it
states a range; none where the form has none (R84, R214). -/
def operandUse (row : OpRow) (e : SkasExpr) : Option SkasUse :=
  match row.fmt with
  | .w => some ⟨.wide, 11, 64, e⟩
  | .b => some ⟨.branch, 0, 43, e⟩
  | .r => if row.e.isSome then none
    else match row.x with
      | .zero => none
      | .any | .shift => some ⟨.signed, 0, 38, e⟩
      | _ => some ⟨.natural, 0, 38, e⟩

/-- Whether a field of a line may wait for a relocation: a target, W, and an X that takes any value (log 71). -/
def mayWait (row : OpRow) : Bool :=
  match row.fmt with
  | .r => row.x == .any
  | _ => true

/-- A field's value where it is known: its bits, and the field if its value waits. -/
def settleUse (row : OpRow) (values : List (String × Int)) (u : SkasUse) : Except String (Nat × List SkasUse) :=
  let e := u.e.subst values none
  match u.take, e.sum with
  | .branch, _ => .ok (0, [{ u with e := e }])
  | t, some ⟨[], v⟩ => match t.fit u.width v with
    | some n => .ok (n * 2 ^ u.at_, [])
    | none => .error "value does not fit"
  | _, _ => if mayWait row then .ok (0, [{ u with e := e }]) else .error "expression"

/-- The slot of a line, and the field in it that waits for the places of the source. No slot is encoded that traps at steps 2 to 8
of R81, be it with a field still zero. -/
def slotOfLine (values : List (String × Int)) (x : SkasLine) : Except String (Nat × List SkasUse) :=
  let value := fun (t : String) => (skasExpr t).bind fun e => e.value values 0
  if lowerText x.mnemonic == ['n', 'o', 'p'] then
    if x.guard.isNone && x.operands.isEmpty && x.clauses.isEmpty then .ok (encode .nop, []) else .error "NOP with operands"
  else match rowOfLine x, guardCode x.guard with
  | some (r, row), some gd =>
    let engine := if row.fmt = .r ∧ row.e.isSome = true then engineSubs else []
    let names := (r.subs ++ engine).map (·.name)
    let flt := decide (8 ≤ ((x.clauses.find? fun e => e.1 == "t").bind fun e => tAny.code false value e.2).getD 0)
    if !(x.clauses.map (·.1)).Nodup || x.clauses.any (fun e => !names.contains e.1) then .error "clause"
    else match subBits r.subs flt value x.clauses, subBits engine flt value x.clauses with
      | some m, some xe =>
        let places := ([(0, row.d), (1, row.a), (2, row.b), (3, row.c)].filter fun e => positionUsed e.2 m).map fun e =>
          (e.1, e.1 == 2 && mayOmitB row.op)
        match takeRegisters places x.operands with
        | none => .error "operands"
        | some (regs, rest) =>
          let at_ := fun p => ((regs.find? fun e => e.1 == p).map (·.2)).getD 0
          let f : Fields := { op := row.op, gd := gd, d := at_ 0, a := at_ 1, b := at_ 2, c := at_ 3, m := m, x := xe }
          let slot := pack row.fmt f
          let field : Except String (Nat × List SkasUse) := match rest with
            | [] => if row.fmt = .b then .error "target" else .ok (0, [])
            | [t] => match (skasExpr t).bind (operandUse row) with
              | some u => settleUse row values u
              | none => .error "operand"
            | _ => .error "operands"
          field.bind fun z => if skasSlotOk (slot + z.1) then .ok (slot + z.1, z.2) else .error "slot traps"
      | _, _ => .error "clause value"
  | _, _ => .error "mnemonic or guard"

end Sys2Proof.Machine
end

