-- ==== Sys2Proof/Machine/SkasSource.lean ====
section
/-! DEFINITION. What skas makes of a source's lines, and what sklink makes of objects: sections, symbols, jigs with their tables,
relocations, and files (10 R213, R215 to R223; 18 R300). A line stands here as its directive with its operands, or as an instruction
line's parts; SkasText.lean reads both from text. -/

namespace Sys2Proof.Machine

/-! ### Statements (R213, R218) -/

/-- The kinds of section that .section names. -/
inductive SkasSecKind where
  | code | data | rodata | zero
  deriving DecidableEq, Repr

/-- tick= of a field (R300). -/
inductive SkasTick where
  | tadv
  | clamp (n : Nat)
  | timer (p : Nat)
  deriving DecidableEq, Repr

/-- One statement. Operands that are omitted have the values the table gives. -/
inductive SkasStmt where
  | label (name : String)
  | instr (x : SkasLine)
  | kernel (name : String)
  | jig (entry : String) (spc srseed : Nat) (tvec eopd : SkasExpr)
  | record (pc : Option String) (gs : List SkasExpr) (fp : SkasExpr) (pri : Nat) (range : Bool) (grain : Nat)
  | feature (ns : List Nat)
  | regs (g v : Nat)
  | pool (rf sp acc : Nat)
  | tensor (name : String) (id fmt space : Nat) (base : SkasExpr) (rows cols rstr : Nat) (sexp : Int) (core : Nat)
  | field (name : String) (base : SkasExpr) (rows cols k : Nat) (tick : SkasTick) (wrap : Bool) (sat : Nat)
  | dq (name : String) (q : Nat) (arrs : List Nat)
  | stage (q : Nat) (entry : String)
  | schedule
  | data (t : SkasType) (prop : Bool) (vs : List String)
  | bits (w : Nat) (vs : List SkasExpr)
  | block (fmt : BqFmt) (prop : Bool) (vs : List String)
  | line
  | target
  | section_ (k : SkasSecKind) (name : String)
  | align (n : Nat)
  | global (names : List String)
  | end_
  deriving DecidableEq, Repr

/-! ### What skas builds -/

/-- A section: of a code section its slots, of another its contents; its extent in bits; the fields that wait in it, by bit offset; and
what stands in it before its next slot or datum: labels, a .target, and of a code section the fill of directives. -/
structure SkasSec where
  kind : SkasSecKind
  name : String
  slots : List SkasSlot := []
  bits : Nat := 0
  len : Nat := 0
  uses : List (Nat × SkasUse) := []
  labels : List String := []
  mark : Bool := false
  aligns : List Nat := []
  deriving DecidableEq, Repr

/-- A symbol (R221): its section's place in the object from 1, or 0 for none. -/
structure SkasSym where
  name : String
  sec : Nat
  kind : Nat
  value : Nat
  size : Nat := 0
  bound : Bool := false
  deriving DecidableEq, Repr

/-- An entry of a jig's tables: its bits, and the fields that wait in it. -/
abbrev SkasEntry := Nat × List SkasUse

/-- A kernel while it is built. `jigs`, `regsN` and `pools` count the lines that it must have exactly one of. -/
structure SkasKernel where
  name : String
  jig : Jig := {}
  head : List SkasUse := []
  jigs : Nat := 0
  regsN : Nat := 0
  pools : Nat := 0
  recs : List SkasEntry := []
  tensors : List SkasEntry := []
  fields : List SkasEntry := []
  queues : List SkasEntry := []
  sched : List SkasEntry := []
  deriving DecidableEq, Repr

/-- What skas has built so far: `cur` is the section that it adds to, `targets` the labels that set TGT bits. -/
structure SkasState where
  secs : List SkasSec := []
  cur : Option Nat := none
  syms : List SkasSym := []
  globals : List String := []
  targets : List String := []
  kernel : Option SkasKernel := none
  kernels : List SkasKernel := []
  inSchedule : Bool := false
  ended : Bool := false
  deriving DecidableEq, Repr

abbrev SkasM := Except String SkasState

/-- An error unless a condition holds. -/
def skasNeed (ok : Bool) (why : String) (k : SkasM) : SkasM := if ok then k else .error why

/-- The current section. -/
def SkasState.here (b : SkasState) : Option SkasSec := b.cur.bind fun i => b.secs[i]?

def SkasState.onHere (b : SkasState) (f : SkasSec → SkasSec) : SkasState :=
  match b.cur with
  | some i => { b with secs := b.secs.zipIdx.map fun e => if e.2 = i then f e.1 else e.1 }
  | none => b

/-- The current location: a bit address within a section. Of a code section it is the place that a group which begins next has after
the groups before it and the fill of directives. -/
def SkasState.loc (b : SkasState) : Nat :=
  match b.here with
  | some x => if x.kind = .code then slotAddr (skasAligned (skasLay (skasGroups x.slots)) x.aligns).length else x.len
  | none => 0

/-- The symbols whose values are known: those that name identifiers. -/
def SkasState.values (b : SkasState) : List (String × Int) :=
  (b.syms.filter fun y => y.sec == 0).map fun y => (y.name, (y.value : Int))

/-- A symbol defined; one that is defined already is an error. -/
def SkasState.define (b : SkasState) (y : SkasSym) : SkasM :=
  skasNeed (b.syms.all fun z => z.name != y.name) "symbol defined twice" (.ok { b with syms := b.syms ++ [y] })

/-- A field's bits, or the field itself where a symbol in it has no value yet; `loc` is put in for the location that waits (R214). -/
def SkasState.fieldAt (b : SkasState) (loc : Option Int) (t : SkasTake) (at_ w : Nat) (e : SkasExpr) : Except String SkasEntry :=
  match e.value b.values b.loc with
  | some v => match t.fit w v with
    | some n => .ok (n * 2 ^ at_, [])
    | none => .error "value does not fit"
  | none => .ok (0, [⟨t, at_, w, e.subst b.values loc⟩])

/-- A field of a jig. -/
def SkasState.field (b : SkasState) (t : SkasTake) (at_ w : Nat) (e : SkasExpr) : Except String SkasEntry :=
  b.fieldAt (some b.loc) t at_ w e

/-- A jig's field of 64 bits that holds a label's address. -/
def addressUse (at_ : Nat) (name : String) : SkasUse := ⟨.natural, at_, 64, .sym name⟩

/-! ### Slots and data -/

/-- A slot added to the current code section, with what stands before it. A `|` on a section's first slot, which no instruction of the
section precedes, joins it to nothing (DESIGN CHOICE, log 71). -/
def SkasState.addSlot (b : SkasState) (bits : Nat) (joined : Bool) (uses : List SkasUse) : SkasM :=
  match b.here with
  | some x =>
    skasNeed (x.kind == .code) "slot outside a code section"
      (.ok (b.onHere fun x => { x with
        slots := x.slots ++ [{ bits := bits, joined := joined && !x.slots.isEmpty, target := x.mark, labels := x.labels, uses := uses
                               aligns := x.aligns }]
        labels := [], mark := false, aligns := [] }))
  | none => .error "no section"

/-- The labels that stand in a section before a datum at its end, as symbols. -/
def SkasSec.labelSyms (x : SkasSec) (sec : Nat) : List SkasSym :=
  x.labels.map fun n => { name := n, sec := sec, kind := 1, value := x.len }

/-- A datum of w bits at the end of the current data or zero section: labels that stand before it name its location (R213). -/
def SkasState.addDatum (b : SkasState) (w v : Nat) (uses : List SkasUse) : SkasState :=
  match b.cur, b.here with
  | some i, some x =>
    { b.onHere fun x => { x with bits := x.bits + v % 2 ^ w * 2 ^ x.len, len := x.len + w, labels := []
                                 uses := x.uses ++ uses.map fun r => (x.len, r) } with syms := b.syms ++ x.labelSyms (i + 1) }
  | _, _ => b

/-- Bits added to the current data section, with the fields that wait in them. -/
def SkasState.addBits (b : SkasState) (w v : Nat) (uses : List SkasUse) : SkasM :=
  match b.here with
  | some x => skasNeed (x.kind == .data || x.kind == .rodata) "data outside a data section" (.ok (b.addDatum w v uses))
  | none => .error "no section"

/-- A list of things added in turn. -/
def skasEach {α : Type} (f : SkasState → α → SkasM) (b : SkasState) : List α → SkasM
  | [] => .ok b
  | a :: as => (f b a).bind fun b => skasEach f b as

/-- The values of .data or of a block directive. -/
def SkasState.valuesOf (b : SkasState) (xs : List String) : Except String (List SkasValue) :=
  match xs.mapM (skasValue b.values b.loc) with
  | some vs => .ok vs
  | none => .error "value"

/-- Sixteen values at a time. -/
def sixteens {α : Type} : Nat → List α → List (List α)
  | 0, _ => []
  | n + 1, xs => if xs.isEmpty then [] else xs.take 16 :: sixteens n (xs.drop 16)

/-- .bits: fields of w bits, each value taken modulo 2^w, or w zero bits when there is none; of a code section slots (R218). In a slot
the location is that of the slot, known when it is placed. R218 bounds w by 512 and the listing of 25 reserves 768 bits at once: the bound
is taken for fields of values (DEDUCED, log 71). -/
def SkasState.addFields (b : SkasState) (w : Nat) (vs : List SkasExpr) : SkasM :=
  skasNeed (decide (1 ≤ w) && (decide (w ≤ 512) || vs.isEmpty)) "width" (
    match b.here with
    | none => .error "no section"
    | some x => match x.kind with
      | .code =>
        skasNeed (w == 96) "width of a slot" (
          if vs.isEmpty then b.addSlot 0 false []
          else skasEach (fun b e => b.addSlot 0 false [⟨.modulo, 0, 96, e.subst b.values none⟩]) b vs)
      | .zero => skasNeed vs.isEmpty "values in a zero section" (.ok (b.addDatum w 0 []))
      | _ =>
        if vs.isEmpty then b.addBits w 0 []
        else skasEach (fun b e => (b.fieldAt none .modulo 0 w e).bind fun r => b.addBits w r.1 r.2) b vs)

/-- One value of .data: an element of its type, or, of an integer type, a field that a symbol leaves (R218, R222). -/
def SkasState.addValue (b : SkasState) (t : SkasType) (prop : Bool) (x : String) : SkasM :=
  match skasValue b.values b.loc x with
  | some v => match t.element prop v with
    | some n => b.addBits t.width n []
    | none => .error "value of the type"
  | none => match t.take, skasExpr x with
    | some k, some e => (b.fieldAt none k 0 t.width e).bind fun r => b.addBits t.width r.1 r.2
    | _, _ => .error "value"

/-- A label: it stands before the next slot or datum of its section (R213). -/
def SkasState.addLabel (b : SkasState) (name : String) : SkasM :=
  skasNeed (b.cur.isSome && b.secs.all fun x => !x.labels.contains name) "label outside a section, or twice"
    (.ok (b.onHere fun x => { x with labels := x.labels ++ [name] }))

/-- .section: the section of a name, made when there is none; a name of two kinds is an error. -/
def SkasState.enter (b : SkasState) (k : SkasSecKind) (name : String) : SkasM :=
  match b.secs.findIdx? fun x => x.name == name with
  | some i => skasNeed ((b.secs[i]?.map (·.kind)) == some k) "section of two kinds" (.ok { b with cur := some i })
  | none => .ok { b with secs := b.secs ++ [{ kind := k, name := name }], cur := some b.secs.length }

/-- .align: a code section goes on in NOP lines, another in zero bits. -/
def SkasState.alignTo (b : SkasState) (n : Nat) : SkasM :=
  match b.here with
  | none => .error "no section"
  | some x =>
    if x.kind = .code then skasNeed (n != 0 && n % 512 == 0) "alignment" (.ok (b.onHere fun x => { x with aligns := x.aligns ++ [n] }))
    else skasNeed (n != 0) "alignment" (.ok (b.onHere fun x => { x with len := x.len + (n - x.len % n) % n }))

/-! ### Kernels (R218, R223) -/

/-- A kernel directive, which must stand in a kernel. -/
def SkasState.inKernel (b : SkasState) (k : SkasKernel → Except String SkasKernel) : SkasM :=
  match b.kernel with
  | some x => (k x).map fun x => { b with kernel := some x }
  | none => .error "outside a kernel"

/-- Entries joined into one: their bits and what symbols left in them. -/
def joinEntries (es : List SkasEntry) : SkasEntry := (es.foldl (fun n e => n + e.1) 0, es.flatMap (·.2))

/-- The main jig line. -/
def SkasState.addJig (b : SkasState) (entry : String) (spc srseed : Nat) (tvec eopd : SkasExpr) : SkasM :=
  (b.field .natural 256 64 tvec).bind fun t => (b.field .natural 192 64 eopd).bind fun e =>
    skasNeed (decide (1 ≤ spc) && decide (spc ≤ 8) && decide (srseed < 2 ^ 32)) "jig"
      ({ b with targets := b.targets ++ [entry] }.inKernel fun x => .ok
        { x with
          jigs := x.jigs + 1, head := x.head ++ [addressUse 320 entry] ++ t.2 ++ e.2
          jig := { x.jig with spc := spc, srseed := srseed, tvec := BitVec.ofNat 64 (t.1 / 2 ^ 256)
                              eopd := BitVec.ofNat 64 (e.1 / 2 ^ 192) } })

/-- An initial record (R186); a PC that is omitted is 0. -/
def SkasState.addRecord (b : SkasState) (pc : Option String) (gs : List SkasExpr) (fp : SkasExpr) (pri : Nat) (range : Bool)
    (grain : Nat) : SkasM :=
  let words := (fp :: gs).zipIdx.mapM fun e => b.field .word (128 + 64 * e.2) 64 e.1
  words.bind fun es =>
    skasNeed (decide (gs.length ≤ 5) && decide (pri < 8) && decide (grain ≤ 62)) "record"
      ({ b with targets := b.targets ++ pc.toList }.inKernel fun x =>
        let own : SkasEntry := (grain * 2 ^ 90 + pri * 2 ^ 87 + range.toNat * 2 ^ 85, pc.toList.map (addressUse 0))
        if x.recs.length < 65535 then .ok { x with recs := x.recs ++ [joinEntries (own :: es)] } else .error "records")

/-- A tensor entry, checked as TDSET checks (R161). -/
def SkasState.addTensor (b : SkasState) (name : String) (id fmt space : Nat) (base : SkasExpr) (rows cols rstr : Nat) (sexp : Int)
    (core : Nat) : SkasM :=
  (b.field .natural 192 64 base).bind fun r =>
    let bits := rstr % 2 ^ 40 * 2 ^ 152 + rows % 2 ^ 16 * 2 ^ 136 + cols % 2 ^ 16 * 2 ^ 120 + core % 2 ^ 12 * 2 ^ 108
      + wrapTo 8 sexp * 2 ^ 100 + space % 4 * 2 ^ 98 + fmt % 2 ^ 5 * 2 ^ 93 + 1
    let fits := decide (id < 4096) && decide (rstr < 2 ^ 40) && decide (rows < 2 ^ 16) && decide (cols < 2 ^ 16)
      && decide (core < 4096) && decide (-128 ≤ sexp) && decide (sexp ≤ 127) && decide (fmt < 32) && decide (space < 4)
    skasNeed (fits && !tdescBad (tdescOf bits)) "tensor"
      ((b.inKernel fun x =>
        if x.tensors.length < 4096 then .ok { x with tensors := x.tensors ++ [(r.1 + bits + id * 2 ^ 256, r.2)] }
        else .error "tensors").bind fun b => b.define { name := name, sec := 0, kind := 2, value := id })

/-- TSRC and TARG of a field (R300). -/
def SkasTick.bits : SkasTick → Option (Nat × Nat)
  | .tadv => some (0, 0)
  | .clamp n => if n < 64 then some (1, n) else none
  | .timer p => if 256 ≤ p ∧ p ≤ 2 ^ 24 then some (2, p) else none

/-- A field descriptor (R300); its FID is the number of the line in its kernel. -/
def SkasState.addField (b : SkasState) (name : String) (base : SkasExpr) (rows cols k : Nat) (tick : SkasTick) (wrap : Bool)
    (sat : Nat) : SkasM :=
  (b.field .natural 192 64 base).bind fun r =>
    match tick.bits with
    | none => .error "tick"
    | some (src, arg) =>
      let fid := ((b.kernel.map fun x => x.fields.length).getD 0) + 1
      let bits := rows % 2 ^ 16 * 2 ^ 176 + cols % 2 ^ 16 * 2 ^ 160 + k % 16 * 2 ^ 156 + wrap.toNat * 2 ^ 155 + src * 2 ^ 153
        + arg * 2 ^ 128 + sat % 2 ^ 16 * 2 ^ 112 + fid % 64 * 2 ^ 106
      let fits := decide (1 ≤ rows) && decide (1 ≤ cols) && decide (rows < 2 ^ 16) && decide (cols < 2 ^ 16)
        && decide (rows * cols ≤ 2 ^ 24) && decide (k < 16) && decide (1 ≤ sat) && decide (sat < 2 ^ 16) && decide (fid ≤ 63)
      skasNeed fits "field"
        ((b.inKernel fun x => .ok { x with fields := x.fields ++ [(r.1 + bits, r.2)] }).bind fun b =>
          b.define { name := name, sec := 0, kind := 3, value := fid })

/-- A queue binding (R223). -/
def SkasState.addQueue (b : SkasState) (name : String) (q : Nat) (arrs : List Nat) : SkasM :=
  let mask := (List.range 16).foldl (fun n a => if arrs.contains a then n + 2 ^ a else n) 0
  skasNeed (decide (q < 32) && arrs.all fun a => decide (a < 16)) "queue"
    ((b.inKernel fun x =>
      if x.queues.any fun e => e.1 % 32 == q then .error "queue bound twice"
      else .ok { x with queues := x.queues ++ [(mask * 2 ^ 32 + q, [])] }).bind fun b =>
        b.define { name := name, sec := 0, kind := 4, value := q })

/-- A stage program bound to a queue that .dq has bound. -/
def SkasState.addStage (b : SkasState) (q : Nat) (entry : String) : SkasM :=
  { b with targets := b.targets ++ [entry] }.inKernel fun x =>
    if x.queues.any fun e => e.1 % 32 == q && e.2.isEmpty then
      .ok { x with queues := x.queues.map fun (e : SkasEntry) => if e.1 % 32 = q then (e.1, [addressUse 64 entry]) else e }
    else .error "stage of an unbound queue"

/-- A slot of the static schedule, without guard or `|`. -/
def SkasState.addScheduled (b : SkasState) (x : SkasLine) : SkasM :=
  (slotOfLine b.values x).bind fun r =>
    skasNeed (!x.joined && x.guard.isNone && r.2.isEmpty && scheduleSlotOk r.1) "schedule slot"
      (b.inKernel fun x => if x.sched.length < 256 then .ok { x with sched := x.sched ++ [(r.1, [])] } else .error "schedule")

/-- .end of a kernel: exactly one .regs, one .pool and one main .jig, and the partition word as R49 asks. -/
def SkasState.closeKernel (b : SkasState) (x : SkasKernel) : SkasM :=
  skasNeed (x.jigs == 1 && x.regsN == 1 && x.pools == 1) "kernel without one .regs, .pool and .jig"
    (skasNeed (pwordOk x.jig) "pool" (.ok { b with kernel := none, kernels := b.kernels ++ [x] }))

/-! ### One statement -/

/-- The labels that a line's field branches to (R216). -/
def branchLabels (us : List SkasUse) : List String :=
  us.filterMap fun u => match u.take, u.e with
    | .branch, .sym x => some x
    | _, _ => none

/-- A line's slot, in the schedule or in the current section. -/
def SkasState.addInstr (b : SkasState) (x : SkasLine) : SkasM :=
  if b.inSchedule then b.addScheduled x
  else (slotOfLine b.values x).bind fun r =>
    { b with targets := b.targets ++ branchLabels r.2 }.addSlot r.1 x.joined r.2

/-- Whether a statement may stand in a .schedule: its lines and its .end (R218). -/
def SkasStmt.scheduled : SkasStmt → Bool
  | .instr _ | .end_ => true
  | _ => false

/-- What one statement does (R218). -/
def SkasState.add (b : SkasState) (x : SkasStmt) : SkasM :=
  if b.ended then .ok b
  else if b.inSchedule && !x.scheduled then .error "no line of a schedule"
  else match x with
    | .label name => b.addLabel name
    | .instr x => b.addInstr x
    | .kernel name => skasNeed b.kernel.isNone "kernels do not nest" (.ok { b with kernel := some { name := name } })
    | .jig entry spc srseed tvec eopd => b.addJig entry spc srseed tvec eopd
    | .record pc gs fp pri range grain => b.addRecord pc gs fp pri range grain
    | .feature ns => skasNeed (ns.all fun n => decide (n < 128)) "feature" (b.inKernel fun k => .ok
        { k with jig := { k.jig with feat := ns.foldl (fun m n => if bitsAt m n 1 = 1 then m else m + 2 ^ n) k.jig.feat } })
    | .regs g v => skasNeed (decide (8 ≤ g) && decide (g ≤ 64) && g % 8 == 0 && decide (v ≤ 32)) "regs" (b.inKernel fun k => .ok
        { k with regsN := k.regsN + 1, jig := { k.jig with gcount := g, vcount := v } })
    | .pool rf sp acc => skasNeed (decide (rf < 64) && decide (sp < 64) && decide (acc < 64)) "pool" (b.inKernel fun k => .ok
        { k with pools := k.pools + 1, jig := { k.jig with pword := BitVec.ofNat 32 (rf + sp * 2 ^ 8 + acc * 2 ^ 16) } })
    | .tensor name id fmt space base rows cols rstr sexp core => b.addTensor name id fmt space base rows cols rstr sexp core
    | .field name base rows cols k tick wrap sat => b.addField name base rows cols k tick wrap sat
    | .dq name q arrs => b.addQueue name q arrs
    | .stage q entry => b.addStage q entry
    | .schedule => skasNeed b.kernel.isSome "schedule" (.ok { b with inSchedule := true })
    | .data t prop xs => skasEach (fun b x => b.addValue t prop x) b xs
    | .bits w vs => b.addFields w vs
    | .block fmt prop xs => (b.valuesOf xs).bind fun vs => skasNeed (vs.length % 16 == 0) "values of a block"
        (skasEach (fun b g => match skasBlock fmt prop g with
          | some n => b.addBits (bqBlock fmt) n []
          | none => .error "block") b (sixteens vs.length vs))
    | .line => (match b.here with
        | some s => skasNeed (s.kind == .code) "line outside a code section" (b.alignTo 512)
        | none => .error "no section")
    | .target => skasNeed ((b.here.map (·.kind)) == some .code) "target outside a code section"
        (.ok (b.onHere fun x => { x with mark := true }))
    | .section_ k name => b.enter k name
    | .align n => b.alignTo n
    | .global names => .ok { b with globals := b.globals ++ names, targets := b.targets ++ names }
    | .end_ => if b.inSchedule then
          skasNeed ((b.kernel.map fun k => !k.sched.isEmpty).getD false) "empty schedule" (.ok { b with inSchedule := false })
        else match b.kernel with
          | some k => b.closeKernel k
          | none => .ok { b with ended := true }

/-! ### Objects (R216, R217, R219 to R223) -/

/-- A section of an object: type, flags, name, contents, extent in bits, and relocations by offset. -/
structure SkoSec where
  type : Nat
  flags : Nat
  name : String
  bits : Nat
  len : Nat
  refs : List (Nat × SkasRef)
  deriving DecidableEq, Repr

/-- An object: sections and symbols. -/
structure SkoObject where
  secs : List SkoSec
  syms : List SkasSym
  deriving DecidableEq, Repr

/-- Lines as one number, the first lowest. -/
def linesBits : List Nat → Nat
  | [] => 0
  | n :: ns => n + 2 ^ 512 * linesBits ns

/-- A relocation of a slot or datum at an offset: OFFSET is the field's for ABS and SABS, that of slot bit 0 for BRANCH and WIDE. -/
def relocFor (o : Nat) (r : SkasRef) : Reloc :=
  { offset := if r.kind ≤ 2 then o + r.at_ else o, sym := 0, kind := r.kind, width := r.width, addend := r.addend }

/-- A section whose slots are placed: of a code section, its whole lines. -/
structure SkasPlaced where
  sec : SkasSec
  slots : List SkasSlot := []
  deriving DecidableEq, Repr

/-- Where a section's slots stand; an error for a group that breaks R67, and for a label or .target that no slot or datum of the section
follows (DESIGN CHOICE, log 71: the spec does not say what it names). -/
def placeSection (targets : List String) (x : SkasSec) : Except String SkasPlaced :=
  if !x.labels.isEmpty || x.mark then .error "label or target with nothing after it"
  else if x.kind = .code then match skasPlaced x.slots x.aligns with
    | none => .error "issue group"
    | some ys => .ok ⟨x, ys.map fun y => { y with target := y.target || y.labels.any targets.contains }⟩
  else .ok ⟨x, []⟩

/-- The symbols of a placed section: the labels of its slots, and for a zero section the one of its name, which has its size (R220). -/
def SkasPlaced.syms (sec : Nat) (p : SkasPlaced) : List SkasSym :=
  (p.slots.zipIdx.flatMap fun e => e.1.labels.map fun n => ({ name := n, sec := sec, kind := 0, value := slotAddr e.2 } : SkasSym)) ++
  if p.sec.kind = .zero then [{ name := p.sec.name, sec := sec, kind := 1, value := 0, size := p.sec.len }] else []

/-- The section and offset that a name of the source stands for. -/
def placeOf (syms : List SkasSym) (x : String) : Option (Nat × Nat) :=
  (syms.find? fun y => y.name == x && y.sec != 0).map fun y => (y.sec, y.value)

/-- Fields at offsets of a section: their bits, and what symbols left. -/
def solveUses (syms : List SkasSym) (sec : Nat) (us : List (Nat × SkasUse)) : Except String (Nat × List (Nat × SkasRef)) :=
  (us.mapM fun (e : Nat × SkasUse) => (e.2.solve (placeOf syms) (sec, e.1)).map fun r => (e.1, r)).map fun rs =>
    (rs.foldl (fun n e => n + e.2.1 * 2 ^ e.1) 0, rs.flatMap fun e => e.2.2.map fun r => (e.1, r))

/-- Where a branch's symbol stands, if in its own section; a full stop is the slot itself. -/
def branchHere (syms : List SkasSym) (sec : Nat) (e : Nat × SkasRef) : Option Nat :=
  if e.2.kind != 3 then none
  else if e.2.sym == "." then some e.1
  else (placeOf syms e.2.sym).bind fun p => if p.1 = sec then some p.2 else none

/-- A code section: its lines with its fields, branches within it resolved by R72. -/
def buildCode (syms : List SkasSym) (sec : Nat) (p : SkasPlaced) : Except String SkoSec :=
  let ys := p.slots
  (solveUses syms sec (ys.zipIdx.flatMap fun e => e.1.uses.map fun u => (slotAddr e.2, u))).bind fun r =>
    let bits := linesBits (skasLines (ys.length + 1) ys) + r.1
    let marked := fun (v : Nat) => ys.zipIdx.any fun e => slotAddr e.2 == v && e.1.target
    match r.2.foldl (fun o e => o.bind fun n => match branchHere syms sec e with
        | some v => applyReloc 0 marked (relocFor e.1 e.2) v n
        | none => some n) (some bits) with
    | none => .error "branch"
    | some n =>
      let lines := relineParity ((List.range (ys.length / 5)).map fun i => bitsAt n (512 * i) 512)
      .ok { type := 1, flags := 1, name := p.sec.name, bits := linesBits lines, len := 512 * lines.length
            refs := r.2.filter fun e => (branchHere syms sec e).isNone }

/-- A section of the object. -/
def buildSection (syms : List SkasSym) (sec : Nat) (p : SkasPlaced) : Except String SkoSec :=
  let x := p.sec
  if x.kind = .code then buildCode syms sec p
  else (solveUses syms sec x.uses).map fun r =>
    { type := if x.kind = .zero then 3 else 2, flags := if x.kind = .rodata then 1 else 3, name := x.name, bits := x.bits + r.1
      len := x.len, refs := r.2 }

/-- Entries of w bits one after another from an offset, and the fields that wait in them. -/
def layEntries (o w : Nat) (es : List SkasEntry) : Nat × List (Nat × SkasUse) :=
  es.zipIdx.foldl (fun a (e : SkasEntry × Nat) => (a.1 + e.1.1 * 2 ^ (o + w * e.2), a.2 ++ e.1.2.map fun r => (o + w * e.2, r))) (0, [])

/-- A kernel's JIG section (R223). -/
def placeJig (syms : List SkasSym) (x : SkasKernel) : Except String SkoSec :=
  let j := x.jig
  let head := j.feat % 2 ^ 128 * 2 ^ 384 + j.tvec.toNat * 2 ^ 256 + j.eopd.toNat * 2 ^ 192 + j.pword.toNat * 2 ^ 160
    + j.srseed * 2 ^ 128 + x.recs.length * 2 ^ 112 + x.tensors.length * 2 ^ 96 + x.fields.length * 2 ^ 88
    + x.queues.length * 2 ^ 80 + x.sched.length * 2 ^ 71 + j.gcount * 2 ^ 56 + j.vcount * 2 ^ 48 + j.spc * 2 ^ 44
  let o1 := 512 + 512 * x.recs.length
  let o2 := o1 + 512 * x.tensors.length
  let o3 := o2 + 256 * x.fields.length
  let o4 := o3 + 128 * x.queues.length
  let parts := [layEntries 512 512 x.recs, layEntries o1 512 x.tensors, layEntries o2 256 x.fields, layEntries o3 128 x.queues,
                layEntries o4 96 x.sched]
  (solveUses syms 0 ((x.head.map fun r => (0, r)) ++ parts.flatMap (·.2))).map fun r =>
    { type := 4, flags := 1, name := x.name, bits := parts.foldl (fun n e => n + e.1) (head + r.1)
      len := (o4 + 96 * x.sched.length + 511) / 512 * 512, refs := r.2 }

/-- The names that stand in an object without being defined there. -/
def undefinedNames (secs : List SkoSec) (syms : List SkasSym) (globals : List String) : List String :=
  ((secs.flatMap fun x => x.refs.map fun e => e.2.sym) ++ globals).eraseDups.filter fun n => syms.all fun y => y.name != n

/-- The object that skas writes, none for a source that holds an error (R214). -/
def skasObject (b : SkasState) : Except String SkoObject :=
  if b.kernel.isSome || b.inSchedule then .error "open at the end"
  else
    (b.secs.mapM (placeSection b.targets)).bind fun ps =>
      let kernels := b.kernels.zipIdx.map fun e =>
        ({ name := e.1.name, sec := b.secs.length + e.2 + 1, kind := 5, value := 0 } : SkasSym)
      let syms := b.syms ++ (ps.zipIdx.flatMap fun e => e.1.syms (e.2 + 1)) ++ kernels
      let names : List String := syms.map (·.name)
      if !names.Nodup then .error "symbol defined twice"
      else (ps.zipIdx.mapM fun e => buildSection syms (e.2 + 1) e.1).bind fun secs => (b.kernels.mapM (placeJig syms)).map fun jigs =>
        let globals := b.globals ++ kernels.map (·.name)
        let none_ := (undefinedNames (secs ++ jigs) syms globals).map fun n => ({ name := n, sec := 0, kind := 0, value := 0 } : SkasSym)
        { secs := secs ++ jigs, syms := (syms ++ none_).map fun y => { y with bound := globals.contains y.name } }

/-- skas: a source's statements to an object (R213 to R218). -/
def skas (xs : List SkasStmt) : Except String SkoObject := (skasEach SkasState.add {} xs).bind skasObject

/-! ### Linking (R222) -/

/-- Whether a symbol of an object is undefined in it. -/
def skasUndefined (y : SkasSym) : Bool := y.sec == 0 && y.kind == 0

/-- A name as one object sees it: its own symbol, or another object's global one. -/
def findSym (objs : List SkoObject) (o : SkoObject) (n : String) : Option (SkoObject × SkasSym) :=
  match o.syms.find? fun y => y.name == n && !skasUndefined y with
  | some y => some (o, y)
  | none => objs.findSome? fun p => (p.syms.find? fun y => y.name == n && y.bound && !skasUndefined y).map fun y => (p, y)

/-- Addresses for the sections of objects, in order, each at a multiple of 2^19 (14 R256). -/
def placeSecs : Nat → List SkoSec → List Nat
  | _, [] => []
  | a, x :: xs => a :: placeSecs (a + (x.len + 2 ^ 19 - 1) / 2 ^ 19 * 2 ^ 19) xs

/-- A symbol's final VALUE: an address for one in a section, else its identifier. -/
def finalValue (addrs : List Nat) (y : SkasSym) : Nat := if y.sec = 0 then y.value else addrs.getD (y.sec - 1) 0 + y.value

/-- Whether the slot at an address of placed sections has TGT set. -/
def tgtSetAt (secs : List (SkoSec × Nat)) (v : Nat) : Bool :=
  secs.any fun e => e.1.type == 1 && decide (e.2 ≤ v) && decide (v < e.2 + e.1.len)
    && bitsAt e.1.bits ((v - e.2) / 512 * 512 + (v - e.2 - 32) % 512 / 96) 1 == 1

/-- A section patched: relocations in entry order, then PAR anew (R62, R222). -/
def patchSec (all : List (SkoSec × Nat)) (value : String → Option Nat) (x : SkoSec) (addr : Nat) : Except String SkoSec :=
  match x.refs.mapM fun e => (value e.2.sym).map fun v => (relocFor e.1 e.2, v) with
  | none => .error "undefined symbol"
  | some rs => match applyRelocs addr (tgtSetAt all) rs x.bits with
    | none => .error "relocation"
    | some n =>
      let n := if x.type = 1 then linesBits (relineParity ((List.range (x.len / 512)).map fun i => bitsAt n (512 * i) 512)) else n
      .ok { x with bits := n, refs := [] }

/-- An object's sections with their addresses, the objects laid one after another from an address. -/
def placeObjects : Nat → List SkoObject → List (SkoObject × List Nat)
  | _, [] => []
  | a, o :: os =>
    let as := placeSecs a o.secs
    (o, as) :: placeObjects (a + (o.secs.foldl (fun n x => n + (x.len + 2 ^ 19 - 1) / 2 ^ 19) 0) * 2 ^ 19) os

/-- The symbols of an executable: those that the objects define, each in its section's place among all sections. -/
def linkedSyms : Nat → List SkoObject → List SkasSym
  | _, [] => []
  | n, o :: os =>
    ((o.syms.filter fun y => !skasUndefined y).map fun y => if y.sec = 0 then y else { y with sec := n + y.sec }) ++
      linkedSyms (n + o.secs.length) os

/-- sklink: an executable and the addresses of its sections; a symbol that is global in two objects, or undefined in all, is an error,
be it referenced or not (R222). -/
def sklink (start : Nat) (objs : List SkoObject) : Except String (SkoObject × List Nat) :=
  let defined : List String := objs.flatMap fun o => (o.syms.filter fun y => y.bound && !skasUndefined y).map (·.name)
  if !defined.Nodup then .error "global in two objects"
  else if objs.any fun o => o.syms.any fun y => (findSym objs o y.name).isNone then .error "undefined symbol"
  else
    let placed := placeObjects start objs
    let all := placed.flatMap fun p => p.1.secs.zip p.2
    let value := fun (o : SkoObject) (n : String) => (findSym objs o n).bind fun (e : SkoObject × SkasSym) =>
      (placed.find? fun (p : SkoObject × List Nat) => p.1 == e.1).map fun p => finalValue p.2 e.2
    (placed.mapM fun (p : SkoObject × List Nat) => (p.1.secs.zip p.2).mapM fun (e : SkoSec × Nat) =>
      patchSec all (value p.1) e.1 e.2).map fun xs =>
        ({ secs := xs.flatten, syms := linkedSyms 0 objs }, placed.flatMap (·.2))

/-! ### Files (R219 to R222) -/

/-- The bytes of names, each ended by a zero byte, as bits. -/
def strBits (names : List String) : Nat := ofLeBytes (names.flatMap fun n => n.toUTF8.toList.map (·.toNat) ++ [0])

/-- The offset in bits of name i among names. -/
def strOffset (names : List String) (i : Nat) : Nat :=
  8 * ((names.take i).foldl (fun n x => n + x.toUTF8.size + 1) 0)

/-- A SYM entry with its VALUE (R221). -/
def symBits (names : List String) (value : Nat) (y : SkasSym) : Nat :=
  strOffset names ((names.idxOf? y.name).getD 0) % 2 ^ 32 * 2 ^ 224 + y.sec % 2 ^ 16 * 2 ^ 208 + y.kind % 16 * 2 ^ 204
    + y.bound.toNat * 2 ^ 202 + value % 2 ^ 64 * 2 ^ 128 + y.size % 2 ^ 64 * 2 ^ 64

/-- A RELOC entry. -/
def relocBits (syms : List SkasSym) (e : Nat × SkasRef) : Nat :=
  (relocFor e.1 e.2).offset % 2 ^ 64 * 2 ^ 192
    + (((syms.findIdx? fun y => y.name == e.2.sym).getD 0) + 1) % 2 ^ 32 * 2 ^ 160 + e.2.kind % 2 ^ 8 * 2 ^ 152
    + (if e.2.kind ≤ 2 then e.2.width else 0) % 2 ^ 8 * 2 ^ 144 + wrapTo 64 e.2.addend * 2 ^ 64

/-- Entries of 256 bits as one number. -/
def entriesBits : List Nat → Nat
  | [] => 0
  | n :: ns => n + 2 ^ 256 * entriesBits ns

/-- A section as a file holds it: its table entry without offset, contents and size (R220). -/
structure SkoPart where
  entry : Nat
  bits : Nat
  len : Nat
  deriving DecidableEq, Repr

/-- A part of a type, with flags, link, name offset and address. -/
def skoPart (type flags link name addr bits len : Nat) : SkoPart :=
  { entry := type % 2 ^ 8 * 2 ^ 248 + flags % 2 ^ 8 * 2 ^ 240 + link % 2 ^ 16 * 2 ^ 224 + name % 2 ^ 32 * 2 ^ 192
      + addr % 2 ^ 64 * 2 ^ 128
    bits := bits, len := len }

/-- Where the contents of parts stand that begin at an offset, each at a multiple of 512, and where the last one ends. -/
def skoOffsets (o : Nat) : List SkoPart → List Nat × Nat
  | [] => ([], o)
  | x :: xs => let r := skoOffsets (o + (x.len + 511) / 512 * 512) xs; (o :: r.1, r.2)

/-- A file of a type with its parts, the section table after the header: its bits and its size (R219). -/
def skoFileOf (type : Nat) (parts : List SkoPart) : Nat × Nat :=
  let table := (256 * parts.length + 511) / 512 * 512
  let r := skoOffsets (512 + table) parts
  let entries := (parts.zip r.1).map fun e => e.1.entry + e.2 * 2 ^ 64 + e.1.len
  let header := 0x534B4F31 * 2 ^ 480 + 1 * 2 ^ 472 + type * 2 ^ 464 + parts.length % 2 ^ 16 * 2 ^ 448 + 512 * 2 ^ 384
  ((parts.zip r.1).foldl (fun n e => n + e.1.bits * 2 ^ e.2) (header + entriesBits entries * 2 ^ 512), r.2)

/-- The file of an object, for an executable with its sections' addresses, which a relocatable object has 0 for: STR first, then the
object's sections, SYM, and for a relocatable file a RELOC section for each section that has relocations, for an executable a SIG section
for each JIG section. VALUE of an executable's symbol is a bit address (R219 to R224). -/
def skoFile (exe : Bool) (o : SkoObject) (addrs : List Nat) (sig : Nat → Nat) : Nat × Nat :=
  let names := (o.secs.map (·.name) ++ o.syms.map (·.name)).eraseDups
  let str := strBits names
  let jigs := (List.range o.secs.length).filter fun i => (o.secs[i]?.map fun x => x.type == 4).getD false
  let addr := fun i => if exe then addrs.getD i 0 else 0
  let own := o.secs.zipIdx.map fun e =>
    skoPart e.1.type e.1.flags (if exe && e.1.type == 4 then o.secs.length + 2 + (jigs.idxOf? e.2).getD 0 else 0)
      (strOffset names ((names.idxOf? e.1.name).getD 0)) (addr e.2) (if e.1.type = 3 then 0 else e.1.bits)
      (if e.1.type = 3 then 0 else e.1.len)
  let entry := fun y => symBits names (if exe then finalValue addrs y else y.value) y
  let syms := skoPart 5 0 0 0 0 (entriesBits (0 :: o.syms.map entry)) (256 * (o.syms.length + 1))
  let rest := if exe then jigs.map fun i => skoPart 8 0 0 0 0 (sig i % 2 ^ 27648) 27648
    else o.secs.zipIdx.filterMap fun e =>
      if e.1.refs.isEmpty then none
      else some (skoPart 6 0 (e.2 + 1) 0 0 (entriesBits (e.1.refs.map (relocBits o.syms))) (256 * e.1.refs.length))
  skoFileOf (if exe then 2 else 1)
    (skoPart 7 0 0 0 0 str (8 * names.foldl (fun n x => n + x.toUTF8.size + 1) 0) :: own ++ [syms] ++ rest)

end Sys2Proof.Machine
end

