-- ==== Sys2Proof/Machine/SkasText.lean ====
section
/-! DEFINITION. The text of a source: its lines read one after another as statements, with the symbols that earlier lines have given
(10 R213, R214, R218; 18 R300, R301). What the spec does not say of a directive's text is log 71's. -/

namespace Sys2Proof.Machine

/-! ### Operands of directives -/

/-- A number: an expression all of whose symbols have values (R214). -/
def SkasState.number (b : SkasState) (text : String) : Option Int := (skasExpr text).bind fun e => e.value b.values b.loc

/-- A natural number. -/
def SkasState.nat (b : SkasState) (text : String) : Option Nat :=
  (b.number text).bind fun n => if 0 ≤ n then some n.toNat else none

/-- The text of a clause, where it stands. -/
def SkasLine.clause (x : SkasLine) (name : String) : Option String := (x.clauses.find? fun e => e.1 == name).map (·.2)

/-- The text of a clause, or what the table gives for one that is omitted. -/
def SkasLine.clauseOr (x : SkasLine) (name default : String) : String := (x.clause name).getD default

/-- What a name stands for, read without regard to case (R213). -/
def nameIn {α : Type} (xs : List (String × α)) (text : String) : Option α :=
  (xs.find? fun e => lowerText e.1 == lowerText text).map (·.2)

/-- A symbol's name. -/
def labelIn (text : String) : Option String := if isLabelText text.toList then some text else none

/-- The one operand of a directive that takes a name. -/
def SkasLine.nameOperand (x : SkasLine) : Option String :=
  match x.operands with
  | [n] => labelIn n
  | _ => none

/-- FMT of a tensor (R106, R159). -/
def tensorFormats : List (String × Nat) := (cvtNames ++ ["bq3", "bq5", "bq8"]).zipIdx

/-- The types of .data (R8, R218). -/
def dataTypes : List (String × SkasType) := ("mk32", SkasType.mk32) :: cvtNames.zipIdx.map fun e => (e.1, .cvt (CvtType.ofCode e.2))

def sectionKinds : List (String × SkasSecKind) := [("code", .code), ("data", .data), ("rodata", .rodata), ("zero", .zero)]

/-- tick= of a field (18 R301). -/
def tickIn (text : String) : Option SkasTick :=
  match lowerText text with
  | ['t', 'a', 'd', 'v'] => some .tadv
  | 'c' :: 'l' :: 'a' :: 'm' :: 'p' :: ds => (digitsValue 10 ds).map SkasTick.clamp
  | 't' :: 'i' :: 'm' :: 'e' :: 'r' :: ds => (digitsValue 10 ds).map SkasTick.timer
  | _ => none

/-! ### One directive (R218) -/

/-- The clauses that each directive takes; the first form of .jig has its own. -/
def directiveClauses : List (String × List String) :=
  [(".kernel", []), (".jig", ["entry", "spc", "srseed", "tvec", "eopd"]), (".feature", []), (".regs", ["g", "v"]),
   (".pool", ["rf", "sp", "acc"]),
   (".tensor", ["id", "fmt", "space", "base", "rows", "cols", "rstr", "sexp", "core"]),
   (".field", ["base", "rows", "cols", "k", "tick", "wrap", "sat"]), (".dq", ["q", "arr"]), (".stage", ["q", "entry"]),
   (".schedule", []), (".data", ["t", "ovf"]), (".bits", ["w"]), (".bq3", ["ovf"]), (".bq5", ["ovf"]), (".bq8", ["ovf"]),
   (".line", []), (".target", []), (".section", []), (".align", []), (".global", []), (".end", [])]

/-- The clauses of an initial record. -/
def recordClauses : List String := ["pc", "g1", "g2", "g3", "g4", "g5", "fp", "pri", "kind", "grain"]

/-- The second form of .jig. -/
def SkasState.readRecord (b : SkasState) (x : SkasLine) : Option SkasStmt := do
  let pc ← match x.clause "pc" with
    | some t => (labelIn t).map some
    | none => some none
  let gs ← ["g1", "g2", "g3", "g4", "g5"].mapM fun n => skasExpr (x.clauseOr n "0")
  let fp ← skasExpr (x.clauseOr "fp" "0")
  let pri ← b.nat (x.clauseOr "pri" "0")
  let range ← nameIn [("plain", false), ("range", true)] (x.clauseOr "kind" "plain")
  let grain ← b.nat (x.clauseOr "grain" "0")
  return .record pc gs fp pri range grain

/-- The main form of .jig. -/
def SkasState.readJig (b : SkasState) (x : SkasLine) : Option SkasStmt := do
  let entry ← (x.clause "entry").bind labelIn
  let spc ← b.nat (x.clauseOr "spc" "1")
  let srseed ← b.nat (x.clauseOr "srseed" "0")
  let tvec ← skasExpr (x.clauseOr "tvec" "0")
  let eopd ← skasExpr (x.clauseOr "eopd" "0")
  return .jig entry spc srseed tvec eopd

def SkasState.readTensor (b : SkasState) (x : SkasLine) : Option SkasStmt := do
  let name ← x.nameOperand
  let id ← (x.clause "id").bind b.nat
  let fmt ← (x.clause "fmt").bind (nameIn tensorFormats)
  let space ← (x.clause "space").bind (nameIn [("gv", 0), ("pool", 1), ("bst", 2)])
  let base ← (x.clause "base").bind skasExpr
  let rows ← (x.clause "rows").bind b.nat
  let cols ← (x.clause "cols").bind b.nat
  let rstr ← b.nat (x.clauseOr "rstr" "0")
  let sexp ← b.number (x.clauseOr "sexp" "0")
  let core ← b.nat (x.clauseOr "core" "0")
  return .tensor name id fmt space base rows cols rstr sexp core

def SkasState.readField (b : SkasState) (x : SkasLine) : Option SkasStmt := do
  let name ← x.nameOperand
  let base ← (x.clause "base").bind skasExpr
  let rows ← (x.clause "rows").bind b.nat
  let cols ← (x.clause "cols").bind b.nat
  let k ← b.nat (x.clauseOr "k" "0")
  let tick ← (x.clause "tick").bind tickIn
  let wrap ← b.nat (x.clauseOr "wrap" "0")
  let sat ← b.nat (x.clauseOr "sat" "65535")
  if wrap ≤ 1 then some (.field name base rows cols k tick (wrap == 1) sat) else none

/-- A queue's name, then the numbers after arr= (R218). -/
def SkasState.readQueue (b : SkasState) (x : SkasLine) : Option SkasStmt := do
  let (name, more) ← match x.operands with
    | n :: more => (labelIn n).map fun n => (n, more)
    | [] => none
  let q ← (x.clause "q").bind b.nat
  let arrs ← ((x.clause "arr").toList ++ more).mapM b.nat
  if more.isEmpty || (x.clause "arr").isSome then some (.dq name q arrs) else none

/-- ovf= of values (R30). -/
def SkasLine.prop (x : SkasLine) : Option Bool := nameIn [("sat", false), ("prop", true)] (x.clauseOr "ovf" "sat")

/-- A directive's statement, its clauses being ones that it takes; none where its operands are not the table's. -/
def SkasState.readDirective (b : SkasState) (x : SkasLine) : Option SkasStmt :=
  let alone := fun (y : SkasStmt) => if x.operands.isEmpty then some y else none
  let block := fun f => x.prop.map fun p => SkasStmt.block f p x.operands
  match x.mnemonic with
  | ".kernel" => x.nameOperand.map SkasStmt.kernel
  | ".jig" => if x.operands.isEmpty then b.readJig x else b.readRecord x
  | ".feature" => (x.operands.mapM b.nat).map SkasStmt.feature
  | ".regs" => ((x.clause "g").bind b.nat).bind fun g => ((x.clause "v").bind b.nat).bind fun v => alone (.regs g v)
  | ".pool" => ((x.clause "rf").bind b.nat).bind fun r => ((x.clause "sp").bind b.nat).bind fun s =>
      ((x.clause "acc").bind b.nat).bind fun a => alone (.pool r s a)
  | ".tensor" => b.readTensor x
  | ".field" => b.readField x
  | ".dq" => b.readQueue x
  | ".stage" => ((x.clause "q").bind b.nat).bind fun q => ((x.clause "entry").bind labelIn).bind fun e => alone (.stage q e)
  | ".schedule" => alone .schedule
  | ".data" => ((x.clause "t").bind (nameIn dataTypes)).bind fun t => x.prop.map fun p => .data t p x.operands
  | ".bits" => ((x.clause "w").bind b.nat).bind fun w => (x.operands.mapM skasExpr).map fun vs => .bits w vs
  | ".bq3" => block .bq3
  | ".bq5" => block .bq5
  | ".bq8" => block .bq8
  | ".line" => alone .line
  | ".target" => alone .target
  | ".section" => match x.operands with
    | [k] => (nameIn sectionKinds k).map fun y => .section_ y (String.ofList (lowerText k))
    | [k, n] => (nameIn sectionKinds k).bind fun y => (labelIn n).map fun n => .section_ y n
    | _ => none
  | ".align" => match x.operands with
    | [n] => (b.nat n).map SkasStmt.align
    | _ => none
  | ".global" => (x.operands.mapM labelIn).map SkasStmt.global
  | ".end" => alone .end_
  | _ => none

/-- A directive with its clauses: none that it does not take, and none twice. -/
def SkasState.directive (b : SkasState) (x : SkasLine) : SkasM :=
  let isRecord := x.mnemonic == ".jig" && x.operands.map lowerText == ["record".toList]
  let names := if isRecord then recordClauses else ((directiveClauses.find? fun e => e.1 == x.mnemonic).map (·.2)).getD []
  if x.joined || x.guard.isSome || !(x.clauses.map (·.1)).Nodup || x.clauses.any (fun e => !names.contains e.1)
      || (x.mnemonic == ".jig" && !isRecord && !x.operands.isEmpty) then .error "directive"
  else match b.readDirective x with
    | some y => b.add y
    | none => .error "directive"

/-! ### Lines and files (R213, R214) -/

/-- What one line of text does: its label, then its directive or instruction. After the .end of the file text is ignored (R218). -/
def SkasState.addLine (b : SkasState) (text : String) : SkasM :=
  if b.ended then .ok b
  else
    let parts := skasLineOf text
    (match parts.1 with
      | some n => b.add (.label n)
      | none => .ok b).bind fun b =>
    match parts.2 with
    | none => .ok b
    | some x => if x.mnemonic.toList.head? = some '.' then b.directive x else b.add (.instr x)

/-- Lines added in turn; the number of the first that holds an error stands before it. -/
def skasLinesFrom : Nat → SkasState → List String → SkasM
  | _, b, [] => .ok b
  | n, b, x :: xs => match b.addLine x with
    | .ok b => skasLinesFrom (n + 1) b xs
    | .error e => .error (String.ofList (Nat.toDigits 10 n) ++ ": " ++ e)

/-- skas: the lines of a source to an object (R213 to R218). -/
def skasText (lines : List String) : Except String SkoObject := (skasLinesFrom 1 {} lines).bind skasObject

end Sys2Proof.Machine
end

