-- ==== Sys2Proof/Tests/Slice0.lean ====
section
/-! SUPPORT. The model's own tests: words decoded, ill-formed terms refused, one step of each instruction on a small state, and
for each statement of Obligations.lean concrete states and operands that meet its hypotheses, clause by clause. Expected
values are taken from the spec's encodings, examples and rules, or worked out from them by hand. -/

set_option Elab.async false

namespace Sys2Proof.Tests
open Sys2Proof Sys2Proof.Machine

/-! ### Helpers -/

/-- The instruction answers a next state, of which f holds. -/
def after (i : Instr) (s : State) (f : State → Bool) : Bool :=
  match exec i s with
  | .next t => f t
  | _ => false

abbrev u0 : Guard := ⟨false, 0⟩
abbrev r (n : Fin 64) : GOp := .g n
def regs (l : List (Nat × Word)) : Vector Word 64 := Vector.ofFn fun i => nget l 0 i.val
def vregs (l : List (Nat × VWord)) : Vector VWord 32 := Vector.ofFn fun i => nget l 0 i.val

/-- A strand at the first slot of line 0, with a trap handler at 544. -/
def who (g : List (Nat × Word)) (v : List (Nat × VWord) := []) : Strand :=
  { live := true, pc := 32, g := regs g, v := vregs v, tvec := 544, node := 1, kidx := 1, sid := 1 }

/-- The page at address 0, which lies in frame 1, for reading and writing. -/
def page0 : Xlat :=
  { tag := 1, base := 0, size := 2 ^ 19, frame := 2 ^ 19, key := 0, kind := 1, xr := true, wr := true, rd := true,
    peer := false, dev := 0, leaf := 2 ^ 21, dirty := true }

def core0 : CoreSt := { tag := 1, launch := 1, kidx := 1, clockPaused := false, tlb := [page0] }
def node1 : Node := { cnt := 2, lvl := 1, status := .draining }
def part1 : Partn := { st := .active, tenant := 7, cores := [0], nodes := [(1, node1)] }

/-- Core 0 of partition 1 with one strand, whose registers are given. -/
def demo (g : List (Nat × Word)) (v : List (Nat × VWord) := []) : State :=
  { strands := [(0, who g v)], cores := [(0, core0)], parts := [(1, part1)] }

theorem runs_of {s : State} {gd : Guard} {ns : List Named}
    (h : decide (firstFault (directFault (turnCore s).gcount (turnCore s).vcount) ns = none ∧ guardHolds (turn s) gd = true ∧
      firstFault (relativeFault (turnCore s).gcount (turn s)) ns = none) = true) : Runs s gd ns := by
  unfold Runs Allocated Indexed; exact of_decide_eq_true h

theorem quiet_of {s : State} {c sid : Nat} (h : decide (((getCore s c).requests = [] ∧ (getCore s c).reds = []) ∧
    (∀ e ∈ s.cores, ∀ q ∈ e.2.requests ++ e.2.reds, q.marks = [] ∧ q.sid ≠ sid ∧ (e.1 = c → q.readBy = [])) ∧
    ∀ e ∈ s.peers, e.2.red = true → e.2.sid ≠ sid) = true) : Quiet s c sid := by
  unfold Quiet Still; exact of_decide_eq_true h

theorem at_once_of {s : State} (h : decide ((((turnCore s).requests = [] ∧ (turnCore s).reds = []) ∧
    (∀ e ∈ s.cores, ∀ q ∈ e.2.requests ++ e.2.reds, q.marks = [] ∧ q.sid ≠ (turn s).sid ∧ (e.1 = s.cur.core → q.readBy = [])) ∧
    ∀ e ∈ s.peers, e.2.red = true → e.2.sid ≠ (turn s).sid) ∧ s.cur.inFlight = false ∧ s.cur.err = false) = true) : AtOnce s := by
  unfold AtOnce Quiet Still; exact of_decide_eq_true h

theorem here_of {s : State} {ps : List (Nat × Nat)} {rd wr : Bool} {xs : List (Xlat × Nat × Nat)}
    (h : decide (locate s s.cur.core ps rd wr = .found xs ∧ ∀ x ∈ xs, x.1.peer = false) = true) : Here s ps rd wr xs := by
  unfold Here; exact of_decide_eq_true h

theorem pool_here_of {s : State} {ea w : Nat}
    (h : decide (poolFault (turnCore s) ea w = none ∧ watermarkStalls (turnCore s) ea w = false) = true) : PoolHere s ea w := by
  unfold PoolHere; exact of_decide_eq_true h

theorem waits_of {s : State} {c l : Nat} {w : Wait}
    (h : decide ((getStrand s c l).live = true ∧ (getCore s c).parked = false ∧ (getStrand s c l).status = .asleep w) = true) :
    Waits s c l w := by
  unfold Waits; exact of_decide_eq_true h

theorem still_of {s : State} {c : Nat} (h : decide ((getCore s c).requests = [] ∧ (getCore s c).reds = []) = true) :
    Still s c := by
  unfold Still; exact of_decide_eq_true h

theorem plain_of {ps : List Part} (h : decide (∀ p ∈ ps, isInternal p.pa = false) = true) : Plain ps := by
  unfold Plain; exact of_decide_eq_true h

theorem apart_of {s : State} {ps : List Part}
    (h : decide ((∀ p ∈ ps, ∀ q ∈ ps,
        ((q.leaf + 75) / 8 < p.pa / 8 ∨ p.pa / 8 + byteSpan p.pa p.w ≤ (q.leaf + 75) / 8) ∧
        (firstLine p < firstLine q + lineSpan q → firstLine q < firstLine p + lineSpan p →
          materialOf s p.key = materialOf s q.key)) ∧
      ps.Pairwise fun p q => p.pa / 8 + byteSpan p.pa p.w ≤ q.pa / 8 ∨ q.pa / 8 + byteSpan q.pa q.w ≤ p.pa / 8) = true) :
    Apart s ps := by
  unfold Apart; exact of_decide_eq_true h

/-! ### Decoding: slots the spec prints, or written out from its encodings -/

theorem test_decode_integer : decodeSlot 0x100028308000000000000000 = .ok (.addR u0 (r 5) (r 3) (r 4) .i64) := by
  decide +kernel
theorem test_decode_guarded_immediate :
    decodeSlot 0x182838700000003FFFFFFFFF = .ok (.addI ⟨true, 2⟩ (r 7) (r 7) .i64 (-1)) := by decide +kernel
theorem test_decode_remn : decodeSlot 0x120020106000000000000000 = .ok (.remnR u0 (r 4) (r 1) (r 3) .i64) := by decide +kernel
theorem test_decode_bits :
    decodeSlot 0x210058A00000000000000F20 = .ok (.bext u0 (r 11) (r 10) (r 0) false 0xF20) := by decide +kernel
theorem test_decode_relative : decodeSlot 0x22C390400000000000000000 = .ok (.mov u0 (.g (.rel 2)) (.g (r 4))) := by
  decide +kernel
theorem test_decode_movi : decodeSlot 0x230010091A2B3C4D5E6F7800 = .ok (.movi u0 (.g (r 2)) 0x0123456789ABCDEF) := by
  decide +kernel
theorem test_decode_branch : decodeSlot 0x004C0000000007FFFFFFFFEA = .ok (.br ⟨false, 3⟩ (-3) 2) := by decide +kernel
theorem test_decode_loop : decodeSlot 0x01400090000007FFFFFFFFF9 = .ok (.loop u0 (r 9) (-1) 1) := by decide +kernel
theorem test_decode_pointer : decodeSlot 0x40004060E000014000000000 = .ok (.padd u0 (r 8) (r 6) (r 7) 5 0) := by decide +kernel
theorem test_decode_index : decodeSlot 0x4243D7A00000003FFFFFFFFF = .ok (.jadd u0 2 2 (r 0) (-1)) := by decide +kernel
theorem test_decode_float :
    decodeSlot 0x50C01840A180014000000000 = .ok (.ffma u0 (r 3) (r 4) (r 5) (r 6) .bf16 .rtz) := by decide +kernel
theorem test_decode_vector : decodeSlot 0x60020C286000000000000000 = .ok (.vadd u0 1 2 3 (.int .i64 false)) := by decide +kernel
theorem test_decode_vcvt : decodeSlot 0x68422C60000600C000000000 = .ok (.vcvt u0 5 6 .e4m3 .f32 .rne true 1) := by
  decide +kernel
theorem test_decode_vtbl : decodeSlot 0x6A0224884000008000000080 = .ok (.vtbl u0 4 8 2 2 0x80) := by decide +kernel
theorem test_decode_chain : decodeSlot 0x6A803850D2800C0000000000 =
    .ok (.chain u0 (r 7) (r 5) (r 6) 10 .f32 .e4m3 .rne false false false) := by decide +kernel
theorem test_decode_load : decodeSlot 0x800028308000114000000010 = .ok (.ld u0 (r 5) (r 3) (r 4) 5 true .rlx .pa 16) := by
  decide +kernel
theorem test_decode_store : decodeSlot 0x804028600000000000000000 = .ok (.st u0 (r 5) (r 6) (r 0) 0 .rlx .pa 0) := by
  decide +kernel
theorem test_decode_mark : decodeSlot 0xA08050B00000208000000000 = .ok (.sense u0 (r 10) (r 11) .box3 true .rlx .pa 0) := by
  decide +kernel
theorem test_decode_atomic :
    decodeSlot 0xB0003071000CC14000000000 = .ok (.amo u0 (r 6) (r 7) (r 8) (.int .n32 .add) .ar .pk 0) := by decide +kernel
theorem test_decode_copy : decodeSlot 0xC0004840A00010C0300A0100 =
    .ok (.copy u0 (r 9) (r 4) (r 5) (.plain .add) 3 .pa false 12 40 0 1) := by decide +kernel
theorem test_decode_matrix : decodeSlot 0xD040502065000E4014018141 =
    .ok (.mjob u0 (r 10) (r 2) (r 3) (r 20) 1 7 false false 5 6 0 1 2 1) := by decide +kernel
theorem test_decode_window : decodeSlot 0xD40000500000004000000000 = .ok (.addw u0 (.g (r 5)) .bf16) := by decide +kernel
theorem test_decode_task : decodeSlot 0xE0006041A000000000000000 = .ok (.fork u0 (r 12) (r 4) (r 13) .same 0) := by
  decide +kernel
theorem test_decode_delta : decodeSlot 0xF0000060E200000000000000 = .ok (.dqpush u0 (r 6) (r 7) (r 8) 0) := by decide +kernel
theorem test_decode_register : decodeSlot 0xF88038000000000000000009 = .ok (.crr u0 (r 7) false .cause) := by decide +kernel
theorem test_decode_system : decodeSlot 0xF9802860E200000000000000 = .ok (.seal u0 (r 5) (r 6) (r 7) (r 8)) := by decide +kernel
/-- A step of the device has no encoding, and no slot decodes to one. -/
theorem test_no_encoding : (Instr.tagHoldExpiry 1).raw = none ∧ decodeTableWord 96 0 = some .nop := by decide +kernel

/-! ### Decoding: a word for every slot constructor, put together by hand from the opcode map (R82) and the operand tables
(R85, R110, R129, R157, R185) with a different value in each field -/

/-- Each slot decodes to the instruction beside it. -/
def decodes (l : List (Nat × Instr)) : Bool :=
  l.all fun p => match decodeSlot p.1 with
    | .ok i => decide (i = p.2)
    | .bad _ => false

/-- Row 0x040 of R82, fields by R70 and R85. -/
theorem test_words_integer_registers : decodes [
    (0x102C59642000004000000000, .addR ⟨true, 3⟩ (r 11) (r 22) (r 33) .i32),
    (0x106C59642000008000000000, .subR ⟨true, 3⟩ (r 11) (r 22) (r 33) .i16),
    (0x10AC5964200000C000000000, .mulR ⟨true, 3⟩ (r 11) (r 22) (r 33) .i8),
    (0x10EC59642000010000000000, .mulhR ⟨true, 3⟩ (r 11) (r 22) (r 33) .n64),
    (0x112C59642000014000000000, .mulhnR ⟨true, 3⟩ (r 11) (r 22) (r 33) .n32),
    (0x116C59642000018000000000, .divR ⟨true, 3⟩ (r 11) (r 22) (r 33) .n16),
    (0x11AC5964200001C000000000, .divnR ⟨true, 3⟩ (r 11) (r 22) (r 33) .n8),
    (0x11EC59642000000000000000, .remR ⟨true, 3⟩ (r 11) (r 22) (r 33) .i64),
    (0x122C59642000004000000000, .remnR ⟨true, 3⟩ (r 11) (r 22) (r 33) .i32),
    (0x126C59642000008000000000, .andR ⟨true, 3⟩ (r 11) (r 22) (r 33) .i16),
    (0x12AC5964200000C000000000, .orR ⟨true, 3⟩ (r 11) (r 22) (r 33) .i8),
    (0x12EC59642000010000000000, .xorR ⟨true, 3⟩ (r 11) (r 22) (r 33) .n64),
    (0x132C59642000014000000000, .andnR ⟨true, 3⟩ (r 11) (r 22) (r 33) .n32),
    (0x136C59642000018000000000, .ornR ⟨true, 3⟩ (r 11) (r 22) (r 33) .n16),
    (0x13AC5964200001C000000000, .shlR ⟨true, 3⟩ (r 11) (r 22) (r 33) .n8),
    (0x13EC59642000000000000000, .shrR ⟨true, 3⟩ (r 11) (r 22) (r 33) .i64),
    (0x142C59642000004000000000, .sarR ⟨true, 3⟩ (r 11) (r 22) (r 33) .i32),
    (0x146C59642000008000000000, .rolR ⟨true, 3⟩ (r 11) (r 22) (r 33) .i16),
    (0x14AC5964200000C000000000, .rorR ⟨true, 3⟩ (r 11) (r 22) (r 33) .i8),
    (0x14EC59642000010000000000, .minR ⟨true, 3⟩ (r 11) (r 22) (r 33) .n64),
    (0x152C59642000014000000000, .maxR ⟨true, 3⟩ (r 11) (r 22) (r 33) .n32),
    (0x156C59642000018000000000, .minnR ⟨true, 3⟩ (r 11) (r 22) (r 33) .n16),
    (0x15AC5964200001C000000000, .maxnR ⟨true, 3⟩ (r 11) (r 22) (r 33) .n8),
    (0x15EF216420000B8000000000, .cmpR ⟨true, 3⟩ 4 (r 22) (r 33) .n16 .gt)] = true := by decide +kernel

/-- Row 0x060 of R82, with B zero and X the second source (R83). -/
theorem test_words_integer_immediates : decodes [
    (0x1817B2C0000000BFFFFFFFFD, .addI ⟨false, 5⟩ (.rel 6) (r 44) .i16 (-3)),
    (0x1857B2C0000000FFFFFFFFFC, .subI ⟨false, 5⟩ (.rel 6) (r 44) .i8 (-4)),
    (0x1897B2C00000013FFFFFFFFB, .mulI ⟨false, 5⟩ (.rel 6) (r 44) .n64 (-5)),
    (0x18D7B2C00000017FFFFFFFFA, .mulhI ⟨false, 5⟩ (.rel 6) (r 44) .n32 (-6)),
    (0x1917B2C0000001BFFFFFFFF9, .mulhnI ⟨false, 5⟩ (.rel 6) (r 44) .n16 (-7)),
    (0x1957B2C0000001FFFFFFFFF8, .divI ⟨false, 5⟩ (.rel 6) (r 44) .n8 (-8)),
    (0x1997B2C00000003FFFFFFFF7, .divnI ⟨false, 5⟩ (.rel 6) (r 44) .i64 (-9)),
    (0x19D7B2C00000007FFFFFFFF6, .remI ⟨false, 5⟩ (.rel 6) (r 44) .i32 (-10)),
    (0x1A17B2C0000000BFFFFFFFF5, .remnI ⟨false, 5⟩ (.rel 6) (r 44) .i16 (-11)),
    (0x1A57B2C0000000FFFFFFFFF4, .andI ⟨false, 5⟩ (.rel 6) (r 44) .i8 (-12)),
    (0x1A97B2C00000013FFFFFFFF3, .orI ⟨false, 5⟩ (.rel 6) (r 44) .n64 (-13)),
    (0x1AD7B2C00000017FFFFFFFF2, .xorI ⟨false, 5⟩ (.rel 6) (r 44) .n32 (-14)),
    (0x1B17B2C0000001BFFFFFFFF1, .andnI ⟨false, 5⟩ (.rel 6) (r 44) .n16 (-15)),
    (0x1B57B2C0000001FFFFFFFFF0, .ornI ⟨false, 5⟩ (.rel 6) (r 44) .n8 (-16)),
    (0x1B97B2C00000003FFFFFFFEF, .shlI ⟨false, 5⟩ (.rel 6) (r 44) .i64 (-17)),
    (0x1BD7B2C00000007FFFFFFFEE, .shrI ⟨false, 5⟩ (.rel 6) (r 44) .i32 (-18)),
    (0x1C17B2C0000000BFFFFFFFED, .sarI ⟨false, 5⟩ (.rel 6) (r 44) .i16 (-19)),
    (0x1C57B2C0000000FFFFFFFFEC, .rolI ⟨false, 5⟩ (.rel 6) (r 44) .i8 (-20)),
    (0x1C97B2C00000013FFFFFFFEB, .rorI ⟨false, 5⟩ (.rel 6) (r 44) .n64 (-21)),
    (0x1CD7B2C00000017FFFFFFFEA, .minI ⟨false, 5⟩ (.rel 6) (r 44) .n32 (-22)),
    (0x1D17B2C0000001BFFFFFFFE9, .maxI ⟨false, 5⟩ (.rel 6) (r 44) .n16 (-23)),
    (0x1D57B2C0000001FFFFFFFFE8, .minnI ⟨false, 5⟩ (.rel 6) (r 44) .n8 (-24)),
    (0x1D97B2C00000003FFFFFFFE7, .maxnI ⟨false, 5⟩ (.rel 6) (r 44) .i64 (-25)),
    (0x1DD73AC00000067FFFFFFFF7, .cmpI ⟨false, 5⟩ 7 (r 44) .i32 .ge (-9))] = true := by decide +kernel

/-- Rows 0x080 and 0x0A0 of R82, fields by R85. -/
theorem test_words_bits_moves_guards : decodes [
    (0x200049200000004000000000, .clz u0 (r 9) (r 18) .i32),
    (0x204049200000008000000000, .ctz u0 (r 9) (r 18) .i16),
    (0x20804920000000C000000000, .popc u0 (r 9) (r 18) .i8),
    (0x20C049200000010000000000, .brev u0 (r 9) (r 18) .n64),
    (0x210049236000007FFFFFFFFF, .bext u0 (r 9) (r 18) (r 27) true (-1)),
    (0x214049236000000000001F05, .bins u0 (r 9) (r 18) (r 27) 0x1F05),
    (0x218049200000000000000040, .sext u0 (r 9) (r 18) 64),
    (0x21C049200000000000000001, .zext u0 (r 9) (r 18) 1),
    (0x220049200000014000000000, .abs u0 (r 9) (r 18) .n32),
    (0x22404920000001C000000000, .neg u0 (r 9) (r 18) .n8),
    (0x228049237940000000000000, .sel u0 (r 9) (r 18) (r 27) 5),
    (0x22C3DE600000000000000000, .mov u0 (.j 3) (.k 6)),
    (0x22C317F00000000000000000, .mov u0 (.k 2) (.j 7)),
    (0x2303CFF6E5D4C3B2A1908000, .movi u0 (.j 1) 0xFEDCBA9876543210),
    (0x28170E2C6000000000000000, .gand ⟨false, 5⟩ 1 2 3),
    (0x2857265CC000000000000000, .gor ⟨false, 5⟩ 4 5 6),
    (0x28973E1C0000000000000000, .gxor ⟨false, 5⟩ 7 1 0),
    (0x28D716400000000000000000, .gnot ⟨false, 5⟩ 2 4)] = true := by decide +kernel

/-- Rows 0x000 and 0x100 of R82, fields by R70, R72 and R85. -/
theorem test_words_pointers_control : decodes [
    (0x400049236000FFC000000007, .padd u0 (r 9) (r 18) (r 27) 1023 7),
    (0x404049236000014000000000, .pdif u0 (r 9) (r 18) (r 27) 5),
    (0x4080492000011A0000000000, .paln u0 (r 9) (r 18) 104 true),
    (0x40C049236000008000000000, .pblk u0 (r 9) (r 18) (r 27) .bq8),
    (0x410309200002017FFFFFFFF8, .pchk u0 1 (r 18) 5 2 (-8)),
    (0x4203E120000000000000012C, .jset u0 4 (r 18) 300),
    (0x4243EFE36000000000000002, .jadd u0 5 6 (r 27) 2),
    (0x006C0000000000000000002C, .br ⟨true, 3⟩ 5 4),
    (0x00AC01200000000000000200, .bri ⟨true, 3⟩ (r 18) 512),
    (0x00EC01F0000007FFFFFFFFF3, .call ⟨true, 3⟩ (r 31) (-2) 3),
    (0x012C01F00000000000000000, .ret ⟨true, 3⟩ (r 31)),
    (0x016C0710000007FFFFFFFFF8, .loop ⟨true, 3⟩ (.rel 1) (-1) 0),
    (0x000000000000000000000000, .nop)] = true := by decide +kernel

/-- Row 0x140 of R82, fields by R85. -/
theorem test_words_floats : decodes [
    (0x500049236000014000000000, .fadd u0 (r 9) (r 18) (r 27) .bf16 .rtz),
    (0x504049236000028000000000, .fsub u0 (r 9) (r 18) (r 27) .f16 .rup),
    (0x508049236000030000000000, .fmul u0 (r 9) (r 18) (r 27) .f32 .rdn),
    (0x50C049236900044000000000, .ffma u0 (r 9) (r 18) (r 27) (r 36) .bf16 .rsr),
    (0x510049236000008000000000, .fdiv u0 (r 9) (r 18) (r 27) .f16 .rne),
    (0x514049200000024000000000, .fsqrt u0 (r 9) (r 18) .bf16 .rup),
    (0x518049236000008000000000, .fmin u0 (r 9) (r 18) (r 27) .f16),
    (0x51C049236000004000000000, .fmax u0 (r 9) (r 18) (r 27) .bf16),
    (0x520319236000058000000000, .fcmp u0 3 (r 18) (r 27) .f16 .gt),
    (0x524049200002E90000000000, .fcvt u0 (r 9) (r 18) .e5m2 .i32 .rdn true),
    (0x528049200000004000000000, .fclass u0 (r 9) (r 18) .bf16),
    (0x52C049200000008000000000, .fneg u0 (r 9) (r 18) .f16)] = true := by decide +kernel

/-- Row 0x180 of R82, fields by R110. -/
theorem test_words_lanes : decodes [
    (0x60020CCAE000064000000000, .vadd u0 1 12 23 (.flt .bf16 .rtz)),
    (0x60420CCAE00021C000000000, .vsub u0 1 12 23 (.int .n8 true)),
    (0x60820CCAE000128000000000, .vmul u0 1 12 23 (.flt .f16 .rsr)),
    (0x60C20CCAF7C0208000000000, .vfma u0 1 12 23 31 (.int .i16 true)),
    (0x61020CCAE000020000000000, .vmin u0 1 12 23 (.f .f32)),
    (0x61420CCAE000018000000000, .vmax u0 1 12 23 (.i .n16)),
    (0x61820CC0000020C000000000, .vabs u0 1 12 (.int .i8 true)),
    (0x61C20CC00000028000000000, .vneg u0 1 12 (.flt .f16)),
    (0x62020CCAE000004000000000, .vand u0 1 12 23 .i32),
    (0x62420CCAE000010000000000, .vor u0 1 12 23 .n64),
    (0x62820CCAE00001C000000000, .vxor u0 1 12 23 .n8),
    (0x62C20CCAE000008000000000, .vshl u0 1 12 (.v 23) .i16),
    (0x63020CC42000017FFFFFFFFC, .vshr u0 1 12 (.g (r 33) (-4)) .n32),
    (0x63420CCE400000C000000006, .vsar u0 1 12 (.g (.rel 2) 6) .i8),
    (0x63820CCAE001824000000000, .vcmp u0 1 12 23 (.flt .bf16 .ge)),
    (0x63820CCAE001C04000000000, .vcmp u0 1 12 23 (.int .i32 .ntst)),
    (0x63C20CCAF7C0000000000000, .vsel u0 1 12 23 31)] = true := by decide +kernel

/-- Row 0x1A0 of R82, fields by R110. -/
theorem test_words_lane_moves : decodes [
    (0x68020CCAE0000D4000000000, .vdot u0 1 12 23 (.flt .bf16 .rdn)),
    (0x68020CCAE000220000000000, .vdot u0 1 12 23 (.int true true)),
    (0x68820CC00010A60000000064, .vpack u0 1 12 (.int .i8 5 true 100)),
    (0x68820CCAE020008000000000, .vpack u0 1 12 (.bq .bq5 23 true)),
    (0x68C20CC000012C000000001B, .vunpk u0 1 12 (.int .n16 9 27)),
    (0x68C20CC0000000C000000002, .vunpk u0 1 12 (.bq .bq8 2)),
    (0x69020920000002BFFFFFFFFB, .vsplat u0 1 (r 18) (.f .f16) (-5)),
    (0x694094C42000008000000003, .vext u0 (r 18) 12 (r 33) (.i .i16) 3),
    (0x698209242000020000000003, .vins u0 1 (r 18) (r 33) (.f .f32) 3),
    (0x69C20CCAF7C001C000000000, .vperm u0 1 12 23 31 (.i .n8)),
    (0x6A020CCAE00001C0000000FF, .vtbl u0 1 12 23 7 255),
    (0x6A4094C00000144000000000, .vred u0 (r 18) 12 (.int .i32 .xor)),
    (0x6A4094C00000424000000000, .vred u0 (r 18) 12 (.fadd .bf16 .rup)),
    (0x6A4094C000000A8000000000, .vred u0 (r 18) 12 (.fmax .f16)),
    (0x68420CC00004040000000000, .vcvt u0 1 12 .f32 .bf16 .rne false 1),
    (0x6A809215978E528000000000, .chain u0 (r 18) (r 33) (r 44) 30 .i32 .e5m2 .rtz true true true)] = true := by decide +kernel

/-- Rows 0x200 and 0x280 of R82, fields by R129. -/
theorem test_words_loads_stores_marks : decodes [
    (0x800049236002387FFFFFFFF0, .ld u0 (r 9) (r 18) (r 27) 33 true .acq .co (-16)),
    (0x804049236003487FFFFFFFF0, .st u0 (r 9) (r 18) (r 27) 33 .rel .cl (-16)),
    (0x80804923600181C000000008, .ldp u0 (r 9) (r 18) (r 27) 7 false .sc .st 8),
    (0x80C04923600481C000000008, .stp u0 (r 9) (r 18) (r 27) 7 .sc .rg 8),
    (0x810249236005200000000004, .vld u0 9 (r 18) (r 27) .acq .di 4),
    (0x814249236006400000000004, .vst u0 9 (r 18) (r 27) .rel .pk 4),
    (0x818249236007800000000004, .vldp u0 9 (r 18) (r 27) .sc .te 4),
    (0x81C249236008800000000004, .vstp u0 9 (r 18) (r 27) .sc .fa 4),
    (0x820001236000000000000200, .pref u0 (r 18) (r 27) 512),
    (0xA000492360004A8000000020, .dep u0 (r 9) (r 18) (r 27) .set .rel .sy 32),
    (0xA04049200000190000000020, .mrd u0 (r 9) (r 18) .acq .cl 32),
    (0xA080492000044A0000000020, .sense u0 (r 9) (r 18) (.run 5) false .acq .co 32),
    (0xA0804920000120C000000020, .sense u0 (r 9) (r 18) .box5 true .sc .pa 32),
    (0xA0C049200000000000000040, .tickr u0 (r 9) (r 18) 64),
    (0xA10049200000003FFFFFFFC0, .tadv u0 (r 9) (r 18) (-64))] = true := by decide +kernel

/-- Row 0x2C0 of R82, fields by R129. -/
theorem test_words_atomics : decodes [
    (0xB0004923600ADE0000000001, .amo u0 (r 9) (r 18) (r 27) (.flt .f32 .fadd) .ar .di 1),
    (0xB0004923600454C000000001, .amo u0 (r 9) (r 18) (r 27) (.int .i8 .max) .acq .co 1),
    (0xB04049236902828000000001, .cas u0 (r 9) (r 18) (r 27) (r 36) (.f .f16) .rel .st 1),
    (0xB08001236013190000000001, .red u0 (r 18) (r 27) (.int .n64 .swap) .sc .sy 1),
    (0xB0C000000000110000000000, .fence u0 .sc .fa),
    (0xB10001200000724000000005, .marm u0 (r 18) 9 3 true 5),
    (0xB140492000000000000003E8, .waita u0 (r 9) (r 18) 1000),
    (0xB18000000000008000000000, .mdis u0 2 false),
    (0xB18000000000010000000000, .mdis u0 0 true)] = true := by decide +kernel

/-- Rows 0x300 and 0x340 of R82, fields by R73 and R157. -/
theorem test_words_engines : decodes [
    (0xC00049236000E87FFC007100, .copy u0 (r 9) (r 18) (r 27) (.plain .max) 33 .cl false 4095 1 6 1),
    (0xC0004923690C087FFC007100, .copy u0 (r 9) (r 18) (r 27) (.fwd (r 36)) 33 .pa true 4095 1 6 1),
    (0xC040492369058FFFFC007100, .copyv u0 (r 9) (r 18) (r 27) (r 36) 63 .pk true 4095 1 6 1),
    (0xC08049200000003FFFFFFFFE, .cstage u0 (r 9) (r 18) (-2)),
    (0xC0C049236000617FFC007100, .wmark u0 (r 9) (r 18) (r 27) 5 2 .st false 4095 1 6 1),
    (0xC10001200000000000000005, .twait u0 (r 18) 5),
    (0xC14049200000000000000006, .tfind u0 (r 9) (r 18) 6),
    (0xC18001200000000000000007, .tclr u0 (r 18) 7),
    (0xC1C04923600007C190001D00, .mdld u0 (r 9) (r 18) (r 27) 31 100 3 5),
    (0xC20004C00000000320000000, .tdset u0 12 200),
    (0xC242680000000004B0000000, .tdget u0 13 300),
    (0xD0000120000002C000000040, .lset u0 (r 18) true 5 64),
    (0xD0404923691843800000A200, .mjob u0 (r 9) (r 18) (r 27) (r 36) 6 33 true true 0 2 4 2 0 0),
    (0xD0804923690043801C00A2E1, .mjobr u0 (r 9) (r 18) (r 27) 36 6 33 false false 7 2 4 2 7 1),
    (0xD0C048000000000000000000, .mpoll u0 (r 9)),
    (0xD10048000000000000000000, .mwait u0 (r 9)),
    (0xD14000000000014000000000, .mclr u0 5),
    (0xD18000000000000000002800, .mburst u0 5),
    (0xD40004C00000010000000000, .addw u0 (.v 12) .e5m2),
    (0xD44048000000004000000000, .rndw u0 (r 9) true),
    (0xD48000000000000000000000, .clrw u0)] = true := by decide +kernel

/-- Rows 0x380 and 0x3C0 of R82, fields by R185. -/
theorem test_words_tasks_deltas : decodes [
    (0xE00049236000023FFFFFFFFD, .fork u0 (r 9) (r 18) (r 27) (.pri 7) (-3)),
    (0xE04001200000000000000000, .join u0 (r 18)),
    (0xE08049236900F84000000004, .spawnr u0 (r 9) (r 18) (r 27) (r 36) (.pri 0) 62 4),
    (0xE0C048000000000000000000, .rnext u0 (r 9)),
    (0xE10048000000040000000000, .steal u0 (r 9) (.run 2)),
    (0xE16C00000000000000000000, .yield ⟨true, 3⟩),
    (0xE19400000000000000000000, .exit ⟨false, 5⟩),
    (0xE20049236000003FFFFFFFFF, .lvladdAdd u0 (r 9) (r 18) (r 27) (-1)),
    (0xE20049236000034000000002, .lvladdOpen u0 (r 9) (r 18) (r 27) .phase 2),
    (0xE20049236000008000000003, .lvladdDrain u0 (r 9) (r 18) (r 27) 3),
    (0xE24049200000000000000000, .lvlwait u0 (r 9) (r 18)),
    (0xE28001200000000000000000, .cancel u0 (r 18)),
    (0xE2C04920000000000000003F, .clamp u0 (r 9) (r 18) 63),
    (0xE30049236900000000000000, .launch u0 (r 9) (r 18) (r 27) (r 36)),
    (0xF0000123690007C000000000, .dqpush u0 (r 18) (r 27) (r 36) 31),
    (0xF04268000000078000000000, .dqpop u0 13 30),
    (0xF0804923690003C000000000, .arradd u0 (r 9) (r 18) (r 27) (r 36) 15),
    (0xF0C049236900038000000000, .arrget u0 (r 9) (r 18) (r 27) (r 36) 14),
    (0xF10001236000000000000000, .qwait u0 (r 18) (r 27))] = true := by decide +kernel

/-- Row 0x3E0 of R82, fields by R185 and R204. -/
theorem test_words_system : decodes [
    (0xF8000000000000000000001F, .trap u0 31),
    (0xF84000000000000000000000, .rett u0),
    (0xF8804800000000400000000B, .crr u0 (r 9) true .tval),
    (0xF88048000000000000000037, .crr u0 (r 9) false (.th 7)),
    (0xF8C00120000000000000000C, .crw u0 (r 18) false .tvec),
    (0xF8C00120000000400000002A, .crw u0 (r 18) true (.wch 2)),
    (0xF90001236000004000000000, .tlbinv u0 (r 18) (r 27) true),
    (0xF94001200000000000000000, .replay u0 (r 18)),
    (0xF98049236900000000000000, .seal u0 (r 9) (r 18) (r 27) (r 36)),
    (0xF9C049236900000000000000, .unseal u0 (r 9) (r 18) (r 27) (r 36)),
    (0xFA0331200000003FFFFFFFF9, .feat u0 6 (r 18) (-7))] = true := by decide +kernel

/-! ### Well-formedness: an ill-formed term for each check, which the check refuses -/

theorem test_ill_formed_guard : (Instr.addR ⟨true, 0⟩ (r 5) (r 3) (r 4) .i64).wf = false := by decide +kernel
theorem test_ill_formed_loop : (Instr.loop u0 (r 0) 0 0).wf = false := by decide +kernel
theorem test_ill_formed_extension :
    (Instr.sext u0 (r 5) (r 3) 0).wf = false ∧ (Instr.sext u0 (r 5) (r 3) 65).wf = false ∧
      (Instr.zext u0 (r 5) (r 3) 0).wf = false ∧ (Instr.zext u0 (r 5) (r 3) 65).wf = false := by decide +kernel
theorem test_ill_formed_width :
    (Instr.padd u0 (r 5) (r 3) (r 4) 0 0).wf = false ∧ (Instr.pdif u0 (r 5) (r 3) (r 4) 0).wf = false ∧
      (Instr.paln u0 (r 5) (r 3) 0 true).wf = false ∧ (Instr.pchk u0 1 (r 3) 0 0 0).wf = false := by decide +kernel
theorem test_ill_formed_conversion :
    (Instr.fcvt u0 (r 5) (r 3) .f32 .e4m3 .rne true).wf = false ∧ (Instr.vcvt u0 1 2 .f32 .i8 .rne true 0).wf = false ∧
      (Instr.vcvt u0 1 2 .f32 .i8 .rne false 4).wf = false ∧
      (Instr.chain u0 (r 7) (r 5) (r 6) 10 .e4m3 .f32 .rne true false false).wf = false := by decide +kernel
theorem test_ill_formed_pack :
    (Instr.vpack u0 1 2 (.int .i8 0 false 0)).wf = false ∧ (Instr.vunpk u0 1 2 (.int .i8 9 0)).wf = false := by decide +kernel
theorem test_ill_formed_table : (Instr.vtbl u0 4 8 2 2 256).wf = false := by decide +kernel
theorem test_ill_formed_window :
    (Instr.sense u0 (r 5) (r 3) (.run 1) false .rlx .pa 0).wf = false ∧ (Instr.steal u0 (r 5) (.run 1)).wf = false := by
  decide +kernel
theorem test_ill_formed_job :
    (Instr.mjob u0 (r 10) (r 2) (r 3) (r 20) 1 8 false false 5 6 0 1 2 4).wf = false ∧
      (Instr.mjobr u0 (r 10) (r 2) (r 3) 20 1 8 true false 5 6 0 1 2 2).wf = false := by decide +kernel
theorem test_ill_formed_grain : (Instr.spawnr u0 (r 5) (r 3) (r 4) (r 6) .same 63 0).wf = false := by decide +kernel
theorem test_ill_formed_trap : (Instr.trap u0 32).wf = false := by decide +kernel
theorem test_ill_formed_half :
    (Instr.crr u0 (r 7) true .cause).wf = false ∧ (Instr.crw u0 (r 7) true .epc).wf = false := by decide +kernel

/-! ### Statements about encodings, the step and traps -/

/-- DecodeOfEncode: an instruction that meets its hypotheses, at the largest operands; and what it says of it. -/
theorem test_decode_of_encode :
    (Instr.ld ⟨true, 7⟩ (.rel 7) (r 63) (.rel 1) 63 true .acq .sy (-1)).wf = true ∧
      (Instr.ld ⟨true, 7⟩ (.rel 7) (r 63) (.rel 1) 63 true .acq .sy (-1)).raw ≠ none ∧
      decodeSlot (encode (.ld ⟨true, 7⟩ (.rel 7) (r 63) (.rel 1) 63 true .acq .sy (-1))) =
        .ok (.ld ⟨true, 7⟩ (.rel 7) (r 63) (.rel 1) 63 true .acq .sy (-1)) := by decide +kernel

/-- IllegalSlotsTrap: slots whose OP is not assigned, is 0, or whose GD is 8. -/
theorem test_illegal_slots :
    (mBits (0x3FF * 2 ^ 86) 86 10 ≠ 0 ∧ rowOf (mBits (0x3FF * 2 ^ 86) 86 10) = none) ∧
      (mBits 1 86 10 = 0 ∧ mBits 1 0 86 ≠ 0) ∧
      (rowOf (mBits (0x040 * 2 ^ 86 + 8 * 2 ^ 82) 86 10) ≠ none ∧ mBits (0x040 * 2 ^ 86 + 8 * 2 ^ 82) 82 4 = 8) := by
  decide +kernel

/-- IllegalSlotsTrap: a line whose slot does not decode. -/
theorem test_illegal_slot_in_line :
    lineFault (lineOfSlot 0 1) = none ∧ isSlotPos (turn (demo [])).pc.toNat = true ∧ (turn (demo [])).tgtPending = false ∧
      decodeSlot (lineSlot (lineOfSlot 0 1) (slotIndex (turn (demo [])).pc.toNat)) = .bad 0x008 ∧
      trapEnters (turn (demo [])) 0x008 = true ∧ simdTaken (demo []) 0 1 = false := by decide +kernel

/-- The demo with an ADD cached at its strand's pc, and a cycle of its core next. -/
def fetched : State :=
  { demo [] with
    agenda := [.cycle 0 false false]
    cores := [(0, { core0 with icache := [(0, lineOfSlot 0 0x100028308000000000000000)] })] }

/-- StepRunsDecodedSlot: a cycle whose strand stands at a cached slot. -/
theorem test_step_hypotheses :
    fetched.supply = true ∧ (getCore fetched 0).clockPaused = false ∧ (getCore fetched 0).parked = false ∧
      (isMgmt 0 || !isGated fetched (.cluster (clusterOf 0))) = true ∧ fetchEnabled 0 16 = true ∧
      chooseSlot fetched 0 0 = some 0 ∧ nget? (getCore fetched 0).icache 0 = some (lineOfSlot 0 0x100028308000000000000000) ∧
      lineFault (lineOfSlot 0 0x100028308000000000000000) = none ∧
      decodeSlot (lineSlot (lineOfSlot 0 0x100028308000000000000000) 0) = .ok (.addR u0 (r 5) (r 3) (r 4) .i64) := by
  decide +kernel

/-- The instruction the host places is the first that runs after reset. -/
theorem test_placed_slot_runs :
    (match step (State.reset.withFetchWord 96 0x230010091A2B3C4D5E6F7800) with
      | .next t => rdG (getStrand t 0 0) 2 == 0x0123456789ABCDEF && (getStrand t 0 0).pc == 128
      | _ => false) = true := by decide +kernel

/-- NoSupplyNoStep. -/
theorem test_no_supply : ({ demo [] with supply := false, agenda := [.tick] } : State).supply = false ∧
    (match step { demo [] with supply := false, agenda := [.tick] } with | .fault .supplyOff => true | _ => false) = true := by
  decide +kernel

/-- The demo with the strand at work on a management core. -/
def onMgmt (s : State) : State :=
  { s with cur := { s.cur with core := 0x1000 }, strands := (0x8000, getStrand s 0 0) :: s.strands
           cores := (0x1000, { core0 with tag := 0, privc := 1 }) :: s.cores }

/-- IssueChecks: a privileged instruction on a compute core; names at the allocation; a guard that does not hold; an index
below 0 and one at the allocation. -/
theorem test_issue_checks :
    isMgmt (demo []).cur.core = false ∧
      ((directFault 32 8 (.g (r 32)) = some (0x041, 32)) ∧ (directFault 32 8 (.v 8) = some (0x042, 8))) ∧
      guardOf (.addR ⟨true, 2⟩ (r 5) (r 3) (r 4) .i64) = some ⟨true, 2⟩ ∧
      (rdK (turn (demo [])) 2 != false) = false ∧
      after (.addR ⟨false, 2⟩ (r 5) (r 3) (r 4) .i64) (demo [(3, 1)]) (fun t => rdG (turn t) 5 == 0 && (turn t).pc == 128) := by
  decide +kernel

theorem test_issue_check_names :
    guardOf (.addR u0 (r 63) (r 3) (r 4) .i64) = some u0 ∧ privileged (.addR u0 (r 63) (r 3) (r 4) .i64) = false ∧
      Allocated (demo []) [.g (r 3), .g (r 4)] ∧
      namesOf (.addR u0 (r 63) (r 3) (r 4) .i64) = [.g (r 3), .g (r 4)] ++ .g (r 63) :: [] := by
  unfold Allocated
  decide +kernel

def small (s : State) : State := { s with cores := [(0, { core0 with gcount := 8, vcount := 1 })] }

/-- The index of a relative name is -1, or equals the allocation of 8. -/
def indexAt (j : BitVec 16) : State :=
  { small (demo []) with strands := [(0, { who [] with j := (Vector.replicate 8 0).set 1 j })] }

theorem test_issue_check_index :
    Allocated (indexAt 8) (namesOf (.addR u0 (r 5) (.rel 1) (r 4) .i64)) ∧ guardHolds (turn (indexAt 8)) u0 = true ∧
      Indexed (indexAt 8) [] ∧ namesOf (.addR u0 (r 5) (.rel 1) (r 4) .i64) = [] ++ .g (.rel 1) :: [.g (r 4), .g (r 5)] ∧
      (rdJ (turn (indexAt 8)) 1).toInt = 8 ∧ (turnCore (indexAt 8)).gcount = 8 ∧
      (rdJ (turn (indexAt (-1))) 1).toInt = -1 := by
  unfold Allocated Indexed
  decide +kernel

theorem test_index_traps :
    after (.addR u0 (r 5) (.rel 1) (r 4) .i64) (indexAt 8) (fun t => (turn t).cause == 0x040 && (turn t).tval == 8) = true ∧
      after (.addR u0 (r 5) (.rel 1) (r 4) .i64) (indexAt (-1))
        (fun t => (turn t).cause == 0x040 && (turn t).tval == 0xFFFFFFFFFFFFFFFF) = true := by decide +kernel

theorem test_seal_needs_system : after (.seal u0 (r 5) (r 6) (r 7) (r 8)) (demo [])
    (fun t => (turn t).cause == 0x03A && (turn t).tval == 0xF9802860E200000000000000 && (turn t).pc == 544) = true := by
  decide +kernel

/-- TakingATrap: a strand outside a handler with a handler entry; and one in a handler, one without an entry, one whose entry
is no slot position. -/
theorem test_trap_hypotheses :
    (getStrand (demo []) 0 0).intrap = false ∧ (getStrand (demo []) 0 0).tvec ≠ 0 ∧
      isSlotPos (getStrand (demo []) 0 0).tvec.toNat = true ∧ (0x180 : Nat) ≠ 0x3C2 ∧ (getStrand (demo []) 0 0).live = true ∧
      isSlotPos ({ who [] with tvec := 545 } : Strand).tvec.toNat = false := by decide +kernel

/-- A trap inside a handler retires its strand, and the node records 0x3C1. -/
theorem test_trap_in_handler :
    (let t := takeTrap { demo [] with strands := [(0, { who [] with intrap := true })] } 0 0 0x180 5
     (getStrand t 0 0).live == false && (getNode? t 1 1).map (fun n => (n.cnt, n.fcause)) == some (1, 0x3C1)) = true := by
  decide +kernel

/-- TrapAndReturn: TRAP outside a handler; RETT inside one, with an EPC that is a slot position and one that is not. -/
theorem test_trap : Runs (demo []) u0 [] ∧
    after (.trap u0 31) (demo []) (fun t => (turn t).cause == 0x3FF && (turn t).epc == 32 && (turn t).intrap) = true :=
  ⟨runs_of (by decide +kernel), by decide +kernel⟩

def handling (epc : Word) : State := { demo [] with strands := [(0, { who [] with intrap := true, epc := epc })] }

theorem test_rett : (Runs (handling 416) u0 [] ∧ (turn (handling 416)).intrap = true ∧
      isSlotPos (turn (handling 416)).epc.toNat = true) ∧ isSlotPos (turn (handling 0)).epc.toNat = false ∧
    after (.rett u0) (handling 416) (fun t => (turn t).pc == 416 && !(turn t).intrap) = true :=
  ⟨⟨runs_of (by decide +kernel), by decide +kernel⟩, by decide +kernel⟩

/-! ### Integers, bits, moves, pointers, transfers -/

/-- The operands of the register forms run, with a relative name at the top of the allocation; IntegerOperations to
PointersAndIndices. -/
theorem test_register_forms_run :
    (Runs (demo []) u0 [.g (r 3), .g (r 4), .g (r 5)] ∧ Runs (demo []) u0 [.g (r 3), .g (r 63)] ∧ Runs (demo []) u0 [.g (r 0)]) ∧
      (Runs (demo []) ⟨true, 1⟩ [] ∧ Runs (demo []) u0 [.no, .g (r 5)] ∧ Runs (demo []) u0 [.g (r 5), .no] ∧
        Runs (demo []) u0 [.no, .no] ∧ Runs (demo []) u0 [.no] ∧ Runs (demo []) u0 [.g (.g 0)]) ∧
      Runs (indexAt 7) u0 [.g (.rel 1), .g (r 4), .g (r 7)] :=
  ⟨⟨runs_of (by decide +kernel), runs_of (by decide +kernel), runs_of (by decide +kernel)⟩,
    ⟨runs_of (by decide +kernel), runs_of (by decide +kernel), runs_of (by decide +kernel), runs_of (by decide +kernel),
      runs_of (by decide +kernel), runs_of (by decide +kernel)⟩, runs_of (by decide +kernel)⟩

/-- g5 after an instruction on g3 and g4, with g2 as a second destination where the instruction reads g5. -/
def gives (i : Instr) (a b : Word) (x : Word) : Bool :=
  after i (demo [(3, a), (4, b), (5, 0x1234)]) fun t => rdG (turn t) 5 == x && (turn t).pc == 128

theorem test_add_wraps : gives (.addR u0 (r 5) (r 3) (r 4) .i32) 0x7FFFFFFF 1 0xFFFFFFFF80000000 = true := by decide +kernel
theorem test_addi : gives (.addI u0 (r 5) (r 3) .i64 (-1)) 0 0 (-1) = true := by decide +kernel
theorem test_sub : gives (.subR u0 (r 5) (r 3) (r 4) .n8) 1 2 0xFF = true := by decide +kernel
theorem test_subi : gives (.subI u0 (r 5) (r 3) .i8 1) 0x80 0 0x7F = true := by decide +kernel
theorem test_mul : gives (.mulR u0 (r 5) (r 3) (r 4) .i16) 0x8000 3 0xFFFFFFFFFFFF8000 = true := by decide +kernel
theorem test_muli : gives (.mulI u0 (r 5) (r 3) .n64 (-1)) 2 0 (-2) = true := by decide +kernel
theorem test_mulh : gives (.mulhR u0 (r 5) (r 3) (r 4) .i64) (-1) 1 (-1) = true := by decide +kernel
theorem test_mulhi : gives (.mulhI u0 (r 5) (r 3) .i8 0x40) 0x84 0 0xFFFFFFFFFFFFFFE1 = true := by decide +kernel
theorem test_mulhn : gives (.mulhnR u0 (r 5) (r 3) (r 4) .n64) (-1) (-1) (-2) = true := by decide +kernel
theorem test_mulhni : gives (.mulhnI u0 (r 5) (r 3) .n8 16) 0x88 0 8 = true := by decide +kernel
theorem test_div_by_zero : gives (.divR u0 (r 5) (r 3) (r 4) .i32) 7 0 (-1) = true := by decide +kernel
theorem test_divi_truncates : gives (.divI u0 (r 5) (r 3) .i64 2) (-7) 0 (-3) = true := by decide +kernel
theorem test_divn : gives (.divnR u0 (r 5) (r 3) (r 4) .n8) 0xF9 2 0x7C = true := by decide +kernel
theorem test_divni_by_zero : gives (.divnI u0 (r 5) (r 3) .n16 0) 7 0 0xFFFF = true := by decide +kernel
theorem test_rem : gives (.remR u0 (r 5) (r 3) (r 4) .i64) (-7) 2 (-1) = true := by decide +kernel
theorem test_remi_by_zero : gives (.remI u0 (r 5) (r 3) .n8 0) 0x107 0 7 = true := by decide +kernel
theorem test_remn : gives (.remnR u0 (r 5) (r 3) (r 4) .n8) 0xF9 2 1 = true := by decide +kernel
theorem test_remni : gives (.remnI u0 (r 5) (r 3) .n64 10) 47 0 7 = true := by decide +kernel
theorem test_and : gives (.andR u0 (r 5) (r 3) (r 4) .i64) 12 10 8 = true := by decide +kernel
theorem test_andi : gives (.andI u0 (r 5) (r 3) .n8 (-1)) 0x1FF 0 0xFF = true := by decide +kernel
theorem test_or : gives (.orR u0 (r 5) (r 3) (r 4) .i64) 12 10 14 = true := by decide +kernel
theorem test_ori : gives (.orI u0 (r 5) (r 3) .i64 1) 2 0 3 = true := by decide +kernel
theorem test_xor : gives (.xorR u0 (r 5) (r 3) (r 4) .i64) 12 10 6 = true := by decide +kernel
theorem test_xori : gives (.xorI u0 (r 5) (r 3) .i8 (-1)) 0 0 (-1) = true := by decide +kernel
theorem test_andn : gives (.andnR u0 (r 5) (r 3) (r 4) .i64) 12 10 4 = true := by decide +kernel
theorem test_andni : gives (.andnI u0 (r 5) (r 3) .n8 1) 3 0 2 = true := by decide +kernel
theorem test_orn : gives (.ornR u0 (r 5) (r 3) (r 4) .n8) 12 10 0xFD = true := by decide +kernel
theorem test_orni : gives (.ornI u0 (r 5) (r 3) .i64 0) 5 0 (-1) = true := by decide +kernel
theorem test_shl : gives (.shlR u0 (r 5) (r 3) (r 4) .n8) 0x81 9 2 = true := by decide +kernel
theorem test_shli : gives (.shlI u0 (r 5) (r 3) .i64 63) 3 0 0x8000000000000000 = true := by decide +kernel
theorem test_shr : gives (.shrR u0 (r 5) (r 3) (r 4) .n64) (-1) 65 0x7FFFFFFFFFFFFFFF = true := by decide +kernel
theorem test_shri : gives (.shrI u0 (r 5) (r 3) .n8 7) 0x180 0 1 = true := by decide +kernel
theorem test_sar : gives (.sarR u0 (r 5) (r 3) (r 4) .i8) 0x80 7 (-1) = true := by decide +kernel
theorem test_sari : gives (.sarI u0 (r 5) (r 3) .n8 7) 0x80 0 0xFF = true := by decide +kernel
theorem test_rol : gives (.rolR u0 (r 5) (r 3) (r 4) .n8) 0x81 1 3 = true := by decide +kernel
theorem test_roli : gives (.rolI u0 (r 5) (r 3) .n16 0) 0x8001 0 0x8001 = true := by decide +kernel
theorem test_ror : gives (.rorR u0 (r 5) (r 3) (r 4) .n8) 0x81 1 0xC0 = true := by decide +kernel
theorem test_rori : gives (.rorI u0 (r 5) (r 3) .i8 8) 0x81 0 0xFFFFFFFFFFFFFF81 = true := by decide +kernel
theorem test_min : gives (.minR u0 (r 5) (r 3) (r 4) .i64) (-1) 1 (-1) = true := by decide +kernel
theorem test_mini : gives (.minI u0 (r 5) (r 3) .i8 (-1)) 0x80 0 0xFFFFFFFFFFFFFF80 = true := by decide +kernel
theorem test_max : gives (.maxR u0 (r 5) (r 3) (r 4) .i64) (-1) 1 1 = true := by decide +kernel
theorem test_maxi : gives (.maxI u0 (r 5) (r 3) .i8 (-1)) 0x80 0 (-1) = true := by decide +kernel
theorem test_minn : gives (.minnR u0 (r 5) (r 3) (r 4) .n64) (-1) 1 1 = true := by decide +kernel
theorem test_minni : gives (.minnI u0 (r 5) (r 3) .n8 (-1)) 0x80 0 0x80 = true := by decide +kernel
theorem test_maxn : gives (.maxnR u0 (r 5) (r 3) (r 4) .n64) (-1) 1 (-1) = true := by decide +kernel
theorem test_maxni : gives (.maxnI u0 (r 5) (r 3) .n8 (-1)) 0x80 0 0xFF = true := by decide +kernel

/-- k1 after an instruction on g3 and g4. -/
def sets (i : Instr) (a b : Word) (x : Bool) : Bool :=
  after i (demo [(3, a), (4, b)]) fun t => rdK (turn t) 1 == x && (turn t).pc == 128

theorem test_cmp_signed : sets (.cmpR u0 1 (r 3) (r 4) .i8 .lt) 0x80 1 true = true := by decide +kernel
theorem test_cmpi_unsigned : sets (.cmpI u0 1 (r 3) .n8 .gt (-1)) 0x80 0 false = true := by decide +kernel
theorem test_clz : gives (.clz u0 (r 5) (r 3) .n8) 0x100 0 8 = true := by decide +kernel
theorem test_ctz : gives (.ctz u0 (r 5) (r 3) .i64) 8 0 3 = true := by decide +kernel
theorem test_popc : gives (.popc u0 (r 5) (r 3) .i64) (-1) 0 64 = true := by decide +kernel
theorem test_brev : gives (.brev u0 (r 5) (r 3) .i8) 1 0 0xFFFFFFFFFFFFFF80 = true := by decide +kernel
theorem test_abs_of_least : gives (.abs u0 (r 5) (r 3) .i8) 0x80 0 0xFFFFFFFFFFFFFF80 = true := by decide +kernel
theorem test_neg : gives (.neg u0 (r 5) (r 3) .n8) 1 0 0xFF = true := by decide +kernel
/-- The control word 0xF20 names 16 bits from bit 32. -/
theorem test_bext : gives (.bext u0 (r 5) (r 3) (r 0) true 0xF20) 0x0000876500000000 0 0xFFFFFFFFFFFF8765 = true := by
  decide +kernel
theorem test_bins : gives (.bins u0 (r 5) (r 3) (r 0) 0x304) 0xFFA 0 0x12A4 = true := by decide +kernel
theorem test_sext_full : gives (.sext u0 (r 5) (r 3) 64) (-2) 0 (-2) = true := by decide +kernel
theorem test_sext_one_bit : gives (.sext u0 (r 5) (r 3) 1) 5 0 (-1) = true := by decide +kernel
theorem test_zext : gives (.zext u0 (r 5) (r 3) 1) 7 0 1 = true := by decide +kernel
theorem test_sel : gives (.sel u0 (r 5) (r 3) (r 4) 1) 1 2 2 = true ∧ gives (.sel u0 (r 5) (r 3) (r 4) 0) 1 2 1 = true := by
  decide +kernel
theorem test_mov_to_k : sets (.mov u0 (.k 1) (.g (r 3))) 0x100 0 true = true := by decide +kernel
theorem test_mov_from_j :
    after (.mov u0 (.g (r 5)) (.j 1)) (indexAt (-1)) (fun t => rdG (turn t) 5 == -1) = true := by decide +kernel
theorem test_movi_to_g0 : after (.movi u0 (.g (r 0)) 5) (demo []) (fun t => rdG (turn t) 0 == 0 && (turn t).pc == 128) = true :=
  by decide +kernel
theorem test_guards :
    sets (.gand u0 1 0 2) 0 0 false = true ∧ sets (.gor u0 1 0 2) 0 0 true = true ∧ sets (.gxor u0 1 0 0) 0 0 false = true ∧
      sets (.gnot u0 1 2) 0 0 true = true := by decide +kernel
theorem test_nop_and_pref : after .nop (demo []) (fun t => t == withTurn (demo []) (advanced (turn (demo [])))) = true ∧
    after (.pref u0 (r 3) (r 4) 0) (demo []) (fun t => (turn t).pc == 128) = true := by decide +kernel
theorem test_padd : gives (.padd u0 (r 5) (r 3) (r 4) 5 2) 10 (-1) 7 = true := by decide +kernel
theorem test_pdif : gives (.pdif u0 (r 5) (r 3) (r 4) 5) 10 20 (-2) = true := by decide +kernel
theorem test_pdif_traps : after (.pdif u0 (r 5) (r 3) (r 4) 5) (demo [(3, 9)])
    (fun t => (turn t).cause == 0x180 && (turn t).tval == 9) = true := by decide +kernel
theorem test_paln : gives (.paln u0 (r 5) (r 3) 5 true) 11 0 15 = true ∧ gives (.paln u0 (r 5) (r 3) 5 false) 11 0 10 = true := by
  decide +kernel
/-- Element 17 of bq5: block 1, element 1. -/
theorem test_pblk : gives (.pblk u0 (r 5) (r 3) (r 4) .bq5) 0 17 133 = true := by decide +kernel
theorem test_pchk : sets (.pchk u0 1 (r 3) 8 0 0) 4 0 false = true ∧ sets (.pchk u0 1 (r 3) 8 1 0) 4 0 true = true := by
  decide +kernel
theorem test_jset : after (.jset u0 1 (r 3) 2) (demo [(3, 0xFFFF)]) (fun t => rdJ (turn t) 1 == 1) = true := by decide +kernel
theorem test_jadd : after (.jadd u0 2 1 (r 0) (-8)) (indexAt 7) (fun t => rdJ (turn t) 2 == 0xFFFF) = true := by decide +kernel

/-- A demo whose line 0 is cached with TGT bits 0, 2 and 4 set. -/
def targets (g : List (Nat × Word)) : State :=
  { demo g with cores := [(0, { core0 with icache := [(0, 0x1015)] })] }

/-- The page at address 0 lies on device 9, which port 0 reaches. -/
def onPeer9 : State :=
  { demo [] with cores := [(0, { core0 with tlb := [{ page0 with peer := true, dev := 9 }] })], ports := [(0, { st := .up, pdev := 9 })] }

/-- Transfers: a target at hand, one whose line cannot be read, one whose line gave an error, one on a peer, one that is no slot
position, one without its TGT bit, and a pc without it whose check is owed. -/
theorem test_transfer_hypotheses :
    (isSlotPos 416 = true ∧ readableLine (targets []) 0 0 = .here 0x1015 ∧ lineTgt 0x1015 ((416 % 512 - 32) / 96) = true ∧
      (turn (targets [])).badLine ≠ some 0) ∧
      (isSlotPos (2 ^ 20 + 32) = true ∧ readableLine (targets []) 0 (2 ^ 20) = .unreadable) ∧
      ({ who [] with badLine := some 0 } : Strand).badLine = some 0 ∧
      (readableLine onPeer9 0 0 = .peer 9 ∧ (turn onPeer9).badLine ≠ some 0 ∧ portTo onPeer9 9 = true) ∧ isSlotPos 33 = false ∧
      lineTgt 0x1015 ((128 % 512 - 32) / 96) = false ∧ trapEnters (turn (targets [])) 0x039 = true ∧
      (lineFault 0x1000 = none ∧ isSlotPos 32 = true ∧ ({ who [] with tgtPending := true } : Strand).tgtPending = true ∧
        lineTgt 0x1000 ((32 % 512 - 32) / 96) = false) := by decide +kernel

theorem test_br : after (.br u0 0 4) (targets []) (fun t => (turn t).pc == 416) = true ∧
    after (.br u0 2048 0) (targets []) (fun t => (turn t).pc == 2 ^ 20 + 32 && (turn t).tgtPending) = true := by decide +kernel
theorem test_bri : after (.bri u0 (r 3) 0x20) (targets [(3, 0)]) (fun t => (turn t).pc == 32) = true := by decide +kernel
theorem test_call_links : after (.call u0 (r 3) 0 2) (targets []) (fun t => (turn t).pc == 224 && rdG (turn t) 3 == 128) = true := by
  decide +kernel
theorem test_ret : after (.ret u0 (r 3)) (targets [(3, 33)]) (fun t => (turn t).cause == 0x038 && (turn t).tval == 33) = true ∧
    after (.ret u0 (r 3)) (targets [(3, 128)]) (fun t => (turn t).cause == 0x039 && (turn t).tval == 128) = true := by
  decide +kernel
theorem test_loop : after (.loop u0 (r 3) 0 4) (targets [(3, 0)]) (fun t => (turn t).pc == 416 && rdG (turn t) 3 == -1) = true ∧
    after (.loop u0 (r 3) 0 4) (targets [(3, 1)]) (fun t => (turn t).pc == 128 && rdG (turn t) 3 == 0) = true := by
  decide +kernel

/-! ### Floating point -/

theorem test_float_forms_run : Runs (demo []) u0 [.g (r 3), .g (r 4), .g (r 6), .g (r 5)] := runs_of (by decide +kernel)

/-- RoundingKeepsRepresentable and FloatSpecialCases: encodings of each kind they speak of. -/
theorem test_float_hypotheses :
    (decodeF (ftypeFmt .f32) 0x00000001).isNan = false ∧ (decodeF (ftypeFmt .f32) 0x7FC00000).isNan = true ∧
      ((decodeF (ftypeFmt .f32) 0x7F800000).isInf = true ∧ (decodeF (ftypeFmt .f32) 0xFF800000).isInf = true ∧
        (decodeF (ftypeFmt .f32) 0x7F800000).sign ≠ (decodeF (ftypeFmt .f32) 0xFF800000).sign) ∧
      ((decodeF (ftypeFmt .f32) 0x80000000).isZero = true ∧ (decodeF (ftypeFmt .f32) 0x80000000).sign = true) ∧
      ((decodeF (ftypeFmt .f32) 0xBF800000).isFin = true ∧ (decodeF (ftypeFmt .f32) 0xBF800000).isZero = false ∧
        (decodeF (ftypeFmt .f32) 0xBF800000).sign = true) := by decide +kernel

/-- 1 + 2^-24 is a tie, and rounds to the even 1. -/
theorem test_fadd_tie : gives (.fadd u0 (r 5) (r 3) (r 4) .f32 .rne) 0x3F800000 0x33800000 0x3F800000 = true := by decide +kernel
theorem test_fsub : gives (.fsub u0 (r 5) (r 3) (r 4) .bf16 .rdn) 0x3F80 0x3F80 0x8000 = true := by decide +kernel
theorem test_fmul : gives (.fmul u0 (r 5) (r 3) (r 4) .f16 .rne) 0x4000 0xC200 0xC600 = true := by decide +kernel
theorem test_ffma : after (.ffma u0 (r 5) (r 3) (r 4) (r 6) .f32 .rtz)
    (demo [(3, 0x40000000), (4, 0x40400000), (6, 0xBF800000)]) (fun t => rdG (turn t) 5 == 0x40A00000) = true := by decide +kernel
theorem test_fdiv_by_zero : gives (.fdiv u0 (r 5) (r 3) (r 4) .f32 .rne) 0xBF800000 0 0xFF800000 = true := by decide +kernel
theorem test_fsqrt : gives (.fsqrt u0 (r 5) (r 3) .f32 .rne) 0x40800000 0 0x40000000 = true := by decide +kernel
theorem test_fmin_zeros : gives (.fmin u0 (r 5) (r 3) (r 4) .f32) 0 0x80000000 0x80000000 = true := by decide +kernel
theorem test_fmax : gives (.fmax u0 (r 5) (r 3) (r 4) .f32) 0x80000000 0 0 = true := by decide +kernel
theorem test_fcmp_zeros : sets (.fcmp u0 1 (r 3) (r 4) .f32 .eq) 0 0x80000000 true = true := by decide +kernel
theorem test_fclass : gives (.fclass u0 (r 5) (r 3) .f32) 0x00000001 0 0x20 = true := by decide +kernel
theorem test_fneg : gives (.fneg u0 (r 5) (r 3) .bf16) 0x3F80 0 0xBF80 = true := by decide +kernel
theorem test_fcvt : gives (.fcvt u0 (r 5) (r 3) .i8 .f32 .rne false) 0xC3000000 0 0xFFFFFFFFFFFFFF80 = true := by decide +kernel

/-- BlocksOfSixteen: values with a NaN, with an infinity, all zero, and with a largest. -/
theorem test_block_hypotheses :
    ((FV.nan true :: List.replicate 15 (.fin false 0 0)).length = 16 ∧ FV.isNan (.nan true) = true) ∧
      ((∀ v ∈ FV.inf true :: List.replicate 15 (.fin false 1 0), v.isNan = false ∧ (false = true → v.isInf = false)) ∧
        FV.isInf (.inf true) = true) ∧
      ∀ v ∈ FV.fin true 5 (-3) :: List.replicate 15 (.fin false 1 (-4)), v.isNan = false ∧ v.isInf = false ∧
        magLePow 0 v = true := by decide +kernel

/-- Fifteen ones and −2 in bq3: E is 128, a unit of 1 for the first pair, and of 1/2 for the others. -/
theorem test_block_of_sixteen :
    (let b := bqEncode .bq3 false (.fin true 2 0 :: List.replicate 15 (.fin false 1 0))
     b % 2 ^ 8 == 128 && b / 2 ^ 8 % 2 ^ 8 == 0xFE && b / 2 ^ 16 % 2 ^ 8 == 0 && b / 2 ^ 24 % 2 ^ 12 == 0o2216) = true ∧
      bqEncode .bq8 true (.inf false :: List.replicate 15 (.fin false 1 0)) = 255 ∧ bqDecode .bq5 255 3 = .nan false := by
  decide +kernel

/-! ### Vectors -/

theorem test_vector_forms_run :
    (Runs (demo []) u0 ([.v 1] ++ [.v 2] ++ [.v 31]) ∧ Runs (demo []) u0 ([.v 1] ++ [.v 2, .v 3] ++ [.v 0]) ∧
      Runs (demo []) u0 [.v 1, .v 0] ∧ Runs (demo []) u0 [.v 1, .v 2, .v 3, .v 0]) ∧
      (Runs (demo []) u0 [.v 1, .g (r 4), .v 0] ∧ Runs (demo []) u0 [.v 1, .g (r 5)] ∧ Runs (demo []) u0 [.g (r 3), .v 0] ∧
        Runs (demo []) u0 [.v 1, .g (r 4), .g (r 5)] ∧ Runs (demo []) u0 [.g (r 3), .g (r 4), .v 0]) :=
  ⟨⟨runs_of (by decide +kernel), runs_of (by decide +kernel), runs_of (by decide +kernel), runs_of (by decide +kernel)⟩,
    ⟨runs_of (by decide +kernel), runs_of (by decide +kernel), runs_of (by decide +kernel), runs_of (by decide +kernel),
      runs_of (by decide +kernel)⟩⟩

/-- v0 after an instruction on v1, v2 and v3. -/
def makes (i : Instr) (a b c x : VWord) : Bool :=
  after i (demo [(3, 0x81), (4, 17)] [(0, 0xFF), (1, a), (2, b), (3, c)]) fun t => rdV (turn t) 0 == x && (turn t).pc == 128

theorem test_vadd_saturates : makes (.vadd u0 0 1 2 (.int .i8 true)) 0x7FFF 0x0101 0 0x7F00 = true := by decide +kernel
theorem test_vsub_wraps : makes (.vsub u0 0 1 2 (.int .n16 false)) 0 1 0 0xFFFF = true := by decide +kernel
theorem test_vmul : makes (.vmul u0 0 1 2 (.int .i8 true)) 0x80 0x80 0 0x7F = true := by decide +kernel
theorem test_vfma : makes (.vfma u0 0 1 2 3 (.int .i8 false)) 0x10 0x10 0x05 0x05 = true := by decide +kernel
theorem test_vmin : makes (.vmin u0 0 1 2 (.i .i8)) 0x80 1 0 0x80 = true := by decide +kernel
theorem test_vmax : makes (.vmax u0 0 1 2 (.i .n8)) 0x80 1 0 0x80 = true := by decide +kernel
theorem test_vabs : makes (.vabs u0 0 1 (.int .i8 true)) 0x80 0 0 0x7F = true := by decide +kernel
theorem test_vneg : makes (.vneg u0 0 1 (.int .i16 false)) 1 0 0 0xFFFF = true := by decide +kernel
theorem test_vand_vor_vxor : makes (.vand u0 0 1 2 .n8) 12 10 0 8 = true ∧ makes (.vor u0 0 1 2 .n8) 12 10 0 14 = true ∧
    makes (.vxor u0 0 1 2 .n8) 12 10 0 6 = true := by decide +kernel
theorem test_vshl : makes (.vshl u0 0 1 (.v 2) .n8) 0x0181 0x0109 0 0x0202 = true := by decide +kernel
theorem test_vshr : makes (.vshr u0 0 1 (.g (r 4) 0) .n16) 0x8000 0 0 0x4000 = true := by decide +kernel
theorem test_vsar : makes (.vsar u0 0 1 (.g (r 0) 7) .i8) 0x80 0 0 0xFF = true := by decide +kernel
theorem test_vcmp : makes (.vcmp u0 0 1 2 (.int .i8 .ne)) 0x0102 0x0002 0 0xFF00 = true := by decide +kernel
theorem test_vsel : makes (.vsel u0 0 1 2 3) 0xF0 0x0F 0xF1 0xFE = true := by decide +kernel
theorem test_vdot : makes (.vdot u0 0 1 2 (.int false false)) 0x020000FF 0x02000001 0 0x102 = true := by decide +kernel
theorem test_vred : after (.vred u0 (r 5) 1 (.int .i8 .add)) (demo [] [(1, 0xFFFE)]) (fun t => rdG (turn t) 5 == -3) = true := by
  decide +kernel
/-- Sixteen bytes to four words: part 1 writes from bytes 4 to 7. -/
theorem test_vcvt : makes (.vcvt u0 0 1 .i32 .i8 .rne false 1) 0x8000000100000000 0 0 0xFFFFFF80000000000000000000000001 = true := by
  decide +kernel
theorem test_vpack_and_vunpk : makes (.vpack u0 0 1 (.int .i8 4 false 0)) 0x21 0 0 0x01 = true ∧
    makes (.vunpk u0 0 1 (.int .i8 4 0)) 0x8F 0 0 0xF8FF = true := by decide +kernel
/-- VectorMoves: a bq8 form whose second register is not allocated. -/
theorem test_bq8_needs_two :
    (Runs (demo []) u0 [.v 1, .v 2, .v 31] ∧ (turnCore (demo [])).vcount ≤ (31 : Fin 32).val + 1 ∧
      Runs (demo []) u0 [.v 31, .v 1]) ∧
      ((30 : Fin 32).val + (1 : BitVec 3).toNat < 32 ∧ (30 : Fin 32).val + (1 : BitVec 3).toNat < (turnCore (demo [])).vcount ∧
        (turnCore (small (demo []))).vcount ≤ (0 : Fin 32).val + (1 : BitVec 3).toNat ∧
        Runs (small (demo [])) u0 [.v 0, .v 0, .v 0]) ∧
      after (.vpack u0 31 1 (.bq .bq8 2 false)) (demo []) (fun t => (turn t).cause == 0x042 && (turn t).tval == 32) = true ∧
      after (.vunpk u0 1 31 (.bq .bq8 0)) (demo []) (fun t => (turn t).cause == 0x042 && (turn t).tval == 32) = true :=
  ⟨⟨runs_of (by decide +kernel), by decide +kernel, runs_of (by decide +kernel)⟩,
    ⟨by decide +kernel, by decide +kernel, by decide +kernel, runs_of (by decide +kernel)⟩, by decide +kernel⟩
/-- VectorMoves: the packs that run. -/
theorem test_packs_run :
    Runs (demo []) u0 [.v 1, .v 2, .v 30] ∧ (31 : Fin 32).val = (30 : Fin 32).val + 1 ∧ (31 : Fin 32).val < (turnCore (demo [])).vcount ∧
      Runs (demo []) u0 [.v 1, .v 0] ∧ 1 ≤ (4 : BitVec 7).toNat :=
  ⟨runs_of (by decide +kernel), by decide +kernel, by decide +kernel, runs_of (by decide +kernel), by decide +kernel⟩
theorem test_vsplat : makes (.vsplat u0 0 (r 3) (.i .i64) 0) 0 0 0 0x00000000000000810000000000000081 = true := by decide +kernel
/-- Index 17 of sixteen bytes is byte 1. -/
theorem test_vext : after (.vext u0 (r 5) 1 (r 4) (.i .i8) 0) (demo [(4, 17)] [(1, 0x8100)])
    (fun t => rdG (turn t) 5 == 0xFFFFFFFFFFFFFF81) = true := by decide +kernel
theorem test_vins : makes (.vins u0 0 (r 3) (r 4) (.i .i8) 0) 0 0 0 0x81FF = true := by decide +kernel
theorem test_vperm : makes (.vperm u0 0 1 2 3 (.i .i8)) 0x11 0x22 0x1000 0x11111111111111111111111111112211 = true := by
  decide +kernel
theorem test_vtbl : makes (.vtbl u0 0 1 2 1 0x80) 0x11 0x2010 0 0x11111111111111111111111111118010 = true := by decide +kernel

/-! ### Memory -/

/-- PhysicalWriteThenRead: a write in plain memory under a key that stands. -/
theorem test_physical_write : isInternal (2 ^ 19 + 5) = false ∧ (keyMaterial? (demo []) 0).isSome = true ∧
    physRead (physWrite (demo []) 0 0 (2 ^ 19 + 5) 7 0xFF) 0 (2 ^ 19) 16 = 0xFE0 := by decide +kernel

/-- The demo with bytes of memory; the page at 0 lies from byte 65536. -/
def stocked (m : Memory) (g : List (Nat × Word)) (v : List (Nat × VWord) := []) : State := { demo g v with mem := m }

/-- Loads and Stores: global and pool accesses of 64 and 128 bits, one of 8 bits that crosses a 64-bit boundary, and one at the
end of the pool. -/
theorem test_access_hypotheses :
    (AtOnce (demo []) ∧ Runs (demo []) u0 [.g (r 3), .g (r 4), .v 0]) ∧
      (Here (demo []) (accessParts 64 64) true false [(page0, 64, 64)] ∧
        Here (demo []) (accessParts 60 8) true false [(page0, 60, 4), (page0, 64, 4)] ∧
        Here (demo []) (accessParts 512 128) true false [(page0, 512, 128)]) ∧
      (Here (demo []) (accessParts 64 64) false true [(page0, 64, 64)] ∧
        Here (demo []) (accessParts 512 128) false true [(page0, 512, 128)] ∧
        Plain (partsOf [(page0, 60, 4), (page0, 64, 4)]) ∧ Apart (demo []) (partsOf [(page0, 512, 128)])) ∧
      (PoolHere (demo []) (2 ^ 20 - 64) 64 ∧ PoolHere (demo []) (2 ^ 20 - 128) 128) :=
  ⟨⟨at_once_of (by decide +kernel), runs_of (by decide +kernel)⟩,
    ⟨here_of (by decide +kernel), here_of (by decide +kernel), here_of (by decide +kernel)⟩,
    ⟨here_of (by decide +kernel), here_of (by decide +kernel), plain_of (by decide +kernel), apart_of (by decide +kernel)⟩,
    ⟨pool_here_of (by decide +kernel), pool_here_of (by decide +kernel)⟩⟩

theorem test_ld_extends : after (.ld u0 (r 5) (r 3) (r 0) 8 true .rlx .pa 0) (stocked [(65544, 0x80)] [(3, 64)])
    (fun t => rdG (turn t) 5 == 0xFFFFFFFFFFFFFF80 && (turn t).pc == 128) = true := by decide +kernel
/-- The index register counts elements of the width: 2 × 5 bits. -/
theorem test_ld_scales : after (.ld u0 (r 5) (r 3) (r 4) 5 false .rlx .pa 0) (stocked [(65537, 0xFF)] [(3, 2), (4, 2)])
    (fun t => rdG (turn t) 5 == 0xF) = true := by decide +kernel
theorem test_st_leaves_other_bits : after (.st u0 (r 5) (r 3) (r 0) 4 .rlx .pa 0)
    (stocked [(65536, 0xFF)] [(3, 2), (5, 0)]) (fun t => t.mem.read 65536 == 0xC3) = true := by decide +kernel
theorem test_vld : after (.vld u0 1 (r 3) (r 0) .rlx .pa 0) (stocked [(65551, 1)] [(3, 0)])
    (fun t => rdV (turn t) 1 == 2 ^ 120) = true := by decide +kernel
theorem test_vst : after (.vst u0 1 (r 3) (r 0) .rlx .pa 0) (demo [(3, 8)] [(1, 2 ^ 127)])
    (fun t => t.mem.read 65552 == 0x80) = true := by decide +kernel
theorem test_ldp : after (.ldp u0 (r 5) (r 3) (r 0) 0 false .rlx .pa 0)
    { demo [(3, 2 ^ 20 - 64)] with cores := [(0, { core0 with pool := [(131071, 0x80)] })] }
    (fun t => rdG (turn t) 5 == 0x8000000000000000) = true := by decide +kernel
theorem test_stp : after (.stp u0 (r 5) (r 3) (r 0) 8 .rlx .pa 0) (demo [(3, 4), (5, 0xAB)])
    (fun t => (turnCore t).pool == [(0, 0xB0), (1, 0x0A)]) = true := by decide +kernel
theorem test_vldp_and_vstp : after (.vldp u0 1 (r 3) (r 0) .rlx .pa 0) (demo [(3, 2 ^ 20 - 127)])
      (fun t => (turn t).cause == 0x100 && (turn t).tval == 2 ^ 20 - 127) = true ∧
    after (.vstp u0 1 (r 3) (r 0) .rlx .pa 0) (demo [(3, 0)] [(1, 3)]) (fun t => (turnCore t).pool == [(0, 3)]) = true := by
  decide +kernel

/-- The demo with another translation of page 0, or another PWORD. -/
def mapped (x : Xlat) (g : List (Nat × Word)) : State := { demo g with cores := [(0, { core0 with tlb := [x] })] }
def based (g : List (Nat × Word)) : State := { demo g with cores := [(0, { core0 with pword := 1 })] }

/-- AccessTraps: an address that is not canonical, a page without the read or the write right, a pool access beyond the pool and
one below the strand's part of it. -/
theorem test_access_trap_hypotheses :
    (Runs (demo []) u0 [.g (r 3), .g (r 4), .g (r 5)] ∧
      (∃ p ∈ accessParts (eaIndexed (turn (demo [(3, 2 ^ 56)])) (r 3) (r 0) 8 0) 8, canonical p.1 = false)) ∧
      ((∀ p ∈ accessParts 64 8, canonical p.1 = true) ∧
        (locateParts (mapped { page0 with rd := false } []) 0 (accessParts 64 8) = .found [({ page0 with rd := false }, 64, 8)]) ∧
        locateParts (mapped { page0 with wr := false } []) 0 (accessParts 64 8) = .found [({ page0 with wr := false }, 64, 8)]) ∧
      2 ^ 20 < eaIndexed (turn (demo [(3, 2 ^ 20 - 7)])) (r 3) (r 0) 8 0 + 8 ∧
      (eaIndexed (turn (based [(3, 2 ^ 15 - 1)])) (r 3) (r 0) 8 0 + 8 ≤ 2 ^ 20 ∧
        eaIndexed (turn (based [(3, 2 ^ 15 - 1)])) (r 3) (r 0) 8 0 < 2 ^ 15 * ((turnCore (based [])).pword.toNat % 2 ^ 6)) :=
  ⟨⟨runs_of (by decide +kernel), by decide +kernel⟩, by decide +kernel⟩

theorem test_access_traps :
    after (.ld u0 (r 5) (r 3) (r 0) 8 false .rlx .pa 0) (demo [(3, 2 ^ 56)]) (fun t => (turn t).cause == 0x0C0) = true ∧
      after (.st u0 (r 5) (r 3) (r 0) 8 .rlx .pa 0) (mapped { page0 with wr := false } []) (fun t => (turn t).cause == 0x102) = true ∧
      after (.stp u0 (r 5) (r 3) (r 0) 8 .rlx .pa 0) (based [(3, 2 ^ 15 - 1)]) (fun t => (turn t).cause == 0x101) = true := by
  decide +kernel

/-- A state in which the line of address 0 is leased to core 0, so that no free value decides where an atomic is counted. -/
def leased (m : Memory) (g : List (Nat × Word)) : State := { stocked m g with leases := [(1024, 0)] }

/-- Atomics: operands of 32 bits in one word, at its end, and one that crosses it. -/
theorem test_atomic_hypotheses :
    (AtOnce (demo []) ∧ isInternal (page0.phys 32) = false ∧ Runs (demo []) u0 [.g (r 3), .g (r 4)] ∧
      Runs (demo []) u0 [.g (r 3), .g (r 4), .g (r 6), .g (r 5)]) ∧
      (Here (demo []) [(32, amoWidth (.int .n32 .add))] true true [(page0, 32, 32)] ∧
        Here (demo []) [(32, vtypeWidth (.f .f32))] true true [(page0, 32, 32)] ∧ 32 / 64 = (32 + 32 - 1) / 64 ∧
        Apart (demo []) [page0.part 32 32]) ∧ ¬ (33 / 64 = (33 + amoWidth (.int .n32 .add) - 1) / 64) :=
  ⟨⟨at_once_of (by decide +kernel), by decide +kernel, runs_of (by decide +kernel), runs_of (by decide +kernel)⟩,
    ⟨here_of (by decide +kernel), here_of (by decide +kernel), by decide +kernel, apart_of (by decide +kernel)⟩, by decide +kernel⟩

theorem test_amo : after (.amo u0 (r 5) (r 3) (r 4) (.int .i8 .add) .rlx .pa 0) (leased [(65536, 0xFF)] [(3, 0), (4, 2)])
    (fun t => t.mem.read 65536 == 1 && rdG (turn t) 5 == -1) = true := by decide +kernel
theorem test_amo_crosses : after (.amo u0 (r 5) (r 3) (r 4) (.int .n32 .add) .rlx .pa 0) (demo [(3, 33)])
    (fun t => (turn t).cause == 0x080 && (turn t).tval == 33) = true := by decide +kernel
theorem test_cas : after (.cas u0 (r 5) (r 3) (r 4) (r 6) (.i .n8) .rlx .pa 0) (leased [(65536, 7)] [(3, 0), (4, 0x107), (6, 9)])
    (fun t => t.mem.read 65536 == 9 && rdG (turn t) 5 == 7) = true ∧
    after (.cas u0 (r 5) (r 3) (r 4) (r 6) (.i .n8) .rlx .pa 0) (leased [(65536, 7)] [(3, 0), (4, 8), (6, 9)])
    (fun t => t.mem.read 65536 == 7 && rdG (turn t) 5 == 7) = true := by decide +kernel
theorem test_red : after (.red u0 (r 3) (r 4) (.int .n8 .max) .rlx .pa 0) (leased [(65536, 7)] [(3, 0), (4, 9)])
    (fun t => t.mem.read 65536 == 9 && (turn t).pc == 128) = true := by decide +kernel

def as (t : Strand) : State := { demo [] with strands := [(0, t)] }
def mons (a b : Monitor) : Vector Monitor 4 := ((Vector.replicate 4 .disarmed).set 1 a).set 3 b

/-- A RED of the strand at work, at a peer. -/
def redAway : PeerReq :=
  { core := 0, slot := 0, sid := 1, engine := none, dev := 9, q := ⟨.red 0 64 (.amo (.int .n64 .add) 1), .rlx, .pa, false, false, false⟩
    at_ := 0, red := true }

/-- FencesAndMonitors: no operands, a RED at a peer, a pool range at the end of the pool, a global one, monitors all disarmed, two
fired, and a cancelled node. -/
theorem test_monitor_hypotheses :
    ((2 ^ 20 - 8) / 64 = (2 ^ 20 - 8 + 8 - 1) / 64 ∧ poolFault (turnCore (demo [])) (2 ^ 20 - 8) 8 = none) ∧
      Here (demo []) [(56, 8)] true false [(page0, 56, 8)] ∧ (turn (demo [])).mon = Vector.replicate 4 .disarmed ∧
      ((turn (as { who [] with mon := mons .fired .fired })).mon[(1 : Fin 4)] = .fired ∧
        ∀ j : Fin 4, j < 1 → (turn (as { who [] with mon := mons .fired .fired })).mon[j] ≠ .fired) ∧
      (∃ e ∈ ({ demo [] with peers := [(1, redAway)] } : State).peers, e.2.red = true ∧ e.2.sid = (turn (demo [])).sid) ∧
      (∀ e ∈ (demo []).peers, e.2.red = true → e.2.sid ≠ (turn (demo [])).sid) ∧
      (strandCancelled { demo [] with parts := [(1, { part1 with nodes := [(1, { node1 with cf := true })] })] } 0 0 = true ∧
        (turn (demo [])).live = true ∧ strandCancelled (demo []) 0 0 = false) :=
  ⟨by decide +kernel, here_of (by decide +kernel), by decide +kernel, by decide +kernel, by decide +kernel⟩

theorem test_fence : after (.fence u0 .sc .sy) (demo []) (fun t => (turn t).pc == 128 && (turnCore t).requests == []) = true ∧
    after (.fence u0 .acq .pa) (demo []) (fun t => (turn t).pc == 128) = true := by decide +kernel
/-- A store over an armed range fires the monitor, and one beside it does not. -/
theorem test_marm : after (.marm u0 (r 3) 8 2 false 0) (demo [(3, 56)])
    (fun t => (turn t).mon[2] == .armed false (2 ^ 19 + 56) 8 &&
      (turn (physWrite t 0 0 (2 ^ 19 + 63) 1 0)).mon[2] == .fired &&
      (turn (physWrite t 0 0 (2 ^ 19 + 64) 1 0)).mon[2] != .fired) = true := by decide +kernel
theorem test_waita : after (.waita u0 (r 5) (r 3) 0) (as { who [] with mon := mons .fired .fired })
      (fun t => rdG (turn t) 5 == 1 && (turn t).mon == mons .disarmed .fired) = true ∧
    after (.waita u0 (r 5) (r 3) 0) (demo []) (fun t => rdG (turn t) 5 == 5) = true := by decide +kernel
theorem test_mdis : after (.mdis u0 3 false) (as { who [] with mon := mons .fired .fired })
    (fun t => (turn t).mon == mons .fired .disarmed) = true := by decide +kernel

/-- A live field of 4 × 4 cells at address 0, at tick 5, that fades by 1 in a tick. -/
def field0 : Field := { base := 0, rows := 4, cols := 4, fade := 0, st := .live, tick := 5 }
def fielded (m : Memory) (g : List (Nat × Word)) : State :=
  { stocked m g with parts := [(1, { part1 with fields := [(1, field0)] })] }

/-- Marks: a cell of a live field, with its window; and an address that is no multiple of 32. -/
theorem test_mark_hypotheses :
    (AtOnce (fielded [] []) ∧ Runs (fielded [] []) u0 [.g (r 3), .g (r 4), .g (r 5)] ∧ Runs (fielded [] []) u0 [.g (r 3), .g (r 5)]) ∧
      (480 % 32 = 0 ∧ fieldOf (fielded [] []) 1 480 = some (1, field0) ∧ getField? (fielded [] []) 1 1 = some field0 ∧
        field0.st = .live ∧ field0.st ≠ .created ∧ (1 : Nat) ≠ 0 ∧ field0.tsrc = 0 ∧ isInternal (page0.phys 480) = false) ∧
      (Here (fielded [] []) [(480, 32)] true true [(page0, 480, 32)] ∧ Here (fielded [] []) [(480, 32)] true false [(page0, 480, 32)] ∧
        Here (fielded [] []) ((senseCells field0 480 .box3).filterMap fun o => o.map fun q => (q, 32)) true false
          [(page0, 320, 32), (page0, 352, 32), (page0, 448, 32), (page0, 480, 32)] ∧
        Apart (fielded [] []) [page0.part 480 32]) ∧ 481 % 32 ≠ 0 :=
  ⟨⟨at_once_of (by decide +kernel), runs_of (by decide +kernel), runs_of (by decide +kernel)⟩, by decide +kernel,
    ⟨here_of (by decide +kernel), here_of (by decide +kernel), here_of (by decide +kernel), apart_of (by decide +kernel)⟩, by decide +kernel⟩

/-- Cell 1 holds magnitude 3 with the stamp 5. -/
theorem test_dep : after (.dep u0 (r 5) (r 3) (r 4) .add .rlx .pa 0) (fielded [(65540, 5), (65542, 3)] [(3, 32), (4, 0x10002)])
    (fun t => t.mem.read 65540 == 5 && t.mem.read 65542 == 5 && rdG (turn t) 5 == 0x0001000000050005) = true := by decide +kernel
theorem test_dep_aligned : after (.dep u0 (r 5) (r 3) (r 4) .add .rlx .pa 0) (fielded [] [(3, 33)])
    (fun t => (turn t).cause == 0x081) = true := by decide +kernel
theorem test_mrd : after (.mrd u0 (r 5) (r 3) .rlx .pa 0) (fielded [(65540, 5), (65542, 3)] [(3, 32)])
    (fun t => rdG (turn t) 5 == 0x0001000000050003) = true := by decide +kernel
/-- The best of the window around cell 0 is cell 1, which stands right of the centre: position 5 of 9. -/
theorem test_sense : after (.sense u0 (r 5) (r 3) .box3 false .rlx .pa 0) (fielded [(65540, 5), (65542, 3)] [(3, 0)])
    (fun t => (rdG (turn t) 5).toNat % 2 ^ 32 == 0x50003) = true := by decide +kernel
theorem test_tickr : after (.tickr u0 (r 5) (r 3) 0) (fielded [] [(3, 0)]) (fun t => rdG (turn t) 5 == 5) = true := by decide +kernel
theorem test_tadv : after (.tadv u0 (r 5) (r 3) 0) (fielded [] [(3, 0)])
    (fun t => (turn t).status == .asleep (.tadv 1 5) && (getField? t 1 1).map (·.due) == some 1) = true := by decide +kernel

/-- ChainElement: a count of 0, and an element between pools or between global lines. -/
theorem test_chain_hypotheses :
    (AtOnce (demo []) ∧ Runs (demo []) u0 [.g (r 5), .g (r 6), .v 30, .g (r 7)] ∧ (30 : Fin 32).val + 1 < 32 ∧
      (30 : Fin 32).val + 1 < (turnCore (demo [])).vcount ∧
      chainBad 0 (chainSlots (chainProgram (vVal (turn (demo [])) 30) (vNum (turn (demo [])) (30 + 1)))) = none) ∧
      (gVal (turn (demo [])) (r 7) = 0 ∧ gVal (turn (demo [(7, 1)])) (r 7) ≠ 0) ∧
      (PoolHere (demo []) 0 CvtType.f32.width ∧ PoolHere (demo []) 64 CvtType.f32.width) ∧
      (Here (demo []) (accessParts 0 32) true false [(page0, 0, 32)] ∧ Here (demo []) (accessParts 64 32) false true [(page0, 64, 32)]) :=
  ⟨⟨at_once_of (by decide +kernel), runs_of (by decide +kernel), by decide +kernel⟩, by decide +kernel,
    ⟨pool_here_of (by decide +kernel), pool_here_of (by decide +kernel)⟩, ⟨here_of (by decide +kernel), here_of (by decide +kernel)⟩⟩

/-- One element of 1.0, added to 1.0 (the program's constant 0x3F80), from pool bits 0 to 64. -/
theorem test_chain : after (.chain u0 (r 7) (r 5) (r 6) 10 .f32 .bf16 .rne false true true)
    { demo [(5, 0), (6, 64), (7, 2)] [(10, 0x10003F80)] with cores := [(0, { core0 with pool := [(2, 0x80), (3, 0x3F)] })] }
    (fun t => (turnCore t).pool.bits 64 16 == 0x4000 && rdG (turn t) 5 == 32 && rdG (turn t) 6 == 80 && rdG (turn t) 7 == 1 &&
      (turn t).pc == 32) = true := by decide +kernel

/-! ### Engine instructions -/

def launch1 : Launch := { kidx := 1, st := .running, n := 1, cores := [0], node := 1, parent := 2 }
/-- A copy-unit command, and a matrix job, that stand in their places. -/
def copy0 : Cmd := { kind := .copy, id := 0, core := 0, slot := 0, sid := 1, node := 1, launch := 1, kidx := 1, pri := 4,
                     op := 0x300, m := 0, ta := 0, opa := 0, opb := 0, lm := 0, ln := 0, pc := 32 }
def job0 : Cmd := { copy0 with kind := .mac, op := 0x341 }
/-- The demo under its running launch, with core fields of its own. -/
def busy (k : CoreSt) (g : List (Nat × Word) := []) (v : List (Nat × VWord) := []) : State :=
  { demo g v with cores := [(0, k)], parts := [(1, { part1 with launches := [(1, launch1)] })] }

/-- EngineCommandsIssue: the last free places of q1 and of q0, the forms that issue, and a schedule entry. -/
theorem test_issue_hypotheses :
    (AtOnce (busy core0) ∧ launchNodeOf (busy core0) 0 = some 1 ∧ counterFull (busy core0) 1 1 = false ∧
      (List.replicate 7 copy0).length < 8 ∧ (List.replicate 3 job0).length < 4) ∧
      (Runs (busy core0) u0 ([.g (r 3), .g (r 4)] ++ modeNames (.plain .none) ++ [.g (r 5)]) ∧
        Runs (busy core0) u0 ([.g (r 3), .g (r 4)] ++ modeNames (.fwd (r 6)) ++ [.g (r 5)]) ∧
        Runs (busy core0) u0 [.g (r 3), .g (r 4), .g (r 6), .g (r 5)] ∧ Runs (busy core0) u0 [.g (r 3), .g (r 4), .g (r 5)] ∧
        Runs (busy core0) u0 [.g (r 6), .g (r 5)] ∧
        Runs (busy core0) u0 (namesOf (.mjobr u0 (r 5) (r 3) (r 4) 62 0 0 false false 0 0 0 0 0 0))) ∧
      decodeSlot (encode (.wmark u0 (r 5) (r 3) (r 4) 7 0 .co false 1 2 0 0)) =
        .ok (.wmark u0 (r 5) (r 3) (r 4) 7 0 .co false 1 2 0 0) :=
  ⟨⟨at_once_of (by decide +kernel), by decide +kernel⟩,
    ⟨runs_of (by decide +kernel), runs_of (by decide +kernel), runs_of (by decide +kernel), runs_of (by decide +kernel),
      runs_of (by decide +kernel), runs_of (by decide +kernel)⟩, by decide +kernel⟩

/-- What an issued copy-unit command shows: its identifier, its tag cleared and counted, its place and number. -/
def issued (i : Instr) (tag : Nat) (k : CoreSt) : Bool :=
  after i (busy k [(3, 11), (4, 12), (6, 0)]) fun t =>
    rdG (turn t) 5 == BitVec.ofNat 64 (2 ^ 16 + k.nextCp) && (turnCore t).tags.toNat.testBit tag == false &&
      nget (turnCore t).out 0 tag == 1 && (turnCore t).q1.length == k.q1.length + 1 && (turnCore t).nextCp == k.nextCp + 1 &&
      ((turnCore t).q1.getLast?.map fun m => (m.tag, m.opa)) == some (tag, 11)

theorem test_copy_issues : issued (.copy u0 (r 5) (r 3) (r 4) (.plain .none) 63 .co false 1 2 0 0) 63
    { core0 with tags := -1, nextCp := 9, q1 := List.replicate 7 copy0 } = true := by decide +kernel
theorem test_copyv_issues : issued (.copyv u0 (r 5) (r 3) (r 4) (r 6) 0 .co false 1 2 0 0) 0 { core0 with tags := -1 } = true := by
  decide +kernel
theorem test_wmark_issues : issued (.wmark u0 (r 5) (r 3) (r 4) 1 0 .co false 1 2 0 0) 1 { core0 with tags := -1 } = true := by
  decide +kernel
theorem test_mdld_issues : issued (.mdld u0 (r 5) (r 3) (r 4) 2 1 0 0) 2 { core0 with tags := -1 } = true := by decide +kernel
theorem test_cstage_issues : issued (.cstage u0 (r 5) (r 6) 0) 7
    { core0 with sched := { slots := [encode (.wmark u0 (r 1) (r 3) (r 4) 7 0 .co false 1 2 0 0)] } } = true := by decide +kernel
theorem test_mjob_issues : after (.mjob u0 (r 5) (r 3) (r 4) (r 6) 0 0 false false 1 2 0 0 0 0)
    (busy { core0 with nextMat := 65537, q0 := List.replicate 3 job0 } [])
    (fun t => rdG (turn t) 5 == 1 && (turnCore t).q0.length == 4) = true := by decide +kernel
/-- The capability in g7 names engine 511. -/
theorem test_mjobr_issues : after (.mjobr u0 (r 5) (r 3) (r 4) 6 0 0 false false 1 2 0 0 0 0) (busy core0 [(7, 511 <<< 55)])
    (fun t => ((turnCore t).q0.map (·.remote)) == [.onWay 511 (511 * 2 ^ 55)]) = true := by decide +kernel

def cored (k : CoreSt) (g : List (Nat × Word) := []) (v : List (Nat × VWord) := []) : State := { demo g v with cores := [(0, k)] }

/-- TagsAndTables: tags of a mask set and clear, a valid descriptor that R161 refuses, one that is not valid, and a register pair
at the end of the allocation. -/
theorem test_tag_hypotheses :
    (Runs (demo []) u0 [.g (r 3)] ∧ (∀ f ∈ (demo []).pending, f.sid = 1 → f.core = 0 → f.tag = none) ∧
      strandCancelled (demo []) 0 0 = false ∧ (turnCore (cored { core0 with tags := 8 })).tags &&& (8 : BitVec 64) = 8 ∧
      (turnCore (demo [])).tags &&& (8 : BitVec 64) ≠ 8) ∧
      (Runs (demo []) u0 [.v 31] ∧ Runs (demo []) u0 [.v 30] ∧ (31 : Fin 32).val = (30 : Fin 32).val + 1 ∧
        (31 : Fin 32).val < (turnCore (demo [])).vcount) ∧
      ((tdescOf 1).valid = true ∧ tdescBad (tdescOf 1) = true) ∧ (tdescOf 2).valid = false ∧
      ((tdescOf (1 + 2 ^ 120 + 2 ^ 136)).valid = true ∧ tdescBad (tdescOf (1 + 2 ^ 120 + 2 ^ 136)) = false) :=
  ⟨⟨runs_of (by decide +kernel), by decide +kernel⟩, ⟨runs_of (by decide +kernel), runs_of (by decide +kernel), by decide +kernel⟩,
    by decide +kernel⟩

theorem test_twait : after (.twait u0 (r 0) 8) (cored { core0 with tags := 0x18 }) (fun t => (turn t).pc == 128) = true ∧
    after (.twait u0 (r 0) 8) (demo []) (fun t => (turn t).status == .asleep (.twait 8)) = true := by decide +kernel
theorem test_tfind : after (.tfind u0 (r 5) (r 0) (-1)) (cored { core0 with tags := 1 <<< 63 }) (fun t => rdG (turn t) 5 == 63) = true ∧
    after (.tfind u0 (r 5) (r 0) (-1)) (demo []) (fun t => rdG (turn t) 5 == 64) = true := by decide +kernel
theorem test_tclr : after (.tclr u0 (r 0) 9) (cored { core0 with tags := 0x1B }) (fun t => (turnCore t).tags == 0x12) = true := by
  decide +kernel
theorem test_tdset : after (.tdset u0 30 4095) (demo [] [(30, 1)]) (fun t => (turn t).cause == 0x1D1 && (turn t).tval == 4095) = true ∧
    after (.tdset u0 30 4095) (demo [] [(30, 1 + 2 ^ 120), (31, 2 ^ 8)])
      (fun t => nget (getPart t 1).tensors 0 4095 == 1 + 2 ^ 120 + 2 ^ 136) = true := by decide +kernel
theorem test_tdget : after (.tdget u0 30 0) { demo [] with parts := [(1, { part1 with tensors := [(0, 5 + 2 ^ 255)] })] }
    (fun t => rdV (turn t) 30 == 5 && rdV (turn t) 31 == 2 ^ 127) = true := by decide +kernel
theorem test_lset : after (.lset u0 (r 3) true 7 (-1)) (demo [(3, 2 ^ 32)])
    (fun t => (turnCore t).lcp[7] == 0xFFFFFFFF && (turnCore t).lmat[7] == 0) = true := by decide +kernel

def res0 : Result := ⟨1, 5, 0x5000000010000⟩
/-- MatrixRecordsAndWindow: no job; a record with a later job running and a later record; a header no job names; a burst of no
job and of one, on a compute core. -/
theorem test_matrix_hypotheses :
    (Runs (demo []) u0 [.g (r 5)] ∧ (turnCore (demo [])).q0 = [] ∧ (turnCore (demo [])).res = []) ∧
      (res0 ∈ [res0, ⟨1, 7, 0⟩] ∧ (∀ m ∈ [{ job0 with id := 6 }], m.sid = 1 → res0.job ≤ m.id) ∧
        ∀ e ∈ [res0, ⟨1, 7, 0⟩], e.sid = 1 → e ≠ res0 → res0.job < e.job) ∧
      (∀ m ∈ [{ job0 with m := 6 }], m.remote = .no → m.st ≠ .done → m.m % 8 ≠ (7 : BitVec 3).toNat) ∧
      ((turnCore (demo [])).lmat[(0 : BitVec 3).toNat].toNat = 0 ∧
        (turnCore (cored { core0 with lmat := Vector.replicate 8 1 })).lmat[(0 : BitVec 3).toNat].toNat ≠ 0 ∧ isMgmt 0 = false) ∧
      Runs (demo []) u0 [namedGV (.v 31)] :=
  ⟨⟨runs_of (by decide +kernel), by decide +kernel⟩, by decide +kernel, by decide +kernel, by decide +kernel, runs_of (by decide +kernel)⟩

theorem test_mpoll : after (.mpoll u0 (r 5)) (cored { core0 with res := [⟨1, 7, 0⟩, res0], q0 := [{ job0 with id := 6 }] })
      (fun t => rdG (turn t) 5 == 0x5000000010000 && (turnCore t).res == [⟨1, 7, 0⟩]) = true ∧
    after (.mpoll u0 (r 5)) (demo []) (fun t => rdG (turn t) 5 == -1) = true := by decide +kernel
theorem test_mwait : after (.mwait u0 (r 5)) (cored { core0 with res := [res0], q0 := [{ job0 with id := 4 }] })
    (fun t => (turn t).status == .asleep (.mwait 5)) = true := by decide +kernel
theorem test_mclr : after (.mclr u0 7) (cored { core0 with th := Vector.replicate 8 1, q0 := [{ job0 with m := 6 }] })
    (fun t => (turnCore t).th[7] == 0 && (turnCore t).th[6] == 1) = true := by decide +kernel
theorem test_mburst : after (.mburst u0 0) (cored { core0 with lmat := Vector.replicate 8 3 })
    (fun t => (turnCore t).burst == some ⟨3, 0⟩) = true := by decide +kernel
/-- 1.5 + 1.5 in the window, rounded to f32. -/
theorem test_window : after (.addw u0 (.v 1) .f32) (demo [] [(1, 0x3FC000003FC00000)])
    (fun t => after (.rndw u0 (r 5) true) t fun t' => rdG (turn t') 5 == 0x40400000 && (turnCore t').win == WinAcc.clear) = true ∧
    after (.clrw u0) (demo []) (fun t => (turnCore t).win == WinAcc.clear && (turn t).pc == 128) = true := by decide +kernel

/-! ### Tasks -/

/-- The demo with nodes of its own. -/
def noded (ns : List (Nat × Node)) (g : List (Nat × Word) := []) : State :=
  { demo g with parts := [(1, { part1 with nodes := ns, launches := [(1, launch1)], nodeNext := 3 })] }
def open2 : Node := { hpc := 0x620, cnt := 1, lvl := 4 }

theorem no_load_field {s : State} {c : Nat} (h : getField? s (tagOf s c) 0 = none) : LoadCellPlain s c :=
  fun f _ hf _ => by rw [h] at hf; exact absurd hf (by simp)

theorem later_only {s : State} {c l T : Nat} (h : checkTarget s c l T = .later) :
    (∀ code, checkTarget s c l T ≠ .fails code) ∧ ∀ dev, checkTarget s c l T ≠ .ask dev := by
  rw [h]; exact ⟨fun _ => TargetCheck.noConfusion, fun _ => TargetCheck.noConfusion⟩

/-- ForksAndTraps: a live node, room, and a target to be checked later. -/
theorem test_fork_hypotheses :
    (AtOnce (noded [(1, node1)]) ∧ LoadCellPlain (noded [(1, node1)]) 0 ∧ Runs (noded [(1, node1)]) u0 [.g (r 4), .g (r 6), .g (r 3)]) ∧
      (getNode? (noded [(1, node1)]) 1 1 = some node1 ∧ nodeLives node1 = true ∧ node1.cnt + 1 < 2 ^ 32 ∧ roomHead core0 = true ∧
        strandCancelled (noded [(1, node1)]) 0 0 = false) ∧
      (∀ code, checkTarget (noded [(1, node1)]) 0 0 (2 ^ 20 + 32) ≠ .fails code) ∧
      ∀ dev, checkTarget (noded [(1, node1)]) 0 0 (2 ^ 20 + 32) ≠ .ask dev :=
  ⟨⟨at_once_of (by decide +kernel), no_load_field (by decide +kernel), runs_of (by decide +kernel)⟩, by decide +kernel,
    later_only (by decide +kernel)⟩

/-- ForksAndTraps: a target that is no slot position, an absent node, a full deque, a full counter, a node that counts nothing, a clamp not
configured. -/
theorem test_fork_trap_hypotheses :
    checkTarget (noded [(1, node1)]) 0 0 33 = .fails 0x038 ∧ liveNode? (noded [(1, node1)]) 1 1 = some node1 ∧ roomHead core0 = true ∧
      getNode? (noded [(1, { node1 with cnt := 0 })]) 1 (turn (noded [])).node = some { node1 with cnt := 0 } ∧ liveNode? (noded [(1, node1)]) 1 4095 = none ∧
      liveNode? (noded [(1, { node1 with status := .complete })]) 1 1 = none ∧
      roomHead { core0 with deque := List.replicate 32 {}, ring := List.replicate 4096 {} } = false ∧
      2 ^ 32 ≤ ({ node1 with cnt := 2 ^ 32 - 1 } : Node).cnt + 1 ∧ getNode? (noded [(1, node1)]) 1 2 = none ∧
      (nget (getPart (noded []) 1).clamps {} (63 % 64)).kind = 0 := by decide +kernel

theorem test_fork : after (.fork u0 (r 3) (r 4) (r 6) (.pri 7) 0) (noded [(1, node1)] [(3, 1), (4, 2 ^ 20 + 32), (6, 9)])
    (fun t => ((turnCore t).deque.map fun x => (x.pc, x.fp, x.g3)) == [(2 ^ 20 + 32, 9, 1)] &&
      (getNode? t 1 1).map (·.cnt) == some 3) = true := by decide +kernel
theorem test_spawnr : after (.spawnr u0 (r 3) (r 4) (r 6) (r 7) .same 62 0)
    (noded [(1, node1)] [(3, 1), (4, 2 ^ 20 + 32), (6, 10), (7, 20)])
    (fun t => ((turnCore t).deque.map fun x => (x.kind, x.g1, x.g2, x.grain)) == [(.range, 10, 20, 62)]) = true := by decide +kernel
theorem test_fork_traps : after (.fork u0 (r 3) (r 4) (r 6) .same 0) (noded [(1, node1)] [(3, 1), (4, 33)])
      (fun t => (turn t).cause == 0x038) = true ∧
    after (.fork u0 (r 3) (r 4) (r 6) .same 0) (noded [(1, node1)] [(3, 2), (4, 2 ^ 20 + 32)])
      (fun t => (turn t).cause == 0x203 && (turn t).tval == 2) = true := by decide +kernel

/-- JoinYieldExit: nodes at 0 and above 0, room and no room at the tail, nothing of the strand outstanding, a launch node that
falls to 0, and a range. -/
theorem test_join_hypotheses :
    (AtOnce (noded [(1, node1)]) ∧ LoadCellPlain (noded [(1, node1)]) 0 ∧ Runs (noded [(1, node1)]) u0 [.g (r 3)] ∧
      Runs (noded [(1, node1)]) u0 [] ∧ Runs (noded [(1, node1)]) u0 [.g (r 5)]) ∧
      (({ node1 with cnt := 0 } : Node).cnt = 0 ∧ node1.cnt ≠ 0 ∧ roomTail core0 = true ∧
        roomTail { core0 with deque := List.replicate 32 {}, ring := List.replicate 4096 {} } = false) ∧
      (core0.q2 = [] ∧ (noded [(1, node1)]).pending = [] ∧ (turn (noded [(1, node1)])).stage = none ∧ 1 < node1.cnt) ∧
      ((getPart (noded [(1, { node1 with cnt := 1 })]) 1).launches.find? (fun e => e.2.node == 1) = some (1, launch1) ∧
        launch1.st = .running ∧ node1.lvl = 1 ∧ node1.held = [] ∧ nodeLives { node1 with cnt := 1 } = true) :=
  ⟨⟨at_once_of (by decide +kernel), no_load_field (by decide +kernel), runs_of (by decide +kernel), runs_of (by decide +kernel),
    runs_of (by decide +kernel)⟩, by decide +kernel⟩

theorem test_join : after (.join u0 (r 3)) (noded [(1, node1)] [(3, 1)])
    (fun t => !(turn t).live && (getNode? t 1 1).map (fun n => n.held.map (·.pc)) == some [32]) = true := by decide +kernel
theorem test_yield : after (.yield u0) (noded [(1, node1)] [(2, 5)])
    (fun t => !(turn t).live && ((turnCore t).deque.map fun x => (x.pc, x.g2)) == [(128, 5)]) = true := by decide +kernel
theorem test_exit : after (.exit u0) (noded [(1, { node1 with cnt := 1 })])
    (fun t => !(turn t).live && (getLaunch? t 1 1).map (·.st) == some .retiring) = true := by decide +kernel
theorem test_rnext : after (.rnext u0 (r 5)) (as { who [] with kind := .range, rlo := 6, rhi := 7 })
      (fun t => rdG (turn t) 5 == 6 && (turn t).rlo == 7) = true ∧
    after (.rnext u0 (r 5)) (as { who [] with kind := .range, rlo := 7, rhi := 7 })
      (fun t => rdG (turn t) 5 == -1 && (turn t).rlo == 7) = true := by decide +kernel

/-- Page tables in memory that map the first 2^33 bits to themselves: the root at 2^22, the table beneath it at 2^23, its leaf
under key slot 1 with every right. -/
def tables : Memory :=
  Memory.setBits (Memory.setBits [] (2 ^ 22) 128 (1 + 2 ^ 14 * 2 ^ 91)) (2 ^ 23) 128
    (2 + 2 ^ 91 + 2 ^ 89 + 2 ^ 88 + 2 ^ 87 + 2 ^ 86)
def withTables (s : State) (m : Memory) : State :=
  { s with mem := tables ++ m, keys := [(0, (0, 0)), (1, (7, 0))], parts := [(1, { getPart s 1 with root := 2 ^ 22 })] }

/-- A load field at 2^26, with 3 in the cell of core 1. -/
def loaded : State :=
  withTables { demo [] with parts := [(1, { part1 with
    cores := [0, 1]
    fields := [(0, { base := 2 ^ 26, rows := 64, cols := 64, st := .live, tick := 5 })] })] } [(8388612, 5), (8388614, 3)]

theorem test_walk : (match walk loaded 1 (2 ^ 26) with | .hit x => x.phys (2 ^ 26) == 2 ^ 26 && x.wr | _ => false) = true := by
  decide +kernel

def clamp1 : Clamp := { kind := 2, need := 2 }
def jig1 : Jig := { gcount := 8, vcount := 0, spc := 1, pword := 0x1F0001, entry := 32, tvec := 0x620 }
/-- A partition with a loaded kernel, a job node and room for a launch. -/
def launching : State :=
  { demo [(3, 1), (6, 2)] with parts := [(1, { part1 with
      nodes := [(1, node1), (2, open2)], nodeNext := 3, kernels := [(1, { jig := jig1 })], clamps := [(63, clamp1)] })] }

/-- StealClampLaunch: a window with nothing in it and one with work, a configured clamp, a launch that checks and one that does
not, and parents that serve and do not. -/
theorem test_steal_hypotheses :
    (AtOnce launching ∧ Runs launching u0 [.g (r 5)] ∧ Runs launching u0 [.g (r 3), .g (r 4), .g (r 6), .g (r 5)] ∧
      Runs launching u0 [.g (r 3), .g (r 5)] ∧ AtOnce loaded ∧ Runs loaded u0 [.g (r 5)]) ∧
      ((stealChoice (demo []) 0 .box3 0).2.2.2 = none ∧ (stealChoice loaded 0 .box3 0).2.2.2 = some 1) ∧
      (strandCancelled launching 0 0 = false ∧ (nget (getPart launching 1).clamps {} 63).kind ≠ 0) ∧
      (launchCheck launching 1 2 0 = some (0x381, 2) ∧ launchCheck launching 1 1 1 = none ∧ launchCheck launching 1 1 2 = some (0x386, 2)) ∧
      (launchParentOk launching 1 1 = false ∧ launchParentOk launching 1 2 = true ∧ getNode? launching 1 2 = some open2 ∧
        getKernel? launching 1 1 = some { jig := jig1 } ∧
        tenantNodes launching (getPart launching 1).tenant < (getTenant launching (getPart launching 1).tenant).nodeQuota ∧
        nodeStoreRoom launching (getPart launching 1).tenant = true ∧ (3 : Nat) ≠ 2 ∧ open2.cnt + 1 < 2 ^ 32 ∧
        pickNode (getPart launching 1) = some (3, { getPart launching 1 with nodeNext := 4 })) :=
  ⟨⟨at_once_of (by decide +kernel), runs_of (by decide +kernel), runs_of (by decide +kernel), runs_of (by decide +kernel),
    at_once_of (by decide +kernel), runs_of (by decide +kernel)⟩, by decide +kernel⟩

theorem test_steal : after (.steal u0 (r 5) .box3) (demo []) (fun t => rdG (turn t) 5 == 0 && (turn t).pc == 128) = true ∧
    after (.steal u0 (r 5) .box3) loaded (fun t => t.steals == [⟨0, some (0, 1), 1, 1, none⟩]) = true := by decide +kernel
theorem test_clamp : after (.clamp u0 (r 5) (r 0) 63) launching
      (fun t => (turn t).status == .asleep (.clamp 63 5 none) && (getPart t 1).arrivals == [(63, 0, 0, 1)]) = true ∧
    after (.clamp u0 (r 5) (r 0) 62) launching (fun t => (turn t).cause == 0x205 && (turn t).tval == 62) = true := by decide +kernel
theorem test_launch : after (.launch u0 (r 5) (r 3) (r 4) (r 6)) launching
    (fun t => (turn t).status == .asleep (.launch 1 5) && (getNode? t 1 3).map (fun n => (n.lvl, n.parent, n.status, n.hpc)) ==
      some (1, 2, .draining, 0x620) && (getNode? t 1 2).map (·.cnt) == some 2) = true := by decide +kernel

def kids (n m : Node) : State := noded [(1, node1), (2, n), (3, m)] [(3, 3)]
def unit3 : Node := { cnt := 1, parent := 2, lvl := 3 }

/-- LevelNodes: sums that stay, fall to 0, and leave the range; levels above and below; a node drained at 0 under a parent above
1; ended nodes; a cancelled node with nothing under it. -/
theorem test_level_hypotheses :
    (AtOnce (kids open2 unit3) ∧ getNode? (kids open2 unit3) 1 3 = some unit3 ∧ nodeLives unit3 = true ∧
      Runs (kids open2 unit3) u0 [.g (r 3), .g (r 4), .g (r 5)] ∧ Runs (kids open2 unit3) u0 [.g (r 3), .g (r 5)] ∧
      Runs (kids open2 unit3) u0 [.g (r 3)]) ∧
      (((0 : Int) < unit3.cnt + 1 ∧ unit3.cnt + (1 : Int) < 2 ^ 32) ∧ unit3.cnt + (-1 : Int) = 0 ∧ unit3.cnt + (-2 : Int) < 0 ∧
        (2 : Int) ^ 32 ≤ ((2 ^ 32 - 1 : Nat) : Int) + 1) ∧
      (unit3.status = .opened ∧ unit3.cf = false ∧ unit3.lvl ≠ 1 ∧ unit3.held = [] ∧ unit3.lvl ≤ 3 ∧ 2 < unit3.lvl ∧
        unit3.cnt + 1 < 2 ^ 32) ∧
      (tenantNodes (kids open2 unit3) 7 < (getTenant (kids open2 unit3) 7).nodeQuota ∧ nodeStoreRoom (kids open2 unit3) 7 = true ∧
        pickNode { getPart (kids open2 unit3) 1 with nodeNext := 4 } = some (4, { getPart (kids open2 unit3) 1 with nodeNext := 5 }) ∧
        (getTenant { kids open2 unit3 with tenants := [(7, { nodeQuota := 3 })] } 7).nodeQuota ≤
          tenantNodes { kids open2 unit3 with tenants := [(7, { nodeQuota := 3 })] } 7) ∧
      (({ unit3 with status := .draining } : Node).status ≠ .opened ∧ unit3.cnt ≠ 0) ∧
      (({ unit3 with cnt := 0 } : Node).cnt = 0 ∧ unit3.parent ≠ 0 ∧ unit3.parent ≠ 3 ∧
        getNode? (kids { open2 with cnt := 2 } { unit3 with cnt := 0 }) 1 2 = some { open2 with cnt := 2 } ∧
        getNode? (kids { open2 with cnt := 2 } { unit3 with cnt := 0 }) 1 open2.parent = none ∧
        nodeLives { open2 with cnt := 2 } = true ∧ 1 < ({ open2 with cnt := 2 } : Node).cnt) ∧
      (strandCancelled (kids open2 unit3) 0 0 = false ∧ nodeLives { unit3 with status := .cancelled } = false ∧
        sleepersUnder (kids open2 unit3) 1 3 = [] ∧ heldUnder (kids open2 unit3) 1 3 = [] ∧
        ∀ e ∈ (kids open2 unit3).cores, e.2.q1 = []) :=
  ⟨⟨at_once_of (by decide +kernel), by decide +kernel, by decide +kernel, runs_of (by decide +kernel), runs_of (by decide +kernel),
    runs_of (by decide +kernel)⟩, by decide +kernel⟩

theorem test_lvladd_add : after (.lvladdAdd u0 (r 5) (r 3) (r 0) (-1)) (kids open2 unit3)
      (fun t => rdG (turn t) 5 == 0 && (getNode? t 1 3).map (fun n => (n.cnt, n.status)) == some (0, .opened)) = true ∧
    after (.lvladdAdd u0 (r 5) (r 3) (r 0) (-2)) (kids open2 unit3) (fun t => (turn t).cause == 0x206 && (turn t).tval == 3) = true := by
  decide +kernel
theorem test_lvladd_open : after (.lvladdOpen u0 (r 5) (r 3) (r 0) .graph 5)
    { kids open2 unit3 with parts := [(1, { getPart (kids open2 unit3) 1 with nodeNext := 4 })] }
    (fun t => rdG (turn t) 5 == 4 && (getNode? t 1 4).map (fun n => (n.cnt, n.parent, n.lvl)) == some (5, 3, 2) &&
      (getNode? t 1 3).map (·.cnt) == some 2) = true := by decide +kernel
theorem test_lvladd_drain : after (.lvladdDrain u0 (r 5) (r 3) (r 0) 0) (kids { open2 with cnt := 2 } { unit3 with cnt := 0 })
    (fun t => (getNode? t 1 3).map (·.status) == some .complete && (getNode? t 1 2).map (·.cnt) == some 1) = true := by decide +kernel
theorem test_lvlwait : after (.lvlwait u0 (r 5) (r 3)) (kids open2 { unit3 with status := .cancelled })
      (fun t => rdG (turn t) 5 == 3) = true ∧
    after (.lvlwait u0 (r 5) (r 3)) (kids open2 unit3) (fun t => (turn t).status == .asleep (.lvlwait 3 5 none)) = true := by
  decide +kernel
theorem test_cancel : after (.cancel u0 (r 3)) (kids open2 unit3) (fun t => (getNode? t 1 3).map (·.cf) == some true) = true := by
  decide +kernel

/-! ### Delta queues and arrangements -/

def rec1 : DRec := { key := 3, value := 4, mult := -1, epoch := 2 }
def push1 : Push := ⟨1, 0, 1, 1, 1, 31, rec1, 0⟩
def graph2 : Node := { cnt := 1, lvl := 2 }
def queued (q : Queue) (g : List (Nat × Word) := []) (k : CoreSt := core0) : State :=
  { demo g with cores := [(0, k)], parts := [(1, { part1 with
      nodes := [(1, { node1 with parent := 2 }), (2, graph2)], launches := [(1, launch1)], queues := [(31, q)] })] }

/-- DeltaQueues: no queue, a stage queue, a pair that is not allocated, a free place of q2, a ring, a buffer of one record,
neither; and a graph with and without records of its epoch. -/
theorem test_delta_hypotheses :
    (AtOnce (queued { launch := 1 }) ∧ Runs (queued { launch := 1 }) u0 [.g (r 3), .g (r 4), .g (r 6)] ∧
      Runs (queued { launch := 1 }) u0 [.v 31] ∧ Runs (queued { launch := 1 }) u0 [.v 30] ∧ Runs (queued { launch := 1 }) u0 [.g (r 3), .g (r 4)]) ∧
      (getQueue? (queued { launch := 1 }) 1 0 = none ∧ getQueue? (queued { launch := 1 }) 1 31 = some { launch := 1 } ∧
        ({ launch := 1, stagePc := 32 } : Queue).stagePc ≠ 0 ∧ ({ launch := 1 } : Queue).stagePc = 0) ∧
      ((∀ f ∈ (queued { launch := 1 }).pending, f.sid = 1 → f.tag ≠ none ∨ f.job ≠ none) ∧
        ({ core0 with q2 := List.replicate 3 push1 } : CoreSt).q2.length < 4 ∧
        4 ≤ ({ core0 with q2 := List.replicate 4 push1 } : CoreSt).q2.length ∧
        ({ launch := 1, draining := true } : Queue).draining = true ∧ ({ launch := 1 } : Queue).draining = false ∧
        strandCancelled (queued { launch := 1 }) 0 0 = false) ∧
      ((getNode? (queued { launch := 1 }) 1 3 = none ∧ getNode? (queued { launch := 1 }) 1 2 = some graph2 ∧ graph2.lvl = 2) ∧
        (∀ k ∈ (queued { launch := 1 }).cores, k.2.q2 = []) ∧ graphQueues (queued { launch := 1 }) 1 2 = [31] ∧
        (∃ x ∈ [rec1], x.epoch ≤ 2) ∧ ¬ (∃ x ∈ [rec1], x.epoch ≤ 1)) :=
  ⟨⟨at_once_of (by decide +kernel), runs_of (by decide +kernel), runs_of (by decide +kernel), runs_of (by decide +kernel),
    runs_of (by decide +kernel)⟩, by decide +kernel⟩

theorem test_dqpush : after (.dqpush u0 (r 3) (r 4) (r 6) 31) (queued { launch := 1 } [(3, 3), (4, 4), (6, 0x2FFFFFFFF)])
    (fun t => ((turnCore t).q2.map (·.drec)) == [rec1] && (turn t).pc == 128) = true := by decide +kernel
theorem test_dqpop : after (.dqpop u0 30 31) (queued { launch := 1, buf := [(rec1, 0)] })
      (fun t => rdV (turn t) 30 == 0x40000000000000003 && rdV (turn t) 31 == 0x2FFFFFFFF && (getQueue? t 1 31).map (·.buf) == some []) = true ∧
    after (.dqpop u0 31 31) (queued { launch := 1 }) (fun t => (turn t).cause == 0x042 && (turn t).tval == 32) = true := by decide +kernel
theorem test_qwait : after (.qwait u0 (r 3) (r 4)) (queued { launch := 1, ring := [rec1] } [(3, 1), (4, 2)])
      (fun t => (turn t).pc == 128) = true ∧
    after (.qwait u0 (r 3) (r 4)) (queued { launch := 1, ring := [rec1] } [(3, 2), (4, 2)])
      (fun t => (turn t).status == .asleep (.qwait 2 2)) = true := by decide +kernel

def arranged (es : List (Nat × Nat × Int)) (g : List (Nat × Word)) : State :=
  { demo g with parts := [(1, { part1 with arrs := [(15, { launch := 1, entries := es })] })] }

/-- Arrangements: none bound; sums at the ends of the range; a pair that is not held; a full arrangement; the pairs of a key in
order, with room in memory for them. -/
theorem test_arrangement_hypotheses :
    (AtOnce (arranged [] []) ∧ Runs (arranged [] []) u0 [.g (r 3), .g (r 4), .g (r 6), .g (r 5)]) ∧
      (nget? (getPart (arranged [] []) 1).arrs 0 = none ∧ nget? (getPart (arranged [] []) 1).arrs 15 = some { launch := 1, entries := [] }) ∧
      ((2 : Int) ^ 31 ≤ (2 ^ 31 - 1) + 1 ∧ (-1 : Int) < 0 ∧ (-2 : Int) ^ 31 - 1 < -2 ^ 31) ∧
      65536 ≤ (List.replicate 65536 ((1, 1, 1) : Nat × Nat × Int)).length ∧
      ([(4, -1), (5, 2)] : List (Nat × Int)).Pairwise (fun e f => e.1 < f.1) ∧
      ([(4, -1), (5, 2)] : List (Nat × Int)).Perm
        (([(3, 5, 2), (3, 4, -1)].filter fun e : Nat × Nat × Int => e.1 == 3).map fun e => (e.2.1, e.2.2)) ∧
      Here (arranged [] []) (lineParts 3 512 128) false true [(page0, 512, 128)] ∧ Plain (partsOf [(page0, 512, 128)]) ∧
      Apart (arranged [] []) (partsOf [(page0, 512, 128)]) :=
  ⟨⟨at_once_of (by decide +kernel), runs_of (by decide +kernel)⟩, by decide +kernel, by decide +kernel, le_of_eq List.length_replicate.symm, by decide +kernel,
    by decide +kernel, here_of (by decide +kernel), plain_of (by decide +kernel), apart_of (by decide +kernel)⟩

theorem test_arradd : after (.arradd u0 (r 5) (r 3) (r 4) (r 6) 15) (arranged [(3, 4, 1)] [(3, 3), (4, 4), (6, 0xFFFFFFFF)])
      (fun t => rdG (turn t) 5 == 0 && (nget? (getPart t 1).arrs 15).map (·.entries) == some []) = true ∧
    after (.arradd u0 (r 5) (r 3) (r 4) (r 6) 15) (arranged [(3, 4, 2 ^ 31 - 1)] [(3, 3), (4, 4), (6, 1)])
      (fun t => (turn t).cause == 0x283) = true := by decide +kernel
theorem test_arrget_unbound : after (.arrget u0 (r 5) (r 3) (r 4) (r 6) 14) (arranged [] [])
    (fun t => (turn t).cause == 0x285 && (turn t).tval == 14) = true := by decide +kernel

/-! ### Control registers and the system instructions -/

/-- ControlRegisters: any register on a compute core, and PRIVC on a management core. -/
theorem test_register_hypotheses : Runs (demo []) u0 [.g (r 3)] ∧ Runs (onMgmt (demo [])) u0 [.g (r 3)] ∧ isMgmt (onMgmt (demo [])).cur.core = true :=
  ⟨runs_of (by decide +kernel), runs_of (by decide +kernel), by decide +kernel⟩

theorem test_crr : after (.crr u0 (r 5) true .tval) (as { who [] with tval := 7 <<< 64 }) (fun t => rdG (turn t) 5 == 7) = true ∧
    after (.crr u0 (r 5) false .status) (as { who [] with kind := .stage, pri := 5, intrap := true }) (fun t => rdG (turn t) 5 == 0xA9) = true := by
  decide +kernel
theorem test_crw : after (.crw u0 (r 3) false .srstate) (demo [(3, 1 <<< 32)]) (fun t => (turn t).srstate == 1) = true ∧
    after (.crw u0 (r 3) false (.wch 2)) (cored { core0 with wch := Vector.replicate 4 ⟨9, 0, 7, 0, []⟩ } [(3, 5 <<< 32)])
      (fun t => (turnCore t).wch[2] == ⟨9, 5, 0, 1, []⟩) = true := by decide +kernel
theorem test_feat : sets (.feat u0 1 (r 0) 13) 0 0 true = true ∧ sets (.feat u0 1 (r 0) 14) 0 0 false = true := by decide +kernel

def sealing1 (st : CtxSt) (x : Chain) : State :=
  { onMgmt (demo [(3, 5), (4, 9), (6, 1024)]) with
    parts := [(1, { part1 with st := st })], chains := [(9, x)], roots := [(5, (7, 99))], dies := [(0, { tlb := [page0] })] }

/-- SystemInstructions: a page named and all of them, a context that is not parked, one that is, and chains that serve and do
not. -/
theorem test_system_hypotheses :
    (isMgmt (sealing1 .parked {}).cur.core = true ∧ AtOnce (sealing1 .parked {}) ∧ Runs (sealing1 .parked {}) u0 [.g (r 3), .g (r 4)] ∧
      Runs (sealing1 .parked {}) u0 [.g (r 3)] ∧ Runs (sealing1 .parked {}) u0 [.g (r 3), .g (r 4), .g (r 6), .g (r 5)]) ∧
      (gVal (turn (sealing1 .parked {})) (r 4) ≠ 0 ∧ gVal (turn (sealing1 .parked {})) (r 0) = 0) ∧
      ((getPart (sealing1 .active {}) 1).st ≠ .parked ∧ (getPart (sealing1 .active {}) 1).st ≠ .sealed ∧
        (getPart (sealing1 .parked {}) 1).st = .parked) ∧ (getChain (sealing1 .parked {}) 9).st ≠ .held ∧
      ((getChain (sealing1 .parked ⟨.held, 4, 7, none⟩) 9).st = .held ∧ (getChain (sealing1 .parked ⟨.held, 4, 7, none⟩) 9).hw ≠ -1 ∧
        nget? (sealing1 .parked {}).roots 5 = some (7, 99)) :=
  ⟨⟨by decide +kernel, at_once_of (by decide +kernel), runs_of (by decide +kernel), runs_of (by decide +kernel), runs_of (by decide +kernel)⟩,
    by decide +kernel⟩

theorem test_tlbinv : after (.tlbinv u0 (r 0) (r 0) false) (sealing1 .parked {})
    (fun t => (getDie t 0).tlb == [] && (getCore t 0).tlb == [] && (turn t).status == .asleep (.tlbinv 1 (some 0))) = true := by decide +kernel
def group1 : Group := { tag := 1, granule := 2, va := 2 ^ 20, core := 0, src := 0, job := 0, members := [], walking := false, retry := false }
theorem test_replay : after (.replay u0 (r 3)) { onMgmt (demo [(3, 1)]) with dies := [(0, { groups := [group1, { group1 with tag := 2 }] })] }
    (fun t => (getDie t 0).groups.map (·.retry) == [true, false]) = true := by decide +kernel
theorem test_seal : after (.seal u0 (r 5) (r 3) (r 4) (r 6)) (sealing1 .parked {}) (fun t => rdG (turn t) 5 == 3) = true ∧
    after (.seal u0 (r 5) (r 3) (r 4) (r 6)) (sealing1 .parked ⟨.held, 4, 7, none⟩)
      (fun t => (turn t).status == .asleep (.seal 5 1 5 9 1024)) = true := by decide +kernel
theorem test_unseal : after (.unseal u0 (r 5) (r 3) (r 4) (r 6)) (sealing1 .parked {})
    (fun t => (turn t).status == .asleep (.unseal 5 1 5 9 1024)) = true := by decide +kernel

/-! ### Wakes -/

/-- The demo's strand asleep at w, on a core. -/
def asleep (w : Wait) (k : CoreSt := core0) (m : Vector Monitor 4 := Vector.replicate 4 .disarmed) : State :=
  { demo [] with now := 10, cores := [(0, k)], strands := [(0, { who [] with status := .asleep w, mon := m })] }
/-- Whether its strand has been given x in g5 and has gone on. -/
def woken (i : Instr) (s : State) (x : Word) : Bool :=
  after i s fun t => (getStrand t 0 0).status == .ready && (getStrand t 0 0).pc == 128 && rdG (getStrand t 0 0) 5 == x

/-- Wakes: WAITA with monitors 1 and 3 fired, and one whose time is up to the tick. -/
theorem test_waita_wakes : Waits (asleep (.waita 3 7 5) core0 (mons .fired .fired)) 0 0 (.waita 3 7 5) ∧
    ((mons .fired .fired)[(1 : Fin 4)] = .fired ∧ ∀ j : Fin 4, j < 1 → (mons .fired .fired)[j] ≠ .fired) ∧
    ((∀ i : Fin 4, (Vector.replicate 4 Monitor.disarmed)[i] ≠ .fired) ∧ (7 : Nat) ≠ 0 ∧ 3 + 7 ≤ (asleep (.waita 3 7 5)).now) ∧
    woken (.waitaWake 0 0) (asleep (.waita 3 7 5) core0 (mons .fired .fired)) 1 = true ∧
    woken (.waitaTimeout 0 0) (asleep (.waita 3 7 5)) 4 = true :=
  ⟨waits_of (by decide +kernel), by decide +kernel⟩

theorem test_twait_wakes : Waits (asleep (.twait 8) { core0 with tags := 8 }) 0 0 (.twait 8) ∧ (8 : BitVec 64).toNat &&& 8 = 8 ∧
    woken (.twaitWake 0 0) (asleep (.twait 8) { core0 with tags := 8 }) 0 = true := ⟨waits_of (by decide +kernel), by decide +kernel⟩

theorem test_mwait_wakes : Waits (asleep (.mwait 5) { core0 with res := [res0] }) 0 0 (.mwait 5) ∧ res0 ∈ [res0] ∧ res0.sid = 1 ∧
    woken (.mwaitWake 0 0) (asleep (.mwait 5) { core0 with res := [res0] }) 0x5000000010000 = true :=
  ⟨waits_of (by decide +kernel), by decide +kernel⟩

theorem test_place_wakes :
    (Waits (asleep (.commandPlace job0 5)) 0 0 (.commandPlace job0 5) ∧ Quiet (asleep (.commandPlace job0 5)) 0 1 ∧
      Waits (asleep (.commandPlace copy0 5)) 0 0 (.commandPlace copy0 5) ∧
      Waits (asleep (.pushPlace push1)) 0 0 (.pushPlace push1)) ∧
    (job0.core = 0 ∧ job0.kind.matrix = true ∧ core0.q0.length < 4 ∧ copy0.kind.matrix = false ∧ core0.q1.length < 8 ∧ core0.q2.length < 4 ∧
      launchNodeOf (asleep (.commandPlace copy0 5)) 0 = none ∧ getQueue? (asleep (.pushPlace push1)) 1 31 = none) ∧
    woken (.commandPlaceWake 0 0) (asleep (.commandPlace job0 5) { core0 with nextMat := 3 }) 3 = true ∧
    woken (.commandPlaceWake 0 0) (asleep (.commandPlace copy0 5)) 0x10000 = true ∧
    woken (.commandPlaceWake 0 0) (asleep (.pushPlace push1)) 0 = true :=
  ⟨⟨waits_of (by decide +kernel), quiet_of (by decide +kernel), waits_of (by decide +kernel), waits_of (by decide +kernel)⟩, by decide +kernel⟩

/-- A pool load that waited at bits 0 to 8 of a channel whose first 8 bits are filled by now. -/
def waitedLoad : MemReq := ⟨.load 0 8 false (.g 5), .rlx, .pa, true, false, false⟩
theorem test_watermark_wakes : Waits (asleep (.watermark waitedLoad) { core0 with wch := Vector.replicate 4 { len := 16, fill := 8 } }) 0 0 (.watermark waitedLoad) ∧
    (poolFault core0 0 8 = none ∧ watermarkStalls { core0 with wch := Vector.replicate 4 { len := 16, fill := 8 } } 0 8 = false ∧
      watermarkStalls { core0 with wch := Vector.replicate 4 { len := 16, fill := 7 } } 0 8 = true) ∧
    woken (.watermarkStallEnd 0 0) (asleep (.watermark waitedLoad) { core0 with wch := Vector.replicate 4 { len := 16, fill := 8 }, pool := [(0, 9)] }) 9 = true :=
  ⟨waits_of (by decide +kernel), by decide +kernel⟩

theorem test_node_wakes : Waits (asleep (.lvlwait 3 5 (some 2))) 0 0 (.lvlwait 3 5 (some 2)) ∧
    Waits (asleep (.clamp 3 5 (some 7))) 0 0 (.clamp 3 5 (some 7)) ∧ (getPart (asleep (.clamp 3 5 (some 7))) 1).fields = [] ∧
    woken (.lvlwaitWake 0 0) (asleep (.lvlwait 3 5 (some 2))) 2 = true ∧ woken (.clampWake 0 0) (asleep (.clamp 3 5 (some 7))) 7 = true :=
  ⟨waits_of (by decide +kernel), waits_of (by decide +kernel), by decide +kernel⟩

def queuedAsleep (w : Wait) (q : Queue) : State := { queued q with strands := [(0, { who [] with status := .asleep w })] }
theorem test_queue_wakes :
    (Waits (queuedAsleep (.dqpop 31 30) { launch := 1, ring := [rec1] }) 0 0 (.dqpop 31 30) ∧
      getQueue? (queuedAsleep (.dqpop 31 30) { launch := 1, ring := [rec1] }) 1 31 = some { launch := 1, ring := [rec1] }) ∧
    (Waits (queuedAsleep (.qwait 2 1) { launch := 1, ring := [rec1] }) 0 0 (.qwait 2 1) ∧
      queueQuiet { launch := 1, ring := [rec1] } 1 = true ∧ queueQuiet { launch := 1, ring := [rec1] } 2 = false) ∧
    after (.dqpopWake 0 0) (queuedAsleep (.dqpop 31 30) { launch := 1, ring := [rec1] })
      (fun t => (rdV (getStrand t 0 0) 31).toNat == 0x2FFFFFFFF && (getStrand t 0 0).pc == 128) = true ∧
    woken (.qwaitWake 0 0) (queuedAsleep (.qwait 2 1) { launch := 1, ring := [rec1] }) 0 = true :=
  ⟨⟨waits_of (by decide +kernel), by decide +kernel⟩, ⟨waits_of (by decide +kernel), by decide +kernel⟩, by decide +kernel⟩

theorem test_tlbinv_done : Waits (asleep (.tlbinv 1 none)) 0 0 (.tlbinv 1 none) ∧
    (∀ x ∈ (asleep (.tlbinv 1 none)).cores, tagOf (asleep (.tlbinv 1 none)) x.1 = 1 → x.2.requests = [] ∧ x.2.reds = []) ∧
    (asleep (.tlbinv 1 none)).peers = [] ∧ woken (.tlbinvDone 0 0) (asleep (.tlbinv 1 none)) 0 = true := ⟨waits_of (by decide +kernel), by decide +kernel⟩

/-! ### Memory and translation -/

def place64 : Part := ⟨2 ^ 19 + 64, 8, 0, 2 ^ 21⟩
def read64 : Req := { slot := 0, sid := 1, ea := 64, parts := [place64], op := .read 8 true (.g 5) [none], unPage := false }
def write64 : Req := { read64 with op := .write 8 [0x1FF] false }
/-- Both parts of an access that a line boundary cuts. -/
def both : List Part := [⟨2 ^ 19 + 508, 4, 0, 2 ^ 21⟩, ⟨2 ^ 19 + 512, 4, 0, 2 ^ 21⟩]
def readBoth : Req := { read64 with ea := 508, parts := both, op := .read 8 false (.g 5) [none, none] }
def writeBoth : Req := { readBoth with op := .write 8 [9, 10] false }
def red64 : Req := { read64 with op := .atomic (.amo (.int .n8 .add) 3) .none }

/-- MemoryAndTranslation: reads and writes of one part and of two in flight, and a RED; replies in the inbox; a line fetched again,
from memory and from a peer. -/
theorem test_home_slice_hypotheses :
    (({ core0 with requests := [read64] } : CoreSt).requests[0]? = some read64 ∧ read64.op = .read 8 true (.g 5) [none] ∧
      write64.op = .write 8 [0x1FF] false ∧ red64.op = .atomic (.amo (.int .n8 .add) 3) .none ∧ red64.parts = [place64]) ∧
      (Plain write64.parts ∧ Apart (demo []) write64.parts ∧ Plain both) ∧
      (readBoth.op = .read 8 false (.g 5) [none, none] ∧ readBoth.parts.length = 2 ∧ writeBoth.op = .write 8 [9, 10] false ∧
        (List.range 2).filter (fun j => [none, some 3][j]? == some (none : Option Nat)) = [0] ∧ (demo []).peers = []) ∧
      Waits (asleep .access) 0 0 .access ∧ trapEnters (who []) 0x141 = true ∧
      (Waits (asleep (.refetch 0)) 0 0 (.refetch 0) ∧ lineSource (asleep (.refetch 0)) 0 0 = .here 0 ∧ parityOk 0 = true ∧
        core0.icache.length < 128 ∧
        lineSource { asleep (.refetch 0) with mem := [(65541, 1)] } 0 0 = .here (2 ^ 40) ∧ parityOk (2 ^ 40) = false) ∧
      lineSource { asleep (.refetch 0) with cores := onPeer9.cores, ports := onPeer9.ports } 0 0 = .peer 9 :=
  ⟨by decide +kernel, ⟨plain_of (by decide +kernel), apart_of (by decide +kernel), plain_of (by decide +kernel)⟩, by decide +kernel,
    waits_of (by decide +kernel), by decide +kernel, ⟨waits_of (by decide +kernel), by decide +kernel⟩, by decide +kernel⟩

theorem test_home_slice_error : after (.homeSliceAccess 0 0 true) (cored { core0 with requests := [read64] })
    (fun t => (getCore t 0).requests == [] && (getCore t 0).inbox == [.trap 0 1 0x141 64]) = true := by decide +kernel
theorem test_home_slice_write : after (.homeSliceAccess 0 0 true) (cored { core0 with requests := [write64] })
    (fun t => t.mem.read 65544 == 0xFF && t.mem.read 65545 == 0 && (getCore t 0).inbox == []) = true := by decide +kernel
theorem test_red_perform : after (.redPerform 0 0 false) { cored { core0 with reds := [red64] } with mem := [(65544, 0xFE)], leases := [(1024, 0)] }
      (fun t => t.mem.read 65544 == 1) = true ∧
    after (.redPerform 0 0 true) (cored { core0 with reds := [red64] }) (fun t => (getCore t 0).reds == [red64] && t.mem == []) = true := by
  decide +kernel
theorem test_load_return : woken (.loadReturn 0 0) (asleep .access { core0 with inbox := [.value 0 1 (.g 5) 9] }) 9 = true ∧
    after (.loadReturn 0 0) (asleep .access { core0 with inbox := [.trap 0 1 0x141 64] })
      (fun t => (getStrand t 0 0).cause == 0x141 && (getStrand t 0 0).pc == 544) = true := by decide +kernel
theorem test_line_refetch : after (.lineParityRefetch 0 0) { asleep (.refetch 0) with mem := [(65541, 1)] } (fun t => (getStrand t 0 0).cause == 0x140) = true := by
  decide +kernel

/-- A strand that waits for the page at 2^20 in group 0, under page tables or without them. -/
def missed : MemReq := ⟨.load (2 ^ 20) 8 false (.g 5), .rlx, .pa, false, false, false⟩
def group2 : Group := { group1 with members := [.strand 0 0 1], walking := true }
def missing (g : Group) (m : Memory) : State :=
  { asleep (.translate missed) with
    mem := m, keys := [(0, (0, 0)), (1, (7, 0))], dies := [(0, { groups := [g] })]
    parts := [(1, { part1 with root := 2 ^ 22 })] }

/-- MemoryAndTranslation: walks that miss, hit and refuse; a miss that waits for its entry; error counts below and at 8. -/
theorem test_walk_hypotheses :
    (walk (missing group2 []) 1 (2 ^ 20) = .miss 3 false ∧ (getPart (missing group2 []) 1).fbuf.nrec < 8 ∧
      (match walk (missing group2 tables) 1 (2 ^ 20) with | .hit _ => true | _ => false) = true ∧
      walk (missing group2 [(524288, 3)]) 1 (2 ^ 20) = .refused) ∧
      (group2.members = [.strand 0 0 (getStrand (missing group2 []) 0 0).sid] ∧ (getStrand (missing group2 []) 0 0).live = true ∧
        (getStrand (missing group2 []) 0 0).status = .asleep (.translate missed)) ∧
      (firstOfTenant (missing group2 []) 0 0 group1 = true ∧ entryFree (missing group2 []) 0 1 = true ∧
        (getDie (missing group2 []) 0).waiting = [] ∧ ({ group2 with held := true } : Group).held = true) ∧
      (group2.walking = true ∧ group2.retry = false) ∧
      (findCmd (busy { core0 with q1 := [{ copy0 with stalled := true }] }) 0 false 0 = some { copy0 with stalled := true } ∧
        copy0.kind.matrix = false) ∧
      (nget ({ demo [] with corrected := [(0, 7)] } : State).corrected 0 0 + 1 = 8 ∧ nget (demo []).corrected 0 0 + 1 ≠ 8) := by decide +kernel

theorem test_page_walk_complete :
    after (.pageWalkComplete 0 0 none) (missing group2 [])
      (fun t => (getPart t 1).fbuf.nrec == 1 && (getDie t 0).groups == [{ group2 with walking := false, held := true }]) = true ∧
    after (.pageWalkComplete 0 0 none) (missing group2 [(524288, 3)]) (fun t => (getStrand t 0 0).cause == 0x0C1 && (getDie t 0).groups == []) = true := by
  decide +kernel
theorem test_retry_walk : after (.retryWalk 0 0 none) (missing { group2 with walking := false, retry := true } (tables ++ [(2 ^ 21, 7)]))
    (fun t => rdG (getStrand t 0 0) 5 == 0 && (getStrand t 0 0).pc == 128 && (getDie t 0).groups == []) = true := by decide +kernel
theorem test_group_open_deferred : after (.groupOpenDeferred 0 0) { demo [] with dies := [(0, { waiting := [group1] })] }
    (fun t => getDie t 0 == { groups := [{ group1 with walking := true, held := true }] }) = true := by decide +kernel
def recorded : FaultBuf := { nrec := 8, drop := true, lost := 2, seq := 10 }
theorem test_fault_buffer : after (.faultBufferClr 1) { demo [] with parts := [(1, { part1 with fbuf := recorded })] }
      (fun t => (getPart t 1).fbuf == { recorded with nrec := 0, lost := 0 }) = true ∧
    after (.faultBufferDropClear 1) { demo [] with parts := [(1, { part1 with fbuf := recorded })] }
      (fun t => (getPart t 1).fbuf == { recorded with drop := false }) = true := by decide +kernel
theorem test_error_log : after (.errorLogEntry 3 5 false) { demo [] with corrected := [(0, 7)] }
      (fun t => (getDie t 3).log.nrec == 1 && nget t.corrected 0 0 == 8) = true ∧
    after (.errorLogEntry 3 5 false) (demo []) (fun t => (getDie t 3).log.nrec == 0 && nget t.corrected 0 0 == 1) = true := by decide +kernel

/-! ### Engines -/

/-- A cluster with one job, or one copy, that is ready. -/
def engined (q0 q1 : List Cmd) (x : Cluster := {}) (d : Die := { grant := 1000000 }) : State :=
  { busy { core0 with q0 := q0, q1 := q1 } with now := 65536 * 8, clusters := [(0, x)], dies := [(0, d)] }
def ready (m : Cmd) : Cmd := { m with ready := true }

/-- EngineScheduling: the first of one ready command, a schedule entry whose turn has come, one that waits a level, a job that is
owed its ramp, a burst idle for 2,000 ticks, an idle ramp. -/
theorem test_scheduling_hypotheses :
    (engineOn (engined [ready job0] []) 0 = true ∧ ready job0 ∈ readyCmds (engined [ready job0] []) 0 true ∧
      (∀ m' ∈ readyCmds (engined [ready job0] []) 0 true, m' ≠ ready job0 → runsBefore 0 (ready job0) m' = true) ∧
      budgetPasses (engined [ready job0] []) 0 (ready job0) = true) ∧
      (ready copy0 ∈ readyCmds (engined [] [ready copy0]) 0 false ∧ nodeCancelled (engined [] [ready copy0]) 1 1 = false ∧
        (1 - 1) * 1 + 0 = ({} : Schedule).started ∧
        { ready copy0 with entry := some (0, 1) } ∈
          readyCmds { engined [] [{ ready copy0 with entry := some (0, 1) }] with cores := [(0, { core0 with
            q1 := [{ ready copy0 with entry := some (0, 1) }], sched := { slots := [0] } })] } 0 false) ∧
      ((ready job0).st = .held ∧ (ready job0).aged < 7 ∧ (ready job0).agedAt + 65536 ≤ (engined [] []).now) ∧
      (readyCmds (engined [{ ready job0 with failSince := some 0 }] []) 0 true = [{ ready job0 with failSince := some 0 }] ∧
        owedRamp { engined [] [] with power := { lastDivision := 65536 } } { ready job0 with failSince := some 0 } = true) ∧
      engineBusy (engined [] []) 0 = false := by decide +kernel

theorem test_command_aging : after (.commandAging 0 true 0) (engined [ready job0] [])
      (fun t => ((getCore t 0).q0.map fun m => (m.aged, m.agedAt)) == [(1, 65536)]) = true ∧
    after (.commandAging 0 false 0) (engined [] [ready copy0]) (fun t => ((getCore t 0).q1.map (·.aged)) == [1]) = true := by
  decide +kernel
theorem test_budget_reserve : after (.budgetReserve 0)
    { engined [{ ready job0 with failSince := some 0 }] [] with power := { lastDivision := 65536 } }
    (fun t => ((getCore t 0).q0.map (·.prog.reserved)) == [true]) = true := by decide +kernel
theorem test_burst_timeout : after (.mburstTimeout 0)
    { cored { core0 with burst := some ⟨3, 100⟩ } with now := 2100 } (fun t => (getCore t 0).burst == none) = true := by decide +kernel
theorem test_ramp_down : after (.rampDown 0) (engined [] [] { rampClass := some 3 }) (fun t => (getCluster t 0).rampClass == none) = true := by
  decide +kernel

/-! ### Copies and jobs -/

/-- A tensor of one element of format code 3 in core 0's pool. -/
def poolTensor (base : Nat) : TDesc := { base := base, rstr := 64, rows := 1, cols := 16, space := 1, fmt := 3, valid := true }
def copy1 : Cmd := { copy0 with st := .running, prog := { started := true }, vlm := 1, vln := 1, da := poolTensor 0, db := poolTensor 512 }
def copying (m : Cmd) (now : Nat := 0) : State :=
  { busy { core0 with q1 := [m], out := [(0, 1)], pool := [(0, 0xA5)] } with now := now, clusters := [(0, { runCopy := some (0, 0) })] }

/-- CopySteps: a command with an invalid descriptor, one whose first element is its last, a forwarding chain before its
reservations and when their time is up, and one that has ended. -/
theorem test_copy_hypotheses :
    ((getCluster (copying copy1) 0).runCopy = some (0, 0) ∧ findCmd (copying copy1) 0 false 0 = some copy1 ∧ copy1.kind.matrix = false ∧
      cmdGoes copy1 = true) ∧
      (copyFault (copying { copy1 with prog := {}, db := {} }) { copy1 with prog := {}, db := {} } = some 0x1C0 ∧
        cmbOf copy1 = 0 ∧ isFwd copy1 = false ∧ copy1.da.space = 1 ∧ copy1.da.fmt < 16 ∧
        tensorCore (copying copy1) 0 copy1.da = some 0 ∧ tensorCore (copying copy1) 0 copy1.db = some 0) ∧
      (isFwd { copy1 with m := 0x2000, prog := { started := true, reserveFrom := some 3 } } = true ∧ 3 + 2048 ≤ (copying copy1 2051).now ∧
        (copying copy1 2051).now ≤ 3 + 2048) ∧
      (endedCopy (copying { copy1 with prog := { started := true, ended := true } }) 0 =
          some { copy1 with prog := { started := true, ended := true } } ∧
        getLaunch? (copying copy1) 1 1 = some launch1 ∧ getNode? (copying copy1) 1 1 = some node1 ∧ nodeLives node1 = true ∧
        1 < node1.cnt) := by decide +kernel

theorem test_copy_step_fault : after (.copyStep 0 ⟨none, false⟩) (copying { copy1 with prog := {}, db := {} })
    (fun t => ((getCore t 0).q1.map (·.prog.fault)) == [some (0x1C0, 0, 0)]) = true := by decide +kernel
theorem test_copy_step : after (.copyStep 0 ⟨none, false⟩) (copying copy1)
    (fun t => (getCore t 0).pool.read 64 == 0xA5 && ((getCore t 0).q1.map (·.prog.ended)) == [true]) = true := by decide +kernel
theorem test_forward : after (.forwardReservation 0) (copying { copy1 with m := 0x2000, prog := { started := true, reserveFrom := some 3 } } 2051)
      (fun t => ((getCore t 0).q1.map (·.prog.reserved)) == [true]) = true ∧
    after (.forwardReservationTimeout 0) (copying { copy1 with m := 0x2000, prog := { started := true, reserveFrom := some 3 } } 2051)
      (fun t => ((getCore t 0).q1.map (·.prog.fault)) == [some (0x1C8, 0, 0)]) = true := by decide +kernel
theorem test_copy_complete : after (.copyComplete 0) (copying { copy1 with tag := 0, prog := { started := true, ended := true } })
    (fun t => (getCore t 0).tags == 1 && (getCore t 0).q1 == [] && (getNode? t 1 1).map (·.cnt) == some 1) = true := by decide +kernel

/-- A job of one group of sixteen on formats of code 3: A in the pool, B in the B store, the tile at the accumulator. -/
def job1 : Cmd :=
  { job0 with st := .running, prog := { started := true }, vlm := 1, vln := 1, vlk := 16, opc := 2 ^ 19
              da := poolTensor 0, db := { base := 0, rows := 16, cols := 1, space := 2, fmt := 3, valid := true } }
def working (m : Cmd) (k : CoreSt := core0) : State :=
  { busy { k with q0 := [m] } with clusters := [(0, { runMat := some (0, 0) })] }
/-- A capability for partition 1 to run mac jobs at engine 5 in epoch 0, with its CHK. -/
def cap5 : Nat := let hi := 5 * 2 ^ 23 + 2 ^ 17 + 2 ^ 13; hi * 2 ^ 32 + capCheck 0 (hi * 2 ^ 32)

/-- MatrixSteps: a job with an invalid descriptor, one whose first group is its last, one that has ended with room for its record
and without, a record in DONE, remote jobs whose capability holds and does not, and one that waits for a place. -/
theorem test_job_hypotheses :
    (job1.core = 0 ∧ job1.kind.matrix = true ∧ (getCluster (working job1) 0).runMat = some (0, 0) ∧
      findCmd (working job1) 0 true 0 = some job1 ∧ cmdGoes job1 = true) ∧
      (matrixFault (working { job1 with prog := {}, db := {} }) { job1 with prog := {}, db := {} } = some 0x1C0 ∧
        isSparse job1 = false ∧ job1.vlk = groupSize job1) ∧
      (endedJob (working { job1 with prog := { ended := true } }) 0 = some { job1 with prog := { ended := true } } ∧
        sidAlive (working job1) job1.sid = true ∧ 4 ≤ (List.replicate 4 res0).length) ∧
      ((2 ^ 49 * 63) / 2 ^ 49 % 2 ^ 6 ≠ tagOf (working job1) 0) ∧
      ((getCluster { working job1 with clusters := [(0, { remoteQ := [(0, 0)], remotePlaces := List.replicate 7 (1, 1) })] } 0).remotePlaces.length < 8) := by
  decide +kernel

theorem test_capability_holds : capOk (working { job1 with remote := .onWay 5 cap5 }) { job1 with remote := .onWay 5 cap5 } 5 cap5 = true := by
  decide +kernel

theorem test_matrix_step_fault : after (.matrixStep 0 none) (working { job1 with prog := {}, db := {} })
    (fun t => ((getCore t 0).q0.map (·.prog.fault)) == [some (0x1C0, 0, 0)] && (getCluster t 0).runMat == none) = true := by decide +kernel
/-- One product of e4m3 ones in the first of sixteen places. -/
theorem test_matrix_step : after (.matrixStep 0 none)
    { working job1 { core0 with pool := [(0, 0x38)] } with clusters := [(0, { runMat := some (0, 0), bstore := [(0, 0x38)] })] }
    (fun t => (getCore t 0).pool.bits (2 ^ 19) 32 == 0x3F800000 && ((getCore t 0).q0.map (·.prog.ended)) == [true]) = true := by
  decide +kernel
theorem test_job_complete : after (.matrixJobComplete 0) (working { job1 with id := 0, prog := { ended := true } } { core0 with th := Vector.replicate 8 3 })
    (fun t => (getCore t 0).q0 == [] && (getCore t 0).res == [⟨1, 0, 3 * 2 ^ 16⟩]) = true := by decide +kernel
theorem test_result_enters : after (.resultRecordEnter 0) (cored { core0 with doneQ := [res0] })
    (fun t => (getCore t 0).doneQ == [] && (getCore t 0).res == [res0]) = true := by decide +kernel
theorem test_remote_arrival : after (.mjobrArrival 0 0) (working { job1 with remote := .onWay 5 0 })
      (fun t => (getCore t 0).res == [⟨1, 0, 1⟩]) = true ∧
    after (.mjobrArrival 0 0) (working { job1 with remote := .onWay 5 cap5 })
      (fun t => (getCluster t 5).remoteQ == [(0, 0)] && ((getCore t 0).q0.map (·.remote)) == [.waiting 5 cap5]) = true := by decide +kernel
theorem test_remote_place : after (.remotePlaceGrant 0)
    { working { job1 with remote := .waiting 0 cap5 } with clusters := [(0, { remoteQ := [(0, 0)] })] }
    (fun t => getCluster t 0 == { remotePlaces := [(0, 0)] } && ((getCore t 0).q0.map (·.ready)) == [true]) = true := by decide +kernel

/-! ### Tasks -/

def recA : Rec := { pc := 2 ^ 20 + 32, fp := 1, g1 := 7, node := 1, kidx := 1, pri := 2, sid := 9 }
def decked (k : CoreSt) : State := { busy k with now := 65536 }

/-- TaskSteps: a record with a free slot, one that waits a level, an idle core with work beside it, requests with and without a
record to hand over, and replies. -/
theorem test_task_hypotheses :
    (freeSlot (decked { core0 with deque := [recA], spc := 2 }) 0 = some 1 ∧ nodeCancelled (decked core0) 1 recA.node = false ∧
      runningLaunch (decked core0) 0 = true) ∧ (recA.pri < 7 ∧ recA.agedAt + 65536 ≤ (decked core0).now) ∧
      (freeSlot { loaded with cores := [(0, { core0 with spc := 2 })] } 0 = some 1 ∧
        (stealChoice loaded 0 .box5 (strandNumber loaded 0 1 % 25)).2.2.2 = some 1) ∧
      (tailRecord core0 1 = none ∧ splittableSlot (decked core0) 0 1 = none ∧
        tailRecord { core0 with deque := [recA] } 1 = some recA ∧ recA.kind ≠ .range) := by decide +kernel

theorem test_slot_fill : after (.slotFill 0) (decked { core0 with deque := [recA], spc := 2, srseed := 1 })
    (fun t => let u := getStrand t 0 1
      u.live && u.pc == 2 ^ 20 + 32 && rdG u 1 == 7 && u.srstate == 1 && u.pri == 3 && (getCore t 0).deque == []) = true := by decide +kernel
theorem test_record_aging : after (.recordAging 0 0) (decked { core0 with deque := [recA] })
    (fun t => (getCore t 0).deque == [{ recA with pri := 3, agedAt := 65536 }]) = true := by decide +kernel
theorem test_implicit_steal : after (.implicitSteal 0)
    { loaded with cores := [(0, { core0 with spc := 2 })], parts := [(1, { getPart loaded 1 with launches := [(1, launch1)] })] }
    (fun t => t.steals == [⟨0, none, 1, 1, none⟩]) = true := by decide +kernel
def stealing0 (r : Option (Nat × Option Rec)) (k : CoreSt) : State :=
  { decked k with steals := [⟨0, none, 0, 1, r⟩] }
theorem test_steal_serve : after (.stealRequestServe 0) (stealing0 none { core0 with deque := [recA] })
      (fun t => t.steals == [⟨0, none, 0, 1, some (1, none)⟩] && (getCore t 0).deque == [{ recA with pri := 3, agedAt := 65536 }]) = true ∧
    after (.stealRequestServe 0) (stealing0 none core0) (fun t => t.steals == [⟨0, none, 0, 1, some (3, none)⟩]) = true := by decide +kernel
theorem test_steal_reply : after (.stealReply 0) (stealing0 (some (1, none)) { core0 with stealing := true })
      (fun t => !(getCore t 0).stealing && t.steals == []) = true ∧
    woken (.stealReply 0) { asleep (.steal 5 1 2 3) with steals := [⟨0, some (0, 1), 0, 1, some (3, none)⟩] } 0x0003000100020003 = true := by
  decide +kernel

def range1 : Rec := { recA with kind := .range, g1 := 0, g2 := 100, grain := 0 }
/-- TaskSteps: a range of a hundred at the tail that splits, and a parked thief. -/
theorem test_split_hypotheses :
    (let s := stealing0 none { core0 with deque := [range1] }
     (getCore s 0).parked = false ∧ roomHead (getCore s 0) = true ∧ tailRecord (getCore s 0) 1 = some range1 ∧
       nodeCancelled s (tagOf s 0) range1.node = false ∧ 2 * 2 ^ range1.grain ≤ range1.g2.toNat - range1.g1.toNat ∧
       getNode? s (tagOf s 0) range1.node = some node1 ∧ node1.cnt + 1 < 2 ^ 32 ∧ (getCore s 0).ring = []) ∧
      (getCore (stealing0 (some (3, none)) { core0 with parked := true }) 0).parked = true := by decide +kernel
theorem test_split : after (.stealRequestServe 0) (stealing0 none { core0 with deque := [range1] })
    (fun t => (t.steals.map (·.reply)) == [some (2, none)] &&
      ((getCore t 0).deque.map fun x => (x.g1, x.g2)) == [(50, 100), (0, 50)] && (getNode? t 1 1).map (·.cnt) == some 3) = true := by decide +kernel
theorem test_parked_thief : after (.stealReply 0) (stealing0 (some (3, none)) { core0 with parked := true })
    (fun t => (getCore t 0).inbox == [.steal none 3 none] && t.steals == []) = true := by decide +kernel

/-- TaskSteps: records that wait for room, a parent whose flag is set, a strand passed over for 4,096 ticks, pushes that add and
cancel, buffers whose time is up or that wait for room, and a ring of one epoch. -/
theorem test_task_hypotheses_nodes :
    (getNode? (noded [(1, { node1 with room := [(0, recA)], handlers := [(0, recA)] })]) 1 1 =
      some { node1 with room := [(0, recA)], handlers := [(0, recA)] } ∧ core0.deque.length < 32 ∧ core0.ring.length < 4096) ∧
      (nodeCancelled (kids { open2 with cf := true } unit3) 1 unit3.parent = true ∧ unit3.cnt ≠ 0 ∧
        sleepersUnder (kids { open2 with cf := true } unit3) 1 3 = [] ∧ heldUnder (kids { open2 with cf := true } unit3) 1 3 = []) ∧
      (4096 ≤ ({ who [] with eligible := 4096 } : Strand).eligible ∧ node1.ncause = 0) ∧
      (firstPush (queued { launch := 1 } [] { core0 with q2 := [push1] }) push1 = true ∧ rec1.mult ≠ 0 ∧
        sameRecord { rec1 with mult := 1 } rec1 = true ∧ (1 : Int) + rec1.mult = 0) ∧
      (0 + 4096 ≤ (decked core0).now ∧ [rec1].length + [(rec1, 0)].length ≤ 65536) ∧
      (launch1.cores[31 % launch1.cores.length]? = some 0 ∧ [rec1].map (·.epoch) = List.replicate [rec1].length 2 ∧
        freeArea { launch := 1, areas := [0, 0, 0, 0], busy := [0, 1, 2] } = some 3 ∧ ∀ z ∈ [2, 2, 2], z = 2) := by decide +kernel

theorem test_held_record_push : after (.heldRecordPush 1 1) (noded [(1, { node1 with room := [(0, recA)] })])
    (fun t => (getCore t 0).deque == [recA] && (getNode? t 1 1).map (·.room) == some []) = true := by decide +kernel
theorem test_handler_record_push : after (.handlerRecordPush 1 1) (noded [(1, { node1 with handlers := [(0, { recA with checkTgt := true })] })])
    (fun t => ((getCore t 0).deque.map (·.pc)) == [2 ^ 20 + 32] && (getNode? t 1 1).map (·.handlers) == some []) = true := by decide +kernel
theorem test_cancel_propagates : after (.cancelPropagate 1 3) (kids { open2 with cf := true } unit3)
    (fun t => (getNode? t 1 3).map (·.cf) == some true) = true := by decide +kernel
theorem test_progress_check : after (.progressCheckReport 0 0) (as { who [] with eligible := 4096 })
    (fun t => (getStrand t 0 0).reported && (getNode? t 1 1).map (·.fcause) == some 0x3C3 && t.reports.length == 1) = true := by decide +kernel
theorem test_delta_consolidate :
    after (.deltaConsolidate 0 0) (queued { launch := 1 } [] { core0 with q2 := [push1] })
      (fun t => (getQueue? t 1 31).map (·.buf) == some [(rec1, 0)] && (getCore t 0).q2 == []) = true ∧
    after (.deltaConsolidate 0 0) (queued { launch := 1, buf := [({ rec1 with mult := 1 }, 0)] } [] { core0 with q2 := [push1] })
      (fun t => (getQueue? t 1 31).map (·.buf) == some []) = true := by decide +kernel
theorem test_stage_batch : after (.stageBatchForm 1 31) (queued { launch := 1, stagePc := 2 ^ 20 + 32, areas := [0, 0, 0, 9], busy := [0, 1, 2], live := [2, 2, 2], ring := [rec1] })
    (fun t => ((getCore t 0).deque.map fun x => (x.g1, x.g2, x.g3, x.g4)) == [(9, 1, 2, 31)] && (getQueue? t 1 31).map (·.ring) == some []) = true := by
  decide +kernel

/-- TaskSteps: a flag two nodes above, through one that has ended, and a buffer whose time ends with the next tick. -/
theorem test_ancestor_hypotheses :
    ancestor (kids { open2 with cf := true } unit3) 1 (·.cf) 6 2 = some 2 ∧
      ancestor { kids open2 unit3 with parts := [(1, { part1 with nodes :=
        [(1, node1), (2, { open2 with status := .complete, parent := 4 }), (3, unit3), (4, { open2 with cf := true })] })] } 1 (·.cf) 6 2 = some 4 := by
  decide +kernel
theorem test_timed_drain :
    (match step { queued { launch := 1, buf := [(rec1, 0)] } with now := 4095, agenda := [.tick] } with
      | .next t => (getQueue? t 1 31).map (fun x => (x.ring, x.buf)) == some ([rec1], [])
      | _ => false) = true ∧
    (match step { queued { launch := 1, buf := [(rec1, 0)] } with now := 4094, agenda := [.tick] } with
      | .next t => (getQueue? t 1 31).map (fun x => (x.ring, x.buf)) == some ([], [(rec1, 0)])
      | _ => false) = true := by decide +kernel

/-! ### Launches and kernels -/

/-- A launch of one core that waits for its placement, asked for by the demo's strand. -/
def pending1 : Launch := { kidx := 1, n := 1, node := 3, parent := 2, fp := 4, waiter := some ⟨0, 0⟩, waiterSid := 1 }
def node3 : Node := { parent := 2, lvl := 1, status := .draining }
def placing : State :=
  { asleep (.launch 1 5) { core0 with launch := 2 } with
    cores := [(0, { core0 with launch := 2 }), (1, { tag := 1 })]
    parts := [(1, { part1 with cores := [0, 1], nodes := [(1, node1), (2, open2), (3, node3)], nodeNext := 4
                               kernels := [(1, { jig := jig1 })], launches := [(1, pending1)] })] }
/-- A launch on core 1 that is over. -/
def retiring1 : State :=
  { demo [] with
    cores := [(0, { core0 with launch := 0 }), (1, { tag := 1, launch := 1 })]
    parts := [(1, { part1 with cores := [0, 1], nodes := [(2, { open2 with cnt := 2 }), (3, node3)], kernels := [(1, { jig := jig1, st := .active, live := 1 })]
                               launches := [(1, { pending1 with st := .retiring, cores := [1], waiter := none })] })] }

/-- LaunchesAndKernels: a launch with a core to go to and a strand that waits, and one that is over. -/
theorem test_launch_hypotheses :
    (firstPending placing 1 = some (1, pending1) ∧ getKernel? placing 1 1 = some { jig := jig1 } ∧ getNode? placing 1 3 = some node3 ∧
      nodeCancelled placing 1 2 = false ∧ ((getPart placing 1).cores.filter fun e => (getCore placing e).launch == 0).head? = some 1 ∧
      (getCore placing 1).deque = [] ∧ (getCore placing 1).ring = [] ∧ (getPart placing 1).fields = []) ∧
      Waits placing 0 0 (.launch 1 5) ∧
      (getLaunch? retiring1 1 1 = some { pending1 with st := .retiring, cores := [1], waiter := none } ∧ getNode? retiring1 1 3 = some node3 ∧
        node3.cnt = 0 ∧ getNode? retiring1 1 2 = some { open2 with cnt := 2 } ∧ (∀ m ∈ (getCore retiring1 1).q0, m.st = .done) ∧
        getKernel? retiring1 1 1 = some { jig := jig1, st := .active, live := 1 } ∧
        (∀ e ∈ (getPart retiring1 1).launches, e.1 ≠ 1 → e.2.st = .pending) ∧ ((getPart retiring1 1).launches.map (·.1)).Nodup) :=
  ⟨by decide +kernel, waits_of (by decide +kernel), by decide +kernel⟩

/-- LaunchesAndKernels: what a placement and a retirement ask for besides. -/
theorem test_placing_hypotheses :
    (areasOk placing 1 0 [] = true ∧ node3.cf = false ∧ (getPart placing 1).st = .active ∧ jig1.fields = [] ∧ jig1.queues = [] ∧ jig1.recs = [] ∧
      node3.handlers = []) ∧
      (node3.parent ≠ 0 ∧ node3.parent ≠ 3 ∧ nodeLives { open2 with cnt := 2 } = true ∧ (getPart retiring1 1).st = .active ∧
        ∀ e ∈ (getPart retiring1 1).nodes, e.1 = open2.parent → e.2.parent ≠ 3) := by decide +kernel

theorem test_placement : after (.launchPlacement 1 []) placing
    (fun t => rdG (getStrand t 0 0) 5 == 3 && (getLaunch? t 1 1).map (·.cores) == some [1] && (getCore t 1).launch == 1 &&
      ((getCore t 1).deque.map fun x => (x.pc, x.fp, x.g2)) == [(32, 4, 1)]) = true := by decide +kernel
theorem test_retirement : after (.launchRetire 1 1) retiring1
    (fun t => (getLaunch? t 1 1) == none && (getNode? t 1 3).map (·.status) == some .complete && (getNode? t 1 2).map (·.cnt) == some 1 &&
      (getKernel? t 1 1).map (·.st) == some .loaded && (getPart t 1).st == .idle) = true := by decide +kernel

/-! ### Clamps and fields -/

def clamped (x : Clamp) (ar : List (Nat × Nat × Nat × Nat)) : State :=
  { asleep (.clamp 63 5 none) with parts := [(1, { part1 with clamps := [(63, x)], arrivals := ar })] }
def ticking (f : Field) (w : Wait := .tadv 1 5) (k : CoreSt := core0) : State :=
  { asleep w k with parts := [(1, { part1 with fields := [(1, f)] })] }
def sense1 : Req := { read64 with op := .sense 1 1 0 (some 5) [] [] 0 (.g 5) }

/-- ClampsAndFields: arrivals before and at the last, of a core that has been counted, a clamp in use and one that is not; fields
with an advance due, pinned, at the end of a period, and frozen. -/
theorem test_clamp_hypotheses :
    ((clamped clamp1 [(63, 0, 0, 1)]).parts.map (·.2.arrivals) = [[(63, 0, 0, 1)]] ∧ clamp1.joined = [] ∧ clamp1.kind = 2 ∧
      clamp1.arr + 1 < clamp1.need ∧ clamp1.need ≤ ({ clamp1 with arr := 1 } : Clamp).arr + 1 ∧ (getPart (clamped clamp1 []) 1).fields = []) ∧
      (0 ∈ ({ kind := 1, need := 1, counted := [0] } : Clamp).counted ∧ ({ kind := 1, need := 1 } : Clamp).arr < 1) ∧
      (clampInUse (clamped clamp1 []) 1 63 = true ∧ clampInUse (clamped clamp1 []) 1 62 = false) ∧
      (sensePinned (ticking { field0 with due := 1 }) 1 1 = false ∧ sensePinned (ticking field0 (.tadv 1 5) { core0 with requests := [sense1] }) 1 1 = true) ∧
      Waits (ticking { field0 with due := 1 }) 0 0 (.tadv 1 5) ∧
      (2 + 8 ≤ (ticking field0).now ∧ (field0.tsrc = 2 → 10 < field0.timerAt + field0.targ)) :=
  ⟨by decide +kernel, by decide +kernel, by decide +kernel, by decide +kernel, waits_of (by decide +kernel), by decide +kernel⟩

theorem test_clamp_arrive : after (.clampArrive 1 0) (clamped clamp1 [(63, 0, 0, 1)])
      (fun t => nget (getPart t 1).clamps {} 63 == { clamp1 with arr := 1, joined := [(0, 0, 1)] }) = true ∧
    after (.clampArrive 1 0) (clamped { clamp1 with arr := 1, rel := 6 } [(63, 0, 0, 1)])
      (fun t => nget (getPart t 1).clamps {} 63 == { clamp1 with rel := 7 } && (getStrand t 0 0).status == .asleep (.clamp 63 5 (some 7))) = true := by
  decide +kernel
theorem test_clamp_reconfiguration :
    after (.clampReconfiguration 1 ⟨63, 2, 65535, 4095⟩) (clamped clamp1 []) (fun t => t.responses == [⟨0, 0x3C4, 0⟩]) = true ∧
    after (.clampReconfiguration 1 ⟨62, 2, 65535, 4095⟩) (clamped clamp1 [])
      (fun t => nget (getPart t 1).clamps {} 62 == { kind := 2, need := 65535, root := 4095 }) = true := by decide +kernel
theorem test_tick_advance : woken (.tickAdvance 1 1) (ticking { field0 with due := 1, waiters := [(0, 0, 1, 5)] }) 6 = true ∧
    after (.tickAdvance 1 1) (ticking { field0 with due := 1 } (.tadv 1 5) { core0 with requests := [sense1] })
      (fun t => (getField? t 1 1).map (·.tick) == some 5) = true := by decide +kernel
theorem test_field_timer : after (.fieldTimerTick 1 1) (ticking { field0 with tsrc := 2, targ := 8, timerAt := 2 })
    (fun t => (getField? t 1 1).map (fun f => (f.due, f.timerAt)) == some (1, 10)) = true := by decide +kernel
theorem test_freeze_and_thaw : after (.fieldFreeze 1 1) (ticking field0) (fun t => (getField? t 1 1).map (·.st) == some .frozen) = true ∧
    after (.fieldThaw 1 1) (ticking { field0 with st := .frozen }) (fun t => (getField? t 1 1).map (fun f => (f.st, f.timerAt)) == some (.live, 10)) = true := by
  decide +kernel
/-- A mapped field that fades by half in 2 ticks (FADE 2): cell 1 holds 8 with stamp 1, at tick 5. -/
def fading : State := withTables (ticking { field0 with base := 2 ^ 26, fade := 2 }) [(8388612, 1), (8388614, 8)]
theorem test_fettler : (match fieldCell fading 1 { field0 with base := 2 ^ 26, fade := 2 } 1 with
      | some p => !isInternal p.pa && p.w == 32 && (keyMaterial? fading p.key).isSome
      | none => false) = true ∧ after (.fettlerNormalise 1 1 1) fading
      (fun t => t.mem.read 8388612 == 5 && (t.mem.read 8388614).toNat == markAt (8 * 2 ^ 16 + 1) 5 2) = true := by decide +kernel

/-! ### Power, heat and start-up -/

/-- BudgetDivision: a budget equal to the demands and one below them, a division that is due and one a tick early. -/
theorem test_division_hypotheses : ([3, 4].sum ≤ 7 ∧ 6 < [3, 4].sum) ∧ ({ demo [] with now := 1000 } : State).power.lastDivision + 1000 ≤ 1000 ∧
    ({ demo [] with now := 999 } : State).now < (demo []).power.lastDivision + 1000 ∧ (demo []).power.thermal ≠ .crit := by decide
/-- R345's level and leftover: 10 over demands 2, 9, 9 leaves 2, 4, 4; 11 gives the lower index one more. -/
theorem test_water_fill : waterFill 10 [2, 9, 9] = [2, 4, 4] ∧ waterFill 11 [2, 9, 9] = [2, 5, 4] ∧ waterFill 20 [2, 9, 9] = [2, 9, 9] := by
  decide +kernel
theorem test_cap : after (.capWrite 799) (demo []) (fun t => t.power.capNext == 800 && t.reports == [⟨0x301, 800, 0, 0⟩]) = true ∧
    after (.capWrite 2601) (demo []) (fun t => t.power.capNext == 2600) = true := by decide +kernel

/-- PowerSteps: a core of region 0 that votes the last level, a regulator one step below its rail, a paused clock with work, units
that hold nothing and one that is gated. -/
theorem test_power_hypotheses :
    ((3 < 4 ∧ ∃ e ∈ (getPart (demo []) 1).cores, regionOf e = 0)) ∧ (63 < 64) ∧
      ((getCore (cored { core0 with vcore := 795 }) 0).terr + 2 < 2 ^ 32 ∧ 795 + 5 ≤ railVolts (railLevel (cored { core0 with vcore := 795 }) 0)) ∧
      ((getCore (cored { core0 with clockPaused := true }) 0).clockPaused = true ∧ clockNeeded (cored { core0 with clockPaused := true }) 0 = true) ∧
      ((getUe (demo []) 3).ready = false ∧ isGated (demo []) (.uePort 3) = false) ∧
      (clusterIdle (demo []) 511 = true ∧ isGated (demo []) (.cluster 511) = false) ∧
      isGated { demo [] with gated := [.cluster 511] } (.cluster 511) = true := by decide +kernel

theorem test_rail_vote : after (.railVote 1 3 0) (demo []) (fun t => (getPart t 1).vote == [(0, 3)] && railLevel t 0 == 3) = true ∧
    after (.railVote 1 3 1) (demo []) (fun t => (getPart t 1).vote == []) = true := by decide +kernel
theorem test_energy_clear : after (.enjClear 1 1) { demo [] with parts := [(1, { part1 with enj := 3 })] } (fun t => (getPart t 1).enj == 2) = true := by
  decide +kernel
theorem test_replay_steps : after (.lateCaptureReplay 0 true) (cored { core0 with vcore := 795 })
    (fun t => (getCore t 0).terr == 2 && (getCore t 0).vcore == 800) = true ∧
    after (.lateCaptureReplay 0 false) (cored core0) (fun t => (getCore t 0).terr == 1) = true := by decide +kernel
theorem test_clock_restart : after (.clockRestart 0) (cored { core0 with clockPaused := true }) (fun t => !(getCore t 0).clockPaused) = true := by
  decide +kernel
theorem test_gates : after (.gateBegin (.cluster 511)) (demo []) (fun t => t.gated == [.cluster 511]) = true ∧
    after (.gateBegin (.cluster 0)) (demo []) (fun t => t.gated == []) = true ∧
    after (.gateWake (.cluster 511)) { demo [] with gated := [.cluster 511] } (fun t => t.gated == []) = true := by decide +kernel

def warm (t : Thermal) (n : Nat := 0) : State := { demo [] with now := 1000, power := { thermal := t, coolCount := n } }

/-- HeatAndSupply: a report that is due, in each state and at each limit, and a heartbeat that is missed to the tick. -/
theorem test_heat_hypotheses :
    ((warm .normal).power.lastReport + 1000 ≤ (warm .normal).now ∧ (warm .normal).power.thermal = .normal ∧ (warm .warn).power.thermal = .warn ∧
      (warm .hot 7).power.thermal = .hot ∧ (warm .hot 7).power.coolCount = 7 ∧ (warm .hot 6).power.coolCount < 7) ∧
      (let s : State := { demo [] with boot := { ready := 1 }, now := 2 ^ 24 }
       s.boot.ready.toNat % 2 = 1 ∧ s.power.heartbeat + 2 ^ 24 ≤ s.now ∧ s.boot.mgmt = []) := by decide +kernel

theorem test_heat : after (.thermalReport [94]) (warm .normal) (fun t => t.power.thermal == .normal) = true ∧
    after (.thermalReport [20, 95]) (warm .normal) (fun t => t.power.thermal == .warn && t.reports == [⟨0x300, 5, 0, 0⟩]) = true ∧
    after (.thermalReport [105]) (warm .warn) (fun t => t.power.thermal == .hot && t.power.halved) = true ∧
    after (.thermalReport [100]) (warm .hot 7) (fun t => t.power.thermal == .warn && !t.power.halved) = true ∧
    after (.thermalReport [101]) (warm .hot 7) (fun t => t.power.thermal == .hot && t.power.coolCount == 0) = true ∧
    after (.thermalReport [125]) (warm .normal) (fun t => t.power.thermal == .off && !t.supply) = true := by decide +kernel
theorem test_power_loss : after .powerLoss { demo [] with chains := [(9, ⟨.held, 4, 7, none⟩)] }
    (fun t => !t.supply && t.chains == [(9, ⟨.held, 4, 7, none⟩)] && t.cores == []) = true := by decide +kernel
theorem test_heartbeat : after (.heartbeatWrite 5) { demo [] with now := 3 } (fun t => t.power.hbWord == 5 && t.power.heartbeat == 3) = true ∧
    after .heartbeatMiss { demo [] with boot := { ready := 1 }, now := 2 ^ 24, strands := [(0, who []), (0x8000, who [])] }
      (fun t => (getStrand t 0 0).live && !(getStrand t 0x1000 0).live) = true := by decide +kernel

def late (o : Nat) : List UnitOutcome := startUnits.map fun e => ⟨e.1, e.2, 0, 0, o⟩
def image0 : FwImage := ⟨[], 0, 1, 0, 0⟩
def skipped3 : State := { demo [] with boot := { started := true, record := [⟨3, 0, 2, 3, 9, 4⟩] } }
def done3 : UnitOutcome := ⟨3, 0, 0, 0, 9⟩
def latched : State := { demo [] with snap := { pending := true, latchedAt := some 4, shadow := [(0, 4)] } }

/-- StartUpAndSnapshots: a package that has not started, whose outcomes lie ahead; a unit skipped; a latch under way. -/
theorem test_start_hypotheses :
    ((demo []).boot.started = false ∧ skipped3.boot.started = true) ∧
      (done3.step = 3 ∧ done3.fails ≤ 3 ∧ skipped3.boot.record = [⟨3, 0, 2, 3, 9, 4⟩] ∧ skipped3.boot.recovery = false ∧ skipped3.boot.todo = [] ∧
        stackNamed skipped3 done3.unit = false) ∧
      latched.snap.latchedAt = some 4 := by decide +kernel
theorem test_unit_redo : after (.unitRedo done3) skipped3
    (fun t => t.boot.todo == [done3] && t.boot.record == [⟨3, 0, 3, 3, 9, 4⟩]) = true := by decide +kernel
theorem test_unit_passes : (applyOutcome { skipped3 with now := 9 } done3).boot.record = [⟨3, 0, 1, 1, 0, 9⟩] ∧
    (applyOutcome skipped3 done3).boot.ready = BitVec.ofNat 64 (2 ^ 56) := by decide +kernel
theorem test_snapshot : after .snapshotTrigger (demo []) (fun t => t.snap.pending) = true ∧
    after .snapshotLatch latched (fun t => t.snap == { seq := 1, words := [(0, 4)] }) = true := by decide +kernel
theorem test_power_good_once : after (.powerGood image0 image0 [] [] 0) skipped3 (fun t => t.boot == skipped3.boot) = true := by decide +kernel

/-! ### Links -/

def ported (x : Port) (now : Nat) : State :=
  { demo [] with now := now, ports := [(71, x)], boot := { record := [⟨6, 3, 0, 1, 0, 9⟩] } }

/-- PortStates: the last port in each state, before and at its time, and the seventh and eighth replay of a flit. -/
theorem test_port_hypotheses :
    (portUsable (ported {} 5) 71 = true ∧ (getPort (ported {} 5) 71).st = .off) ∧ (99999 < 0 + 100000 ∧ 0 + 100000 ≤ 100000) ∧
      ((getPort (ported { st := .up, run := 6 } 5) 71).run + 1 < 8 ∧ 8 ≤ (getPort (ported { st := .up, run := 7 } 5) 71).run + 1) := by
  decide +kernel
theorem test_ports : after (.portEnable 71) (ported { st := .failed, rply := 9 } 5) (fun t => getPort t 71 == { st := .training, since := 5 }) = true ∧
    after (.portDisable 71) (ported { st := .up } 5) (fun t => getPort t 71 == { since := 5 }) = true ∧
    after (.portTrained 71 255 127) (ported { st := .training } 99999)
      (fun t => getPort t 71 == { st := .up, pdev := 255, pport := 127, since := 99999 }) = true ∧
    after (.trainingTimeout 71) (ported { st := .retrain } 100000) (fun t => getPort t 71 == { st := .failed, since := 100000 }) = true ∧
    after (.lossOfSignal 71) (ported { st := .up } 5) (fun t => getPort t 71 == { st := .retrain, since := 5 }) = true ∧
    after (.flitReplay 71 true true) (ported { st := .up, run := 7 } 5)
      (fun t => getPort t 71 == { st := .retrain, rply := 1, crce := 1, since := 5 }) = true := by decide +kernel

def load3 : MemReq := ⟨.load 64 8 false (.g 5), .rlx, .pa, false, false, false⟩
def peer3 : PeerReq := { core := 0, slot := 0, sid := 1, engine := none, dev := 2, q := load3, at_ := 4 }
def peered (now : Nat) : State := { asleep (.peer load3 3) with now := now, peers := [(3, peer3)], ports := [(0, { st := .up, pdev := 2 })] }
def ue3 : State := { withTables (demo []) [] with ues := [(3, { ready := true, pending := 1 })] }

/-- PeersAndPackets: an access whose answer comes in its last tick and one that is late, a strand that waits for it, its port with
another to the peer and without, a peer's write, and the last port with a message to report. -/
theorem test_peer_hypotheses :
    (nget? (peered 65539).peers 3 = some peer3 ∧ (getStrand (peered 65539) 0 0).sid = 1 ∧ 65539 < 4 + 65536 ∧ 4 + 65536 ≤ (peered 65540).now ∧
      portTo (peered 65539) 2 = true ∧ portTo { peered 65539 with ports := [] } 2 = false) ∧
      ((peered 5).peers = [(3, peer3)] ∧ peer3.port = 0 ∧ (getPort (peered 5) 0).st = .up ∧
        upPort (putPort (peered 5) 0 { getPort (peered 5) 0 with st := .off, run := 0, since := 5 }) 2 = none ∧
        upPort { peered 5 with ports := [(0, { pdev := 2 }), (1, { st := .up, pdev := 2 })] } 2 = some 1) ∧
      (({ demo [] with agenda := [.peer (.write 0 0x4000 8 0xA5)] } : State).supply = true ∧ 0x4000 % 512 + 8 ≤ 512 ∧ 0x4000 + 8 ≤ hbmBits) ∧
      Waits (peered 65539) 0 0 (.peer load3 3) ∧
      ((getUe ue3 3).ready = true ∧ isGated ue3 (.uePort 3) = false ∧ (getUe ue3 3).pending ≠ 0 ∧ (0x4000 % 512 + 512 ≤ 512) ∧
        512 ≤ 8 * 64 ∧ isInternal 0x4000 = false ∧ (keyMaterial? ue3 1).isSome = true) :=
  ⟨by decide +kernel, by decide +kernel, by decide +kernel, waits_of (by decide +kernel), by decide +kernel⟩
theorem test_peer_answer : woken (.peerResponse 3 (.value 0x1FF)) (peered 65539) 0xFF = true ∧
    after (.peerResponse 3 .refused) (peered 65539) (fun t => (getStrand t 0 0).cause == 0x342 && (getStrand t 0 0).tval == 64) = true ∧
    after (.peerAccessTimeout 3) (peered 65540) (fun t => (getStrand t 0 0).cause == 0x340 && t.peers == []) = true := by decide +kernel
theorem test_packets : after (.uePacketReceive 3 ⟨.uud, .atomic, 64, 0, true, 0, 1⟩) ue3 (fun t => (getUe t 3).drops == 1) = true ∧
    after (.uePacketReceive 3 ⟨.rud, .rmaWrite 0x4000 1 8 0xA5, 64, 1, true, 6, 1⟩) ue3
      (fun t => physRead t 1 0x4000 8 == 0xA5 && (getUe t 3).pending == 2) = true ∧
    after (.rmaWriteComplete 3) ue3 (fun t => (getUe t 3).pending == 0 && (getUe t 3).done == 1) = true := by decide +kernel

/-! ### Collectives -/

/-- A gather of one element of 32 bits: the source at 2^26 + 512, the destination behind it, the status at 2^26 + 1024. -/
def desc0 : Nat := (2 ^ 26 + 512) * 2 ^ 448 + (2 ^ 26 + 544) * 2 ^ 384 + (2 ^ 26 + 1024) * 2 ^ 320 + 2 ^ 288 + 5 * 2 ^ 272 + 3 * 2 ^ 264 + 2 * 2 ^ 260
def post0 : Post := ⟨1, desc0, 0⟩
/-- Partition 1 with posts that wait to be taken; group 3 with its ranks and its posts. -/
def coll0 (x : CollGroup) (p : List (Nat × Bool)) (now : Nat := 0) : State :=
  { withTables { demo [] with parts := [(1, { part1 with posts := p })], now := now } (Memory.setBits [] (2 ^ 26) 512 desc0) with
    groups := [(3, x)] }
/-- This device alone in a group; with another device; with a second partition. -/
def alone (posts : List Post) : CollGroup := { ranks := [(Config.deviceNumber, 1)], posts := posts }
def shared (posts : List Post) : CollGroup := { ranks := [(Config.deviceNumber, 1), (Config.deviceNumber + 1, 2)], posts := posts }
def local2 (posts : List Post) : CollGroup := { ranks := [(Config.deviceNumber, 1), (Config.deviceNumber, 2)], posts := posts }

theorem local_rank (m : List (Nat × Nat)) (h : m = [(Config.deviceNumber, 1)]) (posts : List Post) :
    (localRanks { ranks := m, posts := posts }).find? (fun e => e.2 == 1) = some (0, 1) := by subst h; simp [localRanks]

/-- Collectives: a post that can be read, one that found the queue full, and one whose buffers are not the partition's; a group of this device alone, one
with another, and one of two partitions; contributions before the deadline and past it; a second post of another SEQ. -/
theorem test_collective_hypotheses :
    ((getPart (coll0 (alone []) [(2 ^ 26, true)]) 1).posts = [(2 ^ 26, true)] ∧
      partHas (coll0 (alone []) [(2 ^ 26, true)]) 1 (2 ^ 26) 512 false = true ∧
      partRead (coll0 (alone []) [(2 ^ 26, false)]) 1 (2 ^ 26) 512 = desc0 ∧ collGroup desc0 = 3 ∧ collSeq desc0 = 5 ∧ collOp desc0 = 2 ∧
      collOk (coll0 (alone []) [(2 ^ 26, false)]) 1 desc0 1 0 = true ∧ collOk (coll0 (alone []) [(2 ^ 26, false)]) 1 desc0 256 0 = true ∧
      collOk (coll0 (alone []) [(2 ^ 26, false)]) 1 (desc0 + 1) 1 0 = false) ∧
      ((localRanks (alone [])).find? (fun e => e.2 == 1) = some (0, 1)) ∧
      (getGroup? (coll0 (alone [post0]) []) 3 = some (alone [post0]) ∧ getGroup? (coll0 (shared [post0]) []) 3 = some (shared [post0]) ∧
        getGroup? (coll0 (local2 [post0, ⟨2, desc0 + 2 ^ 272, 0⟩]) []) 3 = some (local2 [post0, ⟨2, desc0 + 2 ^ 272, 0⟩]) ∧
        Config.deviceNumber + 1 ≠ Config.deviceNumber) ∧
      (collTmo desc0 = 2 ^ 20 ∧ 0 + collTmo desc0 ≤ (coll0 (shared [post0]) [] (2 ^ 20)).now ∧
        (coll0 (local2 [post0]) [] (2 ^ 20 - 1)).now < 0 + collTmo desc0 ∧ collSeq (desc0 + 2 ^ 272) ≠ collSeq desc0 ∧
        (1 : Nat) ∈ [1, 2, 4, 6] ∧ collOp (desc0 - 2 * 2 ^ 260) = 0 ∧ collOp (desc0 + 2 ^ 260 + 2 ^ 248) = 3 ∧
        collRoot (desc0 + 2 ^ 260 + 2 ^ 248) = 1) ∧
      (partDown (coll0 (alone [post0]) []) 1 (collSrc desc0) 32 = none ∧ partDown (coll0 (alone [post0]) []) 1 (collDst desc0) 64 = none) :=
  ⟨by decide +kernel, local_rank _ rfl _, ⟨rfl, rfl, rfl, Nat.succ_ne_self _⟩, by decide +kernel, by decide +kernel⟩
/-- Collectives: ranks whose last SEQ another follows or does not, and one that a collective has failed for. -/
theorem test_collective_ranks : (nget? (alone []).nextSeq 0 = none ∧ nget? ({ alone [] with nextSeq := [(0, 4)] } : CollGroup).nextSeq 0 = some 4 ∧
      (4 : Nat) ≠ collSeq desc0 ∧ (∀ e ∈ (alone []).owed, e.1 ≠ 0) ∧ ({ alone [] with owed := [(0, 2, 9)] } : CollGroup).owed = [(0, 2, 9)]) ∧
    getGroup? { coll0 (alone []) [(2 ^ 26, false)] with groups := [] } 3 = none := ⟨⟨rfl, rfl, by decide, by simp [alone], rfl⟩, rfl⟩
/-- The post is taken, whatever becomes of it. -/
theorem test_posts : after (.collectivePost 1) { coll0 (alone []) [(2 ^ 26, true), (2 ^ 27, false)] with groups := [] }
    (fun t => (getPart t 1).posts == [(2 ^ 27, false)]) = true := by decide +kernel
theorem test_status_word : collStatus 2 63 255 5 = 0xBFFF000000000005 ∧ collStatus 1 0 0 65535 = 0x400000000000FFFF := by decide +kernel
theorem test_combination : collCombine (1 * 2 ^ 258 + 2 * 2 ^ 256) 0xFFFFFFFF 1 = 1 ∧ collCombine 0 0x3F800000 0x3F800000 = 0x40000000 := by
  decide +kernel

/-! ### The resident service -/

/-- A request of tenant 7 about partition 1, with number 9. -/
def hdr (kind : Nat) : ReqHdr := ⟨BitVec.ofNat 256 (9 * 2 ^ 224 + 7 * 2 ^ 192 + 2 ^ 186 + kind * 2 ^ 178), 7⟩
/-- The service is up, and partition 1 is in a state. -/
def serving (st : CtxSt) (p : Partn := part1) : State :=
  { demo [] with parts := [(1, { p with st := st })], boot := { ready := 0xFFF0000000000001 }, ues := [(3, { ready := true })], sessions := [7] }
def noBody : BuildBody := ⟨[], [], 0, [], [], 0, 0, 0, [], []⟩

/-- RequestChecks: a service that is down and one that is up, headers that hold, of another kind, of another tenant and for another
tenant's partition, and each state that forbids a request. -/
theorem test_request_hypotheses :
    (serviceUp (demo []) = false ∧ serviceUp (serving .idle) = true) ∧
      (∀ k ∈ [1, 2, 3, 4, 5, 6, 7, 8, 9, 10, 11, 12], hdrFault (serving .idle) (hdr k) k = none) ∧
      hdrFault (serving .idle) (hdr 1) 2 = some 0x3C6 ∧ hdrFault (serving .idle) { hdr 2 with session := 8 } 2 = some 0x3C5 ∧
      hdrFault (serving .idle { part1 with tenant := 8 }) (hdr 2) 2 = some 0x3C5 ∧
      hdrFault (serving .free { part1 with tenant := 8 }) (hdr 2) 2 = none ∧
      (hdrTag (hdr 2) = 1 ∧ hdrTenant (hdr 2) = 7 ∧ hdrReqid (hdr 2) = 9) := by decide +kernel

/-- Whether the request is answered with a code. -/
def answered (i : Instr) (s : State) (code : Nat) : Bool := after i s fun t => t.responses == [⟨9, code, 0⟩]
theorem test_refused_requests :
    answered (.buildRequest (hdr 2) noBody) (serving .free) 0x3C6 = true ∧ answered (.buildRequest (hdr 1) noBody) (serving .idle) 0x3C4 = true ∧
      answered (.freeRequest (hdr 2)) (serving .active) 0x3C4 = true ∧ answered (.parkRequest (hdr 6) 0) (serving .empty) 0x3C4 = true ∧
      answered (.resumeRequest (hdr 7)) (serving .active) 0x3C4 = true ∧ answered (.resetRequest (hdr 8)) (serving .free) 0x3C4 = true ∧
      answered (.loadRequest (hdr 3) 1 0 0 [] []) (serving .parked) 0x3C4 = true ∧
      answered (.loadRequest (hdr 3) 1 0 0 [] []) (serving .idle) 0x384 = true := by decide +kernel

/-- A partition of core 0 built in frame 2^22 with pages of its load field at 2^26 (two of 64 KiB) and its doorbell. -/
def body0 : BuildBody :=
  { cores := [0], granules := [(0, 7)], root := 2 ^ 22, tables := [2 ^ 23, 2 ^ 24, 2 ^ 25], key := 1, lfbase := 2 ^ 26, dbell := 2 ^ 26 + 2 ^ 19 * 2
    pages := [⟨2 ^ 26, 128, 1, 1, false, false, true, 0⟩, ⟨2 ^ 26 + 2 ^ 19 * 2, 130, 1, 0, false, true, true, 0⟩], clamps := [⟨63, 2, 2, 0⟩] }
def building : State :=
  { serving .free with cores := [], strands := [], parts := [], keys := [(0, (0, 0)), (1, (7, 0))] }

def parking1 : State :=
  { serving .parking { part1 with parkReq := some (7, 9), fields := [(1, field0)] } with
    cores := [(0, { core0 with parked := true })], asked := [⟨7, 9, false, none⟩, ⟨7, 10, true, some (0x3C4, 0)⟩] }

/-- ContextStates: each state from which a context moves, and what each move asks for besides. -/
theorem test_context_hypotheses :
    (sealing (serving .idle) 1 = false ∧ (getPart (serving .idle) 1).cores[0]? = some 0 ∧ (getCore (serving .idle) 0).parked = false) ∧
      ((getPart parking1 1).st = .parking ∧ (getPart parking1 1).cores = [0] ∧ (getCore parking1 0).parked = true ∧ commandsDone parking1 0 = true ∧
        stealsAnswered parking1 [0] = true ∧ (∀ f ∈ (getPart parking1 1).fields, advancesMade parking1.now f.2 = true) ∧
        (∀ e ∈ (getPart (serving .idle) 1).launches, e.2.st ≠ .pending) ∧ (getCore parking1 0).q2 = [] ∧
        (getPart parking1 1).parkReq = some (7, 9)) ∧
      Still parking1 0 ∧ ((getCore (serving .parked) 0).inbox = []) ∧
      ({ part1 with holdUntil := 4 } : Partn).holdUntil ≠ 0 ∧ buildFree building 1 body0 = true :=
  ⟨by decide +kernel, by decide +kernel, still_of (by decide +kernel), by decide +kernel, by decide +kernel, by decide +kernel⟩

theorem test_build_hypotheses : (buildFree building 1 body0 && buildOk building 7 body0) = true ∧ serviceUp building = true ∧
    hdrFault building (hdr 1) 1 = none := by decide +kernel

theorem test_free : after (.freeRequest (hdr 2)) (serving .idle)
    (fun t => (getPart t 1).st == .free && (getPart t 1).holdUntil == 4096 && (getCore t 0).tag == 0 && t.responses == [⟨9, 0, 0⟩]) = true := by
  decide +kernel
theorem test_park : after (.parkRequest (hdr 6) 0) (serving .active)
      (fun t => (getPart t 1).st == .parking && (getCore t 0).parked && t.responses == [] && t.asked == [⟨7, 9, false, none⟩]) = true ∧
    after (.contextParked 1) parking1
      (fun t => (getPart t 1).st == .parked && (getField? t 1 1).map (·.st) == some .frozen && t.responses == [⟨9, 0, 0⟩, ⟨10, 0x3C4, 0⟩] && t.asked == []) = true := by
  decide +kernel
theorem test_resume : after (.resumeRequest (hdr 7)) { serving .parked with cores := [(0, { core0 with parked := true })] }
    (fun t => (getPart t 1).st == .idle && !(getCore t 0).parked && t.responses == [⟨9, 0, 0⟩]) = true := by decide +kernel
theorem test_reset : after (.resetRequest (hdr 8)) (serving .active)
      (fun t => (getPart t 1).st == .resetting && (getPart t 1).nodes == [] && !(getStrand t 0 0).live) = true ∧
    after (.resetComplete 1) (serving .resetting) (fun t => (getPart t 1).st == .empty) = true ∧
    after (.fatalFault 1) (serving .active) (fun t => (getPart t 1).st == .resetting) = true ∧
    after (.tagHoldExpiry 1) { serving .free { part1 with holdUntil := 4 } with now := 4 } (fun t => (getPart t 1).holdUntil == 0) = true := by
  decide +kernel

/-- The partition of one job node, one kernel and room for nodes. -/
def servingKernel (st : KernelSt) (pages : List Nat := []) : State :=
  serving .idle { part1 with nodes := [(1, node1), (2, open2)], nodeNext := 3, kernels := [(1, { jig := jig1, st := st, pages := pages })] }
def servingFree : State := serving .idle { part1 with nodes := [], nodeNext := 4094, kernels := [(1, { jig := jig1 })] }

/-- KernelsAndJobs: a file that is none, kernels in each state, a job that checks and one that does not, a parent that serves, and a
partition with two indices left. -/
theorem test_kernel_hypotheses :
    ((match checkSko 0 0 7 with | .error e => e == 0x384 | .ok _ => false) = true) ∧
      (getKernel? (serving .idle) 1 1 = none ∧ (getKernel? (servingKernel .unloading) 1 1).map (·.st) = some .unloading ∧
        (getKernel? (servingKernel .active) 1 1).map (·.st) = some .active ∧ (getKernel? (servingKernel .loaded) 1 1).map (·.pages) = some []) ∧
      (launchCheck (servingKernel .unloading) 1 1 1 = some (0x381, 1) ∧ launchCheck (servingKernel .loaded) 1 1 1 = none ∧
        launchCheck (servingKernel .loaded) 1 1 2 = some (0x386, 2)) ∧
      (launchParentOk (servingKernel .loaded) 1 2 = true ∧ getNode? (servingKernel .loaded) 1 2 = some open2 ∧
        tenantNodes (servingKernel .loaded) 7 < (getTenant (servingKernel .loaded) 7).nodeQuota ∧
        (pickNode (getPart (servingKernel .loaded) 1)).map (·.1) = some 3) ∧
      (tenantNodes servingFree 7 + 2 ≤ (getTenant servingFree 7).nodeQuota ∧ jig1.queues = [] ∧ (getPart servingFree 1).nodeNext + 1 ≤ 4095 ∧
        (∀ e ∈ (getPart servingFree 1).nodes, e.1 < (getPart servingFree 1).nodeNext) ∧ (servingFree.parts.map (·.1)).Nodup ∧
        getNode? servingFree 1 0 = none) := by decide +kernel

/-- KernelsAndJobs: room in the tenant's store of nodes. -/
theorem test_leaf_hypotheses :
    (nodeStoreRoom (servingKernel .loaded) 7 = true ∧ (3 : Nat) ≠ 2 ∧ open2.cnt + 1 < 2 ^ 32) ∧
      (leavesReserved servingFree 32767 256 7 (servingFree.parts.foldl (fun n e => n + e.2.nodes.length) 0) (tenantNodes servingFree) = true ∧
        ((getPart servingFree 1).nodes.map (·.1)).Nodup ∧ (getPart servingFree 1).nodeNext ≠ 0) := by decide +kernel

theorem test_unload : answered (.unloadRequest (hdr 4) 1) (servingKernel .unloading) 0x381 = true ∧
    after (.unloadRequest (hdr 4) 1) (servingKernel .loaded) (fun t => getKernel? t 1 1 == none && t.responses == [⟨9, 0, 0⟩]) = true ∧
    after (.unloadRequest (hdr 4) 1) (servingKernel .active) (fun t => (getKernel? t 1 1).map (·.st) == some .unloading) = true := by decide +kernel
theorem test_launch_request : answered (.launchRequest (hdr 5) 1 2 0 0) (servingKernel .unloading) 0x381 = false ∧
    after (.launchRequest (hdr 5) 1 1 6 2) (servingKernel .loaded)
      (fun t => (getNode? t 1 2).map (·.cnt) == some 1 && (getNode? t 1 4).map (fun n => (n.lvl, n.parent, n.hpc)) == some (1, 3, 0x620) &&
        (getLaunch? t 1 1).map (fun x => (x.st, x.node, x.parent, x.fp, x.reqid)) == some (.pending, 4, 3, 6, some (7, 9)) &&
        t.responses == [] && t.asked == [⟨7, 9, true, none⟩]) = true ∧
    after (.launchRequest (hdr 5) 1 0 6 0) servingFree
      (fun t => (getNode? t 1 4094).map (fun n => (n.lvl, n.cnt, n.status)) == some (4, 1, .draining) &&
        (getNode? t 1 4095).map (fun n => (n.lvl, n.parent)) == some (1, 4094)) = true := by decide +kernel

/-- ServiceAnswers: a quota within its bounds, at its reserve, and below what is held. -/
theorem test_answer_hypotheses : (quotaReserve .nodes ≤ 256 ∧ 256 + 0 * quotaReserve .nodes ≤ quotaTotal .nodes ∧
      quotaHeld (servingKernel .loaded) 7 .nodes ≤ 256) ∧ quotaReserve .tlb ≤ 64 ∧
    ([(Config.deviceNumber + 1, 1)] : List (Nat × Nat)) ≠ [] := ⟨by decide +kernel, by decide, by simp⟩
/-- ServiceAnswers: ranks of this device and another, with a partition that is there and one that is free. -/
theorem test_rank_hypotheses : (∀ e ∈ [(Config.deviceNumber, 1)], 1 ≤ e.1 ∧ e.1 ≤ 255 ∧ 1 ≤ e.2 ∧ e.2 ≤ 63) ∧
    ([(Config.deviceNumber, 1)] : List (Nat × Nat)).Nodup ∧ (getPart (serving .idle) 1).st ≠ .free ∧
    (getPart (serving .idle) 1).tenant = hdrTenant (hdr 12) ∧ (getPart (serving .idle) 5).st = .free ∧
    getGroup? (serving .idle) 255 = none := by
  have h : 1 ≤ Config.deviceNumber ∧ Config.deviceNumber ≤ 255 := by
    have := Config.deviceIndex.isLt
    unfold Config.deviceNumber; omega
  exact ⟨by simp [h], by simp, by decide +kernel⟩
theorem test_query : after (.queryRequest ⟨hdr 11, 3⟩) (serving .idle)
    (fun t => t.responses.map (fun x => (x.reqid, x.cause)) == [(9, 0)]) = true ∧
    quotaBits (getTenant (serving .idle) 7) % 2 ^ 32 = 256 ∧ ctxCode .idle = 2 := by decide +kernel
theorem test_quota : after (.quotaChange 7 .pages 3) (serving .idle) (fun t => (getTenant t 7).pageQuota == 3) = true ∧
    after (.quotaChange 7 .pages 1) (serving .idle) (fun t => (getTenant t 7).pageQuota == 2) = true := by decide +kernel
theorem test_epoch : after (.engineEpochAdvance 511) { demo [] with clusters := [(511, { epoch := 8191 })] }
    (fun t => (getCluster t 511).epoch == 0) = true := by decide +kernel

/-! ### Seals, chains and keys -/

/-- The service's memory at 2^26 takes an ingot of 1,152 bits; chain 9 is held at 4 for tenant 7. -/
def sealable (w : Wait) (st : CtxSt) (m : Memory) (x : Chain := ⟨.held, 4, 7, none⟩) : State :=
  { asleep w with
    mem := tables ++ m, keys := [(0, (0, 0)), (1, (7, 0))], svcRoot := 2 ^ 22, chains := [(9, x)], roots := [(5, (7, 99))]
    parts := [(1, { part1 with st := st })], boot := { ready := 1 }, ues := [(0, { ready := true })] }
def headerOf (ch ctr tenant : Nat) : Memory := Memory.setBits [] (2 ^ 26) 1024 (ingotHeader ch ctr 0 0 1152 tenant 1)

/-- SealAndUnseal: a seal that is refused and one that is not, with pages that take it; unseals in each order of their checks. -/
theorem test_seal_hypotheses :
    Waits (sealable (.seal 5 1 5 9 (2 ^ 26)) .parked []) 0 0 (.seal 5 1 5 9 (2 ^ 26)) ∧
      (sealRefused (sealable (.seal 5 1 5 9 (2 ^ 26)) .parked []) 1 5 9 = none ∧
        (sealRefused (sealable (.seal 5 1 5 9 (2 ^ 26)) .parked [] ⟨.unbound, 0, 0, none⟩) 1 5 9).isSome = true ∧
        partHas (sealable (.seal 5 1 5 9 (2 ^ 26)) .parked []) 0 (2 ^ 26) 1152 true = true ∧
        serviceUp (sealable (.seal 5 1 5 9 (2 ^ 26)) .parked []) = true ∧
        hdrFault (sealable (.seal 5 1 5 9 (2 ^ 26)) .parked []) (hdr 9) 9 = none) ∧
      (hdrFault (sealable (.seal 5 1 5 9 (2 ^ 26)) .parked []) (hdr 10) 10 = none ∧
        (getChain (sealable (.seal 5 1 5 9 (2 ^ 26)) .parked [] ⟨.held, 4, 7, some ⟨5, 1, 1, none⟩⟩) 9).writing = some ⟨5, 1, 1, none⟩) ∧
      Waits (sealable (.unseal 5 1 6 9 (2 ^ 26)) .empty []) 0 0 (.unseal 5 1 6 9 (2 ^ 26)) ∧
      (let hd := partRead (sealable (.unseal 5 1 6 9 (2 ^ 26)) .empty (headerOf 9 4 7)) 0 (2 ^ 26) 1024
       part1.cores.length = hd / 2 ^ 323 % 2 ^ 13 ∧ ingotAt (sealable (.unseal 5 1 6 9 (2 ^ 26)) .empty (headerOf 9 4 7)) 6 (2 ^ 26) = none ∧
       hd / 2 ^ 992 % 2 ^ 32 = 0x494E4731 ∧ hd / 2 ^ 984 % 2 ^ 8 = 1 ∧ hd / 2 ^ 976 % 2 ^ 8 = 9 ∧ hd / 2 ^ 336 % 2 ^ 32 = 7) :=
  ⟨waits_of (by decide +kernel), by decide +kernel, by decide +kernel, waits_of (by decide +kernel), by decide +kernel⟩

def unsealing (st : CtxSt) (m : Memory) (x : Chain := ⟨.held, 4, 7, none⟩) : State := sealable (.unseal 5 1 6 9 (2 ^ 26)) st m x
theorem test_unseal_statuses :
    woken (.unsealComplete 0 0 [] [] []) (unsealing .parked []) 3 = true ∧
      woken (.unsealComplete 0 0 [] [] []) (unsealing .empty (headerOf 8 4 7)) 2 = true ∧
      woken (.unsealComplete 0 0 [] [] []) (unsealing .empty (headerOf 9 3 7)) 1 = true ∧
      woken (.unsealComplete 0 0 [] [] []) (unsealing .empty (headerOf 9 5 7)) 2 = true ∧
      woken (.unsealComplete 0 0 [] [] []) (unsealing .empty (headerOf 9 4 7) ⟨.handed, 4, 7, none⟩) 1 = true := by decide +kernel
/-- The commit of a SEAL whose writes are made. -/
theorem test_seal_commit : after (.sealComplete 0 0 77 1152)
    (sealable (.seal 5 1 5 9 (2 ^ 26)) .parked [] ⟨.held, 4, 7, some ⟨5, 1, 1, none⟩⟩)
    (fun t => getChain t 9 == ⟨.held, 5, 7, none⟩ && (getPart t 1).st == .sealed && rdG (getStrand t 0 0) 5 == 0 &&
      (getStrand t 0 0).status == .ready) = true := by decide +kernel

/-- An ingot without plaintext of partition 1, whose header and tag stand at 2^26: chain 9 at 4, tenant 7, one core. -/
def header0 : Nat := ingotHeader 9 4 (tenantMeasure part1) 0 1152 7 1
def ingot0 : Ingot :=
  { header := header0, size := 1152, part := part1, shape := shapeOf [0], phys := [0], cores := [{}], windows := [0], strands := []
    granules := [], steals := [], pending := [], leaves := [] }
def sealed0 : State :=
  { sealable (.unseal 5 1 5 9 (2 ^ 26)) .empty
      (Memory.setBits [] (2 ^ 26) 1152 (header0 + ofLeBytes (ingotCipher 99 header0 []) * 2 ^ 1024)) with ingots := [(3, ingot0)] }

theorem test_ingot_verifies : unsealStatus sealed0 1 5 9 (2 ^ 26) = 0 ∧ ingotAt sealed0 5 (2 ^ 26) = some ingot0 ∧
    restoreOk sealed0 ingot0 [] [] = true ∧ (restoreContext sealed0 1 ingot0 [] [] []).isSome = true := by decide +kernel

def chained (x : Chain) : State := { demo [] with chains := [(255, x)] }

/-- ChainsAndKeys: the last chain in each of its states, key slots that are free and taken, named and not. -/
theorem test_counter_chain_hypotheses :
    ((getChain (chained ⟨.held, 4, 7, none⟩) 255).st = .held ∧ (getChain (chained ⟨.handed, 4, 7, none⟩) 255).tenant = 7 ∧ (getChain (demo []) 255).st = .unbound) ∧
      (nget? (demo []).keys 1023 = none ∧ nget? ({ demo [] with keys := [(1023, (7, 0))] } : State).keys 1023 ≠ none ∧
        keyNamed { demo [] with keys := [(1023, (7, 0))] } 1023 = false ∧
        keyNamed { mapped { page0 with key := 1023 } [] with keys := [(1023, (7, 0))] } 1023 = true) := by decide +kernel
theorem test_chains : after (.handoffSend 255) (chained ⟨.held, 4, 7, none⟩)
      (fun t => getChain t 255 == ⟨.handed, 0xFFFFFFFFFFFFFFFF, 7, none⟩ && t.responses == [⟨0, 0, 255 + 4 * 2 ^ 8 + 7 * 2 ^ 72⟩]) = true ∧
    after (.handoffReceive 255 6 7) (chained ⟨.handed, 0xFFFFFFFFFFFFFFFF, 7, none⟩) (fun t => getChain t 255 == ⟨.held, 6, 7, none⟩) = true ∧
    after (.handoffReceive 255 6 8) (chained ⟨.handed, 0xFFFFFFFFFFFFFFFF, 7, none⟩) (fun t => (getChain t 255).st == .handed) = true ∧
    after (.chainRelease 255) (chained ⟨.held, 4, 7, none⟩) (fun t => getChain t 255 == {}) = true := by decide +kernel
theorem test_keys : after (.memoryKeyInstall 1023 7 (some 5)) (demo []) (fun t => nget? t.keys 1023 == some (7, 5)) = true ∧
    after (.memoryKeyInstall 1023 7 none) { demo [] with keys := [(0, (0, 0)), (1023, (7, 5))] } (fun t => t.keys == [(0, (0, 0))]) = true ∧
    after (.sealingRootInstall 63 7 (2 ^ 256 + 1)) (demo []) (fun t => nget? t.roots 63 == some (7, 1)) = true := by decide +kernel

/-- ChainsAndKeys: a token for this device whose first signature cannot verify, S being 2^256 - 1 (RFC 8032, 5.1.7), under whatever
key the tenant has registered; and one that verifies when its two signatures do. -/
theorem test_token_hypotheses (k m : Nat) (msg : List Nat) :
    (signatureOk 0 7 k (2 ^ 512 - 1) msg && signatureOk 1 7 m 0 msg) = false ∧
      ((∀ a t i g b, signatureOk a t i g b = true) → (signatureOk 0 7 k 0 msg && signatureOk 1 7 m 0 msg) = true) := by
  refine ⟨?_, fun h => by simp [h]⟩
  have hv : ∀ key, edVerify key (2 ^ 512 - 1) msg = false := by
    intro key
    have : decide ((2 ^ 512 - 1) / 2 ^ 256 < edOrder) = false := by decide +kernel
    unfold edVerify
    simp only [this, Bool.false_and]
    split <;> rfl
  have hs : signatureOk 0 7 k (2 ^ 512 - 1) msg = false := by
    unfold signatureOk verifies
    split
    · simp only [if_true]; exact hv _
    · rfl
  rw [hs, Bool.false_and]

/-! ### A file that checks -/

/-- An executable of two sections, a jig that does not load and its signature block; its measurement is that of the jig. -/
def jigBits0 : Nat := 2 ^ 320 * 32 + 8 * 2 ^ 56 + 2 ^ 44
def file0 : Nat :=
  0x534B4F31 * 2 ^ 480 + 2 ^ 472 + 2 * 2 ^ 464 + 2 * 2 ^ 448 + 512 * 2 ^ 384
    + 2 ^ 512 * (4 * 2 ^ 248 + 2 ^ 224 + 1024 * 2 ^ 64 + 512) + 2 ^ 768 * (8 * 2 ^ 248 + 1536 * 2 ^ 64 + 27648)
    + 2 ^ 1024 * jigBits0 + 2 ^ 1536 * ofLeBytes (sha384 (leBytes 64 jigBits0))
def secJ : Sec := ⟨4, 0, 1, 0, 0, 1024, 512⟩
def secS : Sec := ⟨8, 0, 0, 0, 0, 1536, 27648⟩

theorem file_form : skoOk file0 29184 = true ∧ jigSec (secsOf file0) = some secJ ∧ sigSec (secsOf file0) secJ = some secS ∧
    (measureOf file0 (secsOf file0) secJ == bitsAt (secData file0 secS) 0 384) = true := by decide +kernel

/-- KernelsAndJobs: a file that checks when its two signatures verify under the tenant's keys (which keys a tenant has registered is
free: Config.publicKey). -/
theorem test_file_hypotheses (h : ∀ a t k m g, signatureOk a t k m g = true) :
    checkSko file0 29184 7 = .ok (secsOf file0, secJ, secS) ∧ filePages file0 (secsOf file0) = [] := by
  obtain ⟨h1, h2, h3, h4⟩ := file_form
  refine ⟨?_, by decide +kernel⟩
  unfold checkSko signedOk
  simp only [h1, h2, h3, h4, h, Bool.and_self, Bool.not_true, Bool.false_eq_true, if_false, if_true]

/-! ### Source to line, ports and quotes -/

/-- The kernel of 10's example, slot by slot. -/
def addThree : List SkasSlot :=
  [{ bits := 0x23004800 * 2 ^ 64 + 0x1800, target := true }, { bits := 0x18002850 * 2 ^ 64 + 2, target := true },
   { bits := 0x60020C18 * 2 ^ 64 + 0x40000000 * 2 ^ 32, joined := true }, { bits := 0x01400090 * 2 ^ 64 + 1 }, { bits := 0xE1800000 * 2 ^ 64 }]
theorem test_example_line : (skasCode addThree).map (·.map (· % 2 ^ 32)) = some [0x8F1911A3] := by decide +kernel
/-- A joined pair that does not fit in the rest of its line begins at the next. -/
theorem test_group_moves : (skasCode (List.replicate 4 nopSlot ++ [nopSlot, { bits := 0x60020C18 * 2 ^ 64, joined := true }])).map (·.length) = some 2 := by
  decide +kernel
theorem test_expression : (SkasExpr.bin .add (.num 2) (.bin .mul (.num 3) (.neg (.sym "a")))).value [("a", 4)] 0 = some (-10) ∧
    (SkasExpr.bin .div (.num (-7)) (.num 2)).value [] 0 = some (-3) ∧ SkasExpr.here.value [] 96 = some 96 := by decide +kernel
/-- R370's 0.1 as f32, and the infinities of e4m3. -/
theorem test_data_values : skasElement .f32 false (.rat false 1 10) = some 0x3DCCCCCD ∧ skasElement .e4m3 false (.inf false) = some 0x7E ∧
    skasElement .e4m3 true (.inf false) = some 0x7F ∧ skasElement .f32 false (.nan false) = some 0x7FC00000 ∧
    skasElement .i8 false (.rat false 128 1) = none := by decide +kernel
/-- The branch of 10's LOOP at slot 3 to slot 1 of the line at 4096, and a relocation that does not fit. -/
theorem test_relocations : applyReloc 4096 (fun _ => true) ⟨320, 1, 3, 0, 0⟩ (4096 + 128) 0 = some (2 ^ 320) ∧
    applyReloc 0 (fun _ => true) ⟨0, 1, 1, 8, 0⟩ 256 0 = none ∧ applyReloc 0 (fun _ => true) ⟨0, 1, 2, 8, -1⟩ 0 0 = some 255 := by decide +kernel
theorem test_management_port : i3cRead (warm .hot) 1 = some 2 ∧ i3cRead (warm .hot) 6 = none ∧
    i3cWrite 2 900 (demo []) = some (execCapWrite 900 (demo [])) ∧ i3cWrite 3 0 (demo []) = some (.next (demo [])) ∧
    i3cWrite 6 0 (demo []) = none := ⟨rfl, rfl, rfl, rfl, rfl⟩
theorem test_quote : bitsAt (quoteOf 5 6 9 3 7) 896 384 = 5 ∧ bitsAt (quoteOf 5 6 9 3 7) 512 384 = 6 ∧
    bitsAt (quoteOf 5 6 9 3 7) 448 64 = 9 ∧ bitsAt (quoteOf 5 6 9 3 7) 416 32 = 3 ∧ bitsAt (quoteOf 5 6 9 3 7) 0 256 = 7 := by
  decide +kernel

/-- The same kernel as 10 prints it; its jig carries the partition word 0x00081701, 16 and 4 registers, and one strand. -/
def addThreeSource : List String :=
  ["        .kernel addthree", "        .regs   g=16, v=4", "        .pool   rf=1, sp=23, acc=8        ; D = 1 × (1,024 + 512 + 128) bits",
   "        .jig    entry=start, spc=1", "        .section code", "start:  MOVI    g9, 3                     ; pass count",
   "top:    ADD     g5, g5, 2                 ; immediate form, row 0x060", "      | VADD    v1, v1, v2                ; joins ADD's group",
   "        LOOP    g9, top", "        EXIT", "        .end"]
theorem test_example_source : (match skasText addThreeSource with
    | .ok o => (o.secs.map fun x => (x.type, x.len)) == [(1, 512), (4, 512)] &&
        (o.secs.map fun x => x.bits % 2 ^ 32) == [0x8F1911A3, 0] &&
        (o.secs.map fun x => bitsAt x.bits 44 20 + 2 ^ 20 * bitsAt x.bits 160 32).getLast? == some (16 * 2 ^ 12 + 4 * 2 ^ 4 + 1 + 2 ^ 20 * 0x00081701)
    | .error _ => false) = true := by decide +kernel
/-- The field of 18's example line, and one whose tick= is no word of it. -/
theorem test_directive_text : ((skasLineOf "experts: .field xf, base=xcells, rows=1, cols=8, k=8, tick=clamp2, sat=255").2.bind fun x =>
      SkasState.readDirective {} x) = some (.field "xf" (.sym "xcells") 1 8 8 (.clamp 2) false 255) ∧
    ((skasLineOf ".field xf, base=0, rows=1, cols=8, tick=clock2").2.bind fun x => SkasState.readDirective {} x) = none ∧
    (skasText [".section data", " | .align 8"]).toOption = none := by decide +kernel
/-- A kernel without .pool, and a .data value of 2.0 for an integer type, are errors. -/
theorem test_source_errors : (skas [.kernel "k", .regs 16 4, .jig "a" 1 0 (.num 0) (.num 0), .end_]).toOption = none ∧
    (skas [.section_ .data "d", .data (.cvt .i8) false ["2.0"]]).toOption = none ∧
    ((skas [.section_ .data "d", .bits 3 [.num 9], .data (.cvt .i8) false ["2"]]).toOption.map fun o => o.secs.map (·.bits)) = some [17] := by
  decide +kernel

/-- A watch that woke 1,000 ticks ago, over a buffer with one entry. -/
def touched : State :=
  { serving .active with parts := [(1, { part1 with root := 2 ^ 22, fbuf := { nrec := 1, entries := [(0, { va := 2 ^ 26 + 5 })] } })]
                         mem := Memory.setBits tables (2 ^ 23) 256 0, dies := [(0, { groups := [{ group1 with granule := 128 }] })]
                         svcRoot := 2 ^ 30, now := 1000, watches := [(1, { wokeAt := some 0 })] }
/-- A granule recorded outside every range becomes TYPE 3, the buffer is cleared, its monitor armed, and the open groups walk again (R368). -/
theorem test_first_touch : ((serveTouches touched 1 [] [] [0] [2 ^ 24, 2 ^ 25]).map fun t =>
      (walk t 1 (2 ^ 26) == .refused, (getPart t 1).fbuf.nrec, (getDie t 0).groups.map (·.retry), t.watches)) = some (true, 0, [true], [(1, {})]) ∧
    serveTouches { touched with now := 999 } 1 [] [] [0] [2 ^ 24, 2 ^ 25] = none := by decide +kernel

/-- Partition 1 without work on its core. -/
def unused (st : CtxSt) : State := { serving st with cores := [(0, { core0 with launch := 0 })] }
/-- ContextStates: a partition whose cores may change, and a change that may be made; a watch in each of its states; a granule that is mapped; a session
that is new; a step that recovery does not take. -/
theorem test_service_hypotheses :
    (mayRecore (unused .empty) 1 = true ∧ recoreOk (unused .empty) 1 [1] [(0, 7)] = true ∧ mayRecore (serving .active) 1 = false ∧
      recoreOk (serving .empty) 1 [] [] = false) ∧
      (nget? (serving .active).watches 1 = none ∧ (getPart (serving .active) 1).st ≠ .free ∧
        nget? ({ touched with watches := [(1, ⟨true, none⟩)] } : State).watches 1 = some ⟨true, none⟩ ∧
        nget? touched.watches 1 = some ⟨false, some 0⟩ ∧ 999 < 0 + 1000 ∧ 0 + 1000 ≤ touched.now ∧ serviceUp touched = true ∧
        (getPart touched 1).fbuf.nrec = 1) ∧
      ((8 : Nat) ∉ (serving .active).sessions ∧ heardInRecovery (.quotaChange 7 .pages 3) = false) := by decide +kernel
theorem test_touch_hypotheses : (touchGranule [] [] 1 touched ({ va := 2 ^ 26 + 5 }, 0) [2 ^ 24, 2 ^ 25]).isSome = true ∧
    touchGranule [] [] 1 touched ({ va := 2 ^ 26 + 5 }, 0) [] = none := by decide +kernel
theorem test_mapped_granule : (match walk { touched with mem := tables, keys := [(0, (0, 0)), (1, (7, 0))] } 1 (canonOf (bitsAt (2 ^ 26 + 5) 19 38 * 2 ^ 19)) with
    | .hit _ => true | _ => false) = true := by decide +kernel
/-- R326: core 1 takes the place of core 0, and brings nothing. -/
theorem test_recore : (match step { unused .empty with agenda := [.recore 1 [1] [(0, 7)]] } with
    | .next t => (getPart t 1).cores == [1] && (getCore t 1).tag == 1 && (getCore t 0).tag == 0 && granuleHolder t 0 7 == 1
    | _ => false) = true := by decide +kernel

/-! ### Further clauses: registers, memory and transfers -/

/-- VectorMoves: a table of two registers that runs past v31. -/
theorem test_table_past_v31 :
    (Runs (demo []) u0 [.v 31, .v 1, .v 0] ∧ (turnCore (demo [])).vcount ≤ 32 ∧
      (turnCore (demo [])).vcount ≤ (31 : Fin 32).val + (1 : BitVec 3).toNat) ∧
      after (.vtbl u0 0 31 1 1 0x80) (demo []) (fun t => (turn t).cause == 0x042 && (turn t).tval == 32) = true :=
  ⟨⟨runs_of (by decide +kernel), by decide +kernel, by decide +kernel⟩, by decide +kernel⟩

/-- AccessTraps and Atomics: the vector and atomic forms run; an operand that crosses a word traps for each of the atomics. -/
theorem test_access_forms_run :
    (Runs (demo []) u0 [.g (r 3), .g (r 4), .v 1] ∧ Runs (demo []) u0 [.g (r 3), .g (r 4)] ∧
      Runs (demo []) u0 [.g (r 3), .g (r 4), .g (r 6), .g (r 5)]) ∧
      (eaPlain (turn (demo [(3, 2 ^ 56)])) (r 3) 0 / 64 = (eaPlain (turn (demo [(3, 2 ^ 56)])) (r 3) 0 + 32 - 1) / 64 ∧
        canonical (2 ^ 56) = false ∧ ¬ (33 / 64 = (33 + vtypeWidth (.f .f32) - 1) / 64)) ∧
      after (.red u0 (r 3) (r 4) (.int .n32 .add) .rlx .pa 0) (demo [(3, 33)])
        (fun t => (turn t).cause == 0x080 && (turn t).tval == 33) = true ∧
      after (.cas u0 (r 5) (r 3) (r 4) (r 6) (.f .f32) .rlx .pa 0) (demo [(3, 33)])
        (fun t => (turn t).cause == 0x080 && (turn t).tval == 33) = true ∧
      after (.vld u0 1 (r 3) (r 0) .rlx .pa 0) (demo [(3, 2 ^ 56)]) (fun t => (turn t).cause == 0x0C0) = true :=
  ⟨⟨runs_of (by decide +kernel), runs_of (by decide +kernel), runs_of (by decide +kernel)⟩, by decide +kernel⟩

/-- The demo whose strand's node is cancelled and counts n. -/
def stopped (n : Nat) : State := { demo [] with parts := [(1, { part1 with nodes := [(1, { node1 with cf := true, cnt := n })] })] }

/-- FencesAndMonitors: a range that crosses a word, an armed monitor that has not fired, a cancelled node that counts and one that
does not. -/
theorem test_monitor_hypotheses_more :
    (57 / 64 ≠ (57 + 8 - 1) / 64 ∧ (∃ j : Fin 4, (turn (as { who [] with mon := mons (.armed false 0 8) .disarmed })).mon[j] ≠ .disarmed) ∧
        (∀ j : Fin 4, (turn (as { who [] with mon := mons (.armed false 0 8) .disarmed })).mon[j] ≠ .fired) ∧
        (turn (demo [])).mon = Vector.replicate 4 .disarmed) ∧
      (strandCancelled (stopped 2) 0 0 = true ∧ counterEmpty (stopped 2) 1 1 = false ∧ counterEmpty (stopped 0) 1 1 = true ∧
        redsAtPeer (stopped 2) 1 (fun _ => true) = false) ∧
      after (.marm u0 (r 3) 8 2 true 0) (demo [(3, 57)]) (fun t => (turn t).cause == 0x082 && (turn t).tval == 57) = true ∧
      after (.waita u0 (r 5) (r 3) 7) (as { who [] with mon := mons (.armed false 0 8) .disarmed })
        (fun t => (turn t).status == .asleep (.waita 0 7 5)) = true ∧
      after (.waita u0 (r 5) (r 3) 0) (stopped 2) (fun t => !(turn t).live) = true := by decide +kernel

/-- A field of its own, with its identifier, under a live demo. -/
def under (id : Nat) (f : Field) : State := { demo [] with parts := [(1, { part1 with fields := [(id, f)] })] }

/-- Marks: a cell in no field, in a frozen one, in the load field, and in one that another source advances. -/
theorem test_mark_hypotheses_more :
    (AtOnce (under 1 field0) ∧ fieldOf (under 1 field0) 1 512 = none ∧ 512 % 32 = 0 ∧
      Here (under 1 field0) [(512, 32)] true true [(page0, 512, 32)] ∧ Here (under 1 field0) [(512, 32)] true false [(page0, 512, 32)]) ∧
      (fieldOf (under 1 { field0 with st := .frozen }) 1 480 = some (1, { field0 with st := .frozen }) ∧
        Here (under 1 { field0 with st := .frozen }) [(480, 32)] true ((1 : Nat) != 0) [(page0, 480, 32)]) ∧
      (fieldOf (under 0 field0) 1 480 = some (0, field0) ∧ Here (under 0 field0) [(480, 32)] true ((0 : Nat) != 0) [(page0, 480, 32)] ∧
        field0.st ≠ .frozen) ∧
      (fieldOf (under 1 { field0 with tsrc := 1 }) 1 480 = some (1, { field0 with tsrc := 1 }) ∧ ({ field0 with tsrc := 1 } : Field).tsrc ≠ 0) :=
  ⟨⟨at_once_of (by decide +kernel), by decide +kernel, by decide +kernel, here_of (by decide +kernel), here_of (by decide +kernel)⟩,
    ⟨by decide +kernel, here_of (by decide +kernel)⟩, ⟨by decide +kernel, here_of (by decide +kernel), by decide +kernel⟩, by decide +kernel⟩

/-- The demo of `under` with an address in g3. -/
def marked (id : Nat) (f : Field) (a : Word) : State := { under id f with strands := [(0, who [(3, a)])] }
theorem test_mark_traps :
    after (.mrd u0 (r 5) (r 3) .rlx .pa 0) (marked 1 field0 481) (fun t => (turn t).cause == 0x081) = true ∧
      after (.tickr u0 (r 5) (r 3) 0) (marked 1 field0 512) (fun t => (turn t).cause == 0x240) = true ∧
      after (.dep u0 (r 5) (r 3) (r 4) .add .rlx .pa 0) (marked 1 { field0 with st := .frozen } 480)
        (fun t => (turn t).cause == 0x241) = true ∧
      after (.dep u0 (r 5) (r 3) (r 4) .add .rlx .pa 0) (marked 0 field0 480) (fun t => (turn t).cause == 0x242) = true ∧
      after (.tadv u0 (r 5) (r 3) 0) (marked 1 { field0 with tsrc := 1 } 480) (fun t => (turn t).cause == 0x243) = true := by
  decide +kernel

/-- Four slots that are no END: operation 1, a bit reserved in the second, or one operation not assigned. -/
def chain4 (x y : Nat) : VWord := BitVec.ofNat 128 (x + y * 2 ^ 32 + x * 2 ^ 64 + x * 2 ^ 96)

/-- ChainElement: a program that fills vC, with and without a second register, one that does not, and bad slots. -/
theorem test_chain_hypotheses_more :
    (let long (v : VWord) : Prop := ∀ i < 4, v.toNat / 2 ^ (32 * i + 28) % 2 ^ 4 ≠ 0
     long (chain4 0x10000000 0x10000000) ∧ ¬ long 0x10003F80) ∧
      (¬ ((31 : Fin 32).val + 1 < 32 ∧ (31 : Fin 32).val + 1 < (turnCore (demo [])).vcount) ∧
        ((30 : Fin 32).val + 1 < 32 ∧ (30 : Fin 32).val + 1 < (turnCore (demo [])).vcount)) ∧
      ((chainSlots (chainProgram (chain4 0x10000000 0x10010000).toNat 0))[1]? = some 0x10010000 ∧
        (∀ y ∈ (chainSlots (chainProgram (chain4 0x10000000 0x10010000).toNat 0)).take 1, ¬ (11 ≤ y / 2 ^ 28 ∨ y / 2 ^ 16 % 2 ^ 12 ≠ 0)) ∧
        (11 ≤ 0xB0000000 / 2 ^ 28) ∧ 0x10010000 / 2 ^ 16 % 2 ^ 12 ≠ 0) ∧
      (∀ y ∈ chainSlots (chainProgram 0x10003F80 0), ¬ (11 ≤ y / 2 ^ 28 ∨ y / 2 ^ 16 % 2 ^ 12 ≠ 0)) := by decide +kernel

theorem test_chain_traps :
    after (.chain u0 (r 7) (r 5) (r 6) 31 .f32 .bf16 .rne false true true) (demo [] [(31, chain4 0x10000000 0x10000000)])
        (fun t => (turn t).cause == 0x042 && (turn t).tval == 32) = true ∧
      after (.chain u0 (r 7) (r 5) (r 6) 30 .f32 .bf16 .rne false true true) (demo [] [(30, chain4 0x10000000 0x10010000)])
        (fun t => (turn t).cause == 0x181 && (turn t).tval == 2 ^ 32 + 0x10010000) = true ∧
      after (.chain u0 (r 0) (r 5) (r 6) 31 .f32 .bf16 .rne false true true) (demo [] [(31, 0x10003F80)])
        (fun t => (turn t).pc == 128) = true := by decide +kernel

/-- EngineCommandsIssue: schedule entries of the four kinds, and a number past the last. -/
theorem test_schedule_hypotheses :
    ((decodeSlot (encode (.copy u0 (r 1) (r 3) (r 4) (.plain .none) 5 .co false 1 2 0 0)) =
        .ok (.copy u0 (r 1) (r 3) (r 4) (.plain .none) 5 .co false 1 2 0 0)) ∧
      (decodeSlot (encode (.copyv u0 (r 1) (r 3) (r 4) (r 6) 5 .pk true 1 2 0 0)) =
        .ok (.copyv u0 (r 1) (r 3) (r 4) (r 6) 5 .pk true 1 2 0 0)) ∧
      decodeSlot (encode (.mdld u0 (r 1) (r 3) (r 4) 2 1 0 0)) = .ok (.mdld u0 (r 1) (r 3) (r 4) 2 1 0 0)) ∧
      ([encode (.mdld u0 (r 1) (r 3) (r 4) 2 1 0 0)].length ≤ 1 ∧ [encode (.mdld u0 (r 1) (r 3) (r 4) 2 1 0 0)][0]? =
        some (encode (.mdld u0 (r 1) (r 3) (r 4) 2 1 0 0))) ∧
      after (.cstage u0 (r 5) (r 6) 1) (busy { core0 with sched := { slots := [encode (.mdld u0 (r 1) (r 3) (r 4) 2 1 0 0)] } })
        (fun t => (turn t).cause == 0x1D0 && (turn t).tval == 1) = true := by decide +kernel
theorem test_cstage_mdld : after (.cstage u0 (r 5) (r 6) 0)
    (busy { core0 with tags := -1, sched := { slots := [encode (.mdld u0 (r 1) (r 3) (r 4) 2 1 0 0)] } } [(3, 11)])
    (fun t => ((turnCore t).q1.map fun m => (m.kind, m.tag, m.opa, m.sc, m.entry)) == [(.mdld, 2, 11, .co, some (0, 1))] &&
      nget (turnCore t).sched.released 0 0 == 1) = true := by decide +kernel

/-- Tags and Wakes: no copy has a write under way. -/
theorem test_no_copies : (∀ e ∈ (demo []).cores, ∀ q ∈ e.2.requests ++ e.2.reds, q.copy = none) ∧
    (turn (demo [])).redFault = none := by decide +kernel

/-- TaskTraps: a YIELD under a cancelled node that counts nothing, a full head, a full counter, and a second parent that ended. -/
theorem test_task_trap_hypotheses :
    (getNode? (stopped 0) 1 (turn (stopped 0)).node = some { node1 with cf := true, cnt := 0 } ∧ Runs (stopped 0) u0 []) ∧
      after (.yield u0) (stopped 0) (fun t => (turn t).cause == 0x206 && (turn t).tval == 1) = true ∧
      after (.exit u0) (stopped 0) (fun t => (turn t).cause == 0x206 && (turn t).tval == 1) = true ∧
      after (.join u0 (r 3)) { stopped 2 with strands := [(0, who [(3, 9)])] } (fun t => (turn t).cause == 0x203 && (turn t).tval == 9) = true :=
  ⟨⟨by decide +kernel, runs_of (by decide +kernel)⟩, by decide +kernel⟩

/-- StealClampLaunch and LevelNodes: a parent's full counter, a quota used up, and a parent of an index below 4,096. -/
theorem test_launch_trap_hypotheses :
    (2 ^ 32 ≤ ({ open2 with cnt := 2 ^ 32 - 1 } : Node).cnt + 1 ∧
      (getTenant { launching with tenants := [(7, { nodeQuota := 2 })] } 7).nodeQuota ≤
        tenantNodes { launching with tenants := [(7, { nodeQuota := 2 })] } 7 ∧ unit3.parent < 4096 ∧ open2.cfCore = none ∧
      (∀ e ∈ (getPart (kids { open2 with cnt := 2 } { unit3 with cnt := 0 }) 1).nodes,
        e.1 = upOf { open2 with cnt := 2 } → e.2.parent ≠ 3)) ∧
      after (.launch u0 (r 5) (r 3) (r 4) (r 6)) { launching with tenants := [(7, { nodeQuota := 2 })] }
        (fun t => (turn t).cause == 0x202 && (turn t).tval == 2) = true ∧
      after (.launch u0 (r 5) (r 3) (r 4) (r 6))
        { launching with parts := [(1, { getPart launching 1 with nodes := [(1, node1), (2, { open2 with cnt := 2 ^ 32 - 1 })] })] }
        (fun t => (turn t).cause == 0x206 && (turn t).tval == 2) = true := by decide +kernel

/-- Arrangements: a pair that a full arrangement holds, and a sum of 0 for one that it does not. -/
def fullArr : List (Nat × Nat × Int) := (3, 4, 1) :: List.replicate 65535 (1, 1, 1)
theorem test_full_arrangement_hypotheses :
    65536 ≤ fullArr.length ∧ (fullArr.find? fun e => e.1 == 3 && e.2.1 == 4).map (·.2.2) = some 1 := by
  refine ⟨?_, rfl⟩
  rw [fullArr, List.length_cons, List.length_replicate]

/-! ### Further clauses: memory, translation and engines -/

/-- HomeSlices: a strand that stands outside the line it reads; TranslationEvents: a tenant whose page requests are used up. -/
theorem test_event_hypotheses :
    lineBase (getStrand (asleep (.refetch 512)) 0 0).pc.toNat ≠ 512 ∧ lineBase (getStrand (asleep (.refetch 0)) 0 0).pc.toNat = 0 ∧
      (entryFree { missing group2 [] with tenants := [(7, { pageQuota := 0 })] } 0 1 = false ∧ group2.held = false) ∧
      after (.pageWalkComplete 0 0 none) { missing group2 [] with tenants := [(7, { pageQuota := 0 })] }
        (fun t => (getPart t 1).fbuf.nrec == 0 && (getDie t 0).waiting == [{ group2 with walking := false }]) = true ∧
      after (.lineParityRefetch 0 0) { asleep (.refetch 512) with mem := [(65605, 1)] }
        (fun t => (getStrand t 0 0).badLine == some 512 && (getStrand t 0 0).status == .ready) = true := by decide +kernel

/-- The copy of `copying` from core 1's pool to core 0's, in f32, with its version word at 512. -/
def pair (m : Cmd) (p0 p1 : Memory) (k : CoreSt := core0) : State :=
  { copying m with
    cores := [(0, { k with q1 := [m], out := [(0, 1)], pool := p0 }), (1, { core0 with pool := p1 })]
    parts := [(1, { part1 with cores := [0, 1], launches := [(1, launch1)] })] }
def far : Cmd :=
  { copy1 with da := { poolTensor 0 with fmt := 0, rstr := 512, core := 1 }, db := { poolTensor 576 with fmt := 0, rstr := 512 } }
def versioned : Cmd := { far with kind := .copyv, opc := 6 }

/-- CopySteps: one element between pools of two cores in one format; a version word that holds its comparand; combines; a channel at
its fill; metadata; a tile in global memory and one in the B store. -/
theorem test_element_hypotheses :
    ((∀ e ∈ (pair far [] []).cores, e.2.requests = [] ∧ e.2.reds = []) ∧ far.prog.started = true ∧ far.prog.element = 0 ∧ isFwd far = false ∧
      far.vlm = 1 ∧ far.vln = 1 ∧ far.da.fmt < 16 ∧ far.db.fmt = far.da.fmt ∧ far.db.sexp = far.da.sexp) ∧
      (far.da.space = 1 ∧ far.db.space = 1 ∧ tensorCore (pair far [] []) 0 far.da = some 1 ∧
        tensorCore (pair far [] []) 0 far.db = some 0 ∧ (getCluster (pair far [] []) 0).runCopy = some (0, 0) ∧
        findCmd (pair far [] []) 0 false 0 = some far ∧ cmdGoes far = true) ∧
      (cmbOf { far with m := 1 * 2 ^ 6 } = 1 ∧ cmbOf { far with m := 2 * 2 ^ 6 } = 2 ∧ far.da.fmt = 0) ∧
      (versioned.prog.compared = false ∧ versioned.opc < 2 ^ 64 ∧ versionAddr versioned + 64 ≤ elemAddr versioned.db 0 0 ∧
        (getCore (pair versioned [(64, 6)] []) 0).pool.bits (versionAddr versioned) 64 = versioned.opc ∧
        (getCore (pair versioned [(64, 7)] []) 0).pool.bits (versionAddr versioned) 64 ≠ versioned.opc) ∧
      (let w : Channel := { base := 576, len := 64, fill := 0 }
       w.gen = ({ far with kind := .wmark } : Cmd).chGen ∧ w.written = [] ∧ w.base + w.fill = elemAddr far.db 0 0 ∧ w.fill + 32 ≤ w.len) ∧
      (cached (pair far [] []) 0 576 = some page0 ∧ page0.wr = true ∧ page0.rd = true ∧ page0.peer = false ∧ canonical 576 = true ∧
        576 % 512 + 32 ≤ 512) ∧ Plain [page0.part 576 32] ∧ Apart (pair far [] []) [page0.part 576 32] :=
  ⟨by decide +kernel, by decide +kernel, by decide +kernel, by decide +kernel, by decide +kernel, by decide +kernel,
    plain_of (by decide +kernel), apart_of (by decide +kernel)⟩

theorem test_copyv_step :
    after (.copyStep 0 ⟨none, false⟩) (pair versioned [(64, 6)] [(0, 0xA5)])
        (fun t => (getCore t 0).pool.read 64 == 8 && (getCore t 0).pool.read 72 == 0xA5 && ((getCore t 0).q1.map (·.prog.ended)) == [true]) = true ∧
      after (.copyStep 0 ⟨none, false⟩) (pair versioned [(64, 7)] [(0, 0xA5)])
        (fun t => (getCore t 0).pool == [(64, 7)] && ((getCore t 0).q1.map (·.prog.failed)) == [true]) = true ∧
      after (.copyStep 0 ⟨some 1, false⟩) (pair versioned [(64, 6)] [(0, 0xA5)])
        (fun t => (getCore t 0).pool == [(64, 7)] && ((getCore t 0).q1.map (·.prog.fault)) == [some (0x1C7, 0, 0)]) = true := by decide +kernel
/-- 1.0 + 2.0 is 3.0, and the larger of them 2.0. -/
theorem test_combine_step :
    after (.copyStep 0 ⟨none, false⟩) (pair { far with m := 1 * 2 ^ 6 } [(75, 0x40)] [(2, 0x80), (3, 0x3F)])
        (fun t => (getCore t 0).pool.bits 576 32 == 0x40400000) = true ∧
      after (.copyStep 0 ⟨none, false⟩) (pair { far with m := 2 * 2 ^ 6 } [(75, 0x40)] [(2, 0x80), (3, 0x3F)])
        (fun t => (getCore t 0).pool.bits 576 32 == 0x40000000) = true := by decide +kernel
theorem test_wmark_step : after (.copyStep 0 ⟨none, false⟩)
    (pair { far with kind := .wmark } [] [(0, 0xA5)] { core0 with wch := Vector.replicate 4 { base := 576, len := 64, fill := 0 } })
    (fun t => (getCore t 0).pool.read 72 == 0xA5 && ((getCore t 0).wch[(0 : Fin 4)]).fill == 32 && ((getCore t 0).wch[(1 : Fin 4)]).fill == 0) = true := by
  decide +kernel
theorem test_mdld_step : after (.copyStep 0 ⟨none, false⟩) (pair { far with kind := .mdld, opb := 64 } [] [(0, 0xA5)])
    (fun t => (getCore t 0).side.read 8 == 0xA5 && ((getCore t 0).q1.map (·.prog.ended)) == [true]) = true := by decide +kernel
theorem test_copy_to_memory : after (.copyStep 0 ⟨none, false⟩) (pair { far with db := { far.db with space := 0 } } [] [(0, 0xA5)])
    (fun t => t.mem.read (65536 + 72) == 0xA5) = true := by decide +kernel
theorem test_copy_to_store : after (.copyStep 0 ⟨none, false⟩)
    { pair { far with da := { far.da with space := 0 }, db := { far.db with space := 2 } } [] [] with mem := [(65536, 0xA5)] }
    (fun t => (getCluster t 0).bstore.read 72 == 0xA5) = true := by decide +kernel
theorem test_late_copy : after (.copyStep 0 ⟨none, true⟩) (pair far [] [(0, 0xA5)])
    (fun t => (getCore t 0).pool == [] && ((getCore t 0).requests.map (·.op)) == [.poolWrite [(576, 32, 0xA5)]]) = true := by decide +kernel

/-- A sparse job of one group, whose metadata code is c in each of its four-wide groups; a cvt job; and a job of no groups. -/
def sparse1 : Cmd := { job1 with xo := 2 }
def meta4 (c : Nat) (k : CoreSt := core0) : CoreSt := { k with side := [(0, BitVec.ofNat 8 (c * 17)), (1, BitVec.ofNat 8 (c * 17))] }
def cvt1 : Cmd := { job1 with kind := .cvt, da := {}, db := { poolTensor 512 with fmt := 1 } }

/-- MatrixSteps: metadata that R174 admits and metadata that it does not, a cvt job, and a job of no groups. -/
theorem test_job_kinds_hypotheses :
    (job1.prog.started = true ∧ job1.prog.rowBlock = 0 ∧ job1.prog.group = 0 ∧ job1.vlm = 1 ∧ job1.vln = 1 ∧ job1.kind = .mac) ∧
      (isSparse sparse1 = true ∧ sparse1.vlk = groupSize sparse1 ∧
        (∀ q < 4, sparse1.opa / 2 ^ 32 % 2 ^ 16 + 4 * q + 4 ≤ 2 ^ 16 ∧ (meta4 4).side.bits (4 * q) 4 % 4 < (meta4 4).side.bits (4 * q) 4 / 4) ∧
        ¬ ((meta4 5).side.bits 0 4 % 4 < (meta4 5).side.bits 0 4 / 4)) ∧
      (cvt1.kind = .cvt ∧ cvt1.db.fmt < 16 ∧ findCmd (working cvt1) 0 true 0 = some cvt1) ∧
      matrixFault (working { job1 with vlk := 0, prog := {} }) { job1 with vlk := 0, prog := {} } = none ∧
      (zeroFirst { job1 with xo := 1 } = true ∧ zeroFirst job1 = false) := by decide +kernel

/-- The first stored value of row 0 meets row 0 of B under code 4 (places 0 and 1). -/
theorem test_sparse_step :
    after (.matrixStep 0 none) { working sparse1 (meta4 4 { core0 with pool := [(0, 0x38)] }) with
        clusters := [(0, { runMat := some (0, 0), bstore := [(0, 0x38)] })] }
      (fun t => (getCore t 0).pool.bits (2 ^ 19) 32 == 0x3F800000 && ((getCore t 0).q0.map (·.prog.ended)) == [true]) = true ∧
    after (.matrixStep 0 none) (working sparse1 (meta4 5))
      (fun t => ((getCore t 0).q0.map (·.prog.fault)) == [some (0x1C9, 0, 0)]) = true := by decide +kernel
/-- 1.0 of the tile becomes bf16 1.0. -/
theorem test_cvt_step : after (.matrixStep 0 none) (working cvt1 { core0 with pool := [(65538, 0x80), (65539, 0x3F)] })
    (fun t => (getCore t 0).pool.bits 512 16 == 0x3F80 && ((getCore t 0).q0.map (·.prog.ended)) == [true]) = true := by decide +kernel
theorem test_zero_first : after (.matrixStep 0 none) (working { job1 with vlk := 0, prog := {}, xo := 1 } { core0 with pool := [(65538, 0x80)] })
    (fun t => (getCore t 0).pool.bits (2 ^ 19) 32 == 0) = true ∧
    after (.matrixStep 0 none) (working { job1 with vlk := 0, prog := {} } { core0 with pool := [(65538, 0x80)] })
      (fun t => (getCore t 0).pool.read 65538 == 0x80) = true := by decide +kernel
/-- A NaN product is counted in the job's header. -/
theorem test_job_counts : after (.matrixStep 0 none)
    { working job1 { core0 with pool := [(0, 0x7F)] } with clusters := [(0, { runMat := some (0, 0), bstore := [(0, 0x38)] })] }
    (fun t => (getCore t 0).th[0].toNat == stickyAdd 0 1 0) = true := by decide +kernel

/-! ### Further clauses: tasks and launches -/

/-- Core 0 with records, and core 1, of the same launch, that asks it for one. -/
def asked1 (recs : List Rec) (k : CoreSt := core0) : State :=
  { busy core0 with
    now := 65536, cores := [(0, { core0 with deque := recs }), (1, k)], steals := [⟨1, none, 0, 1, none⟩]
    parts := [(1, { part1 with cores := [0, 1], launches := [(1, { launch1 with cores := [0, 1] })] })] }

/-- SlotsAndSteals: a thief that is another core, with room, parked or not; a plain record, and a range that splits. -/
theorem test_thief_hypotheses :
    ((getCore (asked1 [recA]) 1).parked = false ∧ roomHead (getCore (asked1 [recA]) 1) = true ∧ (0 : Nat) ≠ 1 ∧
      (getCore (asked1 [recA]) 1).deque.length < 32 ∧ tailRecord (getCore (asked1 [recA]) 0) 1 = some recA ∧
      nodeCancelled (asked1 [recA]) (tagOf (asked1 [recA]) 0) recA.node = false ∧ recA.kind ≠ .range) ∧
      (tailRecord (getCore (asked1 [range1]) 0) 1 = some range1 ∧ 2 * 2 ^ range1.grain ≤ range1.g2.toNat - range1.g1.toNat ∧
        getNode? (asked1 [range1]) (tagOf (asked1 [range1]) 0) range1.node = some node1 ∧ (getCore (asked1 [range1]) 0).ring = [] ∧
        (getCore (asked1 [range1]) 0).deque = [range1]) ∧
      ((getCore (asked1 [] { core0 with parked := true }) 1).parked = true ∧ tailRecord (getCore (asked1 []) 0) 1 = none ∧
        splittableSlot (asked1 []) 0 1 = none) := by decide +kernel
theorem test_thief : after (.stealRequestServe 0) (asked1 [recA])
      (fun t => (t.steals.map (·.reply)) == [some (1, none)] && (getCore t 1).deque == [{ recA with pri := 3, agedAt := 65536 }] &&
        (getCore t 0).deque == []) = true ∧
    after (.stealRequestServe 0) (asked1 [range1])
      (fun t => ((getCore t 1).deque.map fun x => (x.g1, x.g2)) == [(50, 100)] && ((getCore t 0).deque.map fun x => (x.g1, x.g2)) == [(0, 50)]) = true ∧
    after (.stealRequestServe 0) (asked1 [] { core0 with parked := true })
      (fun t => t.steals == [] && (getCore t 1).inbox == [.steal none 3 none]) = true := by decide +kernel

/-- NodesAndDeltas: room at both ends of a deque, a node owed its flag and one whose parent was cancelled by a core, pushes that add
to a buffer and cancel with its record, a batch's area and count. -/
theorem test_node_hypotheses :
    (roomHead core0 = true ∧ roomTail core0 = true ∧ ({ recA with checkTgt := true } : Rec).checkTgt = true ∧ recA.checkTgt = false) ∧
      (nodeLives unit3 = true ∧ unit3.cf = false ∧ ({ unit3 with owed := true, cfCore := some 0 } : Node).owed = true ∧ unit3.owed = false ∧
        ancestor (kids { open2 with cf := true, cfCore := some 0 } unit3) 1 (fun z => z.cf || z.owed) 6 (upOf unit3) = some 2 ∧
        (getNode? (kids { open2 with cf := true, cfCore := some 0 } unit3) 1 2).map (·.cfCore) = some (some 0)) ∧
      ((∀ b ∈ ({ launch := 1 } : Queue).buf, sameRecord b.1 push1.drec = false) ∧ ({ launch := 1 } : Queue).buf.length < 256 ∧
        push1.tag = 1 ∧ push1.queue = 31 ∧ ({ launch := 1 } : Queue).stagePc = 0) ∧
      ({ launch := 1, draining := true } : Queue).draining = true ∧
      (launch1.cores ≠ [] ∧ node1.cnt + 1 < 2 ^ 32 ∧ ([2, 2, 2] : List Nat).length < 4 ∧ [rec1].length ≤ 64 ∧ [rec1] ≠ []) := by
  decide +kernel
/-- What a cancel passes on: the core that issued it. -/
theorem test_cancel_core : after (.cancelPropagate 1 3) (kids { open2 with cf := true, cfCore := some 0 } unit3)
      (fun t => (getNode? t 1 3).map (fun n => (n.cf, n.cfCore)) == some (true, some 0)) = true ∧
    after (.cancelPropagate 1 3) (kids open2 { unit3 with owed := true, cfCore := some 9 })
      (fun t => (getNode? t 1 3).map (fun n => (n.cf, n.cfCore)) == some (true, none)) = true := by decide +kernel

/-- Field 1 of 4 x 4 cells at 2^26, that no source ticks; the same without a ceiling, which R303 refuses. -/
def desc1 : Nat := 2 ^ 26 * 2 ^ 192 + 4 * 2 ^ 176 + 4 * 2 ^ 160 + 65535 * 2 ^ 112 + 2 ^ 106
def descBad1 : Nat := 2 ^ 26 * 2 ^ 192 + 4 * 2 ^ 176 + 4 * 2 ^ 160 + 2 ^ 106
/-- Queue 31 with arrangement 15, no stage queue; its batch areas. -/
def bind1 : Nat := 31 + 2 ^ 47
def areas1 : List Nat := [2 ^ 27, 2 ^ 28, 2 ^ 29, 2 ^ 30]
/-- The launch of `placing` under a jig, with more than one child of its job and a tenant's quotas. -/
def placingJig (fields queues : List Nat) (q : Tenant := {}) (p : Partn := getPart placing 1) : State :=
  { withTables { placing with parts := [(1, { p with
      nodes := [(1, node1), (2, { open2 with cnt := 2 }), (3, node3)]
      kernels := [(1, { jig := { jig1 with fields := fields, queues := queues } })] })] } [] with tenants := [(7, q)] }

/-- LaunchesPlaceAndRetire: a jig with a field, and one with a queue and an arrangement, that may be placed. -/
theorem test_jig_hypotheses :
    (firstPending (placingJig [desc1] []) 1 = some (1, pending1) ∧ descOk (placingJig [desc1] []) 1 desc1 = true ∧ descFid desc1 = 1 ∧
      nget? (getPart (placingJig [desc1] []) 1).fields 1 = none ∧ tenantFields (placingJig [desc1] []) 7 < ({} : Tenant).fieldQuota ∧
      fieldRoom (placingJig [desc1] []) 7 = true ∧ areasOk (placingJig [desc1] []) 1 0 [] = true) ∧
      (tenantBuffers (placingJig [] [bind1]) 7 < ({} : Tenant).bufferQuota ∧ bufferRoom (placingJig [] [bind1]) 7 = true ∧
        nget? (getPart (placingJig [] [bind1]) 1).queues (bind1 % 2 ^ 5) = none ∧ (getPart (placingJig [] [bind1]) 1).arrs = [] ∧
        areasOk (placingJig [] [bind1]) 1 1 areas1 = true ∧ bind1 / 2 ^ (32 + 15) % 2 = 1) ∧
      (pending1.n ≤ ((getPart placing 1).cores.filter fun e => (getCore placing e).launch == 0).length ∧ pending1.reqid = none ∧
        pending1.waiterSid = (getStrand placing 0 0).sid ∧ (getPart placing 1).cores.Nodup ∧ (1 : Nat) ≠ 0 ∧ pending1.graph = none) ∧
      Waits (placingJig [desc1] []) 0 0 (.launch 1 5) :=
  ⟨by decide +kernel, by decide +kernel, by decide +kernel, waits_of (by decide +kernel)⟩

/-- A field of another launch over the same cells; a queue and an arrangement of another launch. -/
def holding (f : List (Nat × Field)) (q : List (Nat × Queue)) (a : List (Nat × Arr)) : Partn :=
  { getPart placing 1 with fields := f, queues := q, arrs := a }
def other1 : Field := { field0 with base := 2 ^ 26, launch := 2 }
/-- LaunchesPlaceAndRetire: each check of R260, R287 and R303 that fails, and a parent that counts more than the launch. -/
theorem test_placement_failure_hypotheses :
    (descOk (placingJig [descBad1] []) 1 descBad1 = false ∧ descOk (placingJig [desc1] [] {} (holding [(1, other1)] [] [])) 1 desc1 = true ∧
      (nget? (holding [(1, other1)] [] []).fields (descFid desc1)).isSome = true ∧ fieldsOverlap other1 (fieldOfDesc desc1 1) = true ∧
      ({ fieldQuota := 0 } : Tenant).fieldQuota ≤ tenantFields (placingJig [desc1] [] { fieldQuota := 0 }) 7) ∧
      (({ bufferQuota := 0 } : Tenant).bufferQuota ≤ tenantBuffers (placingJig [] [bind1] { bufferQuota := 0 }) 7 ∧
        (nget? (holding [] [(31, { launch := 2 })] []).queues (bind1 % 2 ^ 5)).isSome = true ∧
        (holding [] [] [(15, { launch := 2 })]).arrs = [(15, { launch := 2 })] ∧ ({ launch := 2 } : Arr).launch ≠ 1 ∧
        bufferRoom (placingJig [] [bind1] {} (holding [] [(31, { launch := 2 })] [])) 7 = true) ∧
      (trapEnters (getStrand placing 0 0) 0x389 = true ∧ ((getPart (placingJig [] []) 1).launches.map (·.1)).Nodup ∧
        ((getPart (placingJig [] []) 1).nodes.map (·.1)).Nodup ∧ pending1.parent ≠ pending1.node ∧
        getNode? (placingJig [] []) 1 2 = some { open2 with cnt := 2 } ∧ nodeLives { open2 with cnt := 2 } = true) := by decide +kernel

/-- Whether the launch's placement fails with a code, and leaves the parent's count of the other child. -/
def refusesPlace (s : State) (areas : List Nat) (code tval : Nat) : Bool :=
  after (.launchPlacement 1 areas) s fun t => (getStrand t 0 0).cause == BitVec.ofNat 10 code && (getStrand t 0 0).tval == BitVec.ofNat 128 tval &&
    getLaunch? t 1 1 == none && (getNode? t 1 2).map (·.cnt) == some 1 && (getCore t 1).launch == 0
theorem test_placement_fails :
    refusesPlace (placingJig [descBad1] []) [] 0x389 1 = true ∧ refusesPlace (placingJig [desc1] [] {} (holding [(1, other1)] [] [])) [] 0x38A 1 = true ∧
      refusesPlace (placingJig [desc1] [] { fieldQuota := 0 }) [] 0x38B 1 = true ∧
      refusesPlace (placingJig [] [bind1] { bufferQuota := 0 }) areas1 0x387 31 = true ∧
      refusesPlace (placingJig [] [bind1] {} (holding [] [(31, { launch := 2 })] [])) areas1 0x388 31 = true ∧
      refusesPlace (placingJig [] [bind1] {} (holding [] [] [(15, { launch := 2 })])) areas1 0x388 15 = true := by decide +kernel
theorem test_field_placed : after (.launchPlacement 1 []) (placingJig [desc1] [])
    (fun t => (getField? t 1 1).map (fun f => (f.st, f.base, f.satv, f.timerAt)) == some (.live, 2 ^ 26, 65535, 10)) = true := by decide +kernel
theorem test_queue_placed : after (.launchPlacement 1 areas1) (placingJig [] [bind1])
    (fun t => (getQueue? t 1 31).map (fun q => (q.launch, q.areas)) == some (1, areas1) &&
      (getPart t 1).arrs == [(15, { launch := 1 })]) = true := by decide +kernel

/-! ### Further clauses: start-up, links and the service -/

/-- StartUpAndSnapshots: outcomes that all lie ahead of power-good, whichever image is accepted. -/
theorem test_outcomes_ahead : ∀ u ∈ plannedOutcomes (late 5) image0 image0, 0 < u.tick := by
  unfold plannedOutcomes
  simp only [List.mem_mergeSort]
  generalize fwAccepted image0 image0 = a
  generalize (fwDetail image0).getD 0 = d
  suffices h : ∀ l : List UnitOutcome, l.all (fun u => decide (0 < u.tick)) = true → ∀ u ∈ l, 0 < u.tick by
    cases a <;> exact h _ rfl
  intro l h u hu
  simpa using List.all_eq_true.mp h u hu

/-- Whether keys of the device's own verify a signature is free (Config.firmwareKey, Config.identityKey). Where they do, an image of version 1
is accepted under a minimum of 1, and a quote is. -/
theorem test_accepted (h : ∀ a k g m, verifies a k g m = true) (hm : Config.minSvn ≤ 1) :
    fwDetail { image0 with digest := ofLeBytes (sha384 []) } = none ∧
      ∀ q, quoteAccepted (Config.identityKey 0) (Config.identityKey 1) (signedQuote q) = true := by
  refine ⟨?_, fun q => by unfold quoteAccepted; simp [h]⟩
  unfold fwDetail fwVersion
  simp [h, image0]; omega

/-- StartUpAndSnapshots: a trigger that the next tick latches, a latch in its last tick, and one past it. -/
theorem test_latch_hypotheses :
    (let s : State := { demo [] with snap := { pending := true }, agenda := [.tick] }
     s.supply = true ∧ s.boot.todo = [] ∧ s.snap.pending = true ∧ s.snap.latchedAt = none) ∧
      (let s : State := { latched with snap := { latched.snap with pending := false }, now := 66, agenda := [.tick] }
       s.snap.pending = false ∧ s.snap.latchedAt = some 4 ∧ s.now + 1 < 4 + 64 ∧ 4 + 64 ≤ s.now + 2) ∧
      (match step { latched with snap := { latched.snap with pending := false }, now := 67, agenda := [.tick] } with
        | .next t => t.snap == { seq := 1, words := [(0, 4)] } | _ => false) = true := by decide +kernel

/-- PeersAndPackets: packets that are unsecured, too long, and of the largest frame; a message of the device's that is posted and one that
is sent. -/
theorem test_packet_hypotheses :
    ((9216 ≤ 9216 ∧ 4096 ≤ 4096) ∧ ¬ (9217 ≤ 9216 ∧ 4096 ≤ 4096)) ∧
      (let s : State := { onMgmt ue3 with agenda := [.uePost 3 0x1000 0 0x4000 1 512] }
       s.supply = true ∧ (getUe s 3).ready = true ∧ isMgmt 0x1000 = true ∧ (getStrand s 0x1000 0).live = true ∧ 0x4000 + 512 ≤ hbmBits) ∧
      (let s : State := { demo [] with ues := [(3, { ready := true, posted := [(0x4000, 0, 8)] })], agenda := [.ueSend 3] }
       s.supply = true ∧ (getUe s 3).posted = [(0x4000, 0, 8)]) := by decide +kernel
theorem test_packets_dropped :
    after (.uePacketReceive 3 ⟨.rud, .rmaWrite 0x4000 1 8 0xA5, 64, 1, false, 6, 1⟩) ue3 (fun t => t == ue3) = true ∧
      after (.uePacketReceive 3 ⟨.rud, .rmaWrite 0x4000 1 8 0xA5, 9217, 1, true, 6, 1⟩) ue3 (fun t => t == ue3) = true ∧
      after (.uePacketReceive 3 ⟨.rod, .send true 0x1A5, 9216, 1, true, 6, 1⟩) ue3 (fun t => (getUe t 3).received == [(true, 0xA5)]) = true ∧
      after (.uePacketReceive 3 ⟨.rod, .rmaRead 0x4000 1 8, 64, 0, true, 6, 1⟩) ue3 (fun t => (getUe t 3).sent == [(8, physRead ue3 1 0x4000 8)]) = true := by
  decide +kernel
theorem test_device_sends :
    (match step { onMgmt ue3 with agenda := [.uePost 3 0x1000 0 0x4000 1 512] } with
      | .next t => (getUe t 3).posted == [(0x4000, 1, 512)] | _ => false) = true ∧
    (match step { demo [] with ues := [(3, { ready := true, posted := [(0x4000, 0, 8)] })], agenda := [.ueSend 3], mem := [(0x800, 0xA5)] } with
      | .next t => (getUe t 3).posted == [] && (getUe t 3).sent == [(8, 0xA5)] | _ => false) = true := by decide +kernel

/-- RequestChecks: a request that arrives, one of a session that is not set up, one behind another that has not been performed, and one
behind others that have. -/
def behind (performed : Bool) : State := { serving .idle with asked := [⟨7, 3, performed, none⟩] }
theorem test_arrival_hypotheses :
    (arrives (serving .idle) (hdr 2) 2 = true ∧ arrives (demo []) (hdr 2) 2 = false ∧ (8 : Nat) ∉ (serving .idle).sessions ∧
      arrives { serving .idle with sessions := [8] } (hdr 2) 2 = false) ∧
      (arrives (behind false) (hdr 2) 2 = false ∧ arrives (behind true) (hdr 2) 2 = true ∧
        (∀ a ∈ (behind true).asked, a.session = 7 → a.performed = true) ∧ ∀ a ∈ (serving .idle).asked, a.session ≠ 7) ∧
      (hdrKind (hdr 2) = 2 ∧ (hdr 2).bits.toNat / 2 ^ 160 % 2 ^ 18 = 0 ∧ (hdr 2).bits.toNat % 2 ^ 128 = 0) ∧
      after (.freeRequest (hdr 1)) (behind true)
        (fun t => t.responses == [] && t.asked == [⟨7, 3, true, none⟩, ⟨7, 9, true, some (0x3C6, 0)⟩]) = true ∧
      after (.freeRequest (hdr 2)) (behind false) (fun t => t == behind false) = true := by decide +kernel

/-- ContextStates: a context that can be built, a partition to resume whose strands do not retire, and a park that a reset overrides. -/
theorem test_build_made : (buildContext building 1 7 body0).isSome = true ∧
    (∀ a ∈ building.asked, a.session ≠ 7) ∧ arrives building (hdr 1) 1 = true := by decide +kernel
theorem test_state_hypotheses :
    (∀ l < 8, (getStrand (serving .parked) 0 l).status = .ready) ∧
      ((serving .parked).cores.length = 1 ∧ (getPart (serving .parked) 1).cores = [0] ∧ arrives (serving .parked) (hdr 7) 7 = true) ∧
      (let s : State := { serving .parking { part1 with parkReq := some (7, 9), launches := [] } with asked := [⟨7, 9, false, none⟩] }
       (getPart s 1).st ≠ .free ∧ (getPart s 1).launches = [] ∧ s.chains = [] ∧ (getPart s 1).parkReq = some (7, 9)) := by decide +kernel
theorem test_reset_answers_park : after (.fatalFault 1)
    { serving .parking { part1 with parkReq := some (7, 9), launches := [] } with asked := [⟨7, 9, false, none⟩] }
    (fun t => t.asked == [] && t.responses == [⟨9, 0x3C4, 0⟩]) = true := by decide +kernel

/-- KernelsAndJobs: a jig that binds a queue, with three indices left, and a tenant without any. -/
def servingGraph : State :=
  serving .idle { part1 with nodes := [], nodeNext := 4093, kernels := [(1, { jig := { jig1 with queues := [bind1] } })] }
theorem test_graph_hypotheses :
    (launchCheck servingGraph 1 1 1 = none ∧ tenantNodes servingGraph 7 + 3 ≤ (getTenant servingGraph 7).nodeQuota ∧
      (getPart servingGraph 1).nodeNext + 3 ≤ 4096 ∧
      leavesReserved servingGraph (32769 - 3) 256 7 (servingGraph.parts.foldl (fun n e => n + e.2.nodes.length) 0) (tenantNodes servingGraph) = true ∧
      ctxServes .idle = true ∧ (getPart servingGraph 1).nodeNext ≠ 0 ∧ getNode? servingGraph 1 0 = none) ∧
      (getTenant { servingFree with tenants := [(7, { nodeQuota := 0 })] } 7).nodeQuota ≤ tenantNodes { servingFree with tenants := [(7, { nodeQuota := 0 })] } 7 ∧
      launchParentOk servingFree 1 5 = false := by decide +kernel
theorem test_graph_job : after (.launchRequest (hdr 5) 1 1 6 0) servingGraph
      (fun t => ([4093, 4094, 4095].map fun n => (getNode? t 1 n).map fun x => (x.lvl, x.cnt, x.parent)) ==
        [some (4, 1, 0), some (2, 1, 4093), some (1, 0, 4094)] && (getLaunch? t 1 1).map (·.graph) == some (some 4094)) = true ∧
    answered (.launchRequest (hdr 5) 1 1 6 5) servingFree 0x203 = false ∧
    after (.launchRequest (hdr 5) 1 1 6 0) { servingFree with tenants := [(7, { nodeQuota := 0 })] }
      (fun t => t.responses == [⟨9, 0x202, 0⟩]) = true := by decide +kernel

/-- ServiceAnswers: a group whose posts are outstanding. -/
theorem test_busy_group : (getGroup? { serving .idle with groups := [(3, { ranks := [(1, 1)], posts := [⟨1, 0, 0⟩] })] } 3).map (·.posts.length) = some 1 := by
  decide +kernel

/-- SealAndUnseal: a page whose DT is set, that its own walk does not lie in, with an ingot that fits. -/
def dirtyTables : Memory :=
  Memory.setBits (Memory.setBits [] (2 ^ 22) 128 (1 + 2 ^ 14 * 2 ^ 91)) (2 ^ 23) 128
    (2 + 2 ^ 91 + 2 ^ 89 + 2 ^ 88 + 2 ^ 87 + 2 ^ 86 + 2 ^ 75)
def sealingState : State :=
  { sealable (.seal 5 1 5 9 (2 ^ 26)) .parked [] with mem := dirtyTables, sessions := [7] }
theorem test_ingot_hypotheses :
    (match partXlat sealingState 0 (2 ^ 26) with
      | some y => !y.peer && y.dirty && decide (y.phys (2 ^ 26) + 1152 ≤ hbmBits) &&
          (walkLinesFrom sealingState (2 ^ 26) 4 (rootOf sealingState 0)).all fun n => n / 2 ^ 10 != y.phys (2 ^ 26) / 2 ^ 19
      | none => false) = true ∧
      (rootOf sealingState 0 % 512 = 0 ∧ 2 ^ 26 % 2 ^ 19 + 1152 ≤ 2 ^ 19 ∧ 1152 % 8 = 0 ∧ 1152 ≤ 1152 ∧
        partHas sealingState 0 (2 ^ 26) 1152 true = true ∧ arrives sealingState (hdr 9) 9 = true ∧ (getChain sealingState 9).writing = none ∧
        sealRefused sealingState 1 5 9 = none ∧ hdrTag (hdr 9) = 1 ∧ (5 : Nat) < 64 ∧ (9 : Nat) < 256) ∧
      (let s : State := { sealingState with chains := [(9, ⟨.held, 4, 7, some ⟨5, 1, 0, some (7, 9)⟩⟩)], asked := [⟨7, 9, false, none⟩] }
       arrives s (hdr 9) 9 = true ∧ (getChain s 9).writing = some ⟨5, 1, 0, some (7, 9)⟩ ∧ reqKey (hdr 9) = (7, 9)) ∧
      arrives { sealed0 with sessions := [7] } (hdr 10) 10 = true := by decide +kernel
theorem test_seal_request_commits : after (.sealRequest (hdr 9) 5 9 (2 ^ 26) 77 1152)
    { sealingState with chains := [(9, ⟨.held, 4, 7, some ⟨5, 1, 0, some (7, 9)⟩⟩)], asked := [⟨7, 9, false, none⟩] }
    (fun t => getChain t 9 == ⟨.held, 5, 7, none⟩ && (getPart t 1).st == .sealed && t.responses == [⟨9, 0, 0⟩] && t.asked == []) = true := by
  decide +kernel

/-! ### Numbers of units -/

/-- The core of R13's example: cluster 309, core 6 of it, region 19, home slice 157, mesh (22, 45). -/
theorem test_unit_numbers : (clusterOf 0x9B6, inCluster 0x9B6, regionOf 0x9B6, sliceOf 0x9B6, meshX 0x9B6, meshY 0x9B6) =
    (309, 6, 19, 157, 22, 45) ∧ (sliceCores 157).length = 16 ∧ 0x9B6 ∈ sliceCores 157 := by decide

/-! ### Every step -/

/-- StepKeepsMemoriesCanonical: a state that meets it, after a step that wrote. -/
theorem test_canonical : memoriesCanonical (stocked [(8, 0xA5)] [(4, 64)]) = true ∧
    memoriesCanonical (stocked [(8, 0)] []) = false ∧ memoriesCanonical (stocked [(9, 1), (8, 1)] []) = false := by decide +kernel
theorem test_step_next : (match step { demo [] with agenda := [.tick] } with | .next t => t.now == 1 && t.draw == 1 | _ => false) = true := by
  decide +kernel

end Sys2Proof.Tests
end

section
/-! SUPPORT. Fields of a sum of numbers that stand one above the other, and of a number with a field replaced (03 R44; 06 R108). -/

namespace Sys2Proof.Machine

theorem bitsAt_zero (n w : Nat) : bitsAt n 0 w = n % 2 ^ w := by rw [bitsAt, Nat.pow_zero, Nat.div_one]

theorem bitsAt_add_low (a b : Nat) {k lo w : Nat} (h : lo + w ≤ k) : bitsAt (a + 2 ^ k * b) lo w = bitsAt a lo w := by
  obtain ⟨d, rfl⟩ := Nat.exists_eq_add_of_le h
  rw [bitsAt, Nat.pow_add, Nat.pow_add, Nat.mul_assoc, Nat.mul_assoc, Nat.add_mul_div_left _ _ (Nat.two_pow_pos lo),
    Nat.add_mul_mod_self_left, bitsAt]

theorem bitsAt_add_high {a k : Nat} (b lo w : Nat) (h : a < 2 ^ k) : bitsAt (a + 2 ^ k * b) (k + lo) w = bitsAt b lo w := by
  rw [bitsAt, Nat.pow_add, ← Nat.div_div_eq_div_mul, Nat.add_mul_div_left _ _ (Nat.two_pow_pos k), Nat.div_eq_of_lt h,
    Nat.zero_add, bitsAt]

theorem bitsAt_one_eq (n i : Nat) : (bitsAt n i 1 == 1) = n.testBit i := by
  rw [Nat.testBit_eq_decide_div_mod_eq, bitsAt, Nat.pow_one]; rfl

theorem setBits_eq (n lo w v : Nat) : setBits n lo w v = n % 2 ^ lo + 2 ^ lo * (v % 2 ^ w + 2 ^ w * (n / 2 ^ (lo + w))) := by
  simp only [setBits, Nat.pow_add]; ring

/-- A field above the replaced one stays. -/
theorem bitsAt_setBits_above (n w v k : Nat) {lo i : Nat} (h : lo + w ≤ i) : bitsAt (setBits n lo w v) i k = bitsAt n i k := by
  obtain ⟨d, rfl⟩ := Nat.exists_eq_add_of_le h
  rw [setBits_eq, Nat.add_assoc, bitsAt_add_high _ _ _ (Nat.mod_lt _ (Nat.two_pow_pos lo)),
    bitsAt_add_high _ _ _ (Nat.mod_lt _ (Nat.two_pow_pos w)), bitsAt, Nat.div_div_eq_div_mul, ← Nat.pow_add, Nat.add_assoc, bitsAt]

/-- A field below the replaced one stays. -/
theorem bitsAt_setBits_below (n w v : Nat) {lo i k : Nat} (h : i + k ≤ lo) : bitsAt (setBits n lo w v) i k = bitsAt n i k := by
  rw [setBits_eq, bitsAt_add_low _ _ h]
  conv_rhs => rw [← Nat.mod_add_div n (2 ^ lo), bitsAt_add_low _ _ h]

end Sys2Proof.Machine
end

section
/-! SUPPORT. The fields of an encoding, what rounding makes of a value that its format holds, and that results fit their format (02
R24, R27, R29). -/

namespace Sys2Proof.Machine

/-! ### The fields of an encoding (02 R24) -/

/-- The sign, the exponent field and the fraction field of an encoding. -/
def FmtF.signOf (t : FmtF) (bits : Nat) : Bool := bitsAt bits (t.ebits + t.fbits) 1 == 1
def FmtF.expOf (t : FmtF) (bits : Nat) : Nat := bitsAt bits t.fbits t.ebits
def FmtF.fracOf (t : FmtF) (bits : Nat) : Nat := bitsAt bits 0 t.fbits

theorem FmtF.expOf_lt (t : FmtF) (bits : Nat) : t.expOf bits < 2 ^ t.ebits := Nat.mod_lt _ (Nat.two_pow_pos _)
theorem FmtF.fracOf_lt (t : FmtF) (bits : Nat) : t.fracOf bits < 2 ^ t.fbits := Nat.mod_lt _ (Nat.two_pow_pos _)

/-- An encoding is its three fields put together. -/
theorem FmtF.signed_fields (t : FmtF) {bits : Nat} (h : bits < 2 ^ t.width) :
    t.signed (t.signOf bits) (t.expOf bits * 2 ^ t.fbits + t.fracOf bits) = bits := by
  have hs : (t.signOf bits).toNat = bits / 2 ^ (t.ebits + t.fbits) := by
    have hlt : bits / 2 ^ (t.ebits + t.fbits) < 2 := by
      apply Nat.div_lt_of_lt_mul
      rwa [← Nat.pow_succ, Nat.succ_eq_add_one, Nat.add_comm, ← Nat.add_assoc]
    simp only [FmtF.signOf, bitsAt, Nat.pow_one]
    generalize bits / 2 ^ (t.ebits + t.fbits) = n at hlt ⊢
    interval_cases n <;> rfl
  have hm : t.expOf bits * 2 ^ t.fbits + t.fracOf bits = bits % 2 ^ (t.ebits + t.fbits) := by
    simp only [FmtF.expOf, FmtF.fracOf, bitsAt, Nat.pow_zero, Nat.div_one]
    rw [Nat.add_comm t.ebits, Nat.pow_add, Nat.mod_mul, Nat.mul_comm, Nat.add_comm]
  rw [FmtF.signed, hs, hm, Nat.mul_comm, Nat.div_add_mod]

/-- What an encoding of an IEEE format holds, by its exponent field (R24). -/
theorem decodeF_special {t : FmtF} (hk : t.kind = .ieee) {bits : Nat} (he : t.expOf bits = 2 ^ t.ebits - 1) :
    decodeF t bits = if t.fracOf bits = 0 then .inf (t.signOf bits) else .nan (t.signOf bits) := by
  simp only [FmtF.expOf, FmtF.fracOf, FmtF.signOf] at he ⊢
  split_ifs with h0 <;> simp [decodeF, hk, he, h0]

theorem decodeF_subnormal {t : FmtF} (hk : t.kind = .ieee) {bits : Nat} (hs : t.expOf bits ≠ 2 ^ t.ebits - 1)
    (he : t.expOf bits = 0) : decodeF t bits = .fin (t.signOf bits) (t.fracOf bits) (1 - (t.bias : Int) - t.fbits) := by
  simp only [FmtF.expOf, FmtF.fracOf, FmtF.signOf] at hs he ⊢
  rw [he] at hs
  simp [decodeF, hk, he, hs]

theorem decodeF_normal {t : FmtF} (hk : t.kind = .ieee) {bits : Nat} (hs : t.expOf bits ≠ 2 ^ t.ebits - 1)
    (he : t.expOf bits ≠ 0) : decodeF t bits =
      .fin (t.signOf bits) (2 ^ t.fbits + t.fracOf bits) ((t.expOf bits : Int) - t.bias - t.fbits) := by
  simp only [FmtF.expOf, FmtF.fracOf, FmtF.signOf] at hs he ⊢
  simp [decodeF, hk, he, hs]

/-! ### Results fit their format (02 R24) -/

/-- Every code that a result may become lies below the sign bit. -/
theorem FmtF.codes_lt (t : FmtF) : t.nanCode < 2 ^ (t.ebits + t.fbits) ∧ t.infCode < 2 ^ (t.ebits + t.fbits) ∧
    t.maxCode < 2 ^ (t.ebits + t.fbits) := by cases t <;> decide

theorem FmtF.signed_lt (t : FmtF) (neg : Bool) {code : Nat} (h : code < 2 ^ (t.ebits + t.fbits)) :
    t.signed neg code < 2 ^ t.width := by
  have hw : 2 ^ t.width = 2 ^ (t.ebits + t.fbits) + 2 ^ (t.ebits + t.fbits) := by
    rw [FmtF.width, Nat.add_assoc, Nat.add_comm 1, Nat.pow_succ]; omega
  cases neg <;> simp only [FmtF.signed, Bool.toNat_false, Bool.toNat_true] <;> omega

theorem overflowCode_lt (t : FmtF) (rnd : Rnd) (prop neg : Bool) : overflowCode t rnd prop neg < 2 ^ (t.ebits + t.fbits) := by
  obtain ⟨hn, hi, hm⟩ := t.codes_lt
  unfold overflowCode
  repeat' split
  all_goals assumption

theorem encodeMag_lt (t : FmtF) (rnd : Rnd) (prop : Bool) (u : Nat) (neg : Bool) (mag : Mag) :
    (encodeMag t rnd prop u neg mag).1 < 2 ^ t.width := by
  obtain ⟨_, _, hm⟩ := t.codes_lt
  unfold encodeMag
  dsimp only
  split
  · exact t.signed_lt neg (overflowCode_lt ..)
  · exact t.signed_lt neg (by omega)

/-- A rounded result is an encoding of its format. -/
theorem roundTo_lt (t : FmtF) (rnd : Rnd) (u : Nat) (v : FV) : roundTo t rnd u v < 2 ^ t.width := by
  obtain ⟨hn, hi, _⟩ := t.codes_lt
  rcases v with s | s | ⟨s, m, e⟩
  · have := t.signed_lt false hn
    rwa [FmtF.signed, Bool.toNat_false, Nat.zero_mul, Nat.zero_add] at this
  · exact t.signed_lt s hi
  · cases m with
    | zero => exact t.signed_lt s (Nat.two_pow_pos _)
    | succ m => exact encodeMag_lt ..

/-! ### Rounding an exact magnitude (02 R27, R29) -/

theorem Mag.ilog_dyadic {m : Nat} (hm : m ≠ 0) (e : Int) : (Mag.rat m 1 e).ilog = e + m.log2 := by
  have h1 : Nat.log2 1 = 0 := by decide
  have h : 2 ^ m.log2 ≤ m := Nat.log2_self_le hm
  simp [Mag.ilog, h1, h]

/-- A whole number of units is rounded to itself, in every mode. -/
theorem roundUnits_whole (rnd : Rnd) (neg : Bool) {u : Nat} (hu : u < 2 ^ 16) (m : Nat) (st : Int) :
    roundUnits rnd neg u st (.rat m 1 st) = m := by
  have hf : (Mag.rat m 1 st).floorAt (st - 16) = (m * 2 ^ 16, true) := by
    simp [Mag.floorAt, Nat.mod_one]
  unfold roundUnits
  rw [hf]
  cases rnd <;> simp
  case rsr => exact hu

/-- A magnitude of whole units of the place that the format rounds it to becomes its code. -/
theorem roundCode_whole (t : FmtF) (rnd : Rnd) (neg : Bool) {u : Nat} (hu : u < 2 ^ 16) {m : Nat} (hm : m ≠ 0) {st : Int}
    (hst : st = max (st + m.log2 - t.fbits) (1 - (t.bias : Int) - t.fbits)) :
    roundCode t rnd neg u (.rat m 1 st) = (st + t.fbits + t.bias - 1).toNat * 2 ^ t.fbits + m := by
  rw [roundCode, Mag.ilog_dyadic hm, ← hst, roundUnits_whole rnd neg hu]

/-- A finite value whose code is that of an encoding below infinity rounds to the encoding. -/
theorem roundTo_whole {t : FmtF} {rnd : Rnd} {u : Nat} (s : Bool) {m : Nat} (hm : m ≠ 0) {e : Int} {code : Nat}
    (hc : roundCode t rnd s u (.rat m 1 e) = code) (hmax : code ≤ t.maxCode) :
    roundTo t rnd u (.fin s m e) = t.signed s code := by
  obtain ⟨n, rfl⟩ := Nat.exists_eq_succ_of_ne_zero hm
  simp only [roundTo, encodeF, encodeMag, hc, if_neg (Nat.not_lt.2 hmax)]

/-- The magnitude codes below infinity are those whose exponent field is not all ones. -/
theorem FmtF.le_maxCode {t : FmtF} (hk : t.kind = .ieee) {bits : Nat} (hs : t.expOf bits ≠ 2 ^ t.ebits - 1) :
    t.expOf bits * 2 ^ t.fbits + t.fracOf bits ≤ t.maxCode := by
  have he := t.expOf_lt bits
  have hf := t.fracOf_lt bits
  have h : (t.expOf bits + 1) * 2 ^ t.fbits ≤ (2 ^ t.ebits - 1) * 2 ^ t.fbits := Nat.mul_le_mul_right _ (by omega)
  simp only [FmtF.maxCode, hk, FmtF.infCode]
  rw [Nat.succ_mul] at h
  omega

/-- Rounding returns the encoding of a number of an IEEE format, by the encoding's exponent field. -/
theorem roundTo_decodeF {t : FmtF} (hk : t.kind = .ieee) (rnd : Rnd) {u bits : Nat} (hu : u < 2 ^ 16)
    (hb : bits < 2 ^ t.width) (hn : (decodeF t bits).isNan = false) : roundTo t rnd u (decodeF t bits) = bits := by
  have hbits := t.signed_fields hb
  have hf := t.fracOf_lt bits
  by_cases hs : t.expOf bits = 2 ^ t.ebits - 1
  · rw [decodeF_special hk hs] at hn ⊢
    by_cases h0 : t.fracOf bits = 0
    · rw [if_pos h0, roundTo, FmtF.infCode, ← hs]
      rwa [h0, Nat.add_zero] at hbits
    · simp [if_neg h0, FV.isNan] at hn
  have hmax := FmtF.le_maxCode hk hs
  by_cases he : t.expOf bits = 0
  · rw [decodeF_subnormal hk hs he]
    rw [he, Nat.zero_mul, Nat.zero_add] at hbits hmax
    by_cases h0 : t.fracOf bits = 0
    · rw [h0] at hbits ⊢
      exact hbits
    · have hlog : (t.fracOf bits).log2 < t.fbits := (Nat.log2_lt h0).2 hf
      refine (roundTo_whole _ h0 ?_ hmax).trans hbits
      rw [roundCode_whole t rnd _ hu h0 (by omega)]
      simp
  · rw [decodeF_normal hk hs he]
    have h0 : 2 ^ t.fbits + t.fracOf bits ≠ 0 := by have := Nat.two_pow_pos t.fbits; omega
    have hlog : (2 ^ t.fbits + t.fracOf bits).log2 = t.fbits := by
      rw [Nat.log2_eq_iff h0, Nat.pow_succ]; omega
    refine (roundTo_whole _ h0 ?_ hmax).trans hbits
    rw [roundCode_whole t rnd _ hu h0 (by omega)]
    obtain ⟨n, hn⟩ := Nat.exists_eq_succ_of_ne_zero he
    rw [show ((t.expOf bits : Int) - t.bias - t.fbits + t.fbits + t.bias - 1).toNat = n by omega, hn, Nat.succ_mul]
    omega

theorem ftypeFmt_kind (t : FType) : (ftypeFmt t).kind = .ieee := by cases t <;> rfl

end Sys2Proof.Machine
open Sys2Proof Sys2Proof.Machine

/-- Settles O16: each encoding is taken by its exponent field, and its value is a whole number of the units that it is rounded to. -/
theorem roundingKeepsRepresentable : Obligations.RoundingKeepsRepresentable :=
  fun t rnd _ _ hu hb hn => roundTo_decodeF (ftypeFmt_kind t) rnd hu hb hn

end

section
/-! SUPPORT. What a scalar float instruction writes (05 R102, R103). -/

namespace Sys2Proof.Machine

/-! ### Scalar float instructions (05 R102, R103) -/

/-- A rounding instruction writes its result and the LFSR's next state, and moves on. -/
theorem floatOp_runs {s : State} {gd : Guard} {names : List Named} (h : Runs s gd names) (rnd : Rnd) (d : GOp)
    (f : Strand → Nat → Nat) :
    floatOp gd names rnd d f s = .next (withTurn s (advanced (wrG (stepLfsr rnd (turn s)) (gReg (turn s) d)
      (BitVec.ofNat 64 (f (turn s) (roundU rnd (turn s))))))) := regOp_runs h _

/-- A quotient whose two operands are zeros is a NaN: the order in which the two zeros are asked for does not matter. -/
theorem floatDiv_fin (f : FmtF) (rnd : Rnd) (u a b : Nat) {p q : Bool} {m n : Nat} {e k : Int}
    (ha : decodeF f a = .fin p m e) (hb : decodeF f b = .fin q n k) :
    floatDiv f rnd u a b =
      if m = 0 ∧ n = 0 then f.nanCode
      else if n = 0 then f.signed (p != q) f.infCode
      else if m = 0 then f.signed (p != q) 0
      else (encodeMag f rnd true u (p != q) (.rat m n (e - k))).1 := by
  simp only [floatDiv, ha, hb]
  by_cases hn : n = 0 <;> by_cases hm : m = 0 <;> simp [hn, hm]

theorem FmtF.signed_false (f : FmtF) (code : Nat) : f.signed false code = code := by simp [FmtF.signed]

end Sys2Proof.Machine
open Sys2Proof Sys2Proof.Machine

/-- Settles O17: each instruction is a rounding operation in its frame; a quotient and a root are taken by the kinds of their
operands. -/
theorem floatArithmetic : Obligations.FloatArithmetic := by
  intro gd d a b c t rnd s
  refine ⟨fun h => ⟨?_, ?_, ?_, ?_⟩, fun h => ?_, fun h => ?_⟩
  · exact (floatOp_runs h rnd d fun st u => floatAdd (ftypeFmt t) rnd u (gVal st a) (gVal st b) :)
  · exact (floatOp_runs h rnd d fun st u => floatSub (ftypeFmt t) rnd u (gVal st a) (gVal st b) :)
  · exact (floatOp_runs h rnd d fun st u => floatMul (ftypeFmt t) rnd u (gVal st a) (gVal st b) :)
  · refine (floatOp_runs h rnd d fun st u => floatDiv (ftypeFmt t) rnd u (gVal st a) (gVal st b) :).trans ?_
    rcases ha : decodeF (ftypeFmt t) (gVal (turn s) a) with x | x | ⟨p, m, e⟩ <;>
      rcases hb : decodeF (ftypeFmt t) (gVal (turn s) b) with y | y | ⟨q, n, k⟩
    case fin.fin => rw [floatDiv_fin _ _ _ _ _ ha hb]; rfl
    all_goals simp only [floatDiv, ha, hb]; rfl
  · exact (floatOp_runs h rnd d fun st u => floatFma (ftypeFmt t) rnd u (gVal st a) (gVal st b) (gVal st c) :)
  · refine (floatOp_runs h rnd d fun st u => floatSqrt (ftypeFmt t) rnd u (gVal st a) :).trans ?_
    rcases ha : decodeF (ftypeFmt t) (gVal (turn s) a) with x | x | ⟨p, m, e⟩
    · simp only [floatSqrt, ha]; rfl
    · cases x <;> simp only [floatSqrt, ha, FmtF.signed_false] <;> rfl
    · rcases m with _ | m <;> cases p <;> simp only [floatSqrt, ha] <;> rfl

end

section
/-! SUPPORT. The elements of a v register after a write of elements, roundings made in turn, and the lanes of VADD, VSUB, VMUL and
VFMA (02 R29; 06 R108, R112). -/

namespace Sys2Proof.Machine

/-! ### The elements of a v register (06 R108) -/

theorem laneOf_setLane_self (w v i x : Nat) : laneOf w (setLane w v i x) i = x % 2 ^ w := bitsAt_setBits_self ..

theorem laneOf_setLane_other (w v x : Nat) {i j : Nat} (h : j ≠ i) : laneOf w (setLane w v i x) j = laneOf w v j := by
  rcases Nat.lt_or_gt_of_ne h with h | h
  · exact bitsAt_setBits_below _ _ _ (by rw [← Nat.mul_succ]; exact Nat.mul_le_mul_left w h)
  · exact bitsAt_setBits_above _ _ _ _ (by rw [← Nat.mul_succ]; exact Nat.mul_le_mul_left w h)

theorem laneOf_writeLanes_below (w v : Nat) {i j : Nat} (xs : List Nat) (h : j < i) :
    laneOf w (writeLanes w v i xs) j = laneOf w v j := by
  induction xs generalizing v i with
  | nil => rfl
  | cons x xs ih => rw [writeLanes, ih _ (by omega), laneOf_setLane_other _ _ _ (by omega)]

theorem laneOf_writeLanes (w v i : Nat) (xs : List Nat) {j : Nat} (h : j < xs.length) :
    laneOf w (writeLanes w v i xs) (i + j) = xs[j] % 2 ^ w := by
  induction xs generalizing v i j with
  | nil => exact absurd h (Nat.not_lt_zero j)
  | cons x xs ih =>
    cases j with
    | zero => exact (laneOf_writeLanes_below _ _ _ (Nat.lt_succ_self i)).trans (laneOf_setLane_self ..)
    | succ j =>
      have hi : i + (j + 1) = i + 1 + j := by omega
      rw [writeLanes, hi]
      exact ih _ _ (Nat.lt_of_succ_lt_succ h)

/-- Element i of a register all of whose elements are given. -/
theorem laneOf_allLanes (w old : Nat) (xs : List Nat) {i : Nat} (h : i < xs.length) :
    laneOf w (allLanes w old xs) i = xs[i] % 2 ^ w := by
  have := laneOf_writeLanes w old 0 xs h
  rwa [Nat.zero_add] at this

theorem writeLanes_lt {w v i k : Nat} (xs : List Nat) (hv : v < 2 ^ k) (h : w * (i + xs.length) ≤ k) :
    writeLanes w v i xs < 2 ^ k := by
  induction xs generalizing v i with
  | nil => exact hv
  | cons x xs ih =>
    have hl : i + (x :: xs).length = i + 1 + xs.length := by simp only [List.length_cons]; omega
    rw [hl] at h
    refine ih (setBits_lt hv ?_) h
    rw [← Nat.mul_succ]
    exact Nat.le_trans (Nat.mul_le_mul_left w (by omega)) h

/-- A register of 128 bits stays one. -/
theorem allLanes_lt {w old : Nat} {xs : List Nat} (hv : old < 2 ^ 128) (h : xs.length ≤ lanesOf w) :
    allLanes w old xs < 2 ^ 128 := by
  refine writeLanes_lt xs hv ?_
  rw [Nat.zero_add]
  exact Nat.le_trans (Nat.mul_le_mul_left w h) (Nat.mul_div_le 128 w)

theorem vVal_lt (st : Strand) (n : Fin 32) : vVal st n < 2 ^ 128 := (rdV st n).isLt

@[simp] theorem lanes_length (w v : Nat) : (lanes w v).length = lanesOf w := by simp [lanes]
@[simp] theorem lanes_getElem (w v i : Nat) (h : i < (lanes w v).length) : (lanes w v)[i] = laneOf w v i := by simp [lanes]
@[simp] theorem triples_length (w a b c : Nat) : (triples w a b c).length = lanesOf w := by simp [triples, pairs]
@[simp] theorem triples_getElem (w a b c i : Nat) (h : i < (triples w a b c).length) :
    (triples w a b c)[i] = (laneOf w a i, laneOf w b i, laneOf w c i) := by simp [triples, pairs]

/-! ### Roundings in turn (02 R29; 06 R112) -/

/-- The LFSR steps once for each rounding. -/
theorem mapRound_last {α : Type} (rnd : Rnd) (f : Nat → α → Nat) (st : Nat) (xs : List α) :
    (mapRound rnd f st xs).2 = (lfsrAfter rnd)^[xs.length] st := by
  induction xs generalizing st with
  | nil => rfl
  | cons x xs ih => exact ih _

@[simp] theorem mapRound_length {α : Type} (rnd : Rnd) (f : Nat → α → Nat) (st : Nat) (xs : List α) :
    (mapRound rnd f st xs).1.length = xs.length := by
  induction xs generalizing st with
  | nil => rfl
  | cons x xs ih => exact congrArg (· + 1) (ih _)

/-- Each rounding has its u from the state after its own step. -/
theorem mapRound_getElem {α : Type} (rnd : Rnd) (f : Nat → α → Nat) (st : Nat) (xs : List α) {i : Nat}
    (h : i < (mapRound rnd f st xs).1.length) (h' : i < xs.length) :
    (mapRound rnd f st xs).1[i] = f (lfsrU ((lfsrAfter rnd)^[i + 1] st)) xs[i] := by
  induction xs generalizing st i with
  | nil => exact absurd h' (Nat.not_lt_zero i)
  | cons x xs ih =>
    cases i with
    | zero => rfl
    | succ i => exact ih _ (by simpa using h') (Nat.lt_of_succ_lt_succ h')

/-! ### VADD, VSUB, VMUL and VFMA (06 R112) -/

/-- The range of a w-bit integer type, as R23 gives it. -/
theorem satInt_eq (t : IType) (x : Int) : satInt (itypeSigned t) t.width x =
    max (if t ∈ [IType.i64, .i32, .i16, .i8] then -2 ^ (t.width - 1) else 0)
      (min (if t ∈ [IType.i64, .i32, .i16, .i8] then 2 ^ (t.width - 1) - 1 else 2 ^ t.width - 1) x) := by
  cases t <;> simp [satInt, clampInt, intLo, intHi, itypeSigned, IType.width] <;> omega

theorem withLfsr_self (st : Strand) : withLfsr st st.srstate.toNat = st := by simp [withLfsr]

theorem laneInt_eq (t : IType) (sat : Bool) (x : Int) : laneInt t sat x =
    ((if sat then max (if t ∈ [IType.i64, .i32, .i16, .i8] then -2 ^ (t.width - 1) else 0)
      (min (if t ∈ [IType.i64, .i32, .i16, .i8] then 2 ^ (t.width - 1) - 1 else 2 ^ t.width - 1) x) else x) %
        2 ^ t.width).toNat := by
  rw [laneInt, satInt_eq, wrapTo, Nat.cast_pow, Nat.cast_ofNat]

theorem laneInt_lt (t : IType) (sat : Bool) (x : Int) : laneInt t sat x < 2 ^ t.width := by
  have h := Int.emod_lt_of_pos (if sat then satInt (itypeSigned t) t.width x else x)
    (Int.natCast_pos.2 (Nat.two_pow_pos t.width))
  unfold laneInt wrapTo
  omega

section
variable (fi : Int → Int → Int → Int) (ff : FmtF → Rnd → Nat → Nat → Nat → Nat → Nat) (lfsr old a b c : Nat)

theorem vArith_lt (ar : VArith) (h : old < 2 ^ 128) : (vArith ar fi ff lfsr old a b c).1 < 2 ^ 128 := by
  cases ar <;> exact allLanes_lt h (by simp)

/-- Integer lanes: each is the exact result, fitted to its element. -/
theorem vArith_int_lane (t : IType) (sat : Bool) {i : Nat} (h : i < lanesOf t.width) :
    laneOf t.width (vArith (.int t sat) fi ff lfsr old a b c).1 i =
      laneInt t sat (fi (readTyped t (laneOf t.width a i)) (readTyped t (laneOf t.width b i))
        (readTyped t (laneOf t.width c i))) := by
  rw [vArith, laneOf_allLanes _ _ _ (by simpa using h), List.getElem_map, triples_getElem, Nat.mod_eq_of_lt (laneInt_lt ..)]

/-- Float lanes: each is rounded once, in ascending order. -/
theorem vArith_flt_lane (hff : ∀ f rnd u x y z, ff f rnd u x y z < 2 ^ f.width) (t : FType) (rnd : Rnd) {i : Nat}
    (h : i < lanesOf (ftypeFmt t).width) :
    laneOf (ftypeFmt t).width (vArith (.flt t rnd) fi ff lfsr old a b c).1 i =
      ff (ftypeFmt t) rnd (lfsrU ((lfsrAfter rnd)^[i + 1] lfsr)) (laneOf (ftypeFmt t).width a i)
        (laneOf (ftypeFmt t).width b i) (laneOf (ftypeFmt t).width c i) := by
  simp only [vArith]
  rw [laneOf_allLanes _ _ _ (by simpa using h), mapRound_getElem _ _ _ _ _ (by simpa using h), triples_getElem,
    Nat.mod_eq_of_lt (hff ..)]

theorem vArith_int_last (t : IType) (sat : Bool) : (vArith (.int t sat) fi ff lfsr old a b c).2 = lfsr := rfl

theorem vArith_flt_last (t : FType) (rnd : Rnd) :
    (vArith (.flt t rnd) fi ff lfsr old a b c).2 = (lfsrAfter rnd)^[lanesOf (ftypeFmt t).width] lfsr := by
  simp only [vArith, mapRound_last, triples_length]
end

section
variable {s : State} {gd : Guard} {names : List Named} (h : Runs s gd names) (fi : Int → Int → Int → Int)
  (ff : FmtF → Rnd → Nat → Nat → Nat → Nat → Nat) (d a b c : Fin 32)
include h

theorem laneOp_runs (ar : VArith) : laneOp gd names ar fi ff d a b c s = .next (withTurn s (advanced
    (setVL (turn s) d (vArith ar fi ff (turn s).srstate.toNat (vVal (turn s) d) (vVal (turn s) a) (vVal (turn s) b)
      (vVal (turn s) c))))) := regOp_runs h _

theorem laneOp_int (t : IType) (sat : Bool) : ∃ r < 2 ^ 128,
    laneOp gd names (.int t sat) fi ff d a b c s = .next (withTurn s (advanced (wrV (turn s) d (BitVec.ofNat 128 r)))) ∧
    ∀ i < lanesOf t.width, laneOf t.width r i = laneInt t sat (fi (readTyped t (laneOf t.width (vVal (turn s) a) i))
      (readTyped t (laneOf t.width (vVal (turn s) b) i)) (readTyped t (laneOf t.width (vVal (turn s) c) i))) := by
  refine ⟨_, vArith_lt fi ff (turn s).srstate.toNat _ _ _ _ (.int t sat) (vVal_lt (turn s) d), ?_,
    fun i hi => vArith_int_lane _ _ _ _ _ _ _ t sat hi⟩
  rw [laneOp_runs h, setVL, setV, vArith_int_last, withLfsr_self]

theorem laneOp_flt (hff : ∀ f rnd u x y z, ff f rnd u x y z < 2 ^ f.width) (t : FType) (rnd : Rnd) : ∃ r < 2 ^ 128,
    laneOp gd names (.flt t rnd) fi ff d a b c s = .next (withTurn s (advanced (wrV (withLfsr (turn s)
      ((lfsrAfter rnd)^[lanesOf (ftypeFmt t).width] (turn s).srstate.toNat)) d (BitVec.ofNat 128 r)))) ∧
    ∀ i < lanesOf (ftypeFmt t).width, laneOf (ftypeFmt t).width r i =
      ff (ftypeFmt t) rnd (lfsrU ((lfsrAfter rnd)^[i + 1] (turn s).srstate.toNat))
        (laneOf (ftypeFmt t).width (vVal (turn s) a) i) (laneOf (ftypeFmt t).width (vVal (turn s) b) i)
        (laneOf (ftypeFmt t).width (vVal (turn s) c) i) := by
  refine ⟨_, vArith_lt fi ff (turn s).srstate.toNat _ _ _ _ (.flt t rnd) (vVal_lt (turn s) d), ?_,
    fun i hi => vArith_flt_lane _ _ _ _ _ _ _ hff t rnd hi⟩
  rw [laneOp_runs h, setVL, setV, vArith_flt_last]
end

end Sys2Proof.Machine
open Sys2Proof Sys2Proof.Machine

/-- Settles O19: all four are one lane operation on an exact and a rounding function of their own; its lanes are taken one by one. -/
theorem vectorArithmetic : Obligations.VectorArithmetic := by
  intro op hop gd d a b c s h st third
  simp only [List.mem_cons, List.not_mem_nil, or_false] at hop
  have hexec : ∀ ar, exec (op.1 gd d a b c ar) s =
      laneOp gd ([.v a] ++ op.2.1 c b ++ [.v d]) ar op.2.2.1 op.2.2.2 d a b third s := by
    intro ar
    rcases hop with rfl | rfl | rfl | rfl
    · rw [show third = b from if_pos rfl]; rfl
    · rw [show third = b from if_pos rfl]; rfl
    · rw [show third = b from if_pos rfl]; rfl
    · rw [show third = c from if_neg (by simp)]; rfl
  have hlt : ∀ f rnd u x y z, op.2.2.2 f rnd u x y z < 2 ^ f.width := by
    rcases hop with rfl | rfl | rfl | rfl <;> exact fun _ _ _ _ _ _ => roundTo_lt ..
  refine ⟨fun t sat => ?_, fun t rnd => ?_⟩
  · simp only [← laneInt_eq, hexec]
    exact laneOp_int h op.2.2.1 op.2.2.2 d a b third t sat
  · rw [hexec]
    exact laneOp_flt h op.2.2.1 op.2.2.2 d a b third hlt t rnd

end

section
/-! SUPPORT. Magnitudes as rational numbers, rounding to nearest even, and the fields of a BQ block (02 R27, R32 to R35). -/

namespace Sys2Proof.Machine

/-! ### Numbers made of digits -/

/-- n digits of k bits each, the first lowest. -/
def packDigits (k : Nat) (f : Nat → Nat) (n : Nat) : Nat := ∑ i ∈ Finset.range n, f i * 2 ^ (k * i)

section
variable {k n : Nat} {f : Nat → Nat}

theorem packDigits_succ (k : Nat) (f : Nat → Nat) (n : Nat) :
    packDigits k f (n + 1) = packDigits k f n + 2 ^ (k * n) * f n := by
  rw [packDigits, Finset.sum_range_succ, Nat.mul_comm (f n)]; rfl

theorem packDigits_lt (h : ∀ i < n, f i < 2 ^ k) : packDigits k f n < 2 ^ (k * n) := by
  induction n with
  | zero => simp [packDigits]
  | succ n ih =>
    calc packDigits k f (n + 1) = packDigits k f n + 2 ^ (k * n) * f n := packDigits_succ k f n
      _ < 2 ^ (k * n) + 2 ^ (k * n) * f n := Nat.add_lt_add_right (ih fun i hi => h i (by omega)) _
      _ = 2 ^ (k * n) * (f n + 1) := by ring
      _ ≤ 2 ^ (k * n) * 2 ^ k := Nat.mul_le_mul_left _ (h n (Nat.lt_succ_self n))
      _ = 2 ^ (k * (n + 1)) := by rw [← Nat.pow_add, Nat.mul_succ]

/-- A field of a digit is that field of the number. -/
theorem bitsAt_packDigits (h : ∀ i < n, f i < 2 ^ k) {i lo w : Nat} (hi : i < n) (hw : lo + w ≤ k) :
    bitsAt (packDigits k f n) (k * i + lo) w = bitsAt (f i) lo w := by
  induction n with
  | zero => omega
  | succ n ih =>
    have hn : ∀ i < n, f i < 2 ^ k := fun i hi => h i (by omega)
    rw [packDigits_succ]
    rcases Nat.lt_succ_iff_lt_or_eq.1 hi with hi | rfl
    · have hk : k * (i + 1) ≤ k * n := Nat.mul_le_mul_left k hi
      rw [Nat.mul_succ] at hk
      rw [bitsAt_add_low _ _ (by omega), ih hn hi]
    · exact bitsAt_add_high _ _ _ (packDigits_lt hn)

theorem bitsAt_packDigits_one {f : Nat → Nat} (h : ∀ i, f i < 2) {i : Nat} (hi : i < n) : bitsAt (packDigits 1 f n) i 1 = f i := by
  have hd := bitsAt_packDigits (k := 1) (lo := 0) (w := 1) (fun i _ => h i) hi (Nat.le_refl 1)
  rw [Nat.one_mul, Nat.add_zero, bitsAt_zero] at hd
  exact hd.trans (Nat.mod_eq_of_lt (h i))
end

/-! ### Magnitudes as rational numbers -/

theorem abs_rat_fin (s : Bool) (m : Nat) (e : Int) : |(FV.fin s m e).rat| = (m : ℚ) * 2 ^ e := by
  have h : (0 : ℚ) ≤ (m : ℚ) * 2 ^ e := by positivity
  cases s
  · simp only [FV.rat, Bool.false_eq_true, if_false, one_mul, abs_of_nonneg h]
  · simp only [FV.rat, if_true, neg_mul, one_mul, abs_neg, abs_of_nonneg h]

/-- A power of two at one place in units of another. -/
theorem two_zpow_units (e k : Int) : (2 : ℚ) ^ e * 2 ^ (k - e).toNat = 2 ^ (e - k).toNat * 2 ^ k := by
  rw [← zpow_natCast, ← zpow_natCast, ← zpow_add₀ (by norm_num), ← zpow_add₀ (by norm_num)]
  congr 1
  omega

theorem magLePow_iff (k : Int) (s : Bool) (m : Nat) (e : Int) :
    magLePow k (.fin s m e) = true ↔ |(FV.fin s m e).rat| ≤ 2 ^ k := by
  have h1 : (0 : ℚ) < 2 ^ (k - e).toNat := by positivity
  have h2 : (0 : ℚ) < 2 ^ k := by positivity
  rw [abs_rat_fin, ← mul_le_mul_iff_left₀ h1, mul_assoc, two_zpow_units, ← mul_assoc, mul_comm (2 ^ k : ℚ),
    mul_le_mul_iff_left₀ h2, magLePow, decide_eq_true_eq]
  exact_mod_cast Iff.rfl

/-- A finite value is a whole number of units of a place at or below its own. -/
theorem unitsAt_abs (s : Bool) (m : Nat) {e k : Int} (h : k ≤ e) :
    (((FV.fin s m e).abs.unitsAt k : Int) : ℚ) * 2 ^ k = |(FV.fin s m e).rat| := by
  have h0 : (k - e).toNat = 0 := by omega
  have := two_zpow_units e k
  rw [h0, pow_zero, mul_one] at this
  rw [abs_rat_fin, this]
  simp [FV.abs, FV.unitsAt, mul_assoc]

theorem abs_lt_iff_rat (s t : Bool) (m n : Nat) (e k : Int) :
    (FV.fin s m e).abs.lt (FV.fin t n k).abs = true ↔ |(FV.fin s m e).rat| < |(FV.fin t n k).rat| := by
  have h2 : (0 : ℚ) < 2 ^ min e k := by positivity
  rw [← unitsAt_abs s m (min_le_left e k), ← unitsAt_abs t n (min_le_right e k), mul_lt_mul_iff_left₀ h2, Int.cast_lt]
  exact decide_eq_true_iff

theorem rat_eq_zero_iff (s : Bool) (m : Nat) (e : Int) : (FV.fin s m e).rat = 0 ↔ m = 0 := by
  have h : (2 : ℚ) ^ e ≠ 0 := by positivity
  rw [← abs_eq_zero, abs_rat_fin, mul_eq_zero, or_iff_left h, Nat.cast_eq_zero]

/-- The binary exponent of a magnitude. -/
theorem ilogFV_bounds (s : Bool) {m : Nat} (hm : m ≠ 0) (e : Int) :
    (2 : ℚ) ^ ilogFV (.fin s m e) ≤ |(FV.fin s m e).rat| ∧ |(FV.fin s m e).rat| < 2 ^ (ilogFV (.fin s m e) + 1) := by
  have h2 : (0 : ℚ) < 2 ^ e := by positivity
  have h1 : ((2 : ℚ) ^ (m.log2 : Int)) ≤ m := by
    rw [zpow_natCast]; exact_mod_cast Nat.log2_self_le hm
  have h3 : (m : ℚ) < 2 ^ ((m.log2 : Int) + 1) := by
    rw [← Nat.cast_succ, zpow_natCast]; exact_mod_cast Nat.lt_log2_self
  rw [abs_rat_fin, ilogFV, add_right_comm, zpow_add₀ (by norm_num), zpow_add₀ (by norm_num) _ e]
  exact ⟨mul_le_mul_of_nonneg_right h1 h2.le, mul_lt_mul_of_pos_right h3 h2⟩

/-! ### Rounding to nearest even (02 R27) -/

/-- k is q rounded to a nearest whole number, the even one of two. -/
def NearestEven (k : Nat) (q : ℚ) : Prop := 2 * |(k : ℚ) - q| ≤ 1 ∧ (2 * |(k : ℚ) - q| = 1 → k % 2 = 0)

theorem nearestEven_zero : NearestEven 0 0 := by simp [NearestEven]

section
variable {q fr : Nat} {ε : ℚ} (h0 : 0 ≤ ε) (h1 : ε < 1)
include h0 h1

/-- A fraction of fr 2^16ths, and ε of one more, at or above one half is rounded up. -/
theorem nearestEven_up (hfr : fr < 2 ^ 16) (h : 2 ^ 15 < fr ∨ fr = 2 ^ 15 ∧ (ε ≠ 0 ∨ q % 2 = 1)) :
    NearestEven (q + 1) (q + (fr + ε) / 2 ^ 16) := by
  have hlo : (2 ^ 15 : ℚ) ≤ fr := by exact_mod_cast (show 2 ^ 15 ≤ fr by omega)
  have hhi : (fr : ℚ) + 1 ≤ 2 ^ 16 := by exact_mod_cast hfr
  have e : |((q + 1 : Nat) : ℚ) - (q + (fr + ε) / 2 ^ 16)| = 1 - (fr + ε) / 2 ^ 16 := by
    rw [abs_of_nonneg] <;> push_cast <;> linarith
  rw [NearestEven, e]
  refine ⟨by linarith, fun ht => ?_⟩
  rcases h with h | ⟨_, h | h⟩
  · have : (2 ^ 15 : ℚ) < fr := by exact_mod_cast h
    linarith
  · exact absurd (le_antisymm (by linarith) h0) h
  · omega

/-- One at or below one half is rounded down. -/
theorem nearestEven_down (h : fr < 2 ^ 15 ∨ fr = 2 ^ 15 ∧ ε = 0 ∧ q % 2 = 0) : NearestEven q (q + (fr + ε) / 2 ^ 16) := by
  have hnn : (0 : ℚ) ≤ fr := Nat.cast_nonneg fr
  have e : |(q : ℚ) - (q + (fr + ε) / 2 ^ 16)| = (fr + ε) / 2 ^ 16 := by
    rw [abs_of_nonpos] <;> linarith
  rw [NearestEven, e]
  rcases h with h | ⟨h, hε, hq⟩
  · have : (fr : ℚ) + 1 ≤ 2 ^ 15 := by exact_mod_cast h
    exact ⟨by linarith, fun ht => by linarith⟩
  · have : (fr : ℚ) = 2 ^ 15 := by exact_mod_cast h
    exact ⟨by linarith, fun _ => hq⟩
end

/-- The units of 2^k of a dyadic number, rounded down, and what is left of one. -/
theorem floorAt_dyadic (m : Nat) (e k : Int) : ∃ ε : ℚ, 0 ≤ ε ∧ ε < 1 ∧ (((Mag.rat m 1 e).floorAt k).2 = true ↔ ε = 0) ∧
    (m : ℚ) * 2 ^ e = (((Mag.rat m 1 e).floorAt k).1 + ε) * 2 ^ k := by
  have hf : (Mag.rat m 1 e).floorAt k =
      (m * 2 ^ (e - k).toNat / 2 ^ (k - e).toNat, m * 2 ^ (e - k).toNat % 2 ^ (k - e).toNat == 0) := by
    by_cases h : 0 ≤ e - k
    · rw [show (k - e).toNat = 0 by omega]
      simp only [Mag.floorAt, if_pos h, Nat.pow_zero]
    · rw [show (e - k).toNat = 0 by omega]
      simp only [Mag.floorAt, if_neg h, Nat.pow_zero, Nat.mul_one, Nat.one_mul]
  have hu := two_zpow_units e k
  rw [hf]
  have hD : (0 : ℚ) < ((2 ^ (k - e).toNat : Nat) : ℚ) := by exact_mod_cast Nat.two_pow_pos _
  have hN : (m : ℚ) * 2 ^ e * (2 ^ (k - e).toNat : Nat) = (m * 2 ^ (e - k).toNat : Nat) * 2 ^ k := by
    push_cast; rw [mul_assoc, hu, mul_assoc]
  generalize m * 2 ^ (e - k).toNat = N at hN ⊢
  generalize 2 ^ (k - e).toNat = D at hD hN ⊢
  have hdm : (N : ℚ) = D * (N / D : Nat) + (N % D : Nat) := by exact_mod_cast (Nat.div_add_mod N D).symm
  refine ⟨(N % D : Nat) / D, by positivity, ?_, ?_, ?_⟩
  · rw [div_lt_one hD]
    exact_mod_cast Nat.mod_lt N (by exact_mod_cast hD)
  · rw [div_eq_zero_iff, or_iff_left hD.ne', Nat.cast_eq_zero, beq_iff_eq]
  · rw [← mul_right_inj' hD.ne', mul_comm, hN, hdm]
    field_simp

/-- The magnitude of a finite value is rounded to nearest even. -/
theorem rneUnits_nearestEven (k : Int) (s : Bool) (m : Nat) (e : Int) :
    NearestEven (rneUnits k (.fin s m e)) (|(FV.fin s m e).rat| / 2 ^ k) := by
  by_cases hm : m = 0
  · subst hm
    rw [abs_rat_fin, Nat.cast_zero, zero_mul, zero_div]
    exact nearestEven_zero
  obtain ⟨ε, h0, h1, hex, hv⟩ := floorAt_dyadic m e (k - 16)
  simp only [rneUnits, if_neg hm, roundUnits]
  generalize (Mag.rat m 1 e).floorAt (k - 16) = fl at hex hv ⊢
  obtain ⟨q16, exact⟩ := fl
  have hq : |(FV.fin s m e).rat| / 2 ^ k = (q16 / 2 ^ 16 : Nat) + ((q16 % 2 ^ 16 : Nat) + ε) / 2 ^ 16 := by
    have hdm : (q16 : ℚ) = 2 ^ 16 * (q16 / 2 ^ 16 : Nat) + (q16 % 2 ^ 16 : Nat) := by
      exact_mod_cast (Nat.div_add_mod q16 (2 ^ 16)).symm
    rw [abs_rat_fin, hv, zpow_sub₀ (by norm_num), hdm]
    field_simp
    ring
  rw [hq]
  have hfr : q16 % 2 ^ 16 < 2 ^ 16 := Nat.mod_lt _ (by norm_num)
  generalize q16 % 2 ^ 16 = fr at hfr ⊢
  generalize q16 / 2 ^ 16 = q
  have hup : (decide (2 ^ 15 < fr) || fr == 2 ^ 15 && (!exact || q % 2 == 1)) = true ↔
      2 ^ 15 < fr ∨ fr = 2 ^ 15 ∧ (ε ≠ 0 ∨ q % 2 = 1) := by
    simp only [Bool.or_eq_true, Bool.and_eq_true, decide_eq_true_eq, beq_iff_eq, Bool.not_eq_true', ← Bool.not_eq_true, hex, ne_eq]
  generalize (decide (2 ^ 15 < fr) || fr == 2 ^ 15 && (!exact || q % 2 == 1)) = up at hup ⊢
  cases up
  · have hdown : ¬ (2 ^ 15 < fr ∨ fr = 2 ^ 15 ∧ (ε ≠ 0 ∨ q % 2 = 1)) := fun h => Bool.false_ne_true (hup.2 h)
    push Not at hdown
    refine nearestEven_down h0 h1 ((Nat.lt_or_eq_of_le hdown.1).imp_right fun h => ?_)
    obtain ⟨hε, hq⟩ := hdown.2 h
    exact ⟨h, hε, Nat.mod_two_ne_one.1 hq⟩
  · exact nearestEven_up h0 h1 hfr (hup.1 rfl)

/-! ### The shared exponent of a block (02 R35) -/

theorem FV.isFin_of {v : FV} (hn : v.isNan = false) (hi : v.isInf = false) : ∃ s m e, v = .fin s m e := by
  rcases v with _ | _ | ⟨s, m, e⟩
  · cases hn
  · cases hi
  · exact ⟨s, m, e, rfl⟩

/-- The larger of two finite magnitudes is one of them and at least as large as both. -/
theorem maxMag_spec {s t : Bool} {m n : Nat} {e k : Int} {r : FV} (hr : maxMag (.fin s m e) (.fin t n k) = r) :
    (r = .fin s m e ∨ r = .fin t n k) ∧ |(FV.fin s m e).rat| ≤ |r.rat| ∧ |(FV.fin t n k).rat| ≤ |r.rat| := by
  have h := abs_lt_iff_rat s t m n e k
  subst hr
  unfold maxMag
  split_ifs with hlt
  · exact ⟨.inr rfl, (h.1 hlt).le, le_refl _⟩
  · exact ⟨.inl rfl, le_refl _, not_lt.1 fun hc => hlt (h.2 hc)⟩

/-- A value of largest magnitude of a list, or a zero that stands before them. -/
def bqLargest (a : FV) (xs : List FV) : FV := xs.foldl (fun a x => if x.isFin then maxMag a x else a) a

theorem bqLargest_spec (xs : List FV) (s : Bool) (m : Nat) (e : Int) :
    ∃ s' m' e', bqLargest (.fin s m e) xs = .fin s' m' e' ∧
      (FV.fin s' m' e' = .fin s m e ∨ FV.fin s' m' e' ∈ xs) ∧
      |(FV.fin s m e).rat| ≤ |(FV.fin s' m' e').rat| ∧
      ∀ v ∈ xs, v.isFin = true → |v.rat| ≤ |(FV.fin s' m' e').rat| := by
  induction xs generalizing s m e with
  | nil => exact ⟨s, m, e, rfl, .inl rfl, le_refl _, fun v hv => absurd hv List.not_mem_nil⟩
  | cons x xs ih =>
    rcases x with n | n | ⟨t, n, k⟩
    iterate 2
      obtain ⟨s', m', e', hr, hm, hle, hall⟩ := ih s m e
      refine ⟨s', m', e', hr, hm.imp_right (List.mem_cons_of_mem _), hle, fun v hv hf => ?_⟩
      rcases List.mem_cons.1 hv with rfl | hv
      · cases hf
      · exact hall v hv hf
    have hstep : bqLargest (.fin s m e) (.fin t n k :: xs) = bqLargest (maxMag (.fin s m e) (.fin t n k)) xs := rfl
    obtain ⟨s1, m1, e1, h3⟩ : ∃ s1 m1 e1, maxMag (.fin s m e) (.fin t n k) = .fin s1 m1 e1 := by
      unfold maxMag; split_ifs <;> exact ⟨_, _, _, rfl⟩
    obtain ⟨hor, h1, h2⟩ := maxMag_spec h3
    rw [h3] at hstep
    obtain ⟨s', m', e', hr, hm, hle, hall⟩ := ih s1 m1 e1
    refine ⟨s', m', e', hstep.trans hr, ?_, h1.trans hle, fun v hv hf => ?_⟩
    · rcases hm with hm | hm
      · rw [hm]
        exact hor.imp_right fun h => by rw [h]; exact List.mem_cons_self
      · exact .inr (List.mem_cons_of_mem _ hm)
    · rcases List.mem_cons.1 hv with rfl | hv
      · exact h2.trans hle
      · exact hall v hv hf

theorem bqExp_eq (xs : List FV) : bqExp xs =
    if xs.any (·.isInf) then 254
    else if (bqLargest (.fin false 0 0) xs).isZero then 0
    else (clampInt 0 254 (ilogFV (bqLargest (.fin false 0 0) xs) + 127)).toNat := rfl

theorem bqExp_le (xs : List FV) : bqExp xs ≤ 254 := by
  rw [bqExp_eq]
  unfold clampInt
  split_ifs <;> omega

theorem bqExp_of_inf {xs : List FV} (h : ∃ v ∈ xs, v.isInf = true) : bqExp xs = 254 := by
  rw [bqExp_eq, if_pos (List.any_eq_true.2 h)]

theorem not_any_inf {xs : List FV} (h : ∀ v ∈ xs, v.isInf = false) : ¬ xs.any (·.isInf) = true := by
  rw [List.any_eq_true]
  rintro ⟨v, hv, hi⟩
  rw [h v hv] at hi
  cases hi

theorem bqExp_of_zero {xs : List FV} (h : ∀ v ∈ xs, v.rat = 0 ∧ v.isInf = false) : bqExp xs = 0 := by
  obtain ⟨s, m, e, hr, hm, _, _⟩ := bqLargest_spec xs false 0 0
  have hz : (FV.fin s m e).rat = 0 := by
    rcases hm with hm | hm
    · rw [hm, rat_eq_zero_iff]
    · exact (h _ hm).1
  have hm0 := (rat_eq_zero_iff s m e).1 hz
  rw [bqExp_eq, if_neg (not_any_inf fun v hv => (h v hv).2), hr, if_pos (by simpa [FV.isZero] using hm0)]

/-- The exponent is that of the largest magnitude, clamped. -/
theorem bqExp_bounds {xs : List FV} (hi : ∀ v ∈ xs, v.isInf = false) (hn : ∀ v ∈ xs, v.isNan = false) {a : FV} (ha : a ∈ xs)
    (h0 : a.rat ≠ 0) (hmax : ∀ v ∈ xs, |v.rat| ≤ |a.rat|) :
    (0 < bqExp xs → (2 : ℚ) ^ ((bqExp xs : ℤ) - 127) ≤ |a.rat|) ∧
      (bqExp xs < 254 → |a.rat| < 2 ^ ((bqExp xs : ℤ) - 126)) := by
  obtain ⟨s, m, e, hr, hm, _, hall⟩ := bqLargest_spec xs false 0 0
  have haf : a.isFin = true := by obtain ⟨_, _, _, rfl⟩ := FV.isFin_of (hn a ha) (hi a ha); rfl
  have hpos : 0 < |a.rat| := abs_pos.2 h0
  have heq : |(FV.fin s m e).rat| = |a.rat| := by
    refine le_antisymm ?_ (hall a ha haf)
    rcases hm with hm | hm
    · rw [hm, abs_rat_fin, Nat.cast_zero, zero_mul]; exact hpos.le
    · exact hmax _ hm
  have hm0 : m ≠ 0 := fun h => by rw [← heq, abs_rat_fin, h, Nat.cast_zero, zero_mul] at hpos; exact lt_irrefl _ hpos
  obtain ⟨hlo, hhi⟩ := ilogFV_bounds s hm0 e
  rw [heq] at hlo hhi
  rw [bqExp_eq, if_neg (not_any_inf hi), hr, if_neg (by simpa [FV.isZero] using hm0)]
  generalize ilogFV (.fin s m e) = l at hlo hhi ⊢
  have hc : ((clampInt 0 254 (l + 127)).toNat : ℤ) = max 0 (min 254 (l + 127)) := by
    unfold clampInt; split_ifs <;> omega
  refine ⟨fun h => le_trans (zpow_le_zpow_right₀ (by norm_num) ?_) hlo,
    fun h => hhi.trans_le (zpow_le_zpow_right₀ (by norm_num) ?_)⟩
  all_goals omega

/-! ### The bits that a pair of elements sets (02 R33, R35) -/

theorem bqElem_eq (fmt : BqFmt) : bqElem fmt = bqMant fmt + 1 := by cases fmt <;> rfl

/-- An element is small when twice its magnitude fits the block's range (R35). -/
def bqSmall (e : Nat) (v : FV) : Bool := !v.isInf && magLePow ((e : Int) - 128) v

/-- What a pair of elements makes of the mantissa shift, before it is known whether both round to zero. -/
def bqHalf (e : Nat) (x y : FV) : Nat := if 1 ≤ e ∧ bqSmall e x ∧ bqSmall e y then 1 else 0

/-- The fields of a pair: its μ, its PZ, and its two elements. -/
structure BqPairBits where
  mu : Nat
  pz : Nat
  x : Nat
  y : Nat

/-- The fields that R35 gives a pair under a shared exponent. -/
def bqPairBits (fmt : BqFmt) (e : Nat) (x y : FV) : BqPairBits :=
  let k : Int := (e : Int) - 127 - (bqHalf e x y : Nat) - ((bqMant fmt : Nat) - 1)
  let mx := bqMag (bqMant fmt) k x
  let my := bqMag (bqMant fmt) k y
  if mx = 0 ∧ my = 0 then ⟨0, 1, 0, 0⟩
  else ⟨bqHalf e x y, 0, x.sign.toNat * 2 ^ bqMant fmt + mx, y.sign.toNat * 2 ^ bqMant fmt + my⟩

theorem bqHalf_cases (e : Nat) (x y : FV) : bqHalf e x y = 0 ∨ bqHalf e x y = 1 := by
  unfold bqHalf; split_ifs <;> simp

theorem bqHalf_eq_one (e : Nat) (x y : FV) : bqHalf e x y = 1 ↔ 1 ≤ e ∧ bqSmall e x ∧ bqSmall e y := by
  unfold bqHalf; split_ifs with h <;> simp [h]

theorem bqPair_eq (fmt : BqFmt) (e p : Nat) (x y : FV) :
    bqPair fmt e p x y = (bqPairBits fmt e x y).mu * 2 ^ (8 + p) + (bqPairBits fmt e x y).pz * 2 ^ (16 + p) +
      ((bqPairBits fmt e x y).x + 2 ^ bqElem fmt * (bqPairBits fmt e x y).y) * 2 ^ (24 + 2 * bqElem fmt * p) := by
  have hh : (if 1 ≤ e ∧ (!x.isInf && magLePow ((e : Int) - 128) x) = true ∧ (!y.isInf && magLePow ((e : Int) - 128) y) = true
      then 1 else 0) = bqHalf e x y := rfl
  unfold bqPair bqPairBits
  simp only [hh]
  split_ifs
  · simp
  · simp only
    ring

theorem bqMag_lt (mb : Nat) (k : Int) (x : FV) : bqMag mb k x < 2 ^ mb := by
  have := Nat.two_pow_pos mb
  unfold bqMag; split_ifs <;> omega

theorem bqPairBits_lt (fmt : BqFmt) (e : Nat) (x y : FV) :
    (bqPairBits fmt e x y).mu < 2 ∧ (bqPairBits fmt e x y).pz < 2 ∧ (bqPairBits fmt e x y).x < 2 ^ bqElem fmt ∧
      (bqPairBits fmt e x y).y < 2 ^ bqElem fmt := by
  have hel : ∀ (s : Bool) (k : Int) (v : FV), s.toNat * 2 ^ bqMant fmt + bqMag (bqMant fmt) k v < 2 ^ bqElem fmt := by
    intro s k v
    have h1 := bqMag_lt (bqMant fmt) k v
    rw [bqElem_eq, Nat.pow_succ]
    cases s <;> simp only [Bool.toNat_false, Bool.toNat_true] <;> omega
  have hh := bqHalf_cases e x y
  unfold bqPairBits
  dsimp only
  split_ifs
  · exact ⟨Nat.zero_lt_two, Nat.one_lt_two, Nat.two_pow_pos _, Nat.two_pow_pos _⟩
  · exact ⟨show bqHalf e x y < 2 by omega, Nat.zero_lt_two, hel .., hel ..⟩

/-! ### A block as its fields (02 R32 to R35) -/

/-- The fields of pair p of a list of sixteen. -/
def bqBitsAt (fmt : BqFmt) (xs : List FV) (p : Nat) : BqPairBits :=
  bqPairBits fmt (bqExp xs) (xs.getD (2 * p) (.fin false 0 0)) (xs.getD (2 * p + 1) (.fin false 0 0))

/-- The exponent, the eight μ, the eight PZ and the sixteen elements, one above the other. -/
def bqFields (fmt : BqFmt) (xs : List FV) : Nat :=
  bqExp xs + 2 ^ 8 * (packDigits 1 (fun p => (bqBitsAt fmt xs p).mu) 8 +
    2 ^ 8 * (packDigits 1 (fun p => (bqBitsAt fmt xs p).pz) 8 +
      2 ^ 8 * packDigits (2 * bqElem fmt) (fun p => (bqBitsAt fmt xs p).x + 2 ^ bqElem fmt * (bqBitsAt fmt xs p).y) 8))

theorem foldl_add_range (e : Nat) (g : Nat → Nat) (n : Nat) :
    (List.range n).foldl (fun blk p => blk + g p) e = e + ∑ p ∈ Finset.range n, g p := by
  induction n with
  | zero => rfl
  | succ n ih => rw [List.range_succ, List.foldl_append, ih, Finset.sum_range_succ, ← Nat.add_assoc]; rfl

theorem bqEncode_of_nan (fmt : BqFmt) {prop : Bool} {xs : List FV}
    (h : ∃ v ∈ xs, v.isNan = true ∨ prop = true ∧ v.isInf = true) : bqEncode fmt prop xs = 255 := by
  have : (xs.any fun x => x.isNan || (prop && x.isInf)) = true := by simpa [List.any_eq_true] using h
  rw [bqEncode, if_pos this]

theorem bqEncode_eq (fmt : BqFmt) {prop : Bool} {xs : List FV}
    (h : ∀ v ∈ xs, v.isNan = false ∧ (prop = true → v.isInf = false)) : bqEncode fmt prop xs = bqFields fmt xs := by
  have hn : ¬ (xs.any fun x => x.isNan || (prop && x.isInf)) = true := by
    simp only [List.any_eq_true, Bool.or_eq_true, Bool.and_eq_true]
    rintro ⟨v, hv, h1 | ⟨h1, h2⟩⟩
    · rw [(h v hv).1] at h1; cases h1
    · rw [(h v hv).2 h1] at h2; cases h2
  rw [bqEncode, if_neg hn, foldl_add_range, bqFields]
  simp only [packDigits, Finset.mul_sum, ← Finset.sum_add_distrib, Nat.mul_add]
  refine congrArg (bqExp xs + ·) (Finset.sum_congr rfl fun p _ => ?_)
  rw [bqPair_eq, ← bqBitsAt]
  ring

section
variable (fmt : BqFmt) (xs : List FV)

theorem bqBitsAt_lt (p : Nat) : (bqBitsAt fmt xs p).mu < 2 ∧ (bqBitsAt fmt xs p).pz < 2 ∧
    (bqBitsAt fmt xs p).x < 2 ^ bqElem fmt ∧ (bqBitsAt fmt xs p).y < 2 ^ bqElem fmt := bqPairBits_lt ..

theorem bqBitsAt_pair_lt (p : Nat) :
    (bqBitsAt fmt xs p).x + 2 ^ bqElem fmt * (bqBitsAt fmt xs p).y < 2 ^ (2 * bqElem fmt) := by
  obtain ⟨_, _, hx, hy⟩ := bqBitsAt_lt fmt xs p
  have := Nat.mul_le_mul_left (2 ^ bqElem fmt) hy
  rw [Nat.mul_succ] at this
  rw [Nat.two_mul, Nat.pow_add]
  omega

theorem bqExp_lt : bqExp xs < 2 ^ 8 := Nat.lt_of_le_of_lt (bqExp_le xs) (by decide)

theorem bqMus_lt : packDigits 1 (fun p => (bqBitsAt fmt xs p).mu) 8 < 2 ^ 8 :=
  packDigits_lt fun p _ => (bqBitsAt_lt fmt xs p).1

theorem bqPzs_lt : packDigits 1 (fun p => (bqBitsAt fmt xs p).pz) 8 < 2 ^ 8 :=
  packDigits_lt fun p _ => (bqBitsAt_lt fmt xs p).2.1

theorem bqFields_lt : bqFields fmt xs < 2 ^ (24 + 16 * bqElem fmt) := by
  have h1 := bqExp_lt xs
  have h2 := bqMus_lt fmt xs
  have h3 := bqPzs_lt fmt xs
  have h4 := packDigits_lt (n := 8) fun p _ => bqBitsAt_pair_lt fmt xs p
  rw [show 24 + 16 * bqElem fmt = 24 + 2 * bqElem fmt * 8 by omega, Nat.pow_add, bqFields]
  omega

theorem bqFields_exp : bqFields fmt xs % 2 ^ 8 = bqExp xs := by
  rw [bqFields, Nat.add_mul_mod_self_left, Nat.mod_eq_of_lt (bqExp_lt xs)]

variable {p : Nat} (hp : p < 8)
include hp

theorem bqFields_mu : bitsAt (bqFields fmt xs) (8 + p) 1 = (bqBitsAt fmt xs p).mu := by
  rw [bqFields, bitsAt_add_high _ _ _ (bqExp_lt xs), bitsAt_add_low _ _ (by omega),
    bitsAt_packDigits_one (fun p => (bqBitsAt_lt fmt xs p).1) hp]

theorem bqFields_pz : bitsAt (bqFields fmt xs) (16 + p) 1 = (bqBitsAt fmt xs p).pz := by
  rw [bqFields, show 16 + p = 8 + (8 + p) by omega, bitsAt_add_high _ _ _ (bqExp_lt xs), bitsAt_add_high _ _ _ (bqMus_lt fmt xs),
    bitsAt_add_low _ _ (by omega), bitsAt_packDigits_one (fun p => (bqBitsAt_lt fmt xs p).2.1) hp]

/-- A field of the two elements of pair p. -/
theorem bqFields_elems {lo w : Nat} (h : lo + w ≤ 2 * bqElem fmt) :
    bitsAt (bqFields fmt xs) (24 + (2 * bqElem fmt * p + lo)) w =
      bitsAt ((bqBitsAt fmt xs p).x + 2 ^ bqElem fmt * (bqBitsAt fmt xs p).y) lo w := by
  rw [bqFields, show 24 + (2 * bqElem fmt * p + lo) = 8 + (8 + (8 + (2 * bqElem fmt * p + lo))) by omega,
    bitsAt_add_high _ _ _ (bqExp_lt xs), bitsAt_add_high _ _ _ (bqMus_lt fmt xs), bitsAt_add_high _ _ _ (bqPzs_lt fmt xs),
    bitsAt_packDigits (fun p _ => bqBitsAt_pair_lt fmt xs p) hp h]

theorem bqFields_x : bitsAt (bqFields fmt xs) (24 + bqElem fmt * (2 * p)) (bqElem fmt) = (bqBitsAt fmt xs p).x := by
  obtain ⟨_, _, hx, _⟩ := bqBitsAt_lt fmt xs p
  have h := bqFields_elems fmt xs hp (lo := 0) (w := bqElem fmt) (by omega)
  rw [bitsAt_add_low _ _ (by omega)] at h
  rw [show bqElem fmt * (2 * p) = 2 * bqElem fmt * p + 0 by ring, h, bitsAt_zero, Nat.mod_eq_of_lt hx]

theorem bqFields_y : bitsAt (bqFields fmt xs) (24 + bqElem fmt * (2 * p + 1)) (bqElem fmt) = (bqBitsAt fmt xs p).y := by
  obtain ⟨_, _, hx, hy⟩ := bqBitsAt_lt fmt xs p
  have h := bqFields_elems fmt xs hp (lo := bqElem fmt + 0) (w := bqElem fmt) (by omega)
  rw [bitsAt_add_high _ _ _ hx] at h
  rw [show bqElem fmt * (2 * p + 1) = 2 * bqElem fmt * p + (bqElem fmt + 0) by ring, h, bitsAt_zero,
    Nat.mod_eq_of_lt hy]
end

theorem bqEncode_lt (fmt : BqFmt) (prop : Bool) (xs : List FV) : bqEncode fmt prop xs < 2 ^ (24 + 16 * bqElem fmt) := by
  by_cases h : ∃ v ∈ xs, v.isNan = true ∨ prop = true ∧ v.isInf = true
  · rw [bqEncode_of_nan fmt h]
    exact Nat.lt_of_lt_of_le (show 255 < 2 ^ 24 by decide) (Nat.pow_le_pow_right (by decide) (Nat.le_add_right ..))
  · push Not at h
    rw [bqEncode_eq fmt fun v hv => ⟨by simpa using (h v hv).1, fun hp => by simpa using (h v hv).2 hp⟩]
    exact bqFields_lt fmt xs

/-! ### The elements of a pair (02 R35) -/

theorem bqSmall_iff (e : Nat) {v : FV} (hn : v.isNan = false) :
    bqSmall e v = true ↔ v.isInf = false ∧ |v.rat| ≤ 2 ^ ((e : ℤ) - 128) := by
  rcases v with _ | _ | ⟨s, m, k⟩
  · cases hn
  · simp [bqSmall, FV.isInf]
  · simp only [bqSmall, FV.isInf, Bool.not_false, Bool.true_and, magLePow_iff, true_and]

/-- An infinity takes the largest mantissa; a finite magnitude is rounded to nearest even and clamped. -/
theorem bqMag_spec (mb : Nat) (k : Int) {v : FV} (hn : v.isNan = false) :
    if v.isInf then bqMag mb k v = 2 ^ mb - 1
    else ∃ r : Nat, bqMag mb k v = min r (2 ^ mb - 1) ∧ NearestEven r (|v.rat| / 2 ^ k) := by
  rcases v with _ | _ | ⟨s, m, e⟩
  · cases hn
  · rfl
  · exact ⟨_, rfl, rneUnits_nearestEven k s m e⟩

/-- The unit of a pair's mantissas, as a power of two. -/
def bqUnitExp (fmt : BqFmt) (e half : Nat) : Int := (e : Int) - 127 - half - ((bqMant fmt : Nat) - 1)

theorem bqPairBits_zero {fmt : BqFmt} {e : Nat} {x y : FV}
    (h : bqMag (bqMant fmt) (bqUnitExp fmt e (bqHalf e x y)) x = 0 ∧ bqMag (bqMant fmt) (bqUnitExp fmt e (bqHalf e x y)) y = 0) :
    bqPairBits fmt e x y = ⟨0, 1, 0, 0⟩ := if_pos h

theorem bqPairBits_nonzero {fmt : BqFmt} {e : Nat} {x y : FV}
    (h : ¬ (bqMag (bqMant fmt) (bqUnitExp fmt e (bqHalf e x y)) x = 0 ∧
      bqMag (bqMant fmt) (bqUnitExp fmt e (bqHalf e x y)) y = 0)) :
    bqPairBits fmt e x y = ⟨bqHalf e x y, 0,
      x.sign.toNat * 2 ^ bqMant fmt + bqMag (bqMant fmt) (bqUnitExp fmt e (bqHalf e x y)) x,
      y.sign.toNat * 2 ^ bqMant fmt + bqMag (bqMant fmt) (bqUnitExp fmt e (bqHalf e x y)) y⟩ := if_neg h

/-! ### Decoding (02 R34) -/

theorem bqDecode_nan (fmt : BqFmt) {block i : Nat} (he : block % 2 ^ 8 = 255) : bqDecode fmt block i = .nan false := by
  simp only [bqDecode, bitsAt_zero, if_pos he]

theorem bqDecode_zero (fmt : BqFmt) {block i : Nat} (he : block % 2 ^ 8 ≠ 255) (hz : block.testBit (16 + i / 2) = true) :
    bqDecode fmt block i = .fin false 0 0 := by
  rw [← bitsAt_one_eq, beq_iff_eq] at hz
  simp only [bqDecode, bitsAt_zero, if_neg he, if_pos hz]

theorem bqDecode_fin (fmt : BqFmt) {block i : Nat} (he : block % 2 ^ 8 ≠ 255) (hz : block.testBit (16 + i / 2) = false) :
    bqDecode fmt block i =
      .fin ((bitsAt block (24 + bqElem fmt * i) (bqElem fmt)).testBit (bqMant fmt))
        (bitsAt block (24 + bqElem fmt * i) (bqElem fmt) % 2 ^ bqMant fmt)
        (bqUnitExp fmt (block % 2 ^ 8) (bitsAt block (8 + i / 2) 1)) := by
  rw [← bitsAt_one_eq, beq_eq_false_iff_ne] at hz
  have hw : bqElem fmt - 1 = bqMant fmt := by rw [bqElem_eq, Nat.add_sub_cancel]
  simp only [bqDecode, bitsAt_zero, if_neg he, if_neg hz, hw, bitsAt_one_eq, bqUnitExp]

end Sys2Proof.Machine
open Sys2Proof Sys2Proof.Machine

/-- Settles O23: a block is its fields one above the other, the exponent is that of the largest magnitude, each pair is read back from
its place, and an element of a block is decoded by its exponent and its pair's PZ. -/
theorem blocksOfSixteen : Obligations.BlocksOfSixteen := by
  intro fmt mb w unit
  have hw : bqElem fmt = w := bqElem_eq fmt
  constructor
  · intro prop xs hlen block x e
    refine ⟨hw ▸ bqEncode_lt fmt prop xs, bqEncode_of_nan fmt, fun h => ?_⟩
    have hblock : block = bqFields fmt xs := bqEncode_eq fmt h
    have he : e = bqExp xs := by rw [← bqFields_exp fmt xs, ← hblock]
    have hn : ∀ v ∈ xs, v.isNan = false := fun v hv => (h v hv).1
    refine ⟨fun hi => he.trans (bqExp_of_inf hi), fun hz => he.trans (bqExp_of_zero hz),
      fun hi a ha h0 hmax => ?_, fun p hp => ?_⟩
    · rw [he]
      exact ⟨bqExp_le xs, bqExp_bounds hi hn ha h0 hmax⟩
    intro small mu pz el
    have hget : ∀ i, i < 16 → xs.getD i (.fin false 0 0) = x i ∧ (x i).isNan = false := by
      intro i hi
      have hl : i < xs.length := by omega
      have hx : x i = xs[i] := List.getD_eq_getElem _ _ hl
      rw [hx]
      exact ⟨List.getD_eq_getElem _ _ hl, hn _ (List.getElem_mem hl)⟩
    obtain ⟨hx, hxn⟩ := hget (2 * p) (by omega)
    obtain ⟨hy, hyn⟩ := hget (2 * p + 1) (by omega)
    have hbits : bqBitsAt fmt xs p = bqPairBits fmt e (x (2 * p)) (x (2 * p + 1)) := by rw [bqBitsAt, hx, hy, he]
    have hmu : mu = _ := (congrArg (bitsAt · (8 + p) 1) hblock).trans (bqFields_mu fmt xs hp)
    have hpz : pz = _ := (congrArg (bitsAt · (16 + p) 1) hblock).trans (bqFields_pz fmt xs hp)
    have hex : el (2 * p) = _ := (congrArg (bitsAt · (24 + w * (2 * p)) w) hblock).trans (hw ▸ bqFields_x fmt xs hp)
    have hey : el (2 * p + 1) = _ := (congrArg (bitsAt · (24 + w * (2 * p + 1)) w) hblock).trans (hw ▸ bqFields_y fmt xs hp)
    rw [hmu, hpz, hex, hey, hbits]
    let k : Int := bqUnitExp fmt e (bqHalf e (x (2 * p)) (x (2 * p + 1)))
    refine ⟨bqHalf e (x (2 * p)) (x (2 * p + 1)), by simpa using bqHalf_cases .., ?_, bqMag mb k (x (2 * p)),
      bqMag mb k (x (2 * p + 1)), ?_, fun h0 => ?_, fun h0 => ?_⟩
    · rw [bqHalf_eq_one, bqSmall_iff e hxn, bqSmall_iff e hyn]
    · simp only [List.forall_mem_cons, List.not_mem_nil, false_imp_iff, implies_true, and_true]
      exact ⟨bqMag_spec mb k hxn, bqMag_spec mb k hyn⟩
    · rw [bqPairBits_zero h0]
      exact ⟨rfl, rfl, rfl, rfl⟩
    · rw [bqPairBits_nonzero (not_and_or.2 h0 : ¬ (_ ∧ _))]
      exact ⟨rfl, rfl, rfl, rfl⟩
  · intro block i _ e el v
    by_cases he : e = 255
    · have hv : v = .nan false := bqDecode_nan fmt he
      rw [hv]
      exact ⟨rfl, iff_of_true rfl he, fun h => absurd he h, fun h => absurd he h⟩
    · cases hz : block.testBit (16 + i / 2)
      · have hv : v = _ := bqDecode_fin fmt he hz
        rw [hv, hw]
        exact ⟨rfl, iff_of_false Bool.false_ne_true he, fun _ h => absurd h Bool.false_ne_true, fun _ _ => ⟨rfl, rfl⟩⟩
      · have hv : v = .fin false 0 0 := bqDecode_zero fmt he hz
        rw [hv]
        exact ⟨rfl, iff_of_false Bool.false_ne_true he, fun _ _ => ⟨(rat_eq_zero_iff ..).2 rfl, rfl⟩,
          fun _ h => absurd h.symm Bool.false_ne_true⟩

end

section
/-! SUPPORT. An access before which nothing in flight is ordered, and what a read and a write of memory change in the state beside
memory (07 R133, R144; 12 R231 to R241). -/

namespace Sys2Proof.Machine

/-! ### An access with nothing in flight before it (12 R231 to R240) -/

theorem mem_of_nget? {α : Type} {m : NMap α} {k : Nat} {v : α} (h : nget? m k = some v) : (k, v) ∈ m := by
  induction m with
  | nil => cases h
  | cons e m ih =>
    obtain ⟨i, a⟩ := e
    by_cases hi : i = k
    · simp only [nget?, hi, if_true, Option.some.injEq] at h
      rw [hi, h]
      exact List.mem_cons_self
    · simp only [nget?, hi, if_false] at h
      exact List.mem_cons_of_mem _ (ih h)

/-- A core is one of those that the state lists, or it is as at reset. -/
theorem getCore_mem (s : State) (c : Nat) : (c, getCore s c) ∈ s.cores ∨ getCore s c = {} := by
  unfold getCore nget
  cases h : nget? s.cores c with
  | none => exact .inr rfl
  | some k => exact .inl (mem_of_nget? h)

section
variable {s : State} {c : Nat}

theorem flush_none {which : Req → Bool} (h : ∀ q ∈ (getCore s c).requests, which q = false) : flush s c which = s := by
  have : ¬ (getCore s c).requests.any which = true := by simpa using h
  rw [flush, if_neg this]

theorem flushReds_none {which : Req → Bool} (h : ∀ q ∈ (getCore s c).reds, which q = false) : flushReds s c which = s := by
  have : ¬ (getCore s c).reds.any which = true := by simpa using h
  rw [flushReds, if_neg this]

theorem flush_still (h : Still s c) (which : Req → Bool) : flush s c which = s :=
  flush_none fun q hq => by rw [h.1] at hq; cases hq

theorem flushReds_still (h : Still s c) (which : Req → Bool) : flushReds s c which = s :=
  flushReds_none fun q hq => by rw [h.2] at hq; cases hq

theorem flushRedLines_still (h : Still s c) (sid : Nat) (lines : List Nat) : flushRedLines s c sid lines = s :=
  flushReds_still h _

theorem flushLines_still (h : Still s c) (sid : Nat) (lines : List Nat) : flushLines s c sid lines = s := by
  rw [flushLines, flush_still h, flushRedLines_still h]

/-- A test that takes no access of any core performs nothing. -/
theorem flushAll_none {which : Nat → Req → Bool} (h : ∀ e ∈ s.cores, ∀ q ∈ e.2.requests ++ e.2.reds, which e.1 q = false) :
    flushAll s which = s := by
  have hone : ∀ c, flushReds (flush s c (which c)) c (which c) = s := by
    intro c
    rcases getCore_mem s c with hm | hm
    · have hq := h _ hm
      rw [flush_none fun q hq' => hq q (List.mem_append_left _ hq'), flushReds_none fun q hq' => hq q (List.mem_append_right _ hq')]
    · have hs : Still s c := by rw [Still, hm]; exact ⟨rfl, rfl⟩
      rw [flush_still hs, flushReds_still hs]
  unfold flushAll
  generalize s.cores = es
  induction es with
  | nil => rfl
  | cons e es ih => rw [List.foldl_cons, hone, ih]

theorem passRelease_none {which : Nat → Req → Bool} (m : Mark)
    (h : ∀ e ∈ s.cores, ∀ q ∈ e.2.requests ++ e.2.reds, which e.1 q = false) : passRelease s m which = s := by
  have : ¬ (s.cores.any fun e => e.2.requests.any (which e.1) || e.2.reds.any (which e.1)) = true := by
    simp only [List.any_eq_true, Bool.or_eq_true, not_exists, not_and]
    rintro e he (⟨q, hq, hw⟩ | ⟨q, hq, hw⟩)
    · rw [h e he q (List.mem_append_left _ hq)] at hw; cases hw
    · rw [h e he q (List.mem_append_right _ hq)] at hw; cases hw
  simp only [passRelease, if_neg this]

variable {sid : Nat} (h : Quiet s c sid)
include h

theorem redsAtPeer_quiet (which : MemReq → Bool) : redsAtPeer s sid which = false := by
  obtain ⟨_, _, hp⟩ := h
  rw [redsAtPeer, List.any_eq_false]
  intro e he hc
  simp only [Bool.and_eq_true, beq_iff_eq] at hc
  exact hp e he hc.1.1 hc.1.2

theorem orderedBy_quiet : ∀ e ∈ s.cores, ∀ q ∈ e.2.requests ++ e.2.reds, orderedBy s c sid e.1 q = false := by
  intro e he q hq
  obtain ⟨hm, hs, hr⟩ := h.2.1 e he q hq
  simp only [orderedBy, markedFor, hm, List.any_nil, Bool.or_false, beq_eq_false_iff_ne.2 hs, Bool.false_and, Bool.false_or]
  by_cases hc : e.1 = c
  · rw [hr hc, List.contains_nil, Bool.and_false]
  · rw [beq_eq_false_iff_ne.2 hc, Bool.false_and]

theorem releaseAt_quiet (sc : Scope) (un all : Bool) : releaseAt s c sid sc un all = s := by
  have ho : ∀ e ∈ s.cores, ∀ q ∈ e.2.requests ++ e.2.reds, ((un || !q.unPage) && orderedBy s c sid e.1 q) = false := by
    intro e he q hq
    rw [orderedBy_quiet h e he q hq, Bool.and_false]
  rw [releaseAt, flushReds_still h.1]
  split_ifs
  · exact flushAll_none ho
  · exact passRelease_none _ ho

theorem touch_quiet (lines : List Nat) : touch s c sid lines = s := by
  refine flushAll_none fun e he q hq => ?_
  obtain ⟨hm, _, _⟩ := h.2.1 e he q hq
  rw [markedFor, hm, List.any_nil, Bool.false_and]
end

theorem makeRoom_still {s : State} {c : Nat} (h : Still s c) (need : List Nat) (n : Nat) : makeRoom c need n s = some s := by
  cases n with
  | zero => rfl
  | succ n => simp only [makeRoom, h.1, h.2, List.isEmpty_nil, Bool.and_self, if_true]

theorem withPermits_still {s : State} {c : Nat} (h : Still s c) (l : Nat) (lines : List Nat) (k : State → State) :
    withPermits s c l lines k = k s := by rw [withPermits, makeRoom_still h]

/-- An access before which nothing in flight is ordered takes its place at once. -/
theorem ordered_quiet {s : State} {c l : Nat} (h : Quiet s c (getStrand s c l).sid) (os : Ord × Scope) (writes rmw red : Bool)
    (lines : List Nat) (k : State → State) : ordered s c l os writes rmw red lines k = k s := by
  have hrel : (if (writes && ordReleases os.1) = true then releaseAt s c (getStrand s c l).sid os.2 false false else s) = s := by
    rw [releaseAt_quiet h, ite_self]
  simp only [ordered, afterReds, redsAtPeer_quiet h, Bool.false_eq_true, if_false, flushReds_still h.1, hrel, touch_quiet h,
    flush_still h.1, ite_self, withPermits_still h.1]

/-! ### Where an access is found (07 R133) -/

theorem globalAccess_found {s : State} {c l : Nat} {ps : List (Nat × Nat)} {rd wr : Bool} {xs : List (Xlat × Nat × Nat)}
    (h : locate s c ps rd wr = .found xs) (q : MemReq) (ea src : Nat) (k : List (Xlat × Nat × Nat) → State) :
    globalAccess s c l q ea src ps rd wr k = k xs := by rw [globalAccess, h]

/-- An access that is found with the write right is found where it is not asked for. -/
theorem locate_read {s : State} {c : Nat} {ps : List (Nat × Nat)} {rd : Bool} {xs : List (Xlat × Nat × Nat)}
    (h : locate s c ps rd true = .found xs) (wr : Bool) : locate s c ps rd wr = .found xs := by
  cases wr with
  | true => exact h
  | false =>
    unfold locate at h ⊢
    split_ifs at h ⊢
    split at h
    · split_ifs at h with h1 h2
      cases h
      rw [if_neg h1, Bool.false_and, if_neg Bool.false_ne_true]
    · exact h

theorem hereOrPeer_here {xs : List (Xlat × Nat × Nat)} (h : ∀ x ∈ xs, x.1.peer = false) (s : State) (c l ea : Nat) (q : MemReq)
    (writes rmw : Bool) (here : State) : hereOrPeer s c l ea q xs writes rmw here = here := by
  have : peerOf xs = none := by
    rw [peerOf, List.find?_eq_none.2 fun x hx => by rw [h x hx]; exact Bool.false_ne_true]; rfl
  rw [hereOrPeer, this]

/-! ### What a read of memory changes (12 R241; 22 R352) -/

/-- t is s but for home slices that were woken and leases that were recalled. -/
def Reached (s t : State) : Prop := ∃ ls gs, ls ⊆ s.leases ∧ gs ⊆ s.gated ∧ t = { s with leases := ls, gated := gs }

theorem Reached.refl (s : State) : Reached s s := ⟨s.leases, s.gated, fun _ h => h, fun _ h => h, rfl⟩

theorem Reached.trans {s t u : State} (h1 : Reached s t) (h2 : Reached t u) : Reached s u := by
  obtain ⟨ls, gs, hl, hg, rfl⟩ := h1
  obtain ⟨ls', gs', hl', hg', rfl⟩ := h2
  exact ⟨ls', gs', fun _ h => hl (hl' h), fun _ h => hg (hg' h), rfl⟩

theorem nerase_subset {α : Type} (m : NMap α) (k : Nat) : nerase m k ⊆ m := List.filter_subset_self _

theorem wakeUnit_reached (s : State) (u : GateUnit) : Reached s (wakeUnit s u) := by
  unfold wakeUnit
  split_ifs
  · exact ⟨s.leases, _, fun _ h => h, List.filter_subset_self _, rfl⟩
  · exact Reached.refl s

theorem recallLease_reached (s : State) (c line : Nat) : Reached s (recallLease s c line) := by
  unfold recallLease
  split
  · split_ifs
    · exact Reached.refl s
    · exact ⟨_, s.gated, nerase_subset _ _, fun _ h => h, rfl⟩
  · exact Reached.refl s

theorem reachLine_reached (s : State) (c line : Nat) : Reached s (reachLine s c line) :=
  (wakeUnit_reached s _).trans (recallLease_reached _ c line)

section
variable {s t : State} (h : Reached s t)
include h

theorem Reached.getField? (tag fid : Nat) : Machine.getField? t tag fid = Machine.getField? s tag fid := by
  obtain ⟨ls, gs, _, _, rfl⟩ := h; rfl

theorem Reached.internalWords (i n : Nat) : internalWords t i n = internalWords s i n := by
  obtain ⟨ls, gs, _, _, rfl⟩ := h
  induction n generalizing i with
  | zero => rfl
  | succ n ih => rw [Machine.internalWords, ih]; rfl

/-- What is read stays. -/
theorem Reached.physRead (key pa w : Nat) : physRead t key pa w = physRead s key pa w := by
  have hb : keyedBytes t key (pa / 8) (byteSpan pa w) = keyedBytes s key (pa / 8) (byteSpan pa w) := by
    obtain ⟨ls, gs, _, _, rfl⟩ := h
    exact keyedBytes_congr fun a _ _ => keyedByte_congr rfl rfl rfl key a
  rw [Machine.physRead, internalBits, h.internalWords, hb]
  rfl
end

/-- A value that a read of memory gives its strand, which goes on. -/
theorem readStep_finish {s t : State} (h : Reached s t) (d : Dst) (v : Nat) :
    ReadStep s (finish t s.cur.core s.cur.slot d v) := by
  obtain ⟨ls, gs, hl, hg, rfl⟩ := h
  exact ⟨fun k hk => nget_nset_other _ _ _ hk, fun _ => rfl, hg, hl, rfl⟩

/-! ### What a write of memory changes (07 R144; 12 R241) -/

/-- The strand with other monitors. -/
def withMon (t : Strand) (m : Vector Monitor 4) : Strand := { t with mon := m }

theorem wrG_withMon (t : Strand) (m : Vector Monitor 4) (r : Fin 64) (x : Word) :
    wrG (withMon t m) r x = withMon (wrG t r x) m := by
  unfold wrG
  split_ifs <;> rfl

/-- t is s after a write to plain memory: memory and the record of its keys may differ, monitors may have fired, leases been recalled
and home slices woken. -/
def Stored (s t : State) : Prop :=
  ∃ ss m ks ls gs, (∀ k, ∃ mon, nget ss {} k = withMon (nget s.strands {} k) mon) ∧
    t = { s with strands := ss, mem := m, keyOf := ks, leases := ls, gated := gs }

theorem Stored.trans {s t u : State} (h1 : Stored s t) (h2 : Stored t u) : Stored s u := by
  obtain ⟨ss, m, ks, ls, gs, h, rfl⟩ := h1
  obtain ⟨ss', m', ks', ls', gs', h', rfl⟩ := h2
  refine ⟨ss', m', ks', ls', gs', fun k => ?_, rfl⟩
  obtain ⟨mon, e⟩ := h k
  obtain ⟨mon', e'⟩ := h' k
  exact ⟨mon', by rw [e', e]; rfl⟩

theorem Reached.stored {s t : State} (h : Reached s t) : Stored s t := by
  obtain ⟨ls, gs, _, _, rfl⟩ := h
  exact ⟨s.strands, s.mem, s.keyOf, ls, gs, fun _ => ⟨_, rfl⟩, rfl⟩

theorem nget?_map {α β : Type} (f : α → β) (m : NMap α) (k : Nat) :
    nget? (m.map fun e => (e.1, f e.2)) k = (nget? m k).map f := by
  induction m with
  | nil => rfl
  | cons e m ih =>
    obtain ⟨i, a⟩ := e
    by_cases hi : i = k
    · simp only [List.map_cons, nget?, hi, if_true, Option.map_some]
    · simp only [List.map_cons, nget?, hi, if_false, ih]

/-- The strand after a write of [pa, pa + w) has fired its monitors. -/
def firedAt (pa w : Nat) (t : Strand) : Strand := withMon t (t.mon.map (fireMonitor false pa w))

theorem fireGlobal_stored (s : State) (pa w : Nat) : Stored s (fireGlobal s pa w) := by
  refine ⟨s.strands.map fun e => (e.1, firedAt pa w e.2), s.mem, s.keyOf, s.leases, s.gated, fun k => ?_, rfl⟩
  rw [nget, nget?_map, nget]
  cases nget? s.strands k <;> exact ⟨_, rfl⟩

theorem rekeyLines_stored (s : State) (k line n : Nat) : Stored s (rekeyLines s k line n) := by
  induction n generalizing s line with
  | zero => exact (Reached.refl s).stored
  | succ n ih => exact Stored.trans ⟨s.strands, _, _, s.leases, s.gated, fun _ => ⟨_, rfl⟩, rfl⟩ (ih (rekeyLine s k line) _)

theorem keyedWrite_stored (s : State) (k b n v : Nat) : Stored s (keyedWrite s k b n v) :=
  (rekeyLines_stored s k _ _).trans ⟨_, _, _, _, _, fun _ => ⟨_, rfl⟩, rfl⟩

theorem physWrite_stored (s : State) (c key w v : Nat) {pa : Nat} (h : isInternal pa = false) :
    Stored s (physWrite s c key pa w v) := by
  unfold physWrite
  rw [h]
  exact ((reachLine_reached s c _).stored.trans (fireGlobal_stored _ pa w)).trans (keyedWrite_stored ..)

theorem pteOr_stored (s : State) (a : Nat) : Stored s (pteOr s a) :=
  ((reachLine_reached s noCore _).stored.trans ⟨_, _, _, _, _, fun _ => ⟨_, rfl⟩, rfl⟩).trans (fireGlobal_stored _ a 1)

theorem setDirty_stored (s : State) (leaf : Nat) : Stored s (setDirty s leaf) := by
  unfold setDirty
  split_ifs
  · exact (Reached.refl s).stored
  · exact pteOr_stored s _

theorem writePart_stored (s : State) (c v : Nat) {p : Part} (h : isInternal p.pa = false) : Stored s (writePart s c p v) :=
  (setDirty_stored s p.leaf).trans (physWrite_stored _ c p.key p.w v h)

/-- A value that a write of memory gives its strand, which goes on. -/
theorem memoryStep_finish {s t : State} (h : Stored s t) (d : Dst) (v : Nat) :
    MemoryStep s (finish t s.cur.core s.cur.slot d v) := by
  obtain ⟨ss, m, ks, ls, gs, h, rfl⟩ := h
  refine ⟨fun k hk => ?_, fun _ => rfl, fun _ => rfl, rfl⟩
  obtain ⟨mon, e⟩ := h k
  rw [finish, onStrand_eq, putStrand, nget_nset_other _ _ _ hk, e]
  rfl

/-- The strand u with its pc behind the instruction at which the strand of this turn stands, ready from now. -/
def passed (s : State) (u : Strand) : Strand :=
  { u with pc := nextPc (turn s).pc, status := .ready, readySince := (turnCore s).cycles }

/-- That strand got the value, but for its monitors. -/
theorem turnBecame_finish {s t : State} (h : Stored s t) (r : Fin 64) (v : Nat) :
    TurnBecame (finish t s.cur.core s.cur.slot (.g r) v) (passed s (wrG (turn s) r (BitVec.ofNat 64 v))) := by
  obtain ⟨ss, m, ks, ls, gs, h, rfl⟩ := h
  obtain ⟨mon, e⟩ := h (s.cur.core * 8 + s.cur.slot)
  have ht : turn (finish { s with strands := ss, mem := m, keyOf := ks, leases := ls, gated := gs } s.cur.core s.cur.slot (.g r) v) =
      withMon (passed s (wrG (turn s) r (BitVec.ofNat 64 v))) mon := by
    rw [finish, onStrand_eq]
    simp only [turn, putStrand_cur, getStrand_putStrand_self, setDst]
    rw [getStrand, e, wrG_withMon, passed]
    simp only [advanced, withMon, wrG_pc]
    rfl
  rw [TurnBecame, ht]
  rfl

end Sys2Proof.Machine
end

section
/-! SUPPORT. The mark instructions: their checks, what they do at a home slice, and what they leave (07 R148 to R154; 18 R301, R306). -/

namespace Sys2Proof.Machine

/-! ### Where a mark operation is found (07 R148; 18 R301, R306) -/

theorem eaPlain_eq (t : Strand) (a : GOp) (x : BitVec 38) :
    eaPlain t a x = (BitVec.ofNat 64 (gVal t a) + x.signExtend 64).toNat := by
  have : BitVec.ofNat 64 (gVal t a) + x.signExtend 64 = BitVec.ofInt 64 ((gVal t a : Int) + dispOf x) := by
    rw [BitVec.ofInt_add, BitVec.ofInt_natCast]; rfl
  rw [this, BitVec.toNat_ofInt]; rfl

section
variable {s : State} {c l ea : Nat} (q : MemReq) {wr dep tadv : Bool} (k : List (Xlat × Nat × Nat) → Nat → Field → State)

theorem markAccess_misaligned (h : ea % 32 ≠ 0) : markAccess s c l q ea wr dep tadv k = takeTrap s c l 0x081 ea := by
  rw [markAccess, if_pos h]

variable (h32 : ea % 32 = 0) {xs : List (Xlat × Nat × Nat)}
include h32

theorem markAccess_noField (hf : fieldOf s (tagOf s c) ea = none) (hx : locate s c [(ea, 32)] true wr = .found xs) :
    markAccess s c l q ea wr dep tadv k = takeTrap s c l 0x240 ea := by
  have hwr : (wr && !false) = wr := by cases wr <;> rfl
  simp only [markAccess, h32, ne_eq, not_true_eq_false, if_false, hf, hwr, globalAccess_found hx, markFault]

variable {fid : Nat} {f : Field} (hf : fieldOf s (tagOf s c) ea = some (fid, f))
  (hx : locate s c [(ea, 32)] true (wr && (fid != 0)) = .found xs)
include hf hx

theorem markAccess_fault {code : Nat} (hm : markFault s (tagOf s c) ea dep tadv = some code) :
    markAccess s c l q ea wr dep tadv k = takeTrap s c l code ea := by
  simp only [markAccess, h32, ne_eq, not_true_eq_false, if_false, hf, ← bne_eq, globalAccess_found hx, hm]

theorem markAccess_found (hm : markFault s (tagOf s c) ea dep tadv = none) :
    markAccess s c l q ea wr dep tadv k = k xs fid f := by
  simp only [markAccess, h32, ne_eq, not_true_eq_false, if_false, hf, ← bne_eq, globalAccess_found hx, hm]
end

section
variable {s : State} {tag ea fid : Nat} {f : Field} (hf : fieldOf s tag ea = some (fid, f))
include hf

/-- The checks of R148 on an address in a live or frozen field. -/
theorem markFault_field (dep tadv : Bool) : markFault s tag ea dep tadv =
    if (dep || tadv) && f.st == .frozen then some 0x241 else if dep && fid == 0 then some 0x242
    else if tadv && f.tsrc != 0 then some 0x243 else none := by simp only [markFault, hf]

theorem markFault_read : markFault s tag ea false false = none := by rw [markFault_field hf]; rfl

theorem markFault_frozen {dep tadv : Bool} (h : (dep || tadv) = true) (hst : f.st = .frozen) :
    markFault s tag ea dep tadv = some 0x241 := by rw [markFault_field hf, h, hst]; rfl

theorem markFault_dep (hst : f.st ≠ .frozen) :
    markFault s tag ea true false = if fid = 0 then some 0x242 else none := by
  rw [markFault_field hf, beq_false_of_ne hst]
  by_cases h : fid = 0 <;> simp [h]

theorem markFault_tadv (hst : f.st ≠ .frozen) :
    markFault s tag ea false true = if f.tsrc ≠ 0 then some 0x243 else none := by
  rw [markFault_field hf, beq_false_of_ne hst]
  by_cases h : f.tsrc = 0 <;> simp [h]
end

/-! ### A mark operation at its home slice (07 R150, R151, R153) -/

/-- A mark operation before which nothing in flight is ordered, on cells of this device, is performed at once. -/
theorem markNow_value {s : State} (h : AtOnce s) (q : MemReq) (writes : Bool) (xs : List (Xlat × Nat × Nat)) (op : ReqOp) (ea : Nat)
    {s' : State} {v : Nat} {dst : Dst}
    (hp : performAll s s.cur.core 32 (mkReq s s.cur.core s.cur.slot ea (actsAs (kindOf xs) q).2 xs op) =
      (s', some (.value s.cur.slot (turn s).sid dst v))) :
    markNow s s.cur.core s.cur.slot q writes xs op ea = finish s' s.cur.core s.cur.slot dst v := by
  obtain ⟨hq, hfly, herr⟩ := h
  have hf : ∀ os ps, mayFly s os ps = false := fun os ps => by rw [mayFly, hfly, Bool.false_and]
  rw [markNow]
  dsimp only
  rw [ordered_quiet hq]
  simp only [flushLines_still hq.1, herr, hf, Bool.false_eq_true, if_false, hp]

theorem reqField_some {s : State} {tag fid : Nat} {f : Field} (h : getField? s tag fid = some f) :
    reqField s tag fid f.launch = some f := by
  rw [reqField, h, Option.filter_some, beq_self_eq_true, if_pos rfl]

theorem performAll_done {s : State} {c n : Nat} {q : Req} {s' : State} {r : Option Reply} (h : performReq s c q = .done s' r) :
    performAll s c (n + 1) q = (s', r) := by rw [performAll, h]

theorem performReq_dep {s : State} {tag fid : Nat} {f : Field} (hf : getField? s tag fid = some f) (hst : f.st ≠ .frozen)
    (c : Nat) (q : Req) (p : Part) {d : Nat} {cmb : Cmb} {dst : Dst} (hop : q.op = .dep tag fid f.launch d cmb dst)
    (hp : q.parts = [p]) :
    performReq s c q = .done (writePart s c p (depositWord f (physRead s p.key p.pa 32) d cmb).1)
      (some (.value q.slot q.sid dst (markResult 1 0 f.tick (depositWord f (physRead s p.key p.pa 32) d cmb).2))) := by
  simp only [performReq, hop, hp, reqField_some hf, if_neg hst, doDep]

theorem performReq_mrd {s : State} {tag fid : Nat} {f : Field} (hf : getField? s tag fid = some f)
    (c : Nat) (q : Req) (p : Part) {dst : Dst} (hop : q.op = .mrd tag fid f.launch dst) (hp : q.parts = [p]) :
    performReq s c q = .done (reachLine s c (lineOf p.pa)) (some (.value q.slot q.sid dst
      (markResult 1 0 f.tick (markAt (physRead s p.key p.pa 32) f.tick f.fade)))) := by
  simp only [performReq, hop, hp, reqField_some hf, doMrd, (reachLine_reached s c _).physRead]

/-- The part of a position's cell, among the parts that were found. -/
def cellPartOf (zs : List (Xlat × Nat × Nat)) (o : Option Nat) : Option (Nat × Part) :=
  o.bind fun a => (zs.find? fun x => x.2.1 == a).map fun x => (a, x.1.part a 32)

/-- The value of a cell of a SENSE at its field's tick; a position outside the field has none. -/
def cellValue (s : State) (f : Field) (o : Option (Nat × Part)) : Option Nat :=
  o.map fun e => markAt (physRead s e.2.key e.2.pa 32) f.tick f.fade

/-- The state after a SENSE has reached the home slice of a position's cell. -/
def cellReached (s : State) (c : Nat) : Option (Nat × Part) → State
  | some e => reachLine s c (lineOf e.2.pa)
  | none => s

theorem cellReached_reached (s : State) (c : Nat) (o : Option (Nat × Part)) : Reached s (cellReached s c o) := by
  cases o with
  | none => exact Reached.refl s
  | some e => exact reachLine_reached s c _

theorem Reached.cellValue {s t : State} (h : Reached s t) (f : Field) (o : Option (Nat × Part)) :
    Machine.cellValue t f o = Machine.cellValue s f o := by simp only [Machine.cellValue, h.physRead]

theorem performReq_sense {s : State} {tag fid : Nat} {f : Field} (hf : getField? s tag fid = some f) (c : Nat) (q : Req)
    {pin : Option Nat} {o : Option (Nat × Part)} {rest : List (Option (Nat × Part))} {vals : List (Option Nat)} {start : Nat}
    {dst : Dst} (hop : q.op = .sense tag fid f.launch pin (o :: rest) vals start dst) :
    performReq s c q =
      if rest = [] then
        .done (cellReached s c o) (some (.value q.slot q.sid dst (senseResult f.tick start (vals ++ [cellValue s f o]))))
      else .more (cellReached s c o)
        { q with op := .sense tag fid f.launch (some (pin.getD f.tick)) rest (vals ++ [cellValue s f o]) start dst } := by
  rw [← (cellReached_reached s c o).cellValue]
  cases o <;> simp only [performReq, hop, reqField_some hf, cellReached, cellValue, List.isEmpty_iff]

/-- A SENSE reads its cells one after the other; none of the reads changes what another finds. -/
theorem performAll_sense {tag fid : Nat} {f : Field} (c : Nat) {start : Nat} {dst : Dst} {todo : List (Option (Nat × Part))}
    (h0 : todo ≠ []) {n : Nat} (hn : todo.length ≤ n) {s : State} (hf : getField? s tag fid = some f) (q : Req)
    {pin : Option Nat} {vals : List (Option Nat)} (hop : q.op = .sense tag fid f.launch pin todo vals start dst) :
    ∃ t, Reached s t ∧ performAll s c n q =
      (t, some (.value q.slot q.sid dst (senseResult f.tick start (vals ++ todo.map (cellValue s f))))) := by
  induction todo generalizing n s q pin vals with
  | nil => exact absurd rfl h0
  | cons o rest ih =>
    obtain ⟨n, rfl⟩ : ∃ m, n = m + 1 := ⟨n - 1, by simp only [List.length_cons] at hn; omega⟩
    have ht := cellReached_reached s c o
    have hstep := performReq_sense hf c q hop
    by_cases hr : rest = []
    · subst hr
      rw [if_pos rfl] at hstep
      exact ⟨_, ht, performAll_done hstep⟩
    · rw [if_neg hr] at hstep
      obtain ⟨t, h1, h2⟩ := ih hr (Nat.le_of_succ_le_succ hn) ((ht.getField? tag fid).trans hf)
        { q with op := .sense tag fid f.launch (some (pin.getD f.tick)) rest (vals ++ [cellValue s f o]) start dst } rfl
      refine ⟨t, ht.trans h1, ?_⟩
      rw [performAll, hstep]
      refine h2.trans ?_
      rw [List.append_assoc, List.map_congr_left fun o _ => ht.cellValue f o]
      rfl

theorem senseCells_length (f : Field) (ea : Nat) (win : Window) :
    0 < (senseCells f ea win).length ∧ (senseCells f ea win).length ≤ 32 := by
  rw [senseCells, List.length_map, List.length_range]
  rcases win with len | _ | _ | _
  · revert len; decide
  all_goals decide

/-! ### The mark instructions (07 R149 to R154) -/

theorem memOp_runs {s : State} {gd : Guard} {names : List Named} (h : Runs s gd names) (q : Strand → MemReq) :
    memOp gd names q s = .next (runMem s s.cur.core s.cur.slot (q (turn s))) := guarded_runs h _

section
variable {s : State} {gd : Guard} {d a b : GOp} {x : BitVec 38}

theorem exec_dep (h : Runs s gd [.g a, .g b, .g d]) (cmb : Cmb) (o : StoreOrd) (sc : Scope) :
    exec (.dep gd d a b cmb o sc x) s = .next (runMem s s.cur.core s.cur.slot
      ⟨.dep (eaPlain (turn s) a x) (gVal (turn s) b % 2 ^ 16) cmb (.g (gReg (turn s) d)), ordS o, sc, false, false, false⟩) :=
  (memOp_runs h _ : execDep gd d a b cmb o sc x s = _)

theorem exec_mrd (h : Runs s gd [.g a, .g d]) (o : LoadOrd) (sc : Scope) :
    exec (.mrd gd d a o sc x) s = .next (runMem s s.cur.core s.cur.slot
      ⟨.mrd (eaPlain (turn s) a x) (.g (gReg (turn s) d)), ordL o, sc, false, false, false⟩) :=
  (memOp_runs h _ : execMrd gd d a o sc x s = _)

theorem exec_sense (h : Runs s gd [.g a, .g d]) (win : Window) (rot : Bool) (o : LoadOrd) (sc : Scope) :
    exec (.sense gd d a win rot o sc x) s = .next (runMem s s.cur.core s.cur.slot
      ⟨.sense (eaPlain (turn s) a x) win rot (.g (gReg (turn s) d)), ordL o, sc, false, false, false⟩) :=
  (memOp_runs h _ : execSense gd d a win rot o sc x s = _)

theorem exec_tickr (h : Runs s gd [.g a, .g d]) :
    exec (.tickr gd d a x) s = .next (runMem s s.cur.core s.cur.slot
      ⟨.tickr (eaPlain (turn s) a x) (.g (gReg (turn s) d)), .rlx, .pa, false, false, false⟩) :=
  (memOp_runs h _ : execTickr gd d a x s = _)

theorem exec_tadv (h : Runs s gd [.g a, .g d]) :
    exec (.tadv gd d a x) s = .next (runMem s s.cur.core s.cur.slot
      ⟨.tadv (eaPlain (turn s) a x) (.g (gReg (turn s) d)), .rlx, .pa, false, false, false⟩) :=
  (memOp_runs h _ : execTadv gd d a x s = _)
end

section
variable {s : State} {ea fid : Nat} {f : Field} {y : Xlat} (h32 : ea % 32 = 0)
  (hf : fieldOf s (tagOf s s.cur.core) ea = some (fid, f)) (o : Ord) (sc : Scope)
include h32 hf

theorem runMem_dep (hat : AtOnce s) (hg : getField? s (tagOf s s.cur.core) fid = some f) (hst : f.st ≠ .frozen) (h0 : fid ≠ 0)
    (hh : Here s [(ea, 32)] true true [(y, ea, 32)]) (v : Nat) (cmb : Cmb) (dst : Dst) :
    let w := depositWord f (physRead s y.key (y.phys ea) 32) v cmb
    runMem s s.cur.core s.cur.slot ⟨.dep ea v cmb dst, o, sc, false, false, false⟩ =
      finish (writePart s s.cur.core (y.part ea 32) w.1) s.cur.core s.cur.slot dst (markResult 1 0 f.tick w.2) := by
  have hx : locate s s.cur.core [(ea, 32)] true (true && (fid != 0)) = .found [(y, ea, 32)] := by
    rw [bne_iff_ne.2 h0]; exact hh.1
  have hm : markFault s (tagOf s s.cur.core) ea true false = none := by rw [markFault_dep hf hst, if_neg h0]
  refine (markAccess_found _ _ h32 hf hx hm).trans ((hereOrPeer_here hh.2 ..).trans (markNow_value hat _ _ _ _ _ ?_))
  exact performAll_done (performReq_dep hg hst _ _ (y.part ea 32) rfl rfl)

theorem runMem_mrd (hat : AtOnce s) (hg : getField? s (tagOf s s.cur.core) fid = some f)
    (hh : Here s [(ea, 32)] true false [(y, ea, 32)]) (dst : Dst) :
    runMem s s.cur.core s.cur.slot ⟨.mrd ea dst, o, sc, false, false, false⟩ =
      finish (reachLine s s.cur.core (lineOf (y.phys ea))) s.cur.core s.cur.slot dst
        (markResult 1 0 f.tick (markAt (physRead s y.key (y.phys ea) 32) f.tick f.fade)) := by
  refine (markAccess_found (wr := false) _ _ h32 hf hh.1 (markFault_read hf)).trans
    ((hereOrPeer_here hh.2 ..).trans (markNow_value hat _ _ _ _ _ ?_))
  exact performAll_done (performReq_mrd hg _ _ (y.part ea 32) rfl rfl)

theorem runMem_tickr (hh : Here s [(ea, 32)] true false [(y, ea, 32)]) (dst : Dst) :
    runMem s s.cur.core s.cur.slot ⟨.tickr ea dst, o, sc, false, false, false⟩ =
      finish s s.cur.core s.cur.slot dst f.tick := markAccess_found (wr := false) _ _ h32 hf hh.1 (markFault_read hf)

theorem runMem_tadv (hst : f.st ≠ .frozen) (ht : f.tsrc = 0) (hh : Here s [(ea, 32)] true true [(y, ea, 32)]) (r : Fin 64) :
    runMem s s.cur.core s.cur.slot ⟨.tadv ea (.g r), o, sc, false, false, false⟩ =
      sleep (onField s (tagOf s s.cur.core) fid fun f =>
        { f with due := f.due + 1, waiters := f.waiters ++ [(s.cur.core, s.cur.slot, (turn s).sid, r)] })
        s.cur.core s.cur.slot (.tadv fid r) := by
  have hm : markFault s (tagOf s s.cur.core) ea false true = none := by rw [markFault_tadv hf hst, if_neg (not_not.2 ht)]
  exact markAccess_found _ _ h32 hf (locate_read hh.1 _) hm

theorem runMem_sense (hat : AtOnce s) (hg : getField? s (tagOf s s.cur.core) fid = some f)
    (hh : Here s [(ea, 32)] true false [(y, ea, 32)]) {win : Window} {zs : List (Xlat × Nat × Nat)}
    (hz : Here s ((senseCells f ea win).filterMap fun o => o.map fun q => (q, 32)) true false zs) (rot : Bool) (dst : Dst) :
    ∃ t, Reached s t ∧ runMem s s.cur.core s.cur.slot ⟨.sense ea win rot dst, o, sc, false, false, false⟩ =
      finish t s.cur.core s.cur.slot dst (senseResult f.tick (if rot then strandNumber s s.cur.core s.cur.slot % windowSize win else 0)
        ((senseCells f ea win).map fun o => (o.bind fun q => (zs.find? fun z => z.2.1 == q).map fun z => z.1.part q 32).map
          fun r => markAt (physRead s r.key r.pa 32) f.tick f.fade)) := by
  obtain ⟨hz1, hz2⟩ := hz
  rw [← List.map_filterMap] at hz1
  have hlen := senseCells_length f ea win
  obtain ⟨t, ht, hp⟩ := performAll_sense (todo := (senseCells f ea win).map (cellPartOf zs)) (n := 32) s.cur.core
    (start := if rot then strandNumber s s.cur.core s.cur.slot % windowSize win else 0) (dst := dst) (vals := [])
    (by rw [← List.length_pos_iff, List.length_map]; exact hlen.1) (by rw [List.length_map]; exact hlen.2) hg
    (mkReq s s.cur.core s.cur.slot ea (actsAs (kindOf zs) ⟨.sense ea win rot dst, o, sc, false, false, false⟩).2 zs _) rfl
  refine ⟨t, ht, (markAccess_found (wr := false) _ _ h32 hf hh.1 (markFault_read hf)).trans ((globalAccess_found hz1 ..).trans
    ((hereOrPeer_here hz2 ..).trans ((markNow_value hat _ _ _ _ _ hp).trans ?_)))⟩
  have hv : ∀ o : Option Nat, cellValue s f (cellPartOf zs o) =
      (o.bind fun q => (zs.find? fun z => z.2.1 == q).map fun z => z.1.part q 32).map
        fun r => markAt (physRead s r.key r.pa 32) f.tick f.fade := by
    rintro (_ | a)
    · rfl
    · simp only [cellValue, cellPartOf, Option.bind_some, Option.map_map, Function.comp_def]
  simp only [List.nil_append, List.map_map, Function.comp_def, hv]
end

/-! ### What a mark operation leaves -/

/-- A cell's result of DEP or MRD (R149). -/
theorem markResult_one (tick v : Nat) : markResult 1 0 tick v = 2 ^ 48 + tick % 2 ^ 16 * 2 ^ 16 + v % 2 ^ 16 := by
  simp [markResult]

/-- A word of a cell is its 32 bits. -/
theorem markWord_mod (v tick : Nat) : markWord v tick % 2 ^ 32 = markWord v tick := by
  unfold markWord
  omega

theorem depositWord_eq (f : Field) (word d : Nat) (cmb : Cmb) : depositWord f word (d % 2 ^ 16) cmb =
    (let v := min (markCombine cmb (markAt word f.tick f.fade) (d % 2 ^ 16)) f.satv
     (markWord v f.tick, v)) := by rw [depositWord, Nat.mod_mod]

/-- The cell holds the word, and the strand's own change after it does not matter. -/
theorem physRead_finish_writePart (s : State) (c c' l v r : Nat) (d : Dst) {p : Part} (h : isInternal p.pa = false) :
    physRead (finish (writePart s c p v) c' l d r) p.key p.pa p.w = v % 2 ^ p.w := by
  calc physRead (finish (writePart s c p v) c' l d r) p.key p.pa p.w = physRead (writePart s c p v) p.key p.pa p.w :=
        physRead_congr h fun a _ _ => keyedByte_congr rfl rfl rfl p.key a
    _ = v % 2 ^ p.w := physRead_physWrite_self _ _ _ _ _ _ h

theorem turn_finish {s t : State} (h : Reached s t) (r : Fin 64) (v : Nat) :
    turn (finish t s.cur.core s.cur.slot (.g r) v) = passed s (wrG (turn s) r (BitVec.ofNat 64 v)) := by
  obtain ⟨ls, gs, _, _, rfl⟩ := h
  rw [finish, onStrand_eq]
  simp only [turn, putStrand_cur, getStrand_putStrand_self, setDst, passed, advanced, wrG_pc]
  rfl

theorem sameButTurn_finish (s : State) (d : Dst) (v : Nat) : SameButTurn s (finish s s.cur.core s.cur.slot d v) :=
  ⟨fun _ hk => nget_nset_other _ _ _ hk, fun _ => rfl, rfl⟩

section
variable {s : State} {tag fid : Nat} {f : Field} (hg : getField? s tag fid = some f) (g : Field → Field) (w : Wait)
include hg

theorem onField_some : onField s tag fid g = putField s tag fid (g f) := by rw [onField, hg]

theorem turn_sleep_onField : turn (sleep (onField s tag fid g) s.cur.core s.cur.slot w) = { turn s with status := .asleep w } := by
  rw [onField_some hg, sleep, onStrand_eq]
  exact getStrand_putStrand_self ..

theorem getField?_sleep_onField (c l : Nat) : getField? (sleep (onField s tag fid g) c l w) tag fid = some (g f) := by
  rw [onField_some hg, sleep, onStrand_eq, putField, onPart_eq, getField?, getPart_putStrand, getPart_putPart_self]
  exact nget?_nset_self ..
end

end Sys2Proof.Machine
open Sys2Proof Sys2Proof.Machine

/-- Settles O30: an instruction that passes its checks is one access that is made at once, and its result is read off what the cell
holds; each failing check is the trap of its place in the order. -/
theorem marks : Obligations.Marks := by
  intro gd d a b cmb win rot os ol sc x s y fid f zs hat st c tag ea p old ready gives onCell dep
  have hea : eaPlain st a x = ea := eaPlain_eq st a x
  refine ⟨fun h => ?_, fun h => ?_, fun h h32 hf => ?_, fun h h32 hf hh => ?_, fun h hc hst => ?_⟩
  · rw [exec_dep h, hea]
    refine ⟨fun hc hl h0 hi hh => ?_, fun h32 => ?_, fun h32 hf hh => ?_, fun h32 hf hh => ?_⟩
    · obtain ⟨h32, hf, hg⟩ := hc
      have hst : f.st ≠ .frozen := by rw [hl]; decide
      have hd : min (markCombine cmb old (gVal st b % 2 ^ 16)) f.satv = dep := by cases cmb <;> rfl
      have hs := writePart_stored s c (markWord dep f.tick) (p := p) hi
      rw [runMem_dep h32 hf _ _ hat hg hst h0 hh, depositWord_eq, hd, markResult_one]
      exact ⟨_, rfl, memoryStep_finish hs _ _, turnBecame_finish hs _ _, writePart_spares s c p _,
        fun _ => (physRead_finish_writePart s c _ _ _ _ _ hi).trans (markWord_mod ..)⟩
    · exact congrArg _ (markAccess_misaligned _ _ h32)
    · exact congrArg _ (markAccess_noField _ _ h32 hf hh.1)
    · refine ⟨fun hst => congrArg _ (markAccess_fault (wr := true) _ _ h32 hf hh.1 (markFault_frozen hf rfl hst)),
        fun hst h0 => ?_⟩
      exact congrArg _ (markAccess_fault (wr := true) _ _ h32 hf hh.1 (by rw [markFault_dep hf hst, if_pos h0]))
  · rw [exec_mrd h, exec_sense h, exec_tickr h, exec_tadv h, hea]
    exact fun h32 => ⟨congrArg _ (markAccess_misaligned _ _ h32), congrArg _ (markAccess_misaligned _ _ h32),
      congrArg _ (markAccess_misaligned _ _ h32), congrArg _ (markAccess_misaligned _ _ h32)⟩
  · rw [exec_mrd h, exec_sense h, exec_tickr h, exec_tadv h, hea]
    exact ⟨fun hh => ⟨congrArg _ (markAccess_noField _ _ h32 hf hh.1), congrArg _ (markAccess_noField _ _ h32 hf hh.1),
      congrArg _ (markAccess_noField _ _ h32 hf hh.1)⟩, fun hh => congrArg _ (markAccess_noField _ _ h32 hf hh.1)⟩
  · rw [exec_tadv h, hea]
    refine ⟨fun hst => congrArg _ (markAccess_fault (wr := true) _ _ h32 hf hh.1 (markFault_frozen hf rfl hst)),
        fun hst ht => ?_⟩
    exact congrArg _ (markAccess_fault (wr := true) _ _ h32 hf hh.1 (by rw [markFault_tadv hf hst, if_pos ht]))
  · obtain ⟨h32, hf, hg⟩ := hc
    rw [exec_mrd h, exec_sense h, exec_tickr h, exec_tadv h, hea]
    refine ⟨fun hh => ⟨?_, ?_, fun hz => ?_⟩, fun hl ht hh => ?_⟩
    · have hr := reachLine_reached s c (lineOf (y.phys ea))
      rw [runMem_mrd h32 hf _ _ hat hg hh, markResult_one]
      exact ⟨_, rfl, readStep_finish hr _ _, turn_finish hr _ _⟩
    · rw [runMem_tickr h32 hf _ _ hh]
      exact ⟨_, rfl, sameButTurn_finish s _ _, turn_finish (Reached.refl s) _ _⟩
    · obtain ⟨t, ht, hr⟩ := runMem_sense h32 hf (ordL ol) sc hat hg hh hz rot (.g (gReg st d))
      rw [hr]
      exact ⟨_, rfl, readStep_finish ht _ _, turn_finish ht _ _⟩
    · have hst : f.st ≠ .frozen := by rw [hl]; decide
      rw [runMem_tadv h32 hf _ _ hst ht hh]
      exact ⟨_, rfl, turn_sleep_onField hg _ _, getField?_sleep_onField hg _ _ _ _⟩

end

section
/-! SUPPORT. Machine words behind the natural numbers and integers that the scalar instructions compute with (05 R83, R87). -/

namespace Sys2Proof.Machine

/-! ### Words and the integers that wrap to them (05 R83, R87) -/

theorem wrapTo_eq_toNat (w : Nat) (r : Int) : wrapTo w r = (BitVec.ofInt w r).toNat := (BitVec.toNat_ofInt ..).symm

theorem wrapTo_lt (w : Nat) (r : Int) : wrapTo w r < 2 ^ w := by rw [wrapTo_eq_toNat]; exact BitVec.isLt _

theorem ofNat_wrapTo (w : Nat) (r : Int) : BitVec.ofNat w (wrapTo w r) = BitVec.ofInt w r := by
  rw [wrapTo_eq_toNat, BitVec.ofNat_toNat, BitVec.setWidth_eq]

/-- X sign-extended is the word of X as a signed number (R70, R83). -/
theorem ofInt_dispOf (x : BitVec 38) : BitVec.ofInt 64 (dispOf x) = x.signExtend 64 := rfl

theorem immOf_eq (x : BitVec 38) : immOf x = (x.signExtend 64).toNat := wrapTo_eq_toNat 64 x.toInt

theorem gVal_lt (t : Strand) (o : GOp) : gVal t o < 2 ^ 64 := (rdG t (gReg t o)).isLt

theorem ofNat_gVal (t : Strand) (o : GOp) : BitVec.ofNat 64 (gVal t o) = rdG t (gReg t o) := by
  rw [gVal, BitVec.ofNat_toNat, BitVec.setWidth_eq]

theorem signedOf_mod (w x : Nat) : signedOf w (x % 2 ^ w) = signedOf w x := by rw [signedOf, Nat.mod_mod, signedOf]

theorem signedOf_toNat {w : Nat} (x : BitVec w) : signedOf w x.toNat = x.toInt := by
  rw [signedOf, Nat.mod_eq_of_lt x.isLt]; rfl

theorem itypeSigned_eq (t : IType) : itypeSigned t = decide (t ∈ [IType.i64, .i32, .i16, .i8]) := by cases t <;> rfl

/-! ### The operations of two operands (05 R89, R90) -/

/-- What an operation of R89 computes from its operands, given what R89 writes: ia and ib, and sa and sb. -/
def Computes (f : Nat → Nat → Nat → Int) (r : Nat → Int → Int → Int → Int → Int) : Prop :=
  ∀ w ia ib : Nat, ib < 2 ^ w → f w ia ib = r w ia ib (signedOf w ia) (signedOf w ib)

theorem natCast_ones (w : Nat) : ((2 ^ w - 1 : Nat) : Int) = 2 ^ w - 1 := by
  rw [Nat.cast_sub Nat.one_le_two_pow, Nat.cast_pow, Nat.cast_ofNat, Nat.cast_one]

theorem notW_of_lt {w x : Nat} (h : x < 2 ^ w) : notW w x = 2 ^ w - 1 - x := by rw [notW, Nat.mod_eq_of_lt h]

theorem aluMulh_computes : Computes aluMulh fun w _ _ sa sb => (sa * sb).fdiv (2 ^ w) := by
  intro w ia ib _; rw [aluMulh, Nat.cast_pow, Nat.cast_ofNat]

theorem aluMulhn_computes : Computes aluMulhn fun w ia ib _ _ => (ia * ib).fdiv (2 ^ w) := by
  intro w ia ib _; rw [aluMulhn, Int.ofNat_fdiv, Nat.cast_pow, Nat.cast_ofNat, Nat.cast_mul]

theorem aluDiv_computes : Computes aluDiv fun w _ ib sa sb => if ib = 0 then 2 ^ w - 1 else sa.tdiv sb := by
  intro w ia ib _; simp only [aluDiv, natCast_ones, Nat.cast_eq_zero]

theorem aluDivn_computes : Computes aluDivn fun w ia ib _ _ => if ib = 0 then 2 ^ w - 1 else ia.fdiv ib := by
  intro w ia ib _; simp only [aluDivn, natCast_ones, Nat.cast_eq_zero, Int.ofNat_fdiv]

theorem aluRem_computes : Computes aluRem fun _ ia ib sa sb => if ib = 0 then ia else sa - sa.tdiv sb * sb := by
  intro w ia ib _; simp only [aluRem, Nat.cast_eq_zero]

theorem aluRemn_computes : Computes aluRemn fun _ ia ib _ _ => if ib = 0 then ia else ia - ia.fdiv ib * ib := by
  intro w ia ib _
  have h : ((ia % ib : Nat) : Int) = ia - (ia : Int).fdiv ib * ib := by
    rw [← Int.ofNat_fdiv, Nat.mod_eq_sub_div_mul, Nat.cast_sub (Nat.div_mul_le_self ia ib), Nat.cast_mul]
  simp only [aluRemn, Nat.cast_eq_zero, h]

theorem aluAndn_computes : Computes aluAndn fun w ia ib _ _ => (ia.toNat &&& (2 ^ w - 1 - ib.toNat) : Nat) := by
  intro w ia ib h; rw [aluAndn, notW_of_lt h]; rfl

theorem aluOrn_computes : Computes aluOrn fun w ia ib _ _ => (ia.toNat ||| (2 ^ w - 1 - ib.toNat) : Nat) := by
  intro w ia ib h; rw [aluOrn, notW_of_lt h]; rfl

theorem aluShl_computes : Computes aluShl fun w ia ib _ _ => ia * 2 ^ (ib.toNat % w) := by
  intro w ia ib _; rw [aluShl, Nat.cast_mul, Nat.cast_pow]; rfl

theorem aluShr_computes : Computes aluShr fun w ia ib _ _ => ia.fdiv (2 ^ (ib.toNat % w)) := by
  intro w ia ib _; rw [aluShr, Int.ofNat_fdiv, Nat.cast_pow]; rfl

theorem aluSar_computes : Computes aluSar fun w _ ib sa _ => sa.fdiv (2 ^ (ib.toNat % w)) := by
  intro w ia ib _; rw [aluSar, Nat.cast_pow]; rfl

theorem aluRol_computes : Computes aluRol fun w ia ib _ _ =>
    (ia * 2 ^ (ib.toNat % w) + ia.fdiv (2 ^ (w - ib.toNat % w))) % 2 ^ w := by
  intro w ia ib _; simp only [aluRol, Nat.cast_add, Nat.cast_mul, Nat.cast_pow, Int.natCast_mod, Int.ofNat_fdiv]; rfl

theorem aluRor_computes : Computes aluRor fun w ia ib _ _ =>
    (ia.fdiv (2 ^ (ib.toNat % w)) + ia * 2 ^ (w - ib.toNat % w)) % 2 ^ w := by
  intro w ia ib _; simp only [aluRor, Nat.cast_add, Nat.cast_mul, Nat.cast_pow, Int.natCast_mod, Int.ofNat_fdiv]; rfl

theorem aluMinn_computes : Computes aluMinn fun _ ia ib _ _ => min ia ib := fun _ _ _ _ => Nat.cast_min ..
theorem aluMaxn_computes : Computes aluMaxn fun _ ia ib _ _ => max ia ib := fun _ _ _ _ => Nat.cast_max ..

/-- The two forms of an operation, and what R89 writes for it: both run one function on the low w bits of the operands. -/
def IntForms (op : (Guard → GOp → GOp → GOp → IType → Instr) × (Guard → GOp → GOp → IType → BitVec 38 → Instr) ×
    (Nat → Int → Int → Int → Int → Int)) : Prop :=
  ∃ f, (∀ gd d a b t s, exec (op.1 gd d a b t) s = aluR f gd d a b t s) ∧
    (∀ gd d a t x s, exec (op.2.1 gd d a t x) s = aluI f gd d a t x s) ∧ Computes f op.2.2

theorem IntForms.of {opR : Guard → GOp → GOp → GOp → IType → Instr} {opI : Guard → GOp → GOp → IType → BitVec 38 → Instr}
    {r : Nat → Int → Int → Int → Int → Int} (f : Nat → Nat → Nat → Int) (hf : Computes f r)
    (hR : ∀ gd d a b t s, exec (opR gd d a b t) s = aluR f gd d a b t s := by intros; rfl)
    (hI : ∀ gd d a t x s, exec (opI gd d a t x) s = aluI f gd d a t x s := by intros; rfl) : IntForms (opR, opI, r) :=
  ⟨f, hR, hI, hf⟩

theorem Computes.low {f : Nat → Nat → Nat → Int} {r : Nat → Int → Int → Int → Int → Int} (h : Computes f r) (w p q : Nat) :
    f w (p % 2 ^ w) (q % 2 ^ w) = r w (p % 2 ^ w : Nat) (q % 2 ^ w : Nat) (signedOf w p) (signedOf w q) := by
  rw [h _ _ _ (Nat.mod_lt _ (Nat.two_pow_pos w)), signedOf_mod, signedOf_mod]

/-- The order of CMP, two's complement for an i type and natural for an n type (R90). -/
theorem readTyped_lt (t : IType) (p q : Nat) : decide (readTyped t p < readTyped t q) =
    if t ∈ [IType.i64, .i32, .i16, .i8] then decide (signedOf t.width (p % 2 ^ t.width) < signedOf t.width (q % 2 ^ t.width))
    else decide (p % 2 ^ t.width < q % 2 ^ t.width) := by
  simp only [readTyped, itypeSigned_eq, signedOf_mod, decide_eq_true_eq]
  split_ifs
  · rfl
  · simp only [Nat.cast_lt]

theorem readTyped_le (t : IType) (p q : Nat) : decide (readTyped t p ≤ readTyped t q) = !decide (readTyped t q < readTyped t p) := by
  rw [← decide_not, decide_eq_decide, not_lt]

end Sys2Proof.Machine
open Sys2Proof Sys2Proof.Machine

/-- Settles O11: both forms of an operation run one function, which computes what R89 writes; CMP's conditions are all taken from one
order of the operands. -/
theorem integerOperations : Obligations.IntegerOperations := by
  constructor
  · intro op hop gd d a b t x s w st result
    have hforms : IntForms op := by
      revert op
      simp only [List.forall_mem_cons]
      exact ⟨.of aluAdd fun _ _ _ _ => rfl, .of aluSub fun _ _ _ _ => rfl, .of aluMul fun _ _ _ _ => rfl,
        .of _ aluMulh_computes, .of _ aluMulhn_computes, .of _ aluDiv_computes, .of _ aluDivn_computes,
        .of _ aluRem_computes, .of _ aluRemn_computes, .of aluAnd fun _ _ _ _ => rfl, .of aluOr fun _ _ _ _ => rfl,
        .of aluXor fun _ _ _ _ => rfl, .of _ aluAndn_computes, .of _ aluOrn_computes, .of _ aluShl_computes,
        .of _ aluShr_computes, .of _ aluSar_computes, .of _ aluRol_computes, .of _ aluRor_computes,
        .of aluMin fun _ _ _ _ => rfl, .of aluMax fun _ _ _ _ => rfl, .of _ aluMinn_computes, .of _ aluMaxn_computes,
        fun _ h => absurd h List.not_mem_nil⟩
    obtain ⟨f, hR, hI, hf⟩ := hforms
    have hr : ∀ p q, f w (p % 2 ^ w) (q % 2 ^ w) = result p q := hf.low w
    refine ⟨fun h => ?_, fun h => ?_⟩
    · rw [hR, aluR, regOp_runs h, hr]
    · rw [hI, aluI, regOp_runs h, hr, immOf_eq]
  · intro gd d a b t cc x s st holds written
    have hc : ∀ p q, intCond t cc p q = holds p q := by
      intro p q
      cases cc with
      | eq | ntst => rfl
      | ne | tst => exact decide_not.symm
      | lt | gt => exact readTyped_lt ..
      | ge | le => exact (readTyped_le ..).trans (congrArg _ (readTyped_lt ..))
    refine ⟨fun h => ?_, fun h => ?_⟩
    · exact (regOp_runs h _).trans (by rw [hc]; rfl)
    · exact (regOp_runs h _).trans (by rw [hc, immOf_eq]; rfl)

end

section
/-! SUPPORT. Counts of bits, fields of a word and extensions, as 05 R91 to R93 write them. -/

namespace Sys2Proof.Machine

/-! ### The operations of one operand (05 R91) -/

theorem size_eq_log2_succ {n : Nat} (h : n ≠ 0) : n.size = n.log2 + 1 :=
  Nat.le_antisymm (Nat.size_le.2 Nat.lt_log2_self) (Nat.lt_size.2 (Nat.log2_self_le h))

theorem leadZeros_eq {w x : Nat} (h : x < 2 ^ w) : leadZeros w x = w - x.size := by
  rw [leadZeros, Nat.mod_eq_of_lt h]
  split_ifs with h0
  · rw [h0, Nat.size_zero, Nat.sub_zero]
  · rw [size_eq_log2_succ h0, Nat.add_comm, Nat.sub_sub]

theorem trailZeros_eq (w x : Nat) : trailZeros w x = ((List.range w).takeWhile fun i => !x.testBit i).length := by
  induction w generalizing x with
  | zero => rfl
  | succ w ih =>
    rw [trailZeros, ih, List.range_succ_eq_map, List.takeWhile_cons, List.takeWhile_map, Nat.testBit_zero]
    by_cases h : x % 2 = 1
    · simp [h]
    · simp [h, Function.comp_def, Nat.testBit_succ, Nat.add_comm]

theorem popCount_eq (w x : Nat) : popCount w x = (List.range w).countP fun i => x.testBit i := by
  induction w generalizing x with
  | zero => rfl
  | succ w ih =>
    rw [popCount, ih, List.range_succ_eq_map, List.countP_cons, List.countP_map, Nat.testBit_zero]
    rcases Nat.mod_two_eq_zero_or_one x with h | h <;> simp [h, Function.comp_def, Nat.testBit_succ, Nat.add_comm]

theorem bitReverse_eq (w x : Nat) :
    bitReverse w x = ((List.range w).map fun i => if x.testBit i then 2 ^ (w - 1 - i) else 0).sum := by
  induction w generalizing x with
  | zero => rfl
  | succ w ih =>
    rw [bitReverse, ih, List.range_succ_eq_map, List.map_cons, List.sum_cons, List.map_map, Nat.testBit_zero]
    rcases Nat.mod_two_eq_zero_or_one x with h | h <;> simp [h, Function.comp_def, Nat.testBit_succ, Nat.sub_sub, Nat.add_comm]

/-- An operation of one operand and what R91 writes for it. -/
def BitForm (op : (Guard → GOp → GOp → IType → Instr) × (Nat → Nat → Int)) : Prop :=
  ∃ f, (∀ gd d a t s, exec (op.1 gd d a t) s = alu1 f gd d a t s) ∧ ∀ w ia : Nat, ia < 2 ^ w → f w ia = op.2 w ia

/-! ### Fields and extensions (05 R92, R93) -/

/-- The low bits of a word, sign-extended to 64: those above are set when the top one is. -/
theorem sextTo64_eq {w : Nat} (h1 : 1 ≤ w) (h : w ≤ 64) (x : Nat) : sextTo64 w x =
    if 2 ^ (w - 1) ≤ x % 2 ^ w then x % 2 ^ w + (2 ^ 64 - 2 ^ w) else x % 2 ^ w := by
  obtain ⟨v, rfl⟩ := Nat.exists_eq_add_of_le' h1
  have hx := Nat.mod_lt x (Nat.two_pow_pos (v + 1))
  have hle : 2 ^ (v + 1) ≤ 2 ^ 64 := Nat.pow_le_pow_right (by decide) h
  rw [sextTo64, wrapTo, signedOf, Nat.add_sub_cancel]
  have := Nat.pow_succ 2 v
  split_ifs <;> omega

theorem ctlWord_eq (t : Strand) (b : GOp) (x : BitVec 38) :
    ctlWord t b x = (BitVec.ofNat 64 (gVal t b) + x.signExtend 64).toNat := eaPlain_eq t b x

theorem fieldPos_toNat (c : BitVec 64) : fieldPos c.toNat = (c.extractLsb' 0 6).toNat := by
  rw [BitVec.extractLsb'_toNat, Nat.shiftRight_eq_div_pow]; rfl

theorem fieldLen_toNat (c : BitVec 64) : fieldLen c.toNat = (c.extractLsb' 8 6).toNat + 1 := by
  rw [BitVec.extractLsb'_toNat, Nat.shiftRight_eq_div_pow]; rfl

theorem fieldLen_pos (c : Nat) : 1 ≤ fieldLen c := Nat.succ_pos _
theorem fieldLen_le (c : Nat) : fieldLen c ≤ 64 := Nat.mod_lt _ (Nat.two_pow_pos 6)

theorem bitExtract_eq (sx : Bool) (a c : Nat) : bitExtract sx a c =
    if sx ∧ 2 ^ (fieldLen c - 1) ≤ a / 2 ^ fieldPos c % 2 ^ fieldLen c
    then a / 2 ^ fieldPos c % 2 ^ fieldLen c + (2 ^ 64 - 2 ^ fieldLen c) else a / 2 ^ fieldPos c % 2 ^ fieldLen c := by
  cases sx
  · simp [bitExtract]
  · simp [bitExtract, sextTo64_eq (fieldLen_pos c) (fieldLen_le c)]

theorem bitInsert_eq (d a c : Nat) : bitInsert d a c =
    (d &&& (2 ^ 64 - 1 - (2 ^ fieldLen c - 1) * 2 ^ fieldPos c % 2 ^ 64)) |||
      (a * 2 ^ fieldPos c &&& (2 ^ fieldLen c - 1) * 2 ^ fieldPos c % 2 ^ 64) := by
  simp only [bitInsert, notW_of_lt (Nat.mod_lt _ (Nat.two_pow_pos 64))]

end Sys2Proof.Machine
open Sys2Proof Sys2Proof.Machine

/-- Settles O12: the counts are taken bit by bit from the lowest; a field and an extension are read off the word that the control word
or X names. -/
theorem bitOperations : Obligations.BitOperations := by
  constructor
  · intro op hop gd d a t s h
    have hform : BitForm op := by
      revert op
      simp only [List.forall_mem_cons]
      exact ⟨⟨aluClz, fun _ _ _ _ _ => rfl, fun _ _ h => congrArg Nat.cast (leadZeros_eq h)⟩,
        ⟨aluCtz, fun _ _ _ _ _ => rfl, fun w x _ => congrArg Nat.cast (trailZeros_eq w x)⟩,
        ⟨aluPopc, fun _ _ _ _ _ => rfl, fun w x _ => congrArg Nat.cast (popCount_eq w x)⟩,
        ⟨aluBrev, fun _ _ _ _ _ => rfl, fun w x _ => congrArg Nat.cast (bitReverse_eq w x)⟩,
        ⟨aluAbs, fun _ _ _ _ _ => rfl, fun _ _ _ => rfl⟩, ⟨aluNeg, fun _ _ _ _ _ => rfl, fun _ _ _ => rfl⟩,
        fun _ h => absurd h List.not_mem_nil⟩
    obtain ⟨f, hexec, hf⟩ := hform
    rw [hexec, alu1, regOp_runs h, hf _ _ (Nat.mod_lt _ (Nat.two_pow_pos _))]
  · intro gd d a b sx x s st c pos len field mask
    have hc : ctlWord st b x = c.toNat := ctlWord_eq st b x
    refine ⟨fun h => ⟨?_, ?_⟩, fun h h1 h64 => ⟨regOp_runs h _, ?_⟩⟩
    · exact (regOp_runs h _).trans (by rw [hc, bitExtract_eq, fieldPos_toNat, fieldLen_toNat])
    · exact (regOp_runs h _).trans (by rw [hc, bitInsert_eq, fieldPos_toNat, fieldLen_toNat])
    · exact (regOp_runs h _).trans (by rw [sextTo64_eq h1 h64])

end

section
/-! SUPPORT. What a move takes from a register of each kind and gives to one, and instructions on guard registers (05 R94 to R96). -/

namespace Sys2Proof.Machine

/-! ### Moves between the kinds (05 R94, R95) -/

theorem ofNat_wrapTo_low (r : Int) : BitVec.ofNat 16 (wrapTo 64 r) = BitVec.ofInt 16 r := by
  apply BitVec.eq_of_toNat_eq
  rw [BitVec.toNat_ofNat, BitVec.toNat_ofInt, wrapTo]
  omega

section
variable (t : Strand) (n : Fin 8)

theorem setG_gVal (d a : GOp) : setG t t d (gVal t a) = wrG t (gReg t d) (rdG t (gReg t a)) := by rw [setG, ofNat_gVal]

/-- An index register is moved sign-extended, and its low 16 bits are itself. -/
theorem ofNat_movSource_j : BitVec.ofNat 64 (movSource t (.j n)) = (rdJ t n).signExtend 64 := ofNat_wrapTo 64 (rdJ t n).toInt
theorem low_movSource_j : BitVec.ofNat 16 (movSource t (.j n)) = rdJ t n :=
  (ofNat_wrapTo_low _).trans BitVec.ofInt_toInt
theorem nonzero_movSource_j : (movSource t (.j n) % 2 ^ 64 != 0) = (rdJ t n != 0) := by
  have hlt : movSource t (.j n) < 2 ^ 64 := wrapTo_lt 64 _
  rw [Nat.mod_eq_of_lt hlt, Bool.eq_iff_iff, bne_iff_ne, bne_iff_ne, not_iff_not]
  constructor
  · intro h; rw [← low_movSource_j, h]; rfl
  · intro h; rw [movSource, h]; rfl

/-- A guard register is moved as 0 or 1. -/
theorem ofNat_movSource_k (w : Nat) : BitVec.ofNat w (movSource t (.k n)) = if rdK t n then 1 else 0 := by
  rw [movSource]; cases rdK t n <;> rfl
theorem nonzero_movSource_k : (movSource t (.k n) % 2 ^ 64 != 0) = rdK t n := by rw [movSource]; cases rdK t n <;> rfl

theorem nonzero_word (x : Nat) : (x % 2 ^ 64 != 0) = (BitVec.ofNat 64 x != 0) := by
  rw [Bool.eq_iff_iff, bne_iff_ne, bne_iff_ne, not_iff_not, ← BitVec.toNat_inj, BitVec.toNat_ofNat]; rfl
end

/-- A move writes what its source gives to its destination (R95). -/
theorem mov_runs {s : State} {gd : Guard} (d a : GJK) (h : Runs s gd [namedGJK a, namedGJK d]) :
    exec (.mov gd d a) s = .next (withTurn s (advanced (movDest (turn s) (turn s) d (movSource (turn s) a)))) := regOp_runs h _

end Sys2Proof.Machine
open Sys2Proof Sys2Proof.Machine

/-- Settles O13: a move is taken apart into what its source gives and what its destination takes; the guard logic writes one function of
two guard registers, and a hint only moves the pc. -/
theorem dataMoves : Obligations.DataMoves := by
  refine ⟨?_, ?_, ?_⟩
  · intro gd d a b c s h
    refine ⟨fun hc => ?_, fun hc => ?_⟩
    · exact (regOp_runs h _).trans (by rw [if_pos hc, setG_gVal])
    · exact (regOp_runs h _).trans (by rw [hc, if_neg Bool.false_ne_true, setG_gVal])
  · intro gd s o p j n m imm st val
    refine ⟨fun h => mov_runs (.g p) (.g o) h, fun h => ⟨?_, ?_⟩, fun h => ⟨?_, ?_⟩, fun h => ⟨?_, ?_, ?_, ?_⟩, fun h => ?_, fun h => ?_,
      fun h => regOp_runs h _⟩
    · rw [mov_runs (.g p) (.j j) h, movDest, setG, ofNat_movSource_j]
    · rw [mov_runs (.g p) (.k n) h, movDest, setG, ofNat_movSource_k]
    · rw [mov_runs (.j j) (.g o) h, movDest, BitVec.truncate_eq_setWidth, BitVec.setWidth_ofNat_of_le (by decide)]; rfl
    · rw [mov_runs (.k n) (.g o) h, movDest, nonzero_word]; rfl
    · rw [mov_runs (.j j) (.j m) h, movDest, low_movSource_j]
    · rw [mov_runs (.j j) (.k n) h, movDest, ofNat_movSource_k]
    · rw [mov_runs (.k n) (.j m) h, movDest, nonzero_movSource_j]
    · rw [mov_runs (.k n) (.k m) h, movDest, nonzero_movSource_k]
    · exact (regOp_runs h _).trans (by simp only [setG]; rw [BitVec.ofNat_toNat, BitVec.setWidth_eq])
    · exact regOp_runs h _
  · intro gd d a b p q x s st ka kb written
    exact ⟨fun h => ⟨regOp_runs h _, regOp_runs h _, regOp_runs h _, regOp_runs h _⟩, rfl, fun h => guarded_runs h _⟩

end

section
/-! SUPPORT. The addresses of pointer arithmetic as words, and the classes of an access (03 R51; 05 R97 to R99). -/

namespace Sys2Proof.Machine

/-! ### Pointer arithmetic on words (05 R97) -/

theorem signedOf_eq_toInt (w x : Nat) : signedOf w x = (BitVec.ofNat w x).toInt := by
  rw [← signedOf_toNat, BitVec.toNat_ofNat, signedOf_mod]

theorem ofNat_add_signExtend (n : Nat) (x : BitVec 38) :
    BitVec.ofNat 64 n + x.signExtend 64 = BitVec.ofInt 64 ((n : Int) + dispOf x) := by
  rw [BitVec.ofInt_add, BitVec.ofInt_natCast, ofInt_dispOf]

theorem ofInt_low (r : Int) : BitVec.ofInt 16 r = (BitVec.ofInt 64 r).truncate 16 := by
  rw [← ofNat_wrapTo_low, wrapTo_eq_toNat]; rfl

theorem ptrAdd_word (a b : Nat) (w : BitVec 10) (x : BitVec 38) : BitVec.ofNat 64 (ptrAdd a b w.toNat (dispOf x)) =
    BitVec.ofNat 64 a + BitVec.ofNat 64 b * w.zeroExtend 64 + x.signExtend 64 := by
  rw [ptrAdd, ofNat_wrapTo, BitVec.ofInt_add, BitVec.ofInt_add, BitVec.ofInt_mul, signedOf_eq_toInt, BitVec.ofInt_toInt,
    BitVec.ofInt_natCast, BitVec.ofInt_natCast, BitVec.ofNat_toNat, ofInt_dispOf]

theorem ofInt_sub_natCast (a b : Nat) : BitVec.ofInt 64 ((a : Int) - b) = BitVec.ofNat 64 a - BitVec.ofNat 64 b := by
  rw [BitVec.eq_sub_iff_add_eq, ← BitVec.ofInt_natCast, ← BitVec.ofInt_natCast, ← BitVec.ofInt_add, Int.sub_add_cancel]

theorem ptrDiffRaw_eq (a b : Nat) : ptrDiffRaw a b = (BitVec.ofNat 64 a - BitVec.ofNat 64 b).toNat := by
  rw [ptrDiffRaw, wrapTo_eq_toNat, ofInt_sub_natCast]

theorem ptrDiff_eq (a b : Nat) : ptrDiff a b = (BitVec.ofNat 64 a - BitVec.ofNat 64 b).toInt := by
  rw [ptrDiff, ptrDiffRaw_eq, signedOf_toNat]

theorem ptrAlign_word (up : Bool) (a w : Nat) : BitVec.ofNat 64 (ptrAlign up a w) =
    BitVec.ofNat 64 (if up then a + (w - a % w) % w else a - a % w) := by
  cases up
  · rfl
  · exact BitVec.eq_of_toNat_eq (Nat.mod_mod ..)

/-- An element's place in its block is the same number read as signed or not. -/
theorem toInt_emod_sixteen (b : Nat) : (BitVec.ofNat 64 b).toInt % 16 = (b % 16 : Nat) := by
  rw [← signedOf_eq_toInt, signedOf]
  split_ifs <;> omega

theorem ptrBlock_word (fmt : BqFmt) (a b : Nat) : BitVec.ofNat 64 (ptrBlock fmt a b) = BitVec.ofNat 64 a +
    BitVec.ofInt 64 ((BitVec.ofNat 64 b).toInt.fdiv 16 * bqBlock fmt + 24 + (BitVec.ofNat 64 b).toInt % 16 * bqElem fmt) := by
  rw [ptrBlock, ofNat_wrapTo, signedOf_eq_toInt, toInt_emod_sixteen, Nat.cast_mul, Int.add_assoc, Int.add_assoc,
    BitVec.ofInt_add, BitVec.ofInt_natCast, ← Int.add_assoc]

section
variable {s : State} {gd : Guard} {d a b : GOp} {w : BitVec 10} (h : Runs s gd [.g a, .g b, .g d])
include h

theorem pdif_runs (hd : ptrDiff (gVal (turn s) a) (gVal (turn s) b) % (w.toNat : Int) = 0) :
    exec (.pdif gd d a b w) s = .next (withTurn s (advanced (setG (turn s) (turn s) d
      (wrapTo 64 (ptrDiff (gVal (turn s) a) (gVal (turn s) b) / (w.toNat : Int)))))) := by
  change execPdif gd d a b w s = _
  rw [execPdif, checkedOp_runs h (if_pos hd)]

theorem pdif_traps (hd : ptrDiff (gVal (turn s) a) (gVal (turn s) b) % (w.toNat : Int) ≠ 0) :
    exec (.pdif gd d a b w) s = .next (trapped s 0x180 (ptrDiffRaw (gVal (turn s) a) (gVal (turn s) b))) := by
  change execPdif gd d a b w s = _
  rw [execPdif, checkedOp_traps h (if_neg hd)]
end

/-! ### The classes of an access (03 R51) -/

theorem powerOfTwo_le_512_iff (n : Nat) : n ≤ 512 ∧ n = 2 ^ n.log2 ↔ ∃ k ≤ 9, n = 2 ^ k := by
  constructor
  · rintro ⟨hle, hn⟩
    refine ⟨n.log2, ?_, hn⟩
    rw [hn] at hle
    exact (Nat.pow_le_pow_iff_right (by decide : 1 < 2)).1 hle
  · rintro ⟨k, hk, rfl⟩
    exact ⟨Nat.pow_le_pow_right (by decide) hk, by rw [Nat.log2_two_pow]⟩

theorem alignClass_eq (a n : Nat) : alignClass a n =
    if (∃ k ≤ 9, n = 2 ^ k) ∧ a % n = 0 then 0
    else if a / 64 = (a + n - 1) / 64 then 1 else if a / 512 = (a + n - 1) / 512 then 2 else 3 := by
  simp only [alignClass, Bool.and_eq_true, decide_eq_true_eq, beq_iff_eq, powerOfTwo_le_512_iff]

end Sys2Proof.Machine
open Sys2Proof Sys2Proof.Machine

/-- Settles O14: each address is one word computed from words, and the class of an access is read off its width and its place. -/
theorem pointersAndIndices : Obligations.PointersAndIndices := by
  constructor
  · intro gd d a b w x up fmt s st va vb diff wr bq hw
    refine ⟨fun h => ⟨?_, fun h0 => ?_, fun h0 => ?_, ?_⟩, fun h => ?_⟩
    · exact (regOp_runs h _).trans (by rw [setG, ptrAdd_word])
    · rw [pdif_runs h (by rwa [ptrDiff_eq]), setG, ofNat_wrapTo, ptrDiff_eq]
    · rw [pdif_traps h (by rwa [ptrDiff_eq]), ptrDiffRaw_eq]
    · exact (regOp_runs h _).trans (by rw [setG, ptrBlock_word]; cases fmt <;> rfl)
    · have hva : va.toNat = gVal st a := Nat.mod_eq_of_lt (gVal_lt st a)
      rw [hva]
      exact (regOp_runs h _).trans (by rw [setG, ptrAlign_word])
  · intro gd d a' a b w cls x s st ea n cl
    refine ⟨fun h hw => ?_, fun h => ?_, fun h => ?_⟩
    · have hea : wrapTo 64 (gVal st a + dispOf x) = ea := eaPlain_eq st a x
      exact (regOp_runs h _).trans (by rw [hea, alignClass_eq])
    · rw [ofNat_add_signExtend, ← ofInt_low]
      exact regOp_runs h _
    · rw [ofNat_add_signExtend, ← ofInt_low]
      exact (regOp_runs h _).trans (by rw [Int.add_assoc, BitVec.ofInt_add, BitVec.ofInt_toInt])

end

section
/-! SUPPORT. What the special values make of exact arithmetic, and the float instructions that compare, classify and convert (05 R103
to R106). -/

namespace Sys2Proof.Machine

/-! ### The kinds of a value -/

theorem FV.eq_nan {v : FV} (h : v.isNan = true) : ∃ s, v = .nan s := by
  cases v with
  | nan s => exact ⟨s, rfl⟩
  | inf | fin => cases h

theorem FV.eq_inf {v : FV} (h : v.isInf = true) : ∃ s, v = .inf s := by
  cases v with
  | inf s => exact ⟨s, rfl⟩
  | nan | fin => cases h

theorem FV.eq_fin {v : FV} (h : v.isFin = true) : ∃ s m e, v = .fin s m e := by
  cases v with
  | fin s m e => exact ⟨s, m, e, rfl⟩
  | nan | inf => cases h

theorem FV.eq_zero {v : FV} (h : v.isZero = true) : ∃ s e, v = .fin s 0 e := by
  cases v with
  | fin s m e => exact ⟨s, e, by rw [beq_iff_eq.1 h]⟩
  | nan | inf => cases h

theorem FV.eq_nonzero {v : FV} (hf : v.isFin = true) (h : v.isZero = false) : ∃ s m e, v = .fin s m e ∧ m ≠ 0 := by
  obtain ⟨s, m, e, rfl⟩ := FV.eq_fin hf
  exact ⟨s, m, e, rfl, beq_eq_false_iff_ne.1 h⟩

/-- The encoding of −0 (R24). -/
theorem FmtF.signed_true_zero (f : FmtF) : f.signed true 0 = 2 ^ (f.width - 1) := by
  rw [FmtF.signed, FmtF.width, Nat.add_assoc, Nat.add_sub_cancel_left, Bool.toNat_true, Nat.one_mul, Nat.add_zero]

@[simp] theorem FV.isNan_neg (v : FV) : v.neg.isNan = v.isNan := by cases v <;> rfl

/-! ### Exact sums and products of special values (05 R103) -/

theorem addExact_nan (rnd : Rnd) {x y : FV} (h : x.isNan = true ∨ y.isNan = true) : addExact rnd x y = .nan false := by
  simp [addExact, sumExact, h]

theorem addExact_infs (rnd : Rnd) {x y : FV} (hx : x.isInf = true) (hy : y.isInf = true) (hs : x.sign ≠ y.sign) :
    addExact rnd x y = .nan false := by
  obtain ⟨p, rfl⟩ := FV.eq_inf hx
  obtain ⟨q, rfl⟩ := FV.eq_inf hy
  cases p <;> cases q
  case false.true | true.false => rfl
  case false.false | true.true => exact absurd rfl hs

theorem mulExact_nan {x y : FV} (h : x.isNan = true ∨ y.isNan = true) : mulExact x y = .nan false := by
  rcases h with h | h <;> obtain ⟨s, rfl⟩ := FV.eq_nan h
  · rfl
  · cases x <;> rfl

theorem mulExact_zero_inf {x y : FV} (hx : x.isZero = true) (hy : y.isInf = true) :
    mulExact x y = .nan false ∧ mulExact y x = .nan false := by
  obtain ⟨p, e, rfl⟩ := FV.eq_zero hx
  obtain ⟨q, rfl⟩ := FV.eq_inf hy
  exact ⟨rfl, rfl⟩

/-! ### Quotients and roots of special values (05 R103) -/

section
variable (f : FmtF) (rnd : Rnd) (u : Nat) {a b : Nat}

theorem floatDiv_nan (h : (decodeF f a).isNan = true ∨ (decodeF f b).isNan = true) : floatDiv f rnd u a b = f.nanCode := by
  rcases h with h | h <;> obtain ⟨s, hs⟩ := FV.eq_nan h <;> simp only [floatDiv, hs]
  cases decodeF f a <;> rfl

theorem floatDiv_zeros (ha : (decodeF f a).isZero = true) (hb : (decodeF f b).isZero = true) :
    floatDiv f rnd u a b = f.nanCode := by
  obtain ⟨p, e, hp⟩ := FV.eq_zero ha
  obtain ⟨q, k, hq⟩ := FV.eq_zero hb
  rw [floatDiv_fin f rnd u a b hp hq, if_pos ⟨rfl, rfl⟩]

theorem floatDiv_infs (ha : (decodeF f a).isInf = true) (hb : (decodeF f b).isInf = true) :
    floatDiv f rnd u a b = f.nanCode := by
  obtain ⟨p, hp⟩ := FV.eq_inf ha
  obtain ⟨q, hq⟩ := FV.eq_inf hb
  simp only [floatDiv, hp, hq]

theorem floatDiv_by_zero (ha : (decodeF f a).isFin = true) (h0 : (decodeF f a).isZero = false)
    (hb : (decodeF f b).isZero = true) :
    floatDiv f rnd u a b = f.signed ((decodeF f a).sign != (decodeF f b).sign) f.infCode := by
  obtain ⟨p, m, e, hp, hm⟩ := FV.eq_nonzero ha h0
  obtain ⟨q, k, hq⟩ := FV.eq_zero hb
  rw [floatDiv_fin f rnd u a b hp hq, if_neg fun h => hm h.1, if_pos rfl, hp, hq]
  rfl

theorem floatSqrt_nan (ha : (decodeF f a).isNan = true) : floatSqrt f rnd u a = f.nanCode := by
  obtain ⟨s, hs⟩ := FV.eq_nan ha
  simp only [floatSqrt, hs]

theorem floatSqrt_negative (ha : (decodeF f a).isFin = true) (h0 : (decodeF f a).isZero = false)
    (hs : (decodeF f a).sign = true) : floatSqrt f rnd u a = f.nanCode := by
  obtain ⟨p, m, e, hp, hm⟩ := FV.eq_nonzero ha h0
  obtain rfl : p = true := by rwa [hp] at hs
  simp only [floatSqrt, hp, if_neg hm, if_true]

theorem floatSqrt_zero (ha : (decodeF f a).isZero = true) : floatSqrt f rnd u a = f.signed (decodeF f a).sign 0 := by
  obtain ⟨p, e, hp⟩ := FV.eq_zero ha
  simp only [floatSqrt, hp, if_true, FV.sign]
end

/-! ### Comparisons, classes and conversions (05 R104 to R106) -/

theorem bitsAt_mod (n : Nat) {lo w k : Nat} (h : lo + w ≤ k) : bitsAt (n % 2 ^ k) lo w = bitsAt n lo w := by
  conv_rhs => rw [← Nat.mod_add_div n (2 ^ k), bitsAt_add_low _ _ h]

/-- A value is read from the low bits of a register. -/
theorem decodeF_mod (t : FmtF) (bits : Nat) : decodeF t (bits % 2 ^ t.width) = decodeF t bits := by
  have hw : t.width = 1 + t.ebits + t.fbits := rfl
  rw [decodeF, bitsAt_mod _ (by omega), bitsAt_mod _ (by omega), bitsAt_mod _ (by omega), bitsAt_mod _ (by omega), decodeF]

theorem roundU_eq (rnd : Rnd) (t : Strand) : roundU rnd t = (stepLfsr rnd t).srstate.toNat / 2 ^ 16 :=
  (Nat.mod_mul_right_div_self _ (2 ^ 16) (2 ^ 16)).symm

theorem sextTo64_of_lt {w x : Nat} (h1 : 1 ≤ w) (h : w ≤ 64) (hx : x < 2 ^ w) :
    sextTo64 w x = if 2 ^ (w - 1) ≤ x then x + (2 ^ 64 - 2 ^ w) else x := by
  rw [sextTo64_eq h1 h, Nat.mod_eq_of_lt hx]

theorem cvtEncode_int_lt {t : CvtType} {sgn : Bool} {w : Nat} (h : cvtKind t = .int sgn w) (rnd : Rnd) (prop : Bool) (u : Nat)
    (v : FV) : (cvtEncode t rnd prop u v).1 < 2 ^ w := by
  rw [cvtEncode, h]
  cases v with
  | nan => exact Nat.two_pow_pos w
  | inf | fin => exact wrapTo_lt ..

/-- What D receives of a converted element: only the i types below 64 bits have a sign to extend. -/
theorem convertedToG_eq (t : CvtType) {r : Nat} (h : ∀ w, cvtKind t = .int true w → r < 2 ^ w) : convertedToG t r =
    if t ∈ [CvtType.i8, .i16, .i32] ∧ 2 ^ (t.width - 1) ≤ r then r + (2 ^ 64 - 2 ^ t.width) else r := by
  have hsext : 1 ≤ t.width → t.width ≤ 64 → cvtKind t = .int true t.width →
      convertedToG t r = if 2 ^ (t.width - 1) ≤ r then r + (2 ^ 64 - 2 ^ t.width) else r := by
    intro h1 h64 hk
    simp only [convertedToG, hk, sextTo64_of_lt h1 h64 (h _ hk)]
  cases t
  case i8 | i16 | i32 => rw [hsext (by decide) (by decide) rfl]; simp
  case i64 => rw [hsext (by decide) (by decide) rfl]; simp [CvtType.width]
  all_goals rfl

theorem floatCond_mod (t : FType) (cc : FCc) (a b : Nat) :
    floatCond t cc (a % 2 ^ (ftypeFmt t).width) (b % 2 ^ (ftypeFmt t).width) = floatCond t cc a b := by
  delta floatCond
  rw [decodeF_mod, decodeF_mod]

end Sys2Proof.Machine
open Sys2Proof Sys2Proof.Machine

/-- Settles O18: the special cases are taken by the kinds of the operands' values; the other instructions read a value from the low
bits of a register, and a conversion's sign is extended where its type has one. -/
theorem floatSpecialCases : Obligations.FloatSpecialCases := by
  constructor
  · intro t rnd u a b f x y
    have rounded {v : FV} (h : v = .nan false) : roundTo f rnd u v = f.nanCode := by rw [h]; rfl
    refine ⟨fun h => ⟨rounded (addExact_nan rnd h), rounded (addExact_nan rnd ?_), rounded (mulExact_nan h),
        floatDiv_nan f rnd u h⟩, floatSqrt_nan f rnd u, fun hx hy hs => rounded (addExact_infs rnd hx hy hs), fun hx hy => ?_,
      floatDiv_zeros f rnd u, floatDiv_infs f rnd u, floatDiv_by_zero f rnd u, floatSqrt_negative f rnd u, fun hx hs => ?_⟩
    · rwa [FV.isNan_neg]
    · obtain ⟨hxy, hyx⟩ := mulExact_zero_inf hx hy
      exact ⟨rounded hxy, rounded hyx⟩
    · rw [floatSqrt_zero f rnd u hx, hs, FmtF.signed_true_zero]
  · intro gd d a b k t cc df sf rnd prop s st f w va vb x y nan below put
    refine ⟨fun h => ⟨?_, ?_⟩, fun h => ?_, fun h => ⟨regOp_runs h _, ?_, ?_⟩⟩
    · exact (regOp_runs h _).trans (by
        rw [floatMin, ← decodeF_mod _ (gVal (turn s) a), ← decodeF_mod _ (gVal (turn s) b)]; rfl)
    · exact (regOp_runs h _).trans (by
        rw [floatMax, ← decodeF_mod _ (gVal (turn s) a), ← decodeF_mod _ (gVal (turn s) b)]; rfl)
    · refine (regOp_runs h _).trans ?_
      rw [← floatCond_mod]
      refine congrArg (fun v => Host.Outcome.next (withTurn s (advanced (wrK st k v)))) ?_
      change (if nan = true then _ else _) = _
      rcases Bool.eq_false_or_eq_true nan with hn | hn
      · rw [hn]; cases cc <;> rfl
      · rw [hn]; cases cc <;> rfl
    · refine (regOp_runs h _).trans ?_
      rw [floatClass, ← decodeF_mod _ (gVal (turn s) a)]
      generalize hv : decodeF (ftypeFmt t) (gVal (turn s) a % _) = v
      rw [show x = v from hv]
      rcases v with n | p | ⟨p, m, e⟩
      · rfl
      · cases p <;> rfl
      · cases p <;> (dsimp only; split_ifs <;> rfl)
    · refine (floatOp_runs h rnd d fun st u => convertedToG df (convert df sf rnd prop u (gVal st a)) :).trans ?_
      rw [roundU_eq, convert, convertedToG_eq df fun w hk => cvtEncode_int_lt hk ..]
      rfl

end

section
/-! SUPPORT. A v register written lane by lane, and what fits a lane (06 R108, R112, R113). -/

namespace Sys2Proof.Machine

/-! ### A v register written lane by lane (06 R108, R112) -/

theorem laneOf_lt (w v i : Nat) : laneOf w v i < 2 ^ w := Nat.mod_lt _ (Nat.two_pow_pos w)

@[simp] theorem lanes2_length (w : Nat) (f : Nat → Nat → Nat) (a b : Nat) : (lanes2 w f a b).length = lanesOf w := by
  simp [lanes2]

@[simp] theorem lanes2_getElem (w : Nat) (f : Nat → Nat → Nat) (a b i : Nat) (h : i < (lanes2 w f a b).length) :
    (lanes2 w f a b)[i] = f (laneOf w a i) (laneOf w b i) := by simp [lanes2]

/-- The outcome in which the strand of this turn, as u, goes on with v register d holding f n in each w-bit element n. -/
def WritesLanes (s : State) (u : Strand) (d : Fin 32) (w : Nat) (f : Nat → Nat) (o : Host.Outcome State Fault Refusal) : Prop :=
  ∃ r < 2 ^ 128, o = .next (withTurn s (advanced (wrV u d (BitVec.ofNat 128 r)))) ∧ ∀ n < lanesOf w, laneOf w r n = f n

theorem WritesLanes.congr {s : State} {u : Strand} {d : Fin 32} {w : Nat} {f g : Nat → Nat}
    {o : Host.Outcome State Fault Refusal} (h : WritesLanes s u d w f o) (hfg : ∀ n, f n = g n) : WritesLanes s u d w g o := by
  rwa [← funext hfg]

/-- A register all of whose elements are given holds the low bits of each. -/
theorem writesLanes_mod (s : State) (u : Strand) (d : Fin 32) {w old : Nat} (hold : old < 2 ^ 128) {xs : List Nat}
    (hlen : xs.length = lanesOf w) {f : Nat → Nat} (hf : ∀ n (h : n < xs.length), xs[n] % 2 ^ w = f n) :
    WritesLanes s u d w f (.next (withTurn s (advanced (setV u d (allLanes w old xs))))) := by
  refine ⟨_, allLanes_lt hold hlen.le, rfl, fun n hn => ?_⟩
  have hx : n < xs.length := by rwa [hlen]
  rw [laneOf_allLanes _ _ _ hx, hf n hx]

/-- It holds each element that fits. -/
theorem writesLanes_allLanes (s : State) (u : Strand) (d : Fin 32) {w old : Nat} (hold : old < 2 ^ 128) {xs : List Nat}
    (hlen : xs.length = lanesOf w) {f : Nat → Nat} (hf : ∀ n (h : n < xs.length), xs[n] = f n)
    (hlt : ∀ n < lanesOf w, f n < 2 ^ w) :
    WritesLanes s u d w f (.next (withTurn s (advanced (setV u d (allLanes w old xs))))) :=
  writesLanes_mod s u d hold hlen fun n h => by rw [hf n h, Nat.mod_eq_of_lt (hlt n (hlen ▸ h))]

section
variable {s : State} {gd : Guard} {names : List Named} (h : Runs s gd names) (d : Fin 32) (w : Nat)
include h

/-- An instruction that writes all lanes of a register. -/
theorem regOp_writesLanes (xs : Strand → List Nat) {f : Nat → Nat} (hlen : (xs (turn s)).length = lanesOf w)
    (hf : ∀ n (h : n < (xs (turn s)).length), (xs (turn s))[n] = f n) (hlt : ∀ n < lanesOf w, f n < 2 ^ w) :
    WritesLanes s (turn s) d w f (regOp gd names (fun st => setV st d (allLanes w (vVal st d) (xs st))) s) := by
  rw [regOp_runs h]
  exact writesLanes_allLanes s _ d (vVal_lt _ d) hlen hf hlt

/-- Each lane a function of one lane (R112). -/
theorem regOp_map_lanes (a : Fin 32) {f : Nat → Nat} (hlt : ∀ x < 2 ^ w, f x < 2 ^ w) : WritesLanes s (turn s) d w
    (fun n => f (laneOf w (vVal (turn s) a) n))
    (regOp gd names (fun st => setV st d (allLanes w (vVal st d) ((lanes w (vVal st a)).map f))) s) :=
  regOp_writesLanes h d w _ (by simp) (by simp) fun _ _ => hlt _ (laneOf_lt ..)

/-- Each lane a function of two lanes (R112). -/
theorem regOp_lanes2 (a b : Fin 32) {f : Nat → Nat → Nat} (hlt : ∀ x < 2 ^ w, ∀ y < 2 ^ w, f x y < 2 ^ w) :
    WritesLanes s (turn s) d w (fun n => f (laneOf w (vVal (turn s) a) n) (laneOf w (vVal (turn s) b) n))
      (regOp gd names (fun st => setV st d (allLanes w (vVal st d) (lanes2 w f (vVal st a) (vVal st b)))) s) :=
  regOp_writesLanes h d w _ (by simp) (by simp) fun _ _ => hlt _ (laneOf_lt ..) _ (laneOf_lt ..)

/-- Each lane shifted by a count, a lane of a register or one G value for all (R112). -/
theorem regOp_vShift (t : IType) (a : Fin 32) (cnt : ShCount) {f : Nat → Nat → Nat → Nat} {count : Nat → Nat}
    (hc : shCounts (turn s) t.width cnt = (List.range (lanesOf t.width)).map count)
    (hlt : ∀ x < 2 ^ t.width, ∀ k, f t.width x k < 2 ^ t.width) :
    WritesLanes s (turn s) d t.width (fun n => f t.width (laneOf t.width (vVal (turn s) a) n) (count n))
      (regOp gd names (fun st => setV st d (vShift f t (vVal st d) (vVal st a) (shCounts st t.width cnt))) s) :=
  regOp_writesLanes h d t.width (fun st => List.zipWith (f t.width) (lanes t.width (vVal st a)) (shCounts st t.width cnt))
    (by simp [hc]) (by simp [hc]) fun _ _ => hlt _ (laneOf_lt ..) _
end

/-- The counts of a shift by gB + X. -/
theorem shCounts_g (st : Strand) (w : Nat) (g : GOp) (x : BitVec 38) : shCounts st w (.g g x) =
    (List.range (lanesOf w)).map fun _ => (BitVec.ofNat 64 (gVal st g) + x.signExtend 64).toNat := by
  rw [shCounts, ← eaPlain_eq, eaPlain, List.map_const', List.length_range]

/-! ### What fits a lane -/

theorem FmtF.nanCode_lt (t : FmtF) : t.nanCode < 2 ^ t.width := by cases t <;> decide

theorem floatMin_lt (t : FmtF) (a b : Nat) : floatMin t a b < 2 ^ t.width := by
  unfold floatMin
  split_ifs
  · exact t.nanCode_lt
  all_goals exact Nat.mod_lt _ (Nat.two_pow_pos _)

theorem floatMax_lt (t : FmtF) (a b : Nat) : floatMax t a b < 2 ^ t.width := by
  unfold floatMax
  split_ifs
  · exact t.nanCode_lt
  all_goals exact Nat.mod_lt _ (Nat.two_pow_pos _)

theorem floatAbsBits_lt (t : FmtF) (a : Nat) : floatAbsBits t a < 2 ^ t.width :=
  Nat.lt_of_lt_of_le (Nat.mod_lt _ (Nat.two_pow_pos _)) (Nat.pow_le_pow_right (by decide) (Nat.sub_le ..))

theorem floatNeg_of_lt {t : FmtF} {a : Nat} (h : a < 2 ^ t.width) : floatNeg t a = a ^^^ 2 ^ (t.width - 1) := by
  rw [floatNeg, Nat.mod_eq_of_lt h]

theorem floatNeg_lt (t : FmtF) (a : Nat) : floatNeg t a < 2 ^ t.width := by
  have hw : t.width - 1 < t.width := by cases t <;> decide
  exact Nat.xor_lt_two_pow (Nat.mod_lt _ (Nat.two_pow_pos _)) (Nat.pow_lt_pow_right (by decide) hw)

theorem ite_lt {p : Prop} [Decidable p] {x y n : Nat} (hx : x < n) (hy : y < n) : (if p then x else y) < n := by
  split_ifs <;> assumption

/-- All ones and all zeros fit. -/
theorem mask_lt (p : Prop) [Decidable p] (w : Nat) : (if p then 2 ^ w - 1 else 0) < 2 ^ w :=
  ite_lt (Nat.sub_lt (Nat.two_pow_pos w) Nat.one_pos) (Nat.two_pow_pos w)

theorem wrapTo_eq (w : Nat) (r : Int) : wrapTo w r = (r % 2 ^ w).toNat := by rw [wrapTo, Nat.cast_pow, Nat.cast_ofNat]

theorem laneSar_eq (w x k : Nat) : laneSar w x k = ((signedOf w x).fdiv (2 ^ (k % w)) % 2 ^ w).toNat := by
  rw [laneSar, wrapTo_eq, Nat.cast_pow, Nat.cast_ofNat]

theorem laneInt_fit (t : IType) (sat : Bool) (v : Int) :
    laneInt t sat v = ((if sat then satInt (itypeSigned t) t.width v else v) % 2 ^ t.width).toNat := wrapTo_eq ..

/-- VSEL on words (R113). -/
theorem vSel_word (u : Strand) (a b c : Fin 32) : BitVec.ofNat 128 (vSel (vVal u a) (vVal u b) (vVal u c)) =
    (rdV u a &&& rdV u c) ||| (rdV u b &&& ~~~ rdV u c) := by
  apply BitVec.eq_of_toNat_eq
  have hn : notW 128 (vVal u c) = (~~~ rdV u c).toNat := by rw [notW_of_lt (vVal_lt u c), BitVec.toNat_not]; rfl
  rw [vSel, hn, vVal, vVal, vVal, ← BitVec.toNat_and, ← BitVec.toNat_and, ← BitVec.toNat_or, BitVec.ofNat_toNat,
    BitVec.setWidth_eq]

end Sys2Proof.Machine
open Sys2Proof Sys2Proof.Machine

/-- Settles O20: each instruction writes all lanes of its register, each a function of its operands' lanes that fits a lane. -/
theorem vectorLanes : Obligations.VectorLanes := by
  constructor
  · intro gd d a b c g x t sat cc s st w la lb fit lanesAre signed
    have hshl : ∀ p < 2 ^ w, ∀ k, laneShl w p k < 2 ^ w := fun p _ k => Nat.mod_lt _ (Nat.two_pow_pos w)
    have hshr : ∀ p < 2 ^ w, ∀ k, laneShr w p k < 2 ^ w := fun p hp k => Nat.lt_of_le_of_lt (Nat.div_le_self ..) hp
    have hsar : ∀ p < 2 ^ w, ∀ k, laneSar w p k < 2 ^ w := fun p _ k => wrapTo_lt ..
    refine ⟨fun h => ⟨?_, ?_, ?_, ?_, ?_, ?_, ?_, ?_, ?_⟩, fun h => ⟨?_, ?_, ?_⟩, fun h => ⟨?_, ?_⟩, fun h => ?_⟩
    · exact regOp_lanes2 h d w a b fun p hp q hq => ite_lt hq hp
    · exact regOp_lanes2 h d w a b fun p hp q hq => ite_lt hq hp
    · exact regOp_lanes2 h d w a b fun p _ q hq => Nat.and_lt_two_pow p hq
    · exact regOp_lanes2 h d w a b fun p hp q hq => Nat.or_lt_two_pow hp hq
    · exact regOp_lanes2 h d w a b fun p hp q hq => Nat.xor_lt_two_pow hp hq
    · exact regOp_vShift h d t a (.v b) rfl hshl
    · exact regOp_vShift h d t a (.v b) rfl hshr
    · exact (regOp_vShift h d t a (.v b) rfl hsar).congr fun n => laneSar_eq ..
    · exact regOp_lanes2 h d w a b fun p _ q _ => mask_lt ..
    · exact regOp_vShift h d t a (.g g x) (shCounts_g ..) hshl
    · exact regOp_vShift h d t a (.g g x) (shCounts_g ..) hshr
    · exact (regOp_vShift h d t a (.g g x) (shCounts_g ..) hsar).congr fun n => laneSar_eq ..
    · exact (regOp_map_lanes h d w a fun p _ => laneInt_lt t sat ((readTyped t p).natAbs : Nat)).congr fun n => laneInt_fit ..
    · exact (regOp_map_lanes h d w a fun p _ => laneInt_lt t sat (-readTyped t p)).congr fun n => laneInt_fit ..
    · rw [← vSel_word]
      exact regOp_runs h _
  · intro gd d a b t cc s st f w la lb lanesAre
    refine ⟨fun h => ⟨?_, ?_, ?_⟩, fun h => ⟨?_, ?_⟩⟩
    · exact regOp_lanes2 h d w a b fun _ _ _ _ => floatMin_lt ..
    · exact regOp_lanes2 h d w a b fun _ _ _ _ => floatMax_lt ..
    · exact regOp_lanes2 h d w a b fun _ _ _ _ => mask_lt ..
    · exact regOp_map_lanes h d w a fun _ _ => floatAbsBits_lt ..
    · exact (regOp_map_lanes h d w a fun p _ => floatNeg_lt f p).congr fun n => floatNeg_of_lt (laneOf_lt ..)

end

section
/-! SUPPORT. Dot products, conversions of elements and reductions (06 R114, R115, R124). -/

namespace Sys2Proof.Machine

/-! ### VDOT (06 R114) -/

/-- One result of an integer dot product, with its sum written out. -/
theorem dotInt_eq (nat sat : Bool) {old : Nat} (hold : old < 2 ^ 32) (a b j : Nat) : dotInt nat sat old a b j =
    (let el (v i : Nat) : Int := if nat then (laneOf 8 v i : Nat) else signedOf 8 (laneOf 8 v i)
     let sum := (if nat then (old : Int) else signedOf 32 old) + el a (4 * j) * el b (4 * j)
       + el a (4 * j + 1) * el b (4 * j + 1) + el a (4 * j + 2) * el b (4 * j + 2) + el a (4 * j + 3) * el b (4 * j + 3)
     ((if sat then satInt (!nat) 32 sum else sum) % 2 ^ 32).toNat) := by
  cases nat
  · rfl
  · have h8 : ∀ v i, readTyped .n8 (laneOf 8 v i) = (laneOf 8 v i : Nat) := fun v i =>
      congrArg Nat.cast (Nat.mod_eq_of_lt (laneOf_lt 8 v i))
    have h32 : readTyped .n32 old = (old : Nat) := congrArg Nat.cast (Nat.mod_eq_of_lt hold)
    simp only [dotInt, if_true, laneInt_fit, h8, h32, List.range_succ, List.range_zero, List.nil_append, List.cons_append,
      List.foldl_cons, List.foldl_nil]
    rfl

theorem dotInt_lt (nat sat : Bool) (old a b j : Nat) : dotInt nat sat old a b j < 2 ^ 32 := by
  cases nat <;> exact laneInt_lt ..

section
variable {s : State} {gd : Guard} {names : List Named} (h : Runs s gd names) (d a b : Fin 32)
include h

/-- What an instruction that writes a register and the LFSR does. -/
theorem regOp_setVL (f : Strand → Nat × Nat) : regOp gd names (fun st => setVL st d (f st)) s =
    .next (withTurn s (advanced (setV (withLfsr (turn s) (f (turn s)).2) d (f (turn s)).1))) := regOp_runs h _

theorem vdot_int_runs (nat sat : Bool) : WritesLanes s (turn s) d 32
    (fun j => dotInt nat sat (laneOf 32 (vVal (turn s) d) j) (vVal (turn s) a) (vVal (turn s) b) j)
    (regOp gd names (fun st => setVL st d (vDot (.int nat sat) st.srstate.toNat (vVal st d) (vVal st a) (vVal st b))) s) := by
  rw [regOp_setVL h, vDot, withLfsr_self]
  exact writesLanes_allLanes s _ d (vVal_lt _ d) (by simp [lanesOf]) (by simp) fun _ _ => dotInt_lt ..

theorem vdot_flt_runs (t : DotF) (rnd : Rnd) :
    WritesLanes s (withLfsr (turn s) ((lfsrAfter rnd)^[4] (turn s).srstate.toNat)) d 32
      (fun j => roundTo .f32 rnd (lfsrU ((lfsrAfter rnd)^[j + 1] (turn s).srstate.toNat)) (sumExact (rnd == .rdn)
        (decodeF .f32 (laneOf 32 (vVal (turn s) d) j) :: dotProducts t (vVal (turn s) a) (vVal (turn s) b) j)))
      (regOp gd names (fun st => setVL st d (vDot (.flt t rnd) st.srstate.toNat (vVal st d) (vVal st a) (vVal st b))) s) := by
  rw [regOp_setVL h]
  simp only [vDot, mapRound_last, List.length_range]
  refine writesLanes_allLanes s _ d (vVal_lt _ d) (by simp [lanesOf]) (fun j hj => ?_) fun _ _ => roundTo_lt ..
  rw [mapRound_getElem _ _ _ _ hj (by simpa using hj), List.getElem_range]
end

/-! ### VRED (06 R124) -/

theorem lanes_eq_cons {w : Nat} (h : 1 ≤ lanesOf w) (a : Nat) :
    lanes w a = laneOf w a 0 :: (List.range (lanesOf w - 1)).map fun i => laneOf w a (i + 1) := by
  obtain ⟨n, hn⟩ := Nat.exists_eq_add_of_le' h
  rw [lanes, hn, List.range_succ_eq_map, List.map_cons, List.map_map, Nat.add_sub_cancel]
  rfl

/-- A fold over the lanes of a register from its first. -/
theorem fold1_lanes (f : Nat → Nat → Nat) {w : Nat} (h : 1 ≤ lanesOf w) (a : Nat) : fold1 f (lanes w a) =
    (List.range (lanesOf w - 1)).foldl (fun r i => f r (laneOf w a (i + 1))) (laneOf w a 0) := by
  rw [lanes_eq_cons h, fold1, List.foldl_map]

theorem lanesOf_itype_pos (t : IType) : 1 ≤ lanesOf t.width := by cases t <;> decide
theorem lanesOf_ftype_pos (t : FType) : 1 ≤ lanesOf (ftypeFmt t).width := by cases t <;> decide

/-- The exact sum of the lanes. -/
theorem foldl_lanes (t : IType) (a : Nat) : (lanes t.width a).foldl (fun s x => s + readTyped t x) 0 =
    ((List.range (lanesOf t.width)).map fun i => readTyped t (laneOf t.width a i)).sum := by
  rw [List.sum_eq_foldl, List.foldl_map, lanes, List.foldl_map]

theorem stepLfsr_rne (st : Strand) : stepLfsr .rne st = st := withLfsr_self st

section
variable {s : State} {gd : Guard} {g : GOp} {a : Fin 32} (h : Runs s gd [.v a, .g g])
include h

theorem vred_runs (ra : VRedArg) : exec (.vred gd g a ra) s = .next (withTurn s (advanced (setG (turn s)
    (stepLfsr (vRedRnd ra) (turn s)) g (vRed ra (roundU (vRedRnd ra) (turn s)) (vVal (turn s) a))))) := regOp_runs h _

/-- A reduction that rounds nothing leaves the LFSR. -/
theorem vred_exact_runs {ra : VRedArg} {r : Nat} (hr : vRedRnd ra = .rne) (hv : ∀ u, vRed ra u (vVal (turn s) a) = r) :
    exec (.vred gd g a ra) s = .next (withTurn s (advanced (setG (turn s) (turn s) g r))) := by
  rw [vred_runs h, hv, hr, stepLfsr_rne]
end

/-! ### VCVT (06 R115) -/

theorem width_of_cvtKind_flt {t : CvtType} {f : FmtF} (h : cvtKind t = .flt f) : f.width = t.width := by
  cases t <;> cases h <;> rfl

theorem width_of_cvtKind_int {t : CvtType} {sgn : Bool} {w : Nat} (h : cvtKind t = .int sgn w) : w = t.width := by
  cases t <;> cases h <;> rfl

theorem infTo_lt (t : FmtF) (prop neg : Bool) : infTo t prop neg < 2 ^ t.width := by
  obtain ⟨hn, hi, hm⟩ := t.codes_lt
  cases t
  case e4m3 => exact FmtF.signed_lt _ neg (ite_lt hn hm)
  case e5m2 => exact FmtF.signed_lt _ neg (ite_lt hi hm)
  case e3m2 | e2m3 | e2m1 => exact FmtF.signed_lt _ neg hm
  case f32 | fa26 | bf16 | f16 => exact FmtF.signed_lt _ neg hi

theorem nanTo_lt (t : FmtF) (neg : Bool) : nanTo t neg < 2 ^ t.width := by
  obtain ⟨hn, _, hm⟩ := t.codes_lt
  unfold nanTo
  split
  · exact t.signed_false t.maxCode ▸ t.signed_lt false hm
  · exact t.signed_lt neg hn

/-- A converted value is an encoding of its format. -/
theorem encodeF_lt (t : FmtF) (rnd : Rnd) (prop : Bool) (u : Nat) (v : FV) : (encodeF t rnd prop u v).1 < 2 ^ t.width := by
  rcases v with s | s | ⟨s, m, e⟩
  · exact nanTo_lt t s
  · exact infTo_lt t prop s
  · cases m with
    | zero => exact t.signed_lt s (Nat.two_pow_pos _)
    | succ m => exact encodeMag_lt ..

theorem convert_lt (df sf : CvtType) (rnd : Rnd) (prop : Bool) (u bits : Nat) : convert df sf rnd prop u bits < 2 ^ df.width := by
  unfold convert
  cases hk : cvtKind df with
  | flt f =>
    rw [cvtEncode, hk, ← width_of_cvtKind_flt hk]
    exact encodeF_lt ..
  | int sgn w => exact width_of_cvtKind_int hk ▸ cvtEncode_int_lt hk ..

/-- The elements that a VCVT writes lie in the register, each above those before it. -/
theorem cvtPairs_lt {es ed part : Nat} {p : Nat × Nat} (h : p ∈ cvtPairs es ed part) : p.2 < ed := by
  simp only [cvtPairs, List.mem_filter, Bool.and_eq_true, decide_eq_true_eq] at h
  exact h.2.2

theorem cvtPairs_ascending (es ed part : Nat) : (cvtPairs es ed part).Pairwise fun p q => p.2 < q.2 := by
  refine (List.pairwise_map.2 (List.pairwise_lt_range.imp fun {i j} hij => ?_)).filter _
  split_ifs
  · exact hij
  · exact Nat.add_lt_add_left hij _

section
variable {w v : Nat}

/-- An element at none of the places keeps its value. -/
theorem laneOf_putLanes_other {xs : List (Nat × Nat)} {j : Nat} (h : ∀ x ∈ xs, x.1 ≠ j) :
    laneOf w (putLanes w v xs) j = laneOf w v j := by
  induction xs generalizing v with
  | nil => rfl
  | cons x xs ih =>
    obtain ⟨hx, hxs⟩ := List.forall_mem_cons.1 h
    rw [putLanes, ih hxs, laneOf_setLane_other _ _ _ hx.symm]

/-- An element at one of different places gets its value. -/
theorem laneOf_putLanes {xs : List (Nat × Nat)} (h : xs.Pairwise fun x y => x.1 < y.1) {n : Nat} (hn : n < xs.length) :
    laneOf w (putLanes w v xs) xs[n].1 = xs[n].2 % 2 ^ w := by
  induction xs generalizing v n with
  | nil => exact absurd hn (Nat.not_lt_zero n)
  | cons x xs ih =>
    obtain ⟨hx, hxs⟩ := List.pairwise_cons.1 h
    cases n with
    | zero => exact (laneOf_putLanes_other fun y hy => (hx y hy).ne').trans (laneOf_setLane_self ..)
    | succ n => exact ih hxs (Nat.lt_of_succ_lt_succ hn)

theorem putLanes_lt {xs : List (Nat × Nat)} (hv : v < 2 ^ 128) (h : ∀ x ∈ xs, x.1 < lanesOf w) :
    putLanes w v xs < 2 ^ 128 := by
  induction xs generalizing v with
  | nil => exact hv
  | cons x xs ih =>
    obtain ⟨hx, hxs⟩ := List.forall_mem_cons.1 h
    refine ih (setBits_lt hv ?_) hxs
    rw [← Nat.mul_succ]
    exact Nat.le_trans (Nat.mul_le_mul_left w hx) (Nat.mul_div_le 128 w)
end

section
variable (df sf : CvtType) (rnd : Rnd) (prop : Bool) (part lfsr old a : Nat)

/-- The places that a VCVT writes, with what it writes there. -/
def cvtWrites : List (Nat × Nat) :=
  List.zip ((cvtPairs (lanesOf sf.width) (lanesOf df.width) part).map (·.2))
    (mapRound rnd (fun u p => convert df sf rnd prop u (laneOf sf.width a p.1)) lfsr
      (cvtPairs (lanesOf sf.width) (lanesOf df.width) part)).1

theorem vCvt_eq : vCvt df sf rnd prop part lfsr old a = (putLanes df.width old (cvtWrites df sf rnd prop part lfsr a),
    (lfsrAfter rnd)^[(cvtPairs (lanesOf sf.width) (lanesOf df.width) part).length] lfsr) := by
  rw [← mapRound_last]; rfl

@[simp] theorem cvtWrites_length : (cvtWrites df sf rnd prop part lfsr a).length =
    (cvtPairs (lanesOf sf.width) (lanesOf df.width) part).length := by simp [cvtWrites]

theorem cvtWrites_getElem {n : Nat} (hn : n < (cvtWrites df sf rnd prop part lfsr a).length)
    (hp : n < (cvtPairs (lanesOf sf.width) (lanesOf df.width) part).length) :
    (cvtWrites df sf rnd prop part lfsr a)[n] = ((cvtPairs (lanesOf sf.width) (lanesOf df.width) part)[n].2,
      convert df sf rnd prop (lfsrU ((lfsrAfter rnd)^[n + 1] lfsr))
        (laneOf sf.width a (cvtPairs (lanesOf sf.width) (lanesOf df.width) part)[n].1)) := by
  simp only [cvtWrites, List.getElem_zip, List.getElem_map]
  rw [mapRound_getElem _ _ _ _ _ hp]

theorem cvtWrites_place {x : Nat × Nat} (h : x ∈ cvtWrites df sf rnd prop part lfsr a) :
    ∃ p ∈ cvtPairs (lanesOf sf.width) (lanesOf df.width) part, p.2 = x.1 := by
  simpa using (List.of_mem_zip h).1

theorem cvtWrites_ascending : (cvtWrites df sf rnd prop part lfsr a).Pairwise fun x y => x.1 < y.1 := by
  rw [← List.pairwise_map (f := Prod.fst) (R := (· < ·)), cvtWrites, List.map_fst_zip (by simp), List.pairwise_map]
  exact cvtPairs_ascending ..
end

end Sys2Proof.Machine
open Sys2Proof Sys2Proof.Machine

/-- Settles O21: the results of a VDOT and of a VCVT are roundings in turn, each put at a place of its own, and a reduction is a fold
of the lanes from the first. -/
theorem vectorReductions : Obligations.VectorReductions := by
  intro gd d a b g s st
  refine ⟨fun h => ⟨fun nat sat => ?_, fun f rnd => vdot_flt_runs h d a b f rnd⟩, fun h => ⟨fun t => ?_, ?_, ?_⟩,
    fun h df sf rnd prop part => ?_⟩
  · exact (vdot_int_runs h d a b nat sat).congr fun j => dotInt_eq nat sat (laneOf_lt ..) ..
  · refine vred_exact_runs h rfl fun u => ?_
    rw [vRed, foldl_lanes]
    rfl
  · intro t w la fold gives
    have hfold : ∀ op f, (∀ u, vRed (.int t op) u (vVal st a) = extendTyped t (fold1 f (lanes w (vVal st a)) : Nat)) →
        gives op (fold f) := fun op f hop =>
      vred_exact_runs h rfl fun u => by rw [hop, fold1_lanes f (lanesOf_itype_pos t)]; rfl
    clear_value gives fold
    exact ⟨hfold .min _ fun _ => rfl, hfold .max _ fun _ => rfl, hfold .and _ fun _ => rfl, hfold .or _ fun _ => rfl,
      hfold .xor _ fun _ => rfl⟩
  · intro t rnd f la fold
    refine ⟨?_, vred_exact_runs h rfl fun u => fold1_lanes _ (lanesOf_ftype_pos t) _,
      vred_exact_runs h rfl fun u => fold1_lanes _ (lanesOf_ftype_pos t) _⟩
    refine (vred_runs h _).trans ?_
    rw [vRed, lanes, List.map_map]
    rfl
  · intro ps
    let ws := cvtWrites df sf rnd prop part.toNat st.srstate.toNat (vVal st a)
    refine ⟨putLanes df.width (vVal st d) ws, putLanes_lt (vVal_lt st d) fun x hx => ?_, ?_, fun n hn => ?_, fun i _ hi => ?_⟩
    · obtain ⟨p, hp, hpx⟩ := cvtWrites_place _ _ _ _ _ _ _ hx
      exact hpx ▸ cvtPairs_lt hp
    · refine (regOp_setVL h d _).trans ?_
      rw [vCvt_eq]
      rfl
    · have hw : n < ws.length := by rwa [cvtWrites_length]
      have hx := cvtWrites_getElem df sf rnd prop part.toNat st.srstate.toNat (vVal st a) hw hn
      have hl := laneOf_putLanes (w := df.width) (v := vVal st d) (cvtWrites_ascending ..) hw
      rw [hx, Nat.mod_eq_of_lt (convert_lt ..)] at hl
      exact hl
    · refine laneOf_putLanes_other fun x hx => ?_
      obtain ⟨p, hp, hpx⟩ := cvtWrites_place _ _ _ _ _ _ _ hx
      exact hpx ▸ hi p hp

end

section
/-! SUPPORT. Moving lanes, the fields of VPACK and VUNPK, and the registers used beyond the named ones (06 R111, R116 to R123). -/

namespace Sys2Proof.Machine

/-! ### Moving lanes (06 R119 to R122) -/

theorem wrapTo_disp (st : Strand) (g : GOp) (x : BitVec 38) :
    wrapTo 64 (gVal st g + dispOf x) = (BitVec.ofNat 64 (gVal st g) + x.signExtend 64).toNat := eaPlain_eq st g x

theorem laneIndex_eq (w : Nat) (st : Strand) (g : GOp) (x : BitVec 38) : laneIndex w (gVal st g) (dispOf x) =
    (BitVec.ofNat 64 (gVal st g) + x.signExtend 64).toNat % (128 / w) := by rw [laneIndex, wrapTo_disp]; rfl

theorem vtype_lanesOf_pos (t : VType) : 1 ≤ lanesOf (vtypeWidth t) := by
  cases t with
  | i t => exact lanesOf_itype_pos t
  | f t => exact lanesOf_ftype_pos t

/-- Element j of two registers in a row (R120). -/
def laneOfTwo (w a b j : Nat) : Nat := if j < lanesOf w then laneOf w a j else laneOf w b (j - lanesOf w)

theorem laneOfTwo_lt (w a b j : Nat) : laneOfTwo w a b j < 2 ^ w := ite_lt (laneOf_lt ..) (laneOf_lt ..)

theorem lanes_append_getD (w a b : Nat) {j : Nat} (h : j < 2 * lanesOf w) :
    (lanes w a ++ lanes w b).getD j 0 = laneOfTwo w a b j := by
  unfold laneOfTwo
  split_ifs with hj
  · rw [List.getD_append _ _ _ _ (by simpa), List.getD_eq_getElem _ _ (by simpa), lanes_getElem]
  · rw [List.getD_append_right _ _ _ _ (by simpa using hj), lanes_length,
      List.getD_eq_getElem _ _ (by rw [lanes_length]; omega), lanes_getElem]

/-- VPERM and VTBL change the strand of this turn in the state in which their waits for the crossbar are counted (R123). -/
theorem onStrand_counted (s : State) (f : Strand → Strand) : onStrand (countXbar s s.cur.core) s.cur.core s.cur.slot f =
    withTurn (countXbar s s.cur.core) (f (turn s)) := rfl

theorem vperm_runs {s : State} {gd : Guard} {a b c d : Fin 32} (h : Runs s gd [.v a, .v b, .v c, .v d]) (t : VType) :
    WritesLanes (countXbar s s.cur.core) (turn s) d (vtypeWidth t)
      (fun i => laneOfTwo (vtypeWidth t) (vVal (turn s) a) (vVal (turn s) b)
        (laneOf (vtypeWidth t) (vVal (turn s) c) i % (2 * lanesOf (vtypeWidth t))))
      (exec (.vperm gd d a b c t) s) := by
  have hpos := vtype_lanesOf_pos t
  change WritesLanes _ _ _ _ _ (execVperm gd d a b c t s)
  rw [execVperm, guarded_runs h, onStrand_counted]
  refine writesLanes_allLanes (countXbar s s.cur.core) (turn s) d (vVal_lt _ d) (by simp) (fun i hi => ?_)
    fun _ _ => laneOfTwo_lt ..
  rw [List.getElem_map, lanes_getElem, lanes_append_getD _ _ _ (Nat.mod_lt _ (by omega))]

/-! ### Registers beyond the named ones (06 R111, R121) -/

theorem extraV_none {vcount n : Nat} (h1 : n < vcount) (h2 : n < 32) : extraV vcount n = none := if_neg (by omega)

theorem extraV_some {vcount n : Nat} (h : vcount ≤ n) : extraV vcount n = some (0x042, n) := if_pos (.inl h)

theorem tblFault_none {vcount a n : Nat} (h1 : a + n < vcount) (h2 : a + n < 32) : tblFault vcount a n = none := by
  rw [tblFault, List.findSome?_eq_none_iff]
  simp only [List.mem_map, List.mem_range, forall_exists_index, and_imp, forall_apply_eq_imp_iff₂]
  exact fun i hi => extraV_none (by omega) (by omega)

/-- The first register of a table that is not allocated. -/
theorem tblFault_some {vcount a n : Nat} (h32 : vcount ≤ 32) (ha : a < vcount) (hn : vcount ≤ a + n) :
    tblFault vcount a n = some (0x042, max (a + 1) vcount) := by
  obtain ⟨i, rfl⟩ := Nat.exists_eq_add_of_le (show a + 1 ≤ vcount from ha)
  obtain ⟨m, rfl⟩ : ∃ m, n = i + (1 + m) := ⟨n - i - 1, by omega⟩
  rw [tblFault, List.findSome?_eq_some_iff, Nat.max_eq_right ha]
  refine ⟨(List.range i).map (a + 1 + ·), a + 1 + i, (List.range m).map fun j => a + 1 + (i + (1 + j)), ?_,
    extraV_some (Nat.le_refl _), ?_⟩
  · simp [List.range_add, Function.comp_def]
  · simp only [List.mem_map, List.mem_range, forall_exists_index, and_imp, forall_apply_eq_imp_iff₂]
    exact fun j hj => extraV_none (by omega) (by omega)

theorem allocated_head_v {s : State} {n : Fin 32} {names : List Named} (h : Allocated s (.v n :: names)) :
    n.val < (turnCore s).vcount := by
  unfold Allocated firstFault at h
  have := List.findSome?_eq_none_iff.1 h (.v n) List.mem_cons_self
  simpa [directFault] using this

/-- Byte j of a table of n + 1 registers from number a on, or the fill byte (R121). -/
def tblByte (st : Strand) (a n fill j : Nat) : Nat :=
  if j < 16 * (n + 1) then laneOf 8 (vNum st (a + j / 16)) (j % 16) else fill % 2 ^ 8

theorem tblByte_lt (st : Strand) (a n fill j : Nat) : tblByte st a n fill j < 2 ^ 8 :=
  ite_lt (laneOf_lt ..) (Nat.mod_lt _ (Nat.two_pow_pos 8))

theorem vTbl_eq (st : Strand) (a n fill b : Nat) : vTbl ((List.range (n + 1)).map fun i => vNum st (a + i)) fill b =
    allLanes 8 0 ((lanes 8 b).map (tblByte st a n fill)) := by
  refine congrArg (allLanes 8 0) (List.map_congr_left fun j _ => ?_)
  rw [List.length_map, List.length_range, tblByte]
  split_ifs with hj
  · rw [List.getD_eq_getElem _ _ (by simp; omega), List.getElem_map, List.getElem_range]
  · rfl

section
variable {s : State} {gd : Guard} {a b d : Fin 32} (h : Runs s gd [.v a, .v b, .v d])
include h

theorem vtbl_traps {n : BitVec 3} (h32 : (turnCore s).vcount ≤ 32) (hn : (turnCore s).vcount ≤ a.val + n.toNat)
    (x : BitVec 38) : exec (.vtbl gd d a b n x) s = .next (trapped s 0x042 (max (a.val + 1) (turnCore s).vcount)) := by
  change execVtbl gd d a b n x s = _
  have ht : tblFault (getCore s s.cur.core).vcount a.val n.toNat = _ := tblFault_some h32 (allocated_head_v h.1) hn
  rw [execVtbl, guarded_runs h]
  simp only [ht]
  rfl

theorem vtbl_runs {n : BitVec 3} (h1 : a.val + n.toNat < (turnCore s).vcount) (h2 : a.val + n.toNat < 32) (x : BitVec 38) :
    WritesLanes (countXbar s s.cur.core) (turn s) d 8
      (fun i => tblByte (turn s) a.val n.toNat x.toNat (laneOf 8 (vVal (turn s) b) i))
      (exec (.vtbl gd d a b n x) s) := by
  change WritesLanes _ _ _ _ _ (execVtbl gd d a b n x s)
  have ht : tblFault (getCore s s.cur.core).vcount a.val n.toNat = none := tblFault_none h1 h2
  rw [execVtbl, guarded_runs h]
  simp only [ht, onStrand_counted, vTbl_eq]
  exact writesLanes_allLanes (countXbar s s.cur.core) (turn s) d (Nat.two_pow_pos 128) (by simp) (by simp)
    fun _ _ => tblByte_lt ..
end

/-! ### VPACK and VUNPK of integers (06 R116, R118) -/

theorem testBit_setBits (n lo w v j : Nat) :
    (setBits n lo w v).testBit j = if lo ≤ j ∧ j < lo + w then v.testBit (j - lo) else n.testBit j := by
  have hl : n % 2 ^ lo < 2 ^ lo := Nat.mod_lt _ (Nat.two_pow_pos lo)
  have hw : v % 2 ^ w < 2 ^ w := Nat.mod_lt _ (Nat.two_pow_pos w)
  rw [setBits_eq, Nat.add_comm, Nat.testBit_two_pow_mul_add _ hl, Nat.add_comm (v % 2 ^ w), Nat.testBit_two_pow_mul_add _ hw,
    Nat.testBit_mod_two_pow, Nat.testBit_mod_two_pow, Nat.testBit_div_two_pow]
  rcases Nat.lt_or_ge j lo with h1 | h1
  · rw [if_pos h1, if_neg (by omega), decide_eq_true h1, Bool.true_and]
  · rw [if_neg (by omega)]
    rcases Nat.lt_or_ge (j - lo) w with h2 | h2
    · rw [if_pos h2, if_pos (by omega), decide_eq_true h2, Bool.true_and]
    · rw [if_neg (by omega), if_neg (by omega), show j - lo - w + (lo + w) = j by omega]

/-- Fields of k bits from bit x on, one after another: what a bit of the register is. -/
theorem testBit_fields (k x : Nat) (field : Nat → Nat) (old n j : Nat) :
    ((List.range n).foldl (fun v i => setBits v (x + k * i) k (field i)) old).testBit j =
      if x ≤ j ∧ j < x + k * n then (field ((j - x) / k)).testBit ((j - x) % k) else old.testBit j := by
  induction n with
  | zero => simp
  | succ n ih =>
    rw [List.range_succ, List.foldl_append, List.foldl_cons, List.foldl_nil, testBit_setBits, ih, Nat.mul_succ]
    by_cases hn : x + k * n ≤ j ∧ j < x + k * n + k
    · have hd : (j - x) / k = n := Nat.div_eq_of_lt_le (by rw [Nat.mul_comm]; omega) (by rw [Nat.mul_comm, Nat.mul_succ]; omega)
      have hm : (j - x) % k = j - (x + k * n) := by
        have := Nat.div_add_mod (j - x) k
        rw [hd] at this
        omega
      rw [if_pos hn, if_pos (by omega), hd, hm]
    · rw [if_neg hn]
      by_cases hj : x ≤ j ∧ j < x + k * n
      · rw [if_pos hj, if_pos (by omega)]
      · rw [if_neg hj, if_neg (by omega)]

/-- The range of integers of w bits, signed as a type is. -/
theorem satInt_width (t : IType) {w : Nat} (x : Int) : satInt (itypeSigned t) w x =
    max (if t ∈ [IType.i64, .i32, .i16, .i8] then -2 ^ (w - 1) else 0)
      (min (if t ∈ [IType.i64, .i32, .i16, .i8] then 2 ^ (w - 1) - 1 else 2 ^ w - 1) x) := by
  have h1 : (0 : Int) < 2 ^ (w - 1) := by positivity
  have h2 : (0 : Int) < 2 ^ w := by positivity
  rw [itypeSigned_eq]
  simp only [satInt, clampInt, intLo, intHi, decide_eq_true_eq, Nat.cast_pow, Nat.cast_ofNat]
  split_ifs <;> omega

theorem wrapTo_mod (w : Nat) (r : Int) : wrapTo w r % 2 ^ w = wrapTo w r := Nat.mod_eq_of_lt (wrapTo_lt w r)

/-- What VPACK writes for each lane (R116). -/
def packField (t : IType) (k : Nat) (sat : Bool) (x : Int) : Nat := wrapTo k (if sat then satInt (itypeSigned t) k x else x)

theorem packField_eq (t : IType) (k : Nat) (sat : Bool) (x : Int) : packField t k sat x =
    ((if sat then max (if t ∈ [IType.i64, .i32, .i16, .i8] then -2 ^ (k - 1) else 0)
      (min (if t ∈ [IType.i64, .i32, .i16, .i8] then 2 ^ (k - 1) - 1 else 2 ^ k - 1) x) else x) % 2 ^ k).toNat := by
  rw [packField, wrapTo_eq, satInt_width]

theorem testBit_vPackInt (t : IType) (k : Nat) (sat : Bool) (x old a : Nat) {j : Nat} (hj : j < 128) :
    (vPackInt t k sat x old a).testBit j = if x ≤ j ∧ j < x + k * lanesOf t.width then
      (packField t k sat (readTyped t (laneOf t.width a ((j - x) / k)))).testBit ((j - x) % k) else old.testBit j := by
  rw [vPackInt, Nat.testBit_mod_two_pow, decide_eq_true hj, Bool.true_and]
  exact testBit_fields k x (fun i => packField t k sat (readTyped t (laneOf t.width a i))) old _ j

/-- What VUNPK writes to a lane, reduced to its width (R118). -/
theorem unpackField_mod (t : IType) (k y : Nat) :
    (if itypeSigned t then wrapTo t.width (signedOf k y) else y) % 2 ^ t.width =
      if t ∈ [IType.i64, .i32, .i16, .i8] then (signedOf k y % 2 ^ t.width).toNat else y % 2 ^ t.width := by
  rw [apply_ite (· % 2 ^ t.width), wrapTo_mod, wrapTo_eq, itypeSigned_eq]
  simp only [decide_eq_true_eq]

/-! ### VPACK and VUNPK in their frame (06 R111, R116 to R118) -/

/-- The check of the register that the bq8 form uses beyond those it names. -/
def packExtra (vcount : Nat) (d : Fin 32) : PackArg → Option (Nat × Nat)
  | .bq .bq8 _ _ => extraV vcount (d.val + 1)
  | _ => none
def unpkExtra (vcount : Nat) (a : Fin 32) : UnpkArg → Option (Nat × Nat)
  | .bq .bq8 _ => extraV vcount (a.val + 1)
  | _ => none

theorem packExtra_none {vcount : Nat} {d b : Fin 32} {fmt : BqFmt} {prop : Bool} (h : fmt ≠ .bq8) :
    packExtra vcount d (.bq fmt b prop) = none := by
  cases fmt
  case bq8 => exact absurd rfl h
  case bq3 | bq5 => rfl

theorem unpkExtra_none {vcount : Nat} {a : Fin 32} {fmt : BqFmt} {part : Fin 4}
    (h : fmt = .bq8 → extraV vcount (a.val + 1) = none) : unpkExtra vcount a (.bq fmt part) = none := by
  cases fmt
  case bq8 => exact h rfl
  case bq3 | bq5 => rfl

section
variable {s : State} {gd : Guard} {a d : Fin 32} {p : PackArg} (h : Runs s gd (packNames d a p))

theorem exec_vpack (s : State) (gd : Guard) (d a : Fin 32) (p : PackArg) : exec (.vpack gd d a p) s =
    checkedOp gd (packNames d a p) (fun k _ => packExtra k.vcount d p) (packed d a p) s := rfl

include h

theorem vpack_runs (hc : packExtra (turnCore s).vcount d p = none) :
    exec (.vpack gd d a p) s = .next (withTurn s (advanced (packed d a p (turn s)))) := by
  rw [exec_vpack, checkedOp_runs h (check := fun k _ => packExtra k.vcount d p) hc]

theorem vpack_traps {code v : Nat} (hc : packExtra (turnCore s).vcount d p = some (code, v)) :
    exec (.vpack gd d a p) s = .next (trapped s code v) := by
  rw [exec_vpack, checkedOp_traps h (check := fun k _ => packExtra k.vcount d p) hc]
end

section
variable {s : State} {gd : Guard} {a d : Fin 32} {p : UnpkArg} (h : Runs s gd [.v a, .v d])

theorem exec_vunpk (s : State) (gd : Guard) (d a : Fin 32) (p : UnpkArg) : exec (.vunpk gd d a p) s =
    checkedOp gd [.v a, .v d] (fun k _ => unpkExtra k.vcount a p) (unpacked d a p) s := rfl

include h

theorem vunpk_runs (hc : unpkExtra (turnCore s).vcount a p = none) :
    exec (.vunpk gd d a p) s = .next (withTurn s (advanced (unpacked d a p (turn s)))) := by
  rw [exec_vunpk, checkedOp_runs h (check := fun k _ => unpkExtra k.vcount a p) hc]

theorem vunpk_traps {code v : Nat} (hc : unpkExtra (turnCore s).vcount a p = some (code, v)) :
    exec (.vunpk gd d a p) s = .next (trapped s code v) := by
  rw [exec_vunpk, checkedOp_traps h (check := fun k _ => unpkExtra k.vcount a p) hc]
end

theorem vunpk_int_runs {s : State} {gd : Guard} {a d : Fin 32} (h : Runs s gd [.v a, .v d]) (t : IType) (w x : BitVec 7) :
    WritesLanes s (turn s) d t.width
      (fun i => if t ∈ [IType.i64, .i32, .i16, .i8] then
          (signedOf w.toNat (bitsAt (vVal (turn s) a) (x.toNat + w.toNat * i) w.toNat) % 2 ^ t.width).toNat
        else bitsAt (vVal (turn s) a) (x.toNat + w.toNat * i) w.toNat % 2 ^ t.width)
      (exec (.vunpk gd d a (.int t w x)) s) := by
  rw [vunpk_runs h rfl]
  refine writesLanes_mod s _ d (vVal_lt _ d) (by simp) fun i hi => ?_
  rw [List.getElem_map, List.getElem_range]
  exact unpackField_mod ..

/-! ### Blocks (06 R117, R118) -/

/-- The sixteen elements of two registers. -/
theorem vPackBq_eq (fmt : BqFmt) (prop : Bool) (st : Strand) (a b : Fin 32) : vPackBq fmt prop (vVal st a) (vVal st b) =
    bqEncode fmt prop ((List.range 16).map fun i =>
      decodeF .bf16 (laneOf 16 (vVal st (if i < 8 then a else b)) (i % 8))) := rfl

theorem ofNat_mod_word (n : Nat) : BitVec.ofNat 128 (n % 2 ^ 128) = BitVec.ofNat 128 n :=
  BitVec.eq_of_toNat_eq (Nat.mod_mod ..)

theorem vNum_val (st : Strand) (e : Fin 32) : vNum st e.val = vVal st e := dif_pos e.isLt
theorem setVNum_val (st : Strand) (e : Fin 32) (x : Nat) : setVNum st e.val x = setV st e x := dif_pos e.isLt

section
variable {s : State} {gd : Guard} {a b d : Fin 32} (h : Runs s gd [.v a, .v b, .v d]) (prop : Bool)
include h

theorem vpack_bq_runs {fmt : BqFmt} (hf : fmt ≠ .bq8) : exec (.vpack gd d a (.bq fmt b prop)) s =
    .next (withTurn s (advanced (setV (turn s) d (vPackBq fmt prop (vVal (turn s) a) (vVal (turn s) b))))) := by
  rw [vpack_runs h (packExtra_none hf), packed]
  simp only [if_neg hf]

theorem vpack_bq8_runs {e : Fin 32} (he : e.val = d.val + 1) (hv : e.val < (turnCore s).vcount) :
    exec (.vpack gd d a (.bq .bq8 b prop)) s =
      .next (withTurn s (advanced (setV (setV (turn s) d (vPackBq .bq8 prop (vVal (turn s) a) (vVal (turn s) b))) e
        (vPackBq .bq8 prop (vVal (turn s) a) (vVal (turn s) b) / 2 ^ 128)))) := by
  have hc : packExtra (turnCore s).vcount d (.bq .bq8 b prop) = none := (he ▸ extraV_none hv e.isLt :)
  rw [vpack_runs h hc, packed]
  simp only [if_true, ← he, setVNum_val]
end

/-- A part of a block as four f32 lanes, where no register beyond the named ones is missing. -/
theorem vunpk_bq_runs {s : State} {gd : Guard} {a d : Fin 32} (h : Runs s gd [.v a, .v d]) {fmt : BqFmt} (part : Fin 4)
    {block : Nat}
    (hb : (if fmt = .bq8 then vVal (turn s) a + vNum (turn s) (a.val + 1) % 2 ^ 24 * 2 ^ 128 else vVal (turn s) a) = block)
    (hc : fmt = .bq8 → extraV (turnCore s).vcount (a.val + 1) = none) : WritesLanes s (turn s) d 32
      (fun i => (encodeF .f32 .rne true 0 (bqDecode fmt block (4 * part.val + i))).1)
      (exec (.vunpk gd d a (.bq fmt part)) s) := by
  rw [vunpk_runs h (unpkExtra_none hc), unpacked, hb]
  exact writesLanes_allLanes s _ d (vVal_lt _ d) rfl (by simp) fun _ _ => encodeF_lt ..

end Sys2Proof.Machine
open Sys2Proof Sys2Proof.Machine

/-- Settles O22: the moves and the unpacked fields are lanes of one register, VPACK's fields are bits of one, and the registers beyond
the named ones are checked before anything is written. -/
theorem vectorMoves : Obligations.VectorMoves := by
  intro gd d a b c e g h t x n s st w idx waits counted
  refine ⟨fun hr => ?_, fun hr => ?_, fun hr => ?_, fun hr => vperm_runs hr t, fun hr h1 h2 => vtbl_runs hr h1 h2 x,
    fun hr h32 hn => vtbl_traps hr h32 hn x, fun ty wd sat pos hr _ => ?_, fun fmt prop hr => ?_, fun fmt part hr => ?_⟩
  · refine regOp_writesLanes hr d (vtypeWidth t) _ (by simp) (fun i hi => ?_) fun _ _ => Nat.mod_lt _ (Nat.two_pow_pos w)
    rw [List.getElem_replicate, wrapTo_disp]
  · refine (regOp_runs hr _).trans ?_
    rw [laneIndex_eq]
    cases t with
    | i t => rfl
    | f t => exact congrArg (fun r => Host.Outcome.next (withTurn s (advanced (setG st st g r)))) (Nat.mod_eq_of_lt (laneOf_lt ..))
  · refine (regOp_runs hr _).trans ?_
    rw [laneIndex_eq]
    rfl
  · intro k field
    refine ⟨⟨vPackInt ty k sat pos.toNat (vVal st d) (vVal st a), Nat.mod_lt _ (Nat.two_pow_pos 128),
      vpack_runs hr rfl, fun j hj => ?_⟩, vunpk_int_runs hr ty wd pos⟩
    rw [testBit_vPackInt _ _ _ _ _ _ hj, packField_eq]
    rfl
  · intro block
    have hblock : vPackBq fmt prop (vVal st a) (vVal st b) = block := vPackBq_eq ..
    refine ⟨fun hf => ?_, fun hf he hv => ?_, fun hv => vpack_traps hr (extraV_some hv)⟩
    · rw [← hblock]
      exact vpack_bq_runs hr prop hf
    · subst hf
      rw [ofNat_mod_word, ← hblock]
      exact vpack_bq8_runs hr prop he hv
  · intro parts
    refine ⟨fun hf => vunpk_bq_runs hr part (if_neg hf) fun h => absurd h hf, fun hf he hv => ?_,
      fun hv => vunpk_traps hr (extraV_some hv)⟩
    refine vunpk_bq_runs hr part ?_ fun _ => he ▸ extraV_none hv e.isLt
    rw [if_pos hf, ← he, vNum_val]

end

section
/-! SUPPORT. A CHAIN whose destination lies in the device-internal range (06 R126; 22 R348; 23 R355). -/

namespace Sys2Proof.Machine

/-- The page at address 0, which lies at the energy word of partition 1 in the device-internal range (R348, R355). -/
def energyPage : Xlat :=
  { tag := 1, base := 0, size := 2 ^ 19, frame := internalBase + 0x60000 + 256, key := 0, kind := 1, xr := false, wr := true,
    rd := true, peer := false, dev := 0, leaf := 2 ^ 21, dirty := true }

/-- Partition 1 has been charged 2^31 microjoules, and a strand of its core 0 has one element left to stream from the pool to the
partition's energy word; the program in v10 is NEG, which makes −0, with the bits 2^31, of the pool's +0. -/
def energyClearing : State :=
  { strands := [(0, wrV (wrG {} 7 1) 10 0x70000000)]
    cores := [(0, { tag := 1, tlb := [energyPage] })]
    parts := [(1, { enj := 2 ^ 31 })] }

/-- CHAIN g7, g0, g0, v10 from f32 in the pool to f32 in the global space. -/
def energyChain : Instr := .chain ⟨false, 0⟩ (.g 7) (.g 0) (.g 0) 10 .f32 .f32 .rne false true false

/-- Partition 1's energy word after an outcome that is a next state. -/
def energyAfter : Host.Outcome State Fault Refusal → Option Word
  | .next t => some (getPart t 1).enj
  | _ => none

theorem energyChain_clears : energyAfter (exec energyChain energyClearing) = some 0 := by decide +kernel

/-- An element's step keeps the energy words of all partitions. -/
theorem ElementStep.enj {s t : State} (h : ElementStep s t) (tag : Nat) : (getPart t tag).enj = (getPart s tag).enj := by
  obtain ⟨_, _, _, hparts, _⟩ := h
  exact (congrArg Partn.enj (hparts tag) :)

end Sys2Proof.Machine
open Sys2Proof Sys2Proof.Machine

/-- Refutes O31: the statement lets the destination lie in the device-internal range, where the element's store clears the bits of an
energy word that it writes as 1 (22 R348), and an ElementStep leaves that word as it was. -/
theorem not_chainElement : ¬ Obligations.ChainElement := by
  intro h
  have hat : AtOnce energyClearing := by
    unfold AtOnce Quiet Still
    decide +kernel
  have hruns : Runs energyClearing ⟨false, 0⟩ [.g (.g 0), .g (.g 0), .v 10, .g (.g 7)] := by
    unfold Runs Allocated Indexed
    decide +kernel
  have hsrc : PoolHere energyClearing 0 32 := by
    unfold PoolHere
    decide +kernel
  have hdst : Here energyClearing (accessParts 0 32) false true [(energyPage, 0, 32)] := by
    unfold Here
    decide +kernel
  obtain ⟨_, _, hruns'⟩ := h ⟨false, 0⟩ (.g 7) (.g 0) (.g 0) 10 .f32 .f32 .rne false true false energyClearing []
    [(energyPage, 0, 32)] 0 hat hruns
  obtain ⟨_, helement⟩ := hruns' (fun hlong => absurd (hlong 1 (by decide)) (by decide +kernel)) (by decide +kernel)
  obtain ⟨t, ht, hstep, _⟩ := helement (by decide +kernel) (fun _ => ⟨hsrc, by decide +kernel⟩) (fun h => absurd h (by decide))
    (fun h => absurd h (by decide)) (fun _ => hdst)
  have hclear : energyAfter (.next t) = some 0 := ht ▸ energyChain_clears
  rw [energyAfter, hstep.enj 1] at hclear
  exact absurd hclear (by decide +kernel)

end

section
/-! SUPPORT. What writes of memory, accesses performed, counts in nodes and the end of a strand leave of the strands and of what is
under way (07 R141, R144; 09 R194, R195; 15 R276 to R280). -/

namespace Sys2Proof.Machine

/-! ### Maps of which every value is changed -/

/-- Where each value of a map is related, under its key, to the one that replaces it, so is what is read. -/
theorem nget_map_rel {α : Type} {R : Nat → α → α → Prop} {g : Nat × α → Nat × α} {d : α} (hd : ∀ k, R k d d) (m : NMap α)
    (hg : ∀ e ∈ m, (g e).1 = e.1 ∧ R e.1 e.2 (g e).2) (k : Nat) : R k (nget m d k) (nget (m.map g) d k) := by
  unfold nget
  induction m with
  | nil => exact hd k
  | cons e m ih =>
    obtain ⟨⟨hkey, hval⟩, hrest⟩ := List.forall_mem_cons.1 hg
    simp only [List.map_cons, nget?, hkey]
    split_ifs with hk
    · exact hk ▸ hval
    · exact ih hrest

/-! ### Steps that change no strand and no core -/

/-- t has the strands and the cores of s, and it is the same strand's turn. -/
def SameStrands (s t : State) : Prop := t.strands = s.strands ∧ t.cores = s.cores ∧ t.cur = s.cur

theorem SameStrands.refl (s : State) : SameStrands s s := ⟨rfl, rfl, rfl⟩

theorem SameStrands.trans {s t u : State} (h1 : SameStrands s t) (h2 : SameStrands t u) : SameStrands s u := by
  obtain ⟨a1, b1, c1⟩ := h1
  obtain ⟨a2, b2, c2⟩ := h2
  exact ⟨a2.trans a1, b2.trans b1, c2.trans c1⟩

theorem SameStrands.foldl {α : Type} {f : State → α → State} (hf : ∀ s x, SameStrands s (f s x)) (xs : List α) (s : State) :
    SameStrands s (xs.foldl f s) :=
  List.foldlRecOn xs f (motive := SameStrands s) (SameStrands.refl s) fun _ h x _ => h.trans (hf _ x)

section
variable {s t : State} (h : SameStrands s t)
include h

theorem SameStrands.getStrand (c l : Nat) : Machine.getStrand t c l = Machine.getStrand s c l := by
  rw [Machine.getStrand, h.1, ← Machine.getStrand]

theorem SameStrands.getCore (c : Nat) : Machine.getCore t c = Machine.getCore s c := by
  rw [Machine.getCore, h.2.1, ← Machine.getCore]
end

theorem Reached.same {s t : State} (h : Reached s t) : SameStrands s t := by
  obtain ⟨ls, gs, _, _, rfl⟩ := h
  exact ⟨rfl, rfl, rfl⟩

theorem reachLines_reached (s : State) (c : Nat) (lines : List Nat) : Reached s (reachLines s c lines) :=
  List.foldlRecOn lines _ (motive := Reached s) (Reached.refl s) fun _ h x _ => h.trans (reachLine_reached _ c x)

theorem onNode_same (s : State) (tag n : Nat) (f : Node → Node) : SameStrands s (onNode s tag n f) := by
  unfold onNode
  split <;> exact ⟨rfl, rfl, rfl⟩

theorem onQueue_same (s : State) (tag q : Nat) (f : Queue → Queue) : SameStrands s (onQueue s tag q f) := by
  unfold onQueue
  split <;> exact ⟨rfl, rfl, rfl⟩

theorem retireLaunchOf_same (s : State) (tag n : Nat) : SameStrands s (retireLaunchOf s tag n) := by
  unfold retireLaunchOf
  split
  · split <;> exact ⟨rfl, rfl, rfl⟩
  · exact SameStrands.refl s

theorem freeNode_same (s : State) (tag n : Nat) : SameStrands s (freeNode s tag n) := by
  unfold freeNode
  dsimp only
  repeat' split
  all_goals exact ⟨rfl, rfl, rfl⟩

theorem freeChildren_same (s : State) (tag n : Nat) : SameStrands s (freeChildren s tag n) :=
  SameStrands.foldl (fun s (e : Nat × Node) => freeNode_same s tag e.1) _ s

theorem releaseStage_same (s : State) (tag : Nat) (h : Option StageHold) : SameStrands s (releaseStage s tag h) := by
  cases h with
  | none => exact SameStrands.refl s
  | some h => exact onQueue_same ..

theorem drainQueue_same (s : State) (tag q : Nat) : SameStrands s (drainQueue s tag q) := by
  unfold drainQueue
  repeat' split
  all_goals exact ⟨rfl, rfl, rfl⟩

theorem ringDoorbell_same (s : State) (c ea w : Nat) : SameStrands s (ringDoorbell s c ea w) := by
  unfold ringDoorbell
  dsimp only
  split_ifs
  · split <;> exact ⟨rfl, rfl, rfl⟩
  · exact SameStrands.refl s

theorem internalWriteWord_strands (s : State) (i v : Nat) : SameStrands s (internalWriteWord s i v) := by
  simp only [internalWriteWord, clearLog]
  repeat' split
  all_goals exact ⟨rfl, rfl, rfl⟩

theorem internalWriteWords_strands (s : State) (i v n : Nat) : SameStrands s (internalWriteWords s i v n) := by
  induction n generalizing s i v with
  | zero => exact SameStrands.refl s
  | succ n ih => exact (internalWriteWord_strands s i _).trans (ih _ _ _)

/-! ### Accesses performed (07 R144; 12 R231) -/

/-- t is s after accesses under way were performed: strands differ at most in monitors that fired, no access is under way that was not
before, and it is the same strand's turn. -/
structure Drains (s t : State) : Prop where
  cur : t.cur = s.cur
  strands : ∀ k, ∃ mon, nget t.strands {} k = withMon (nget s.strands {} k) mon
  requests : ∀ c, (getCore t c).requests ⊆ (getCore s c).requests
  reds : ∀ c, (getCore t c).reds ⊆ (getCore s c).reds

theorem SameStrands.drains {s t : State} (h : SameStrands s t) : Drains s t where
  cur := h.2.2
  strands k := ⟨_, by rw [h.1]; rfl⟩
  requests c := by rw [h.getCore]; exact List.Subset.refl _
  reds c := by rw [h.getCore]; exact List.Subset.refl _

theorem Drains.refl (s : State) : Drains s s := (SameStrands.refl s).drains

theorem Drains.trans {s t u : State} (h1 : Drains s t) (h2 : Drains t u) : Drains s u where
  cur := h2.cur.trans h1.cur
  strands k := by
    obtain ⟨mon, e⟩ := h1.strands k
    obtain ⟨mon', e'⟩ := h2.strands k
    exact ⟨mon', by rw [e', e]; rfl⟩
  requests c := List.Subset.trans (h2.requests c) (h1.requests c)
  reds c := List.Subset.trans (h2.reds c) (h1.reds c)

theorem Drains.foldl {α : Type} {f : State → α → State} (hf : ∀ s x, Drains s (f s x)) (xs : List α) (s : State) :
    Drains s (xs.foldl f s) :=
  List.foldlRecOn xs f (motive := Drains s) (Drains.refl s) fun _ h x _ => h.trans (hf _ x)

theorem Stored.drains {s t : State} (h : Stored s t) : Drains s t := by
  obtain ⟨ss, m, ks, ls, gs, hs, rfl⟩ := h
  exact ⟨rfl, hs, fun _ => List.Subset.refl _, fun _ => List.Subset.refl _⟩

/-- A core is changed, and has under way what it had or less. -/
theorem onCore_drains (s : State) (c : Nat) {f : CoreSt → CoreSt} (hq : (f (getCore s c)).requests ⊆ (getCore s c).requests)
    (hr : (f (getCore s c)).reds ⊆ (getCore s c).reds) : Drains s (onCore s c f) where
  cur := rfl
  strands _ := ⟨_, rfl⟩
  requests c' := by
    by_cases h : c' = c
    · rw [h, onCore_eq, getCore_putCore_self]; exact hq
    · rw [onCore_eq, getCore_putCore_other _ _ h]; exact List.Subset.refl _
  reds c' := by
    by_cases h : c' = c
    · rw [h, onCore_eq, getCore_putCore_self]; exact hr
    · rw [onCore_eq, getCore_putCore_other _ _ h]; exact List.Subset.refl _

/-- A core is changed in other things than what it has under way. -/
theorem onCore_drains_same (s : State) (c : Nat) {f : CoreSt → CoreSt} (hq : ∀ k, (f k).requests = k.requests)
    (hr : ∀ k, (f k).reds = k.reds) : Drains s (onCore s c f) :=
  onCore_drains s c (by rw [hq]; exact List.Subset.refl _) (by rw [hr]; exact List.Subset.refl _)

theorem physWrite_drains (s : State) (c key pa w v : Nat) : Drains s (physWrite s c key pa w v) := by
  cases h : isInternal pa with
  | false => exact (physWrite_stored s c key w v h).drains
  | true =>
    unfold physWrite
    rw [h]
    exact ((reachLine_reached s c _).stored.trans (fireGlobal_stored _ pa w)).drains.trans
      (internalWriteWords_strands ..).drains

theorem writePart_drains (s : State) (c : Nat) (p : Part) (v : Nat) : Drains s (writePart s c p v) :=
  (setDirty_stored s p.leaf).drains.trans (physWrite_drains ..)

theorem firePool_drains (s : State) (c a w : Nat) : Drains s (firePool s c a w) where
  cur := rfl
  strands k := by
    refine nget_map_rel (R := fun _ x y => ∃ mon, y = withMon x mon) (fun _ => ⟨_, rfl⟩) s.strands (fun e _ => ?_) k
    split_ifs <;> exact ⟨rfl, _, rfl⟩
  requests _ := List.Subset.refl _
  reds _ := List.Subset.refl _

theorem poolWrite_drains (s : State) (c a w v : Nat) : Drains s (poolWrite s c a w v) := by
  refine Drains.trans (onCore_drains_same s c ?_ ?_) (firePool_drains _ c a w) <;> exact fun _ => rfl

theorem placeAtomic_drains (s : State) (c line : Nat) : Drains s (placeAtomic s c line) := by
  have hreach := (reachLine_reached s c line).same.drains
  unfold placeAtomic
  dsimp only
  split_ifs
  · exact onCore_drains_same s c (fun _ => rfl) fun _ => rfl
  · exact hreach.trans (onCore_drains_same _ c (fun _ => rfl) fun _ => rfl)
  · refine hreach.trans ((SameStrands.drains ?_).trans (onCore_drains_same _ c (fun _ => rfl) fun _ => rfl))
    exact ⟨rfl, rfl, rfl⟩

theorem doAtomic_drains (s : State) (c : Nat) (p : Part) (fn : AtomicFn) : Drains s (doAtomic s c p fn).1 := by
  have hplace := placeAtomic_drains s c (lineOf p.pa)
  unfold doAtomic
  dsimp only
  split
  · exact hplace.trans (writePart_drains ..)
  · exact hplace

/-- The state that performing a request leaves. -/
def Performed.after : Performed → State
  | .done s _ => s
  | .more s _ => s

theorem readNext_after (s : State) (q : Req) (w : Nat) (sx : Bool) (dst : Dst) (ws : List Nat) (got : List (Option Nat))
    (rd : Nat → Option Nat) (op : List (Option Nat) → ReqOp) : (readNext s q w sx dst ws got rd op).after = s := by
  unfold readNext
  dsimp only
  split_ifs <;> rfl

theorem performReq_drains (s : State) (c : Nat) (q : Req) : Drains s (performReq s c q).after := by
  unfold performReq
  dsimp only
  split
  case h_1 =>
    rw [readNext_after]
    exact (reachLines_reached s c _).same.drains
  case h_2 =>
    have hwrite : ∀ (o : Option Part) (v : Option Nat), Drains s (match o, v with
        | some p, some v => writePart s c p v
        | _, _ => s) := fun o v => by
      split
      · exact writePart_drains ..
      · exact Drains.refl s
    split_ifs
    · exact hwrite _ _
    · exact hwrite _ _
    · exact (hwrite _ _).trans (ringDoorbell_same ..).drains
    · exact (hwrite _ _).trans (ringDoorbell_same ..).drains
    · exact hwrite _ _
  case h_3 =>
    rw [readNext_after]
    exact Drains.refl s
  case h_4 =>
    have hwrite : ∀ o : Option (Nat × Nat × Nat), Drains s (match o with
        | some (a, w, v) => poolWrite s c a w v
        | none => s) := fun o => by
      split
      · exact poolWrite_drains ..
      · exact Drains.refl s
    split_ifs <;> exact hwrite _
  case h_5 =>
    split
    · exact doAtomic_drains ..
    · exact Drains.refl s
  case h_6 =>
    repeat' split
    all_goals first | exact Drains.refl s | exact writePart_drains ..
  case h_7 =>
    split
    · exact (reachLine_reached ..).same.drains
    · exact Drains.refl s
  case h_8 =>
    repeat' split
    all_goals first | exact Drains.refl s | exact (reachLine_reached ..).same.drains

theorem performAll_drains (s : State) (c n : Nat) (q : Req) : Drains s (performAll s c n q).1 := by
  induction n generalizing s q with
  | zero => exact Drains.refl s
  | succ n ih =>
    have h := performReq_drains s c q
    unfold performAll
    split
    case h_1 hp => rwa [hp] at h
    case h_2 hp =>
      rw [hp] at h
      exact h.trans (ih _ _)

theorem performNow_drains (s : State) (c : Nat) (q : Req) : Drains s (performNow s c q) := by
  have h := performAll_drains s c 32 q
  unfold performNow
  dsimp only
  split
  · exact h.trans (onCore_drains_same _ c (fun _ => rfl) fun _ => rfl)
  · exact h

/-- What is performed of a core's requests is under way no more. -/
theorem flush_performs (s : State) (c : Nat) (which : Req → Bool) :
    Drains s (flush s c which) ∧ ∀ q ∈ (getCore (flush s c which) c).requests, which q = false := by
  unfold flush
  dsimp only
  split_ifs with h
  · have hrest := Drains.foldl (fun s q => performNow_drains s c q) ((getCore s c).requests.filter which)
      (onCore s c fun k => { k with requests := (getCore s c).requests.filter fun q => !which q })
    refine ⟨(onCore_drains s c (List.filter_subset_self _) (List.Subset.refl _)).trans hrest, fun q hq => ?_⟩
    have hq' := hrest.requests c hq
    rw [onCore_eq, getCore_putCore_self, List.mem_filter] at hq'
    simpa using hq'.2
  · exact ⟨Drains.refl s, by simpa using h⟩

theorem splitReds_later (which : Req → Bool) (rs : List Req) :
    (splitReds which rs).2 ⊆ rs ∧ ∀ q ∈ (splitReds which rs).2, which q = false := by
  induction rs with
  | nil => exact ⟨List.Subset.refl _, fun _ h => nomatch h⟩
  | cons q rs ih =>
    obtain ⟨hsub, hnot⟩ := ih
    unfold splitReds
    dsimp only
    split_ifs with h
    · exact ⟨List.subset_cons_of_subset q hsub, hnot⟩
    · refine ⟨List.cons_subset_cons q hsub, List.forall_mem_cons.2 ⟨?_, hnot⟩⟩
      simp only [Bool.or_eq_true, not_or, Bool.not_eq_true] at h
      exact h.1

/-- What is performed of a core's REDs is under way no more. -/
theorem flushReds_performs (s : State) (c : Nat) (which : Req → Bool) :
    Drains s (flushReds s c which) ∧ ∀ q ∈ (getCore (flushReds s c which) c).reds, which q = false := by
  obtain ⟨hsub, hnot⟩ := splitReds_later which (getCore s c).reds
  unfold flushReds
  dsimp only
  split_ifs with h
  · have hrest := Drains.foldl (fun s q => performAll_drains s c 1 q) (splitReds which (getCore s c).reds).1
      (onCore s c fun k => { k with reds := (splitReds which (getCore s c).reds).2 })
    refine ⟨(onCore_drains s c (List.Subset.refl _) hsub).trans hrest, fun q hq => hnot q ?_⟩
    have hq' := hrest.reds c hq
    rwa [onCore_eq, getCore_putCore_self] at hq'
  · exact ⟨Drains.refl s, by simpa using h⟩

/-- What is performed of the requests of every core is under way no more. -/
theorem flushAll_performs (s : State) (which : Nat → Req → Bool) :
    Drains s (flushAll s which) ∧ ∀ c, ∀ q ∈ (getCore (flushAll s which) c).requests, which c q = false := by
  have hone : ∀ s c, Drains s (flushReds (flush s c (which c)) c (which c)) ∧
      ∀ q ∈ (getCore (flushReds (flush s c (which c)) c (which c)) c).requests, which c q = false := fun s c => by
    obtain ⟨hd, hq⟩ := flush_performs s c (which c)
    obtain ⟨hd', _⟩ := flushReds_performs (flush s c (which c)) c (which c)
    exact ⟨hd.trans hd', fun q h => hq q (hd'.requests c h)⟩
  have hlisted : ∀ (es : List (Nat × CoreSt)) (s : State),
      let t := es.foldl (fun s e => flushReds (flush s e.1 (which e.1)) e.1 (which e.1)) s
      Drains s t ∧ ∀ e ∈ es, ∀ q ∈ (getCore t e.1).requests, which e.1 q = false := by
    intro es
    induction es with
    | nil => exact fun s => ⟨Drains.refl s, fun _ h => nomatch h⟩
    | cons e es ih =>
      intro s
      obtain ⟨hd, hq⟩ := hone s e.1
      obtain ⟨hd', hq'⟩ := ih (flushReds (flush s e.1 (which e.1)) e.1 (which e.1))
      exact ⟨hd.trans hd', List.forall_mem_cons.2 ⟨fun q h => hq q (hd'.requests e.1 h), hq'⟩⟩
  obtain ⟨hd, hq⟩ := hlisted s.cores s
  refine ⟨hd, fun c q h => ?_⟩
  rcases getCore_mem s c with hm | hm
  · exact hq _ hm q h
  · have := hd.requests c h
    rw [hm] at this
    cases this

/-! ### Steps that put no strand in an empty slot (09 R194; 15 R276 to R280) -/

/-- A slot that is empty in s is empty in t, and it is the same strand's turn. -/
structure NoNewStrand (s t : State) : Prop where
  cur : t.cur = s.cur
  empty : ∀ k, (nget s.strands {} k).live = false → (nget t.strands {} k).live = false

theorem Drains.noNew {s t : State} (h : Drains s t) : NoNewStrand s t where
  cur := h.cur
  empty k hk := by
    obtain ⟨mon, e⟩ := h.strands k
    rw [e]
    exact hk

theorem SameStrands.noNew {s t : State} (h : SameStrands s t) : NoNewStrand s t := h.drains.noNew

theorem NoNewStrand.refl (s : State) : NoNewStrand s s := (SameStrands.refl s).noNew

theorem NoNewStrand.trans {s t u : State} (h1 : NoNewStrand s t) (h2 : NoNewStrand t u) : NoNewStrand s u where
  cur := h2.cur.trans h1.cur
  empty k hk := h2.empty k (h1.empty k hk)

theorem NoNewStrand.foldl {α : Type} {f : State → α → State} (hf : ∀ s x, NoNewStrand s (f s x)) (xs : List α) (s : State) :
    NoNewStrand s (xs.foldl f s) :=
  List.foldlRecOn xs f (motive := NoNewStrand s) (NoNewStrand.refl s) fun _ h x _ => h.trans (hf _ x)

theorem onCore_noNew (s : State) (c : Nat) (f : CoreSt → CoreSt) : NoNewStrand s (onCore s c f) := ⟨rfl, fun _ h => h⟩

theorem getStrand_noNew {s t : State} (h : NoNewStrand s t) {c l : Nat} (he : (getStrand s c l).live = false) :
    (getStrand t c l).live = false := h.empty _ he

theorem pauseClock_noNew (s : State) (c : Nat) : NoNewStrand s (pauseClock s c) := by
  unfold pauseClock
  split_ifs
  · exact NoNewStrand.refl s
  · exact onCore_noNew ..

theorem updateLoad_noNew (s : State) (c : Nat) : NoNewStrand s (updateLoad s c) := by
  unfold updateLoad
  dsimp only
  repeat' split
  · exact NoNewStrand.refl s
  · exact NoNewStrand.refl s
  · exact (writePart_drains ..).noNew

theorem deqPushHead_noNew (s : State) (c : Nat) (r : Rec) : NoNewStrand s (deqPushHead s c r) :=
  (onCore_noNew s c _).trans (updateLoad_noNew _ c)

theorem pushOrHold_noNew (s : State) (tag n c : Nat) (r : Rec) : NoNewStrand s (pushOrHold s tag n c r) := by
  unfold pushOrHold
  split_ifs
  · exact deqPushHead_noNew ..
  · exact (onNode_same ..).noNew

theorem releaseHeld_noNew (s : State) (tag n : Nat) (core : Option Nat) : NoNewStrand s (releaseHeld s tag n core) := by
  unfold releaseHeld
  split
  · exact NoNewStrand.refl s
  · exact (onNode_same ..).noNew.trans
      (NoNewStrand.foldl (fun s (r : Rec) => pushOrHold_noNew s tag n (core.getD r.joinCore) { r with waiting := false }) _ _)

theorem wakeLvlwait_noNew (s : State) (tag n st : Nat) : NoNewStrand s (wakeLvlwait s tag n st) where
  cur := rfl
  empty k hk := by
    have hlive : (nget s.strands {} k).live = (nget (wakeLvlwait s tag n st).strands {} k).live := by
      refine nget_map_rel (R := fun _ x y => x.live = y.live) (fun _ => rfl) s.strands (fun e _ => ?_) k
      split
      · split_ifs <;> exact ⟨rfl, rfl⟩
      · exact ⟨rfl, rfl⟩
    exact hlive ▸ hk

theorem settleNode_noNew (tag : Nat) (core : Option Nat) (fuel : Nat) (s : State) (n : Nat) :
    NoNewStrand s (settleNode tag core fuel s n) := by
  induction fuel generalizing s n with
  | zero => exact NoNewStrand.refl s
  | succ fuel ih =>
    unfold settleNode
    split
    · exact NoNewStrand.refl s
    · split
      · exact NoNewStrand.refl s
      · extract_lets s1
        have hreleased : NoNewStrand s s1 := releaseHeld_noNew ..
        refine hreleased.trans ?_
        split
        · split_ifs
          · exact (retireLaunchOf_same ..).noNew
          · exact NoNewStrand.refl _
        · extract_lets s2 s3
          have hended : NoNewStrand s1 s3 :=
            (onNode_same ..).noNew.trans ((wakeLvlwait_noNew ..).trans (freeChildren_same ..).noNew)
          refine hended.trans ?_
          split_ifs
          · exact (freeNode_same ..).noNew
          · exact (onNode_same ..).noNew.trans (ih _ _)

theorem decNode_noNew (s : State) (tag n : Nat) (core : Option Nat) : NoNewStrand s (decNode s tag n core) := by
  unfold decNode
  split
  · exact NoNewStrand.refl s
  · split_ifs
    · exact NoNewStrand.refl s
    · exact (onNode_same ..).noNew.trans (settleNode_noNew ..)

theorem recordCause_noNew (s : State) (tag node : Nat) (core : Option Nat) (code tval : Nat) :
    NoNewStrand s (recordCause s tag node core code tval) := by
  have hreport : ∀ (s : State) rs, NoNewStrand s { s with reports := rs } := fun _ _ => ⟨rfl, fun _ h => h⟩
  unfold recordCause
  split
  · exact hreport s _
  · extract_lets s1
    have hrecorded : NoNewStrand s s1 := (onNode_same ..).noNew
    refine hrecorded.trans ?_
    split
    · exact NoNewStrand.refl _
    · split_ifs
      · exact hreport _ _
      · exact NoNewStrand.refl _
      · exact hreport _ _
      · have hfresh : NoNewStrand s1 (freshSid s1).1 := ⟨rfl, fun _ h => h⟩
        split
        next s2 sid he =>
        rw [he] at hfresh
        extract_lets r c s3
        have hcounted : NoNewStrand s2 s3 := (onNode_same ..).noNew
        refine hfresh.trans (hcounted.trans ?_)
        split_ifs
        · exact deqPushHead_noNew ..
        · exact (onNode_same ..).noNew

theorem settleCarry_noNew (s : State) (tag q : Nat) (core : Option Nat) : NoNewStrand s (settleCarry s tag q core) := by
  have hput : ∀ (s : State) x, NoNewStrand s (putQueue s tag q x) := fun _ _ => ⟨rfl, fun _ h => h⟩
  unfold settleCarry
  split
  · exact NoNewStrand.refl s
  · split
    · exact NoNewStrand.refl s
    · split
      · exact NoNewStrand.refl s
      · split_ifs
        · exact (hput ..).trans (onNode_same ..).noNew
        · exact (hput ..).trans (decNode_noNew ..)
        · exact NoNewStrand.refl s

theorem postPeer_noNew (s : State) (c slot sid dev : Nat) (q : MemReq) : NoNewStrand s (postPeer s c slot sid dev q) :=
  ⟨rfl, fun _ h => h⟩

theorem hwWrite_noNew (s : State) (c ea w v n : Nat) : NoNewStrand s (hwWrite s c ea w v n) := by
  induction n generalizing s ea w v with
  | zero => exact NoNewStrand.refl s
  | succ n ih =>
    unfold hwWrite
    split
    · exact NoNewStrand.refl s
    · extract_lets step s1 s2
      have hwalked : NoNewStrand s s1 := by
        unfold s1
        split
        · exact (reachLines_reached ..).same.noNew
        · exact NoNewStrand.refl s
      have hwritten : NoNewStrand s1 s2 := by
        unfold s2
        split
        · split_ifs
          · exact NoNewStrand.refl s1
          · exact (writePart_drains ..).noNew
          · exact (setDirty_stored ..).drains.noNew.trans (postPeer_noNew ..)
          · exact NoNewStrand.refl s1
        · exact NoNewStrand.refl s1
      exact hwalked.trans (hwritten.trans (ih ..))

theorem raiseDelayed_noNew (s : State) (f : Pending) (node : Nat) : NoNewStrand s (raiseDelayed s f node) := by
  unfold raiseDelayed
  split_ifs
  · exact ⟨rfl, fun _ h => h⟩
  · exact (hwWrite_noNew ..).trans (recordCause_noNew ..)

theorem pushArrives_noNew (s : State) (c : Nat) (p : Push) : NoNewStrand s ((pushArrives s c p).getD s) := by
  have hput : ∀ (s : State) tag q x, NoNewStrand s (putQueue s tag q x) := fun _ _ _ _ => ⟨rfl, fun _ h => h⟩
  have hdrop : ∀ s : State, NoNewStrand s (dropPush s c p) := fun s => onCore_noNew ..
  unfold pushArrives
  split
  · exact hdrop s
  · extract_lets s1
    have hwoken : NoNewStrand s s1 := (wakeUnit_reached ..).same.noNew
    split_ifs
    · exact NoNewStrand.refl s
    · split
      · exact hwoken.trans ((hdrop _).trans ((hput ..).trans (settleCarry_noNew ..)))
      · exact hwoken.trans ((hdrop _).trans (raiseDelayed_noNew ..))
      · split
        · exact hwoken.trans (hput ..)
        · split
          · exact hwoken.trans ((hdrop _).trans ((hput ..).trans (settleCarry_noNew ..)))
          · exact NoNewStrand.refl s

theorem pushesArrive_noNew (s : State) (which : Push → Bool) : NoNewStrand s (pushesArrive s which) := by
  refine NoNewStrand.foldl (fun s e => ?_) _ s
  split_ifs
  · exact pushArrives_noNew ..
  · exact NoNewStrand.refl s

theorem flushFaults_noNew (s : State) (c sid tag node : Nat) : NoNewStrand s (flushFaults s c sid tag node) := by
  unfold flushFaults
  extract_lets mine
  refine NoNewStrand.trans ?_ (NoNewStrand.foldl ?_ mine _)
  · exact ⟨rfl, fun _ h => h⟩
  · exact fun s f => (hwWrite_noNew ..).trans (recordCause_noNew ..)

theorem dropResults_noNew (s : State) (sid : Nat) : NoNewStrand s (dropResults s sid) := by
  unfold dropResults
  split_ifs
  · exact ⟨rfl, fun _ h => h⟩
  · exact NoNewStrand.refl s

/-! ### The end of a strand (R194, R195) -/

/-- A strand that retires leaves its slot empty, and it is the same strand's turn. -/
theorem retireNow_ends (s : State) (c l : Nat) (cause : Option (Nat × Nat)) :
    (retireNow s c l cause).cur = s.cur ∧ (getStrand (retireNow s c l cause) c l).live = false := by
  unfold retireNow
  extract_lets t tag s1 s2 s3 s4 s5 s6 s7
  have hdone : NoNewStrand s s1 := (flushAll_performs ..).1.noNew.trans (pushesArrive_noNew ..)
  have hcause : NoNewStrand s1 s2 := by
    unfold s2
    split
    · exact recordCause_noNew ..
    · exact NoNewStrand.refl s1
  have hfaults : NoNewStrand s2 s4 := (flushFaults_noNew ..).trans (dropResults_noNew ..)
  have hfreed : NoNewStrand (putStrand s4 c l {}) s6 := (updateLoad_noNew ..).trans (releaseStage_same ..).noNew
  have hstage : NoNewStrand s6 s7 := by
    unfold s7
    split
    · exact settleCarry_noNew ..
    · exact NoNewStrand.refl s6
  have hbefore := hdone.trans (hcause.trans hfaults)
  have hafter := hfreed.trans (hstage.trans ((decNode_noNew s7 tag t.node (some c)).trans (pauseClock_noNew _ c)))
  exact ⟨hafter.cur.trans hbefore.cur, getStrand_noNew hafter (by rw [getStrand_putStrand_self])⟩

/-- A trap enters no handler inside one, with an entry that is 0 or no slot position, or with the cause 0x3C2 (R206). -/
theorem trapEnters_false {t : Strand} {code : Nat}
    (h : t.intrap = true ∨ t.tvec = 0 ∨ isSlotPos t.tvec.toNat = false ∨ code = 0x3C2) : trapEnters t code = false := by
  unfold trapEnters
  rcases h with h | h | h | h <;> simp [h]

theorem retireStrand_eq (s : State) (c l : Nat) (cause : Option (Nat × Nat)) : retireStrand s c l cause =
    if redsAtPeer s (getStrand s c l).sid (fun _ => true) = true then sleep s c l (.retire cause) else retireNow s c l cause := rfl

end Sys2Proof.Machine
open Sys2Proof Sys2Proof.Machine

/-- Settles O9: a trap that enters a handler changes its strand alone; one that cannot retires it, and nothing that follows the freeing
of the slot puts a strand in it. -/
theorem takingATrap : Obligations.TakingATrap := by
  refine ⟨fun s c l code tval hin hvec hpos hcode => ?_, fun s c l code tval _ hcannot => ⟨fun hpeer => ?_, fun hpeer => ?_⟩⟩
  · have henters : trapEnters (getStrand s c l) code = true := by
      rw [trapEnters, hin, hpos, bne_iff_ne.2 hvec, bne_iff_ne.2 hcode]
      rfl
    exact takeTrap_enters henters tval
  · rw [takeTrap_retires (trapEnters_false hcannot), retireStrand_eq, hpeer, if_neg Bool.false_ne_true]
    exact (retireNow_ends ..).2
  · rw [takeTrap_retires (trapEnters_false hcannot), retireStrand_eq, hpeer, if_pos rfl]
    exact ⟨_, rfl, rfl⟩

end

section
/-! SUPPORT. Atomics that are made at once: what a home slice does with one, and what it leaves (07 R138 to R142; 12 R241). -/

namespace Sys2Proof.Machine

/-! ### Placing an atomic (R142, R241) -/

/-- t is s after core c's atomic was placed: it is counted there, leases were given or recalled, home slices woken. -/
def AtomicPlaced (s t : State) (c : Nat) : Prop :=
  ∃ a ls gs, t = putCore { s with leases := ls, gated := gs } c { getCore s c with acnt := a }

theorem placeAtomic_spec (s : State) (c line : Nat) : AtomicPlaced s (placeAtomic s c line) c := by
  obtain ⟨ls, gs, _, _, hreach⟩ := reachLine_reached s c line
  unfold placeAtomic
  dsimp only
  split_ifs
  · exact ⟨_, s.leases, s.gated, rfl⟩
  · exact ⟨_, ls, gs, by rw [hreach]; rfl⟩
  · exact ⟨_, nset ls line c, gs, by rw [hreach]; rfl⟩

/-- But for the count a core is as it was. -/
theorem AtomicPlaced.getCore {s t : State} {c : Nat} (h : AtomicPlaced s t c) (c' : Nat) :
    { Machine.getCore t c' with acnt := (Machine.getCore s c').acnt } = Machine.getCore s c' := by
  obtain ⟨a, ls, gs, rfl⟩ := h
  by_cases hc : c' = c
  · rw [hc, getCore_putCore_self]
  · rw [getCore_putCore_other _ _ hc]
    rfl

theorem AtomicPlaced.passed {s t : State} {c : Nat} (h : AtomicPlaced s t c) (u : Strand) : Machine.passed t u = Machine.passed s u := by
  have hcycles : (turnCore t).cycles = (turnCore s).cycles := by
    have hcur : t.cur = s.cur := by obtain ⟨a, ls, gs, rfl⟩ := h; rfl
    rw [turnCore, turnCore, hcur]
    exact (congrArg CoreSt.cycles (h.getCore s.cur.core) :)
  have hturn : turn t = turn s := by obtain ⟨a, ls, gs, rfl⟩ := h; rfl
  rw [Machine.passed, hcycles, hturn, Machine.passed]

theorem AtomicPlaced.memoryStep {s t u : State} {c : Nat} (h : AtomicPlaced s t c) (hm : MemoryStep t u) : MemoryStep s u := by
  have hcore := h.getCore
  obtain ⟨a, ls, gs, rfl⟩ := h
  obtain ⟨hstrands, hcores, hparts, hrest⟩ := hm
  exact ⟨hstrands, fun c' => (congrArg (fun k : CoreSt => { k with acnt := (Machine.getCore s c').acnt }) (hcores c')).trans (hcore c'),
    hparts, hrest⟩

theorem AtomicPlaced.spares {s t u : State} {c : Nat} {ps : List Part} (h : AtomicPlaced s t c) (hs : Spares t u ps) :
    Spares s u ps := by
  obtain ⟨a, ls, gs, rfl⟩ := h
  exact hs

/-! ### An atomic on one part (R138 to R140) -/

/-- What the strand does when its access is complete changes no memory. -/
theorem spares_finish {s t : State} {ps : List Part} (h : Spares s t ps) (c l : Nat) (d : Dst) (v : Nat) :
    Spares s (finish t c l d v) ps := h

theorem doAtomic_old (s : State) (c : Nat) (p : Part) (fn : AtomicFn) : (doAtomic s c p fn).2 = physRead s p.key p.pa p.w := by
  unfold doAtomic
  dsimp only
  split <;> rfl

theorem doAtomic_writes {s : State} {p : Part} {fn : AtomicFn} {v : Nat}
    (h : atomicNew fn (physRead s p.key p.pa p.w) = some v) (c : Nat) :
    (doAtomic s c p fn).1 = writePart (placeAtomic s c (lineOf p.pa)) c p v := by simp only [doAtomic, h]

theorem doAtomic_keeps {s : State} {p : Part} {fn : AtomicFn}
    (h : atomicNew fn (physRead s p.key p.pa p.w) = none) (c : Nat) :
    (doAtomic s c p fn).1 = placeAtomic s c (lineOf p.pa) := by simp only [doAtomic, h]

/-- What memory holds in place of the old value. -/
def afterAtomic (fn : AtomicFn) (w old : Nat) : Nat :=
  match atomicNew fn old with
  | some v => v % 2 ^ w
  | none => old

/-- The strand at an atomic goes on with a value, and the part holds what the atomic makes of it. -/
def AtomicDone (s t : State) (p : Part) (u : Strand) (new : Nat) : Prop :=
  MemoryStep s t ∧ TurnBecame t (passed s u) ∧ Spares s t [p] ∧ physRead t p.key p.pa p.w = new

theorem doAtomic_done (s : State) {p : Part} (h : isInternal p.pa = false) (fn : AtomicFn) (r : Fin 64) (v : Nat) :
    AtomicDone s (finish (doAtomic s s.cur.core p fn).1 s.cur.core s.cur.slot (.g r) v) p
      (wrG (turn s) r (BitVec.ofNat 64 v)) (afterAtomic fn p.w (physRead s p.key p.pa p.w)) := by
  have hplaced := placeAtomic_spec s s.cur.core (lineOf p.pa)
  have hpassed := hplaced.passed (wrG (turn s) r (BitVec.ofNat 64 v))
  unfold afterAtomic
  cases hn : atomicNew fn (physRead s p.key p.pa p.w) with
  | some x =>
    rw [doAtomic_writes hn]
    generalize placeAtomic s s.cur.core (lineOf p.pa) = s1 at hplaced hpassed ⊢
    have hs := writePart_stored s1 s.cur.core x h
    have hspares := hplaced.spares (spares_finish (writePart_spares s1 s.cur.core p x) s.cur.core s.cur.slot (.g r) v)
    have hmem : ∀ u, MemoryStep s1 u → MemoryStep s u := fun _ => hplaced.memoryStep
    obtain ⟨a, ls, gs, rfl⟩ := hplaced
    exact ⟨hmem _ (memoryStep_finish hs _ _), hpassed ▸ turnBecame_finish hs r v, hspares, physRead_finish_writePart _ _ _ _ _ _ _ h⟩
  | none =>
    rw [doAtomic_keeps hn]
    generalize placeAtomic s s.cur.core (lineOf p.pa) = s1 at hplaced hpassed ⊢
    have hs := (Reached.refl s1).stored
    have hmem : ∀ u, MemoryStep s1 u → MemoryStep s u := fun _ => hplaced.memoryStep
    obtain ⟨a, ls, gs, rfl⟩ := hplaced
    exact ⟨hmem _ (memoryStep_finish hs _ _), hpassed ▸ turnBecame_finish hs r v, fun _ _ _ _ _ => rfl,
      physRead_congr h fun a _ _ => keyedByte_congr rfl rfl rfl p.key a⟩

/-! ### Widths of the values (R139) -/

theorem physRead_lt (s : State) (key pa w : Nat) : physRead s key pa w < 2 ^ w := by
  unfold physRead internalBits
  split_ifs <;> exact Nat.mod_lt _ (Nat.two_pow_pos w)

theorem amoInt_lt (t : IType) (op : AmoI) {old b : Nat} (ho : old < 2 ^ t.width) (hb : b < 2 ^ t.width) :
    amoInt t op old b < 2 ^ t.width := by
  cases op with
  | add => exact Nat.mod_lt _ (Nat.two_pow_pos _)
  | and => exact Nat.and_lt_two_pow _ hb
  | or => exact Nat.or_lt_two_pow ho hb
  | xor => exact Nat.xor_lt_two_pow ho hb
  | min => exact ite_lt hb ho
  | max => exact ite_lt hb ho
  | swap => exact hb

theorem amoFloat_lt (t : FType) (op : AmoF) (old : Nat) {b : Nat} (hb : b < 2 ^ (ftypeFmt t).width) :
    amoFloat t op old b < 2 ^ (ftypeFmt t).width := by
  cases op with
  | swap => exact hb
  | fadd => exact roundTo_lt ..
  | fmin => exact floatMin_lt ..
  | fmax => exact floatMax_lt ..

theorem amoNew_lt (f : AmoArg) (old b : Nat) : amoNew f old b < 2 ^ amoWidth f := by
  cases f with
  | int t op => exact amoInt_lt t op (Nat.mod_lt _ (Nat.two_pow_pos _)) (Nat.mod_lt _ (Nat.two_pow_pos _))
  | flt t op => exact amoFloat_lt t op _ (Nat.mod_lt _ (Nat.two_pow_pos _))

theorem afterAtomic_amo (f : AmoArg) (b old : Nat) : afterAtomic (.amo f b) (amoWidth f) old = amoNew f old b :=
  Nat.mod_eq_of_lt (amoNew_lt f old b)

/-- A CAS writes its new value where the old one equals its comparand, and nothing else (R140). -/
theorem afterAtomic_cas (t : VType) (cmp new : Nat) {old : Nat} (h : old < 2 ^ vtypeWidth t) :
    afterAtomic (.cas t cmp new) (vtypeWidth t) old =
      if old = cmp % 2 ^ vtypeWidth t then new % 2 ^ vtypeWidth t else old := by
  simp only [afterAtomic, atomicNew, Nat.mod_eq_of_lt h]
  split_ifs <;> rfl

/-! ### The instructions (R138 to R141) -/

theorem finish_none (s : State) (c l v : Nat) : finish s c l .none v = finish s c l (.g 0) v := by
  simp only [finish, setDst, wrG_zero]

section
variable {s : State} {ea w : Nat} (o : Ord) (sc : Scope)

theorem runMem_atomic_crosses (h : ea / 64 ≠ (ea + w - 1) / 64) (fn : AtomicFn) (dst : Dst) :
    runMem s s.cur.core s.cur.slot ⟨.atomic ea w fn dst, o, sc, false, false, false⟩ = trapped s 0x080 ea := if_pos h

theorem runMem_red_crosses (h : ea / 64 ≠ (ea + w - 1) / 64) (fn : AtomicFn) :
    runMem s s.cur.core s.cur.slot ⟨.red ea w fn, o, sc, false, false, false⟩ = trapped s 0x080 ea := if_pos h

variable (hat : AtOnce s) (hw : ea / 64 = (ea + w - 1) / 64) {y : Xlat} (hh : Here s [(ea, w)] true true [(y, ea, w)])
include hat hw hh

/-- An AMO or CAS before which nothing in flight is ordered, on this device, is performed at once. -/
theorem runMem_atomic (fn : AtomicFn) (dst : Dst) :
    runMem s s.cur.core s.cur.slot ⟨.atomic ea w fn dst, o, sc, false, false, false⟩ =
      finish (doAtomic s s.cur.core (y.part ea w) fn).1 s.cur.core s.cur.slot dst
        (oldExtended (atomicType fn) (physRead s y.key (y.phys ea) w)) := by
  obtain ⟨hq, hfly, herr⟩ := hat
  have hf : ∀ os ps, mayFly s os ps = false := fun os ps => by rw [mayFly, hfly, Bool.false_and]
  have hrel : ∀ sc un all, releaseAt s s.cur.core (getStrand s s.cur.core s.cur.slot).sid sc un all = s := releaseAt_quiet hq
  have hold : physRead s y.key (y.phys ea) w = (doAtomic s s.cur.core (y.part ea w) fn).2 :=
    (doAtomic_old s s.cur.core (y.part ea w) fn).symm
  refine (if_neg (not_not_intro hw)).trans ((globalAccess_found hh.1 ..).trans ((hereOrPeer_here hh.2 ..).trans ?_))
  rw [atomicNow, hold]
  dsimp only
  rw [ordered_quiet hq]
  simp only [flushLines_still hq.1, hrel, ite_self, herr, hf, Bool.false_and, Bool.false_eq_true, if_false]
  rfl

/-- A RED before which nothing in flight is ordered, on this device, is performed at once. -/
theorem runMem_red (fn : AtomicFn) :
    runMem s s.cur.core s.cur.slot ⟨.red ea w fn, o, sc, false, false, false⟩ =
      finish (doAtomic s s.cur.core (y.part ea w) fn).1 s.cur.core s.cur.slot .none 0 := by
  obtain ⟨hq, hfly, herr⟩ := hat
  have hpeer : redsAtPeer s (getStrand s s.cur.core s.cur.slot).sid (fun _ => true) = false := redsAtPeer_quiet hq _
  refine (if_neg (not_not_intro hw)).trans ((globalAccess_found hh.1 ..).trans ((hereOrPeer_here hh.2 ..).trans ?_))
  rw [redNow]
  dsimp only
  rw [ordered_quiet hq]
  simp only [flush_still hq.1, flushReds_still hq.1, hpeer, hfly, herr, Bool.or_self, Bool.false_eq_true, if_false]
  rfl
end

section
variable {s : State} {gd : Guard} {d a b c : GOp} {x : BitVec 38}

theorem exec_amo (h : Runs s gd [.g a, .g b, .g d]) (f : AmoArg) (o : Ord) (sc : Scope) :
    exec (.amo gd d a b f o sc x) s = .next (runMem s s.cur.core s.cur.slot
      ⟨.atomic (eaPlain (turn s) a x) (amoWidth f) (.amo f (gVal (turn s) b)) (.g (gReg (turn s) d)), o, sc, false, false, false⟩) :=
  (memOp_runs h _ : execAmo gd d a b f o sc x s = _)

theorem exec_cas (h : Runs s gd [.g a, .g b, .g c, .g d]) (t : VType) (o : Ord) (sc : Scope) :
    exec (.cas gd d a b c t o sc x) s = .next (runMem s s.cur.core s.cur.slot
      ⟨.atomic (eaPlain (turn s) a x) (vtypeWidth t) (.cas t (gVal (turn s) b) (gVal (turn s) c)) (.g (gReg (turn s) d)), o, sc,
        false, false, false⟩) :=
  (memOp_runs h _ : execCas gd d a b c t o sc x s = _)

theorem exec_red (h : Runs s gd [.g a, .g b]) (f : AmoArg) (o : Ord) (sc : Scope) :
    exec (.red gd a b f o sc x) s = .next (runMem s s.cur.core s.cur.slot
      ⟨.red (eaPlain (turn s) a x) (amoWidth f) (.amo f (gVal (turn s) b)), o, sc, false, false, false⟩) :=
  (memOp_runs h _ : execRed gd a b f o sc x s = _)
end

end Sys2Proof.Machine
open Sys2Proof Sys2Proof.Machine

/-- Settles O28: each atomic is one operation on its part, which is made at once and whose result is the old value; what it writes fits
its width. -/
theorem atomics : Obligations.Atomics := by
  intro gd d a b c f ty o sc x s y hat st ea at_ p old inWord ready done hint
  have hea : eaPlain st a x = ea := eaPlain_eq st a x
  have hfits : ∀ w, old w % 2 ^ w = old w := fun w => Nat.mod_eq_of_lt (physRead_lt ..)
  have hdone : ∀ w fn r v, AtomicDone s (finish (doAtomic s s.cur.core (p w) fn).1 s.cur.core s.cur.slot (.g r) v) (p w)
      (wrG st r (BitVec.ofNat 64 v)) (afterAtomic fn w (old w)) := fun w fn r v => doAtomic_done s hint fn r v
  have hamo : ∀ f : AmoArg, oldExtended (amoType f) (old (amoWidth f)) = match f with
      | .int t _ => extendTyped t (old t.width : Nat)
      | .flt t _ => old (ftypeFmt t).width := fun f => by
    cases f with
    | int t op => rfl
    | flt t op => exact hfits _
  have hcas : ∀ ty : VType, oldExtended ty (old (vtypeWidth ty)) = match ty with
      | .i t => extendTyped t (old (vtypeWidth ty) : Nat)
      | .f _ => old (vtypeWidth ty) := fun ty => by
    cases ty with
    | i t => rfl
    | f t => exact hfits _
  refine ⟨fun hr => ⟨fun hw hh => ?_, fun hw => ?_⟩, fun hr hw => ?_, fun hr hw => ?_, fun hr hw hh => ?_, fun hr hw hh => ?_⟩
  · obtain ⟨hm, ht, hs, hv⟩ := hdone (amoWidth f) (.amo f (gVal st b)) (gReg st d) (oldExtended (amoType f) (old (amoWidth f)))
    have hexec := exec_amo (x := x) hr f o sc
    rw [hea, runMem_atomic _ _ hat hw hh] at hexec
    exact ⟨_, hexec, hm, hamo f ▸ ht, hs, fun _ => hv.trans (afterAtomic_amo ..)⟩
  · rw [exec_amo hr, hea, runMem_atomic_crosses _ _ hw]
  · rw [exec_red hr, hea, runMem_red_crosses _ _ hw]
  · rw [exec_cas hr, hea, runMem_atomic_crosses _ _ hw]
  · obtain ⟨hm, ht, hs, hv⟩ := hdone (amoWidth f) (.amo f (gVal st b)) 0 0
    have hexec := exec_red (x := x) hr f o sc
    rw [hea, runMem_red _ _ hat hw hh, finish_none] at hexec
    exact ⟨_, hexec, hm, wrG_zero st _ ▸ ht, hs, fun _ => hv.trans (afterAtomic_amo ..)⟩
  · intro w
    obtain ⟨hm, ht, hs, hv⟩ := hdone w (.cas ty (gVal st b) (gVal st c)) (gReg st d) (oldExtended ty (old w))
    have hexec := exec_cas (x := x) hr ty o sc
    rw [hea, runMem_atomic _ _ hat hw hh] at hexec
    exact ⟨_, hexec, hm, hcas ty ▸ ht, hs, fun _ => hv.trans (afterAtomic_cas ty _ _ (physRead_lt ..))⟩

end

section
/-! SUPPORT. Fences, monitors and WAITA: what a release leaves under way, and which monitor has fired (07 R141 to R147; 12 R236). -/

namespace Sys2Proof.Machine

/-! ### What a release leaves under way (R141, R143, R236) -/

theorem redsAtPeer_iff (s : State) (sid : Nat) :
    redsAtPeer s sid (fun _ => true) = true ↔ ∃ e ∈ s.peers, e.2.red = true ∧ e.2.sid = sid := by
  simp only [redsAtPeer, List.any_eq_true, Bool.and_true, Bool.and_eq_true, beq_iff_eq]

/-- A strand's own accesses, but for the writes of its copies, are those that its release orders. -/
theorem orderedBy_own (s : State) (c c' : Nat) {sid : Nat} {q : Req} (hc : q.copy = none) (hs : q.sid = sid) :
    orderedBy s c sid c' q = true := by
  rw [orderedBy, hs, hc, beq_self_eq_true]
  rfl

theorem scopeWhole_iff (sc : Scope) : scopeWhole sc = true ↔ sc ∈ [Scope.pk, .fa, .sy] := by cases sc <;> decide

/-- An access under way after a release passed some is one from before, and carries the release's mark where that passed it. -/
def PassedFrom (m : Mark) (which : Req → Bool) (before after : List Req) : Prop :=
  ∀ q' ∈ after, ∃ q ∈ before, q'.sid = q.sid ∧ q'.copy = q.copy ∧ (which q = true → m ∈ q'.marks)

theorem passedFrom_nil (m : Mark) (which : Req → Bool) : PassedFrom m which [] [] := fun _ h => nomatch h

theorem passedFrom_same {m : Mark} {which : Req → Bool} {rs : List Req} (h : ∀ q ∈ rs, which q = false) :
    PassedFrom m which rs rs :=
  fun q hq => ⟨q, hq, rfl, rfl, fun hw => absurd hw (by rw [h q hq]; exact Bool.false_ne_true)⟩

/-- The accesses under way at a core, with the mark on those that a release passes. -/
def markPassed (m : Mark) (which : Req → Bool) (rs : List Req) : List Req :=
  rs.map fun q => if which q && !q.marks.contains m then { q with marks := q.marks ++ [m] } else q

theorem passedFrom_markPassed (m : Mark) (which : Req → Bool) (rs : List Req) :
    PassedFrom m which rs (markPassed m which rs) := by
  intro q' hq'
  obtain ⟨q, hq, rfl⟩ := List.mem_map.1 hq'
  refine ⟨q, hq, ?_⟩
  split_ifs with h
  · exact ⟨rfl, rfl, fun _ => List.mem_append_right _ List.mem_cons_self⟩
  · refine ⟨rfl, rfl, fun hw => ?_⟩
    simpa [hw] using h

theorem passRelease_strands (s : State) (m : Mark) (which : Nat → Req → Bool) :
    (passRelease s m which).strands = s.strands ∧ (passRelease s m which).cur = s.cur := by
  unfold passRelease
  dsimp only
  split_ifs <;> exact ⟨rfl, rfl⟩

theorem passRelease_passes (s : State) (m : Mark) (which : Nat → Req → Bool) (c : Nat) :
    PassedFrom m (which c) (getCore s c).requests (getCore (passRelease s m which) c).requests ∧
      PassedFrom m (which c) (getCore s c).reds (getCore (passRelease s m which) c).reds := by
  unfold passRelease
  dsimp only
  split_ifs with h
  · refine nget_map_rel (d := {})
      (g := fun e => (e.1, { e.2 with requests := markPassed m (which e.1) e.2.requests, reds := markPassed m (which e.1) e.2.reds }))
      (R := fun c k k' => PassedFrom m (which c) k.requests k'.requests ∧ PassedFrom m (which c) k.reds k'.reds)
      (fun c => ⟨passedFrom_nil m (which c), passedFrom_nil m (which c)⟩) s.cores (fun e _ => ⟨rfl, ?_, ?_⟩) c
    · exact passedFrom_markPassed m (which e.1) e.2.requests
    · exact passedFrom_markPassed m (which e.1) e.2.reds
  · have hnone : ∀ q ∈ (getCore s c).requests ++ (getCore s c).reds, which c q = false := by
      rcases getCore_mem s c with hm | hm
      · intro q hq
        by_contra hw
        refine h (List.any_eq_true.2 ⟨_, hm, ?_⟩)
        rw [← List.any_append]
        exact List.any_eq_true.2 ⟨q, hq, eq_true_of_ne_false hw⟩
      · rw [hm]
        exact fun _ h => nomatch h
    exact ⟨passedFrom_same fun q hq => hnone q (List.mem_append_left _ hq),
      passedFrom_same fun q hq => hnone q (List.mem_append_right _ hq)⟩

/-- Nothing of a strand's REDs is under way here, and of its accesses what a release at a scope may leave. -/
structure ReleasedAt (s t : State) (c sid : Nat) (sc : Scope) : Prop where
  cur : t.cur = s.cur
  strands : ∀ k, ∃ mon, nget t.strands {} k = withMon (nget s.strands {} k) mon
  reds : ∀ q ∈ (getCore t c).reds, q.sid ≠ sid
  whole : scopeWhole sc = true → ∀ c', ∀ q ∈ (getCore t c').requests, q.copy = none → q.sid ≠ sid
  passed : scopeWhole sc = false → ∀ c', ∀ q ∈ (getCore t c').requests, q.copy = none → q.sid = sid → ⟨sc, c, sid⟩ ∈ q.marks

/-- The acquire of a strand performs its REDs. -/
theorem acquireAt_performs (s : State) (c sid : Nat) :
    Drains s (acquireAt s c sid) ∧ ∀ q ∈ (getCore (acquireAt s c sid) c).reds, q.sid ≠ sid := by
  obtain ⟨hd, hr⟩ := flushReds_performs s c fun q => q.sid == sid
  exact ⟨hd, fun q hq => beq_eq_false_iff_ne.1 (hr q hq)⟩

/-- The release of a FENCE performs its strand's REDs, and performs or passes its other accesses. -/
theorem releaseAt_releases (s : State) (c sid : Nat) (sc : Scope) : ReleasedAt s (releaseAt s c sid sc true true) c sid sc := by
  have hmine : ∀ {s' : State} {c' : Nat} {q : Req}, q.copy = none → q.sid = sid →
      ((true || !q.unPage) && orderedBy s' c sid c' q) = true := fun hc hs => by rw [orderedBy_own _ _ _ hc hs]; rfl
  obtain ⟨hd, hr⟩ := flushReds_performs s c fun q => q.sid == sid && (true || scopeIncludes sc q.sc)
  have hreds : ∀ q ∈ (getCore (flushReds s c fun q => q.sid == sid && (true || scopeIncludes sc q.sc)) c).reds, q.sid ≠ sid :=
    fun q hq he => absurd (hr q hq) (by rw [he, beq_self_eq_true]; exact Bool.true_eq_false.mp)
  unfold releaseAt
  dsimp only
  generalize (flushReds s c fun q => q.sid == sid && (true || scopeIncludes sc q.sc)) = s1 at hd hreds ⊢
  split_ifs with hsc
  · obtain ⟨hd', hq'⟩ := flushAll_performs s1 fun c' q => (true || !q.unPage) && orderedBy s c sid c' q
    have hall := hd.trans hd'
    refine ⟨hall.cur, hall.strands, fun q hq => hreds q (hd'.reds c hq), fun _ c' q hq hc hs => ?_,
      fun h => absurd (hsc.symm.trans h) Bool.true_eq_false.mp⟩
    exact absurd ((hmine hc hs).symm.trans (hq' c' q hq)) Bool.true_eq_false.mp
  · obtain ⟨hstr, hcur⟩ := passRelease_strands s1 ⟨sc, c, sid⟩ fun c' q => (true || !q.unPage) && orderedBy s c sid c' q
    have hpass := passRelease_passes s1 ⟨sc, c, sid⟩ fun c' q => (true || !q.unPage) && orderedBy s c sid c' q
    refine ⟨hcur.trans hd.cur, fun k => ?_, fun q hq => ?_, fun h => absurd h hsc, fun _ c' q hq hc hs => ?_⟩
    · rw [hstr]
      exact hd.strands k
    · obtain ⟨q0, hq0, hsid, _⟩ := (hpass c).2 q hq
      rw [hsid]
      exact hreds q0 hq0
    · obtain ⟨q0, _, hsid, hcopy, hmark⟩ := (hpass c').1 q hq
      exact hmark (hmine (hcopy ▸ hc) (hsid ▸ hs))

/-- The strand whose turn it is goes on, but for its monitors, where it was left by accesses that were performed. -/
theorem turnBecame_advance {s t : State} (hc : t.cur = s.cur)
    (hs : ∀ k, ∃ mon, nget t.strands {} k = withMon (nget s.strands {} k) mon) :
    TurnBecame (advance t s.cur.core s.cur.slot) (advanced (turn s)) := by
  obtain ⟨mon, e⟩ := hs (s.cur.core * 8 + s.cur.slot)
  have ht : turn (advance t s.cur.core s.cur.slot) = advanced (withMon (turn s) mon) := by
    rw [advance, onStrand_eq, turn, putStrand_cur, hc, getStrand_putStrand_self]
    exact congrArg advanced e
  rw [TurnBecame, ht]
  rfl

theorem turnCore_advance {s t : State} (hc : t.cur = s.cur) (c l : Nat) : turnCore (advance t c l) = getCore t s.cur.core := by
  rw [turnCore, advance, onStrand_eq, putStrand_cur, hc, getCore_putStrand]

/-- What a FENCE does before its strand goes on. -/
def fenced (s : State) (o : Ord) (sc : Scope) : State :=
  if o = .acq then acquireAt s s.cur.core (turn s).sid else releaseAt s s.cur.core (turn s).sid sc true true

theorem fenced_quiet {s : State} (h : Quiet s s.cur.core (turn s).sid) (o : Ord) (sc : Scope) : fenced s o sc = s := by
  rw [fenced, acquireAt, flushReds_still h.1, releaseAt_quiet h, ite_self]

section
variable {s : State} {gd : Guard} (h : Runs s gd []) (o : Ord) (sc : Scope)
include h

/-- A FENCE waits for its strand's REDs at peers. -/
theorem exec_fence_waits (hp : redsAtPeer s (turn s).sid (fun _ => true) = true) :
    exec (.fence gd o sc) s = .next (sleep s s.cur.core s.cur.slot .reds) :=
  (guarded_runs h _).trans (congrArg _ (if_pos hp))

theorem exec_fence_runs (hp : redsAtPeer s (turn s).sid (fun _ => true) = false) :
    exec (.fence gd o sc) s = .next (advance (fenced s o sc) s.cur.core s.cur.slot) :=
  (guarded_runs h _).trans (congrArg _ (if_neg (Bool.eq_false_iff.1 hp)))
end

/-! ### Monitors (R144, R145) -/

theorem not_all_disarmed {t : Strand} {j : Fin 4} (h : t.mon[j] ≠ .disarmed) : t.mon.toList.all (· == .disarmed) = false :=
  List.all_eq_false.2 ⟨t.mon[j], by simp, by simpa using h⟩

theorem firedMonitor_none {t : Strand} (h : ∀ j : Fin 4, t.mon[j] ≠ .fired) : firedMonitor t = none :=
  List.find?_eq_none.2 fun j _ => by simpa using h j

/-- The lowest of the monitors that have fired. -/
theorem firedMonitor_lowest {t : Strand} {i : Fin 4} (hi : t.mon[i] = .fired) (hlow : ∀ j : Fin 4, j < i → t.mon[j] ≠ .fired) :
    firedMonitor t = some i := by
  refine List.find?_eq_some_iff_getElem.2 ⟨beq_iff_eq.2 hi, i.val, by simp, by simp, fun j hj => ?_⟩
  rw [List.getElem_finRange]
  simpa using hlow ⟨j, by omega⟩ hj

/-- A monitor number of two bits names one of the four. -/
theorem set_monitor_mod (v : Vector Monitor 4) (m : BitVec 2) (x : Monitor) :
    v.set (m.toNat % 4) x (Nat.mod_lt _ (by decide)) = v.set m.toNat x m.isLt := by
  simp only [Nat.mod_eq_of_lt (show m.toNat < 4 from m.isLt)]

/-- A strand's own change after it reached the home slices of an access. -/
theorem readStep_onStrand {s t : State} (h : Reached s t) (f : Strand → Strand) :
    ReadStep s (onStrand t s.cur.core s.cur.slot f) ∧ turn (onStrand t s.cur.core s.cur.slot f) = f (turn s) := by
  obtain ⟨ls, gs, hl, hg, rfl⟩ := h
  exact ⟨⟨fun k hk => nget_nset_other _ _ _ hk, fun _ => rfl, hg, hl, rfl⟩, getStrand_putStrand_self ..⟩

section
variable {s : State} {gd : Guard} {d a : GOp} {x : BitVec 38}

theorem exec_marm (h : Runs s gd [.g a]) (w : BitVec 6) (m : BitVec 2) (pool : Bool) :
    exec (.marm gd a w m pool x) s = .next (runMem s s.cur.core s.cur.slot
      ⟨.marm (eaPlain (turn s) a x) (accessWidth w) m.toNat, .rlx, .pa, pool, false, false⟩) :=
  (memOp_runs h _ : execMarm gd a w m pool x s = _)

variable {ea w : Nat} (m : BitVec 2)

theorem runMem_marm_crosses (hw : ea / 64 ≠ (ea + w - 1) / 64) (pool : Bool) :
    runMem s s.cur.core s.cur.slot ⟨.marm ea w m.toNat, .rlx, .pa, pool, false, false⟩ = trapped s 0x082 ea := if_pos hw

variable (hw : ea / 64 = (ea + w - 1) / 64)
include hw

theorem runMem_marm_pool (hp : poolFault (turnCore s) ea w = none) :
    runMem s s.cur.core s.cur.slot ⟨.marm ea w m.toNat, .rlx, .pa, true, false, false⟩ =
      withTurn s (advanced { turn s with mon := (turn s).mon.set m.toNat (.armed true ea w) }) := by
  refine (if_neg (not_not_intro hw)).trans ?_
  have hp' : poolFault (getCore s s.cur.core) ea w = none := hp
  simp only [if_true, hp', onStrand_eq, set_monitor_mod]
  rfl

theorem runMem_marm_global (hat : AtOnce s) {y : Xlat} (hh : Here s [(ea, w)] true false [(y, ea, w)]) :
    runMem s s.cur.core s.cur.slot ⟨.marm ea w m.toNat, .rlx, .pa, false, false, false⟩ =
      onStrand (reachLine s s.cur.core (lineOf (y.phys ea))) s.cur.core s.cur.slot
        fun t => advanced { t with mon := t.mon.set m.toNat (.armed false (y.phys ea) w) } := by
  refine (if_neg (not_not_intro hw)).trans ((if_neg Bool.false_ne_true).trans ((globalAccess_found hh.1 ..).trans ?_))
  simp only [← set_monitor_mod]
  exact congrArg (fun u => onStrand (reachLine u s.cur.core (lineOf (y.phys ea))) s.cur.core s.cur.slot _)
    (flushLines_still hat.1.1 _ _)
end

/-! ### WAITA (R145, R195) -/

section
variable {s : State} {gd : Guard} {d a : GOp} {x : BitVec 38} (h : Runs s gd [.g a, .g d])
include h

theorem exec_waita_cancelled (hc : strandCancelled s s.cur.core s.cur.slot = true) :
    exec (.waita gd d a x) s = .next (cancelStrand s s.cur.core s.cur.slot) :=
  (guarded_runs h _).trans (congrArg _ (if_pos hc))

variable (hc : strandCancelled s s.cur.core s.cur.slot = false)
include hc

theorem exec_waita_disarmed (hm : (turn s).mon.toList.all (· == .disarmed) = true) :
    exec (.waita gd d a x) s = .next (withTurn s (advanced (wrG (turn s) (gReg (turn s) d) 5))) :=
  (guarded_runs h _).trans (congrArg _ ((if_neg (Bool.eq_false_iff.1 hc)).trans (if_pos hm)))

variable (hm : (turn s).mon.toList.all (· == .disarmed) = false)
include hm

theorem exec_waita_armed : exec (.waita gd d a x) s = .next (match firedMonitor (turn s) with
    | some i => withTurn s (returnMonitor (turn s) (gReg (turn s) d) i)
    | none => blockOn s s.cur.core s.cur.slot (.waita s.now (eaPlain (turn s) a x) (gReg (turn s) d))) :=
  (guarded_runs h _).trans (congrArg _ ((if_neg (Bool.eq_false_iff.1 hc)).trans
    (if_neg (Bool.eq_false_iff.1 hm))))
end

theorem cancelStrand_traps {s : State} {c l : Nat} (h : counterEmpty s (tagOf s c) (getStrand s c l).node = true) :
    cancelStrand s c l = takeTrap s c l 0x206 (getStrand s c l).node := if_pos h

theorem cancelStrand_retires {s : State} {c l : Nat} (h : counterEmpty s (tagOf s c) (getStrand s c l).node = false)
    (hp : redsAtPeer s (getStrand s c l).sid (fun _ => true) = false) :
    cancelStrand s c l = retireNow s c l (some (cancelCause, openTval s)) :=
  (if_neg (Bool.eq_false_iff.1 h)).trans (if_neg (Bool.eq_false_iff.1 hp))

/-- A strand that waits changes nothing beside itself and its core's clock. -/
theorem blockOn_sleeps {s : State} (hc : strandCancelled s s.cur.core s.cur.slot = false) (w : Wait) :
    SameButCore s (blockOn s s.cur.core s.cur.slot w) ∧
      turn (blockOn s s.cur.core s.cur.slot w) = { turn s with status := .asleep w } := by
  rw [blockOn, if_neg (Bool.eq_false_iff.1 hc), pauseClock]
  split_ifs
  · exact ⟨⟨fun k hk => nget_nset_other _ _ _ hk, fun _ _ => rfl, rfl⟩, getStrand_putStrand_self ..⟩
  · exact ⟨⟨fun k hk => nget_nset_other _ _ _ hk, fun c hc => nget_nset_other _ _ _ hc, rfl⟩, getStrand_putStrand_self ..⟩

end Sys2Proof.Machine
open Sys2Proof Sys2Proof.Machine

/-- Settles O29: a FENCE is one release or acquire of its strand, and what each leaves under way is said once; MARM is one access, and
WAITA goes by which of its monitors have fired. -/
theorem fencesAndMonitors : Obligations.FencesAndMonitors := by
  intro gd d a o sc w m x i s y st n ea armed
  have hea : eaPlain st a x = ea := eaPlain_eq st a x
  have hn : accessWidth w = n := rfl
  refine ⟨fun hr => ⟨fun hat => ?_, fun hp => ?_, fun hp => ?_, regOp_runs hr _, regOp_runs hr _⟩,
    fun hr hw => ⟨fun hp => ?_, fun hat hh => ?_⟩, fun hr hw pool => ?_,
    fun hr => ⟨fun hc hl => ⟨fun he => ?_, fun he hp => ?_⟩, fun hc => ⟨fun hsome hnone => ?_, fun hall => ?_, fun hi hlow => ?_⟩⟩⟩
  · rw [exec_fence_runs hr o sc (redsAtPeer_quiet hat.1 _), fenced_quiet hat.1]
    rfl
  · have hpeer : redsAtPeer s (turn s).sid (fun _ => true) = false := by
      rw [Bool.eq_false_iff, Ne, redsAtPeer_iff]
      rintro ⟨e, he, hred, hsid⟩
      exact hp e he hred hsid
    refine ⟨_, exec_fence_runs hr o sc hpeer, ?_⟩
    by_cases ho : o = .acq
    · obtain ⟨hd, hreds⟩ := acquireAt_performs s s.cur.core st.sid
      rw [fenced, if_pos ho, turnCore_advance hd.cur]
      exact ⟨turnBecame_advance hd.cur hd.strands, hreds, fun h => absurd ho h, fun h => absurd ho h⟩
    · have hrel := releaseAt_releases s s.cur.core st.sid sc
      rw [fenced, if_neg ho, turnCore_advance hrel.cur]
      refine ⟨turnBecame_advance hrel.cur hrel.strands, hrel.reds,
        fun _ hsc => hrel.whole ((scopeWhole_iff sc).2 hsc), fun _ hsc => hrel.passed ?_⟩
      exact Bool.eq_false_iff.2 fun h => hsc ((scopeWhole_iff sc).1 h)
  · exact exec_fence_waits hr o sc ((redsAtPeer_iff ..).2 hp)
  · rw [exec_marm hr, hea, hn, runMem_marm_pool m hw hp]
  · obtain ⟨hread, hturn⟩ := readStep_onStrand (reachLine_reached s s.cur.core (lineOf (y.phys ea)))
      fun t => advanced { t with mon := t.mon.set m.toNat (.armed false (y.phys ea) n) }
    have hexec := exec_marm (x := x) hr w m false
    rw [hea, hn, runMem_marm_global m hw hat hh] at hexec
    exact ⟨_, hexec, hread, hturn⟩
  · rw [exec_marm hr, hea, hn, runMem_marm_crosses m hw]
  · exact (exec_waita_cancelled hr hc).trans (congrArg _ (cancelStrand_traps he))
  · obtain ⟨hcur, hend⟩ := retireNow_ends s s.cur.core s.cur.slot (some (cancelCause, openTval s))
    refine ⟨_, (exec_waita_cancelled hr hc).trans (congrArg _ (cancelStrand_retires he hp)), ?_⟩
    rw [turn, hcur]
    exact hend
  · obtain ⟨j, hj⟩ := hsome
    have hexec := exec_waita_armed (x := x) hr hc (not_all_disarmed hj)
    rw [firedMonitor_none hnone, hea] at hexec
    exact ⟨_, hexec, blockOn_sleeps hc _⟩
  · exact exec_waita_disarmed hr hc (by rw [hall]; rfl)
  · have hexec := exec_waita_armed (x := x) hr hc (not_all_disarmed (j := i) (by rw [hi]; exact nofun))
    rw [firedMonitor_lowest hi hlow] at hexec
    exact hexec

end

section
/-! SUPPORT. The wakes of blocking waits: what a step on a sleeping strand makes, and what each wait waited for (07 R145; 08 R158 to R176;
09 R197 to R209). -/

namespace Sys2Proof.Machine

/-! ### A step on a strand that sleeps -/

section
variable {s : State} {c l : Nat} {w : Wait} (h : Waits s c l w)
include h

theorem waitOf_waits : waitOf s c l = some w := by
  obtain ⟨hlive, hparked, hstatus⟩ := h
  simp [waitOf, coreAwake, hlive, hparked, hstatus]

/-- What a step does with a sleeping strand is what its arm for the strand's wait makes. -/
theorem onWait_waits {f : Wait → Option State} {t : State} (hf : f w = some t) : onWait s c l f = .next t := by
  rw [onWait, ifDue, waitOf_waits h, Option.bind_some, hf, Option.getD_some]
end

theorem finish_eq_resumed (s : State) (c l : Nat) (d : Dst) (v : Nat) :
    finish s c l d v = resumed s c l (setDst (getStrand s c l) d v) := rfl

theorem getStrand_resumed (s : State) (c l : Nat) (u : Strand) : getStrand (resumed s c l u) c l = goesOn s c u :=
  getStrand_putStrand_self ..

/-- A strand that completes goes on from where it slept. -/
theorem getStrand_finish {s t : State} {c l : Nat} (h : getStrand t c l = getStrand s c l)
    (hc : (getCore t c).cycles = (getCore s c).cycles) (d : Dst) (v : Nat) :
    getStrand (finish t c l d v) c l = goesOn s c (setDst (getStrand s c l) d v) := by
  rw [finish_eq_resumed, getStrand_resumed, goesOn, goesOn, h, hc]

/-! ### WAITA and TWAIT (R145, R171) -/

theorem wakes_waita {s : State} {c l since tm : Nat} {d : Fin 64} (h : Waits s c l (.waita since tm d)) {i : Fin 4}
    (hi : (getStrand s c l).mon[i] = .fired) (hlow : ∀ j : Fin 4, j < i → (getStrand s c l).mon[j] ≠ .fired) :
    exec (.waitaWake c l) s = .next (resumed s c l
      { wrG (getStrand s c l) d (BitVec.ofNat 64 i.val) with mon := (getStrand s c l).mon.set i .disarmed }) := by
  have hwake : exec (.waitaWake c l) s = .next (onStrand s c l fun t =>
      { returnMonitor t d i with readySince := (getCore s c).cycles }) :=
    onWait_waits h (by simp only [firedMonitor_lowest hi hlow, Option.some_or, Option.map_some])
  rw [hwake, onStrand_eq, returnMonitor]
  exact congrArg (fun u => Host.Outcome.next (resumed s c l u))
    (wrG_withMon (getStrand s c l) ((getStrand s c l).mon.set i .disarmed) d (BitVec.ofNat 64 i.val))

theorem wakes_waitaTimeout {s : State} {c l since tm : Nat} {d : Fin 64} (h : Waits s c l (.waita since tm d))
    (hnone : ∀ i : Fin 4, (getStrand s c l).mon[i] ≠ .fired) (htm : tm ≠ 0) (hdue : since + tm ≤ s.now) :
    exec (.waitaTimeout c l) s = .next (finish s c l (.g d) 4) :=
  onWait_waits h (if_pos ⟨htm, hdue, by rw [firedMonitor_none hnone]; rfl⟩)

theorem pendingOnTags_none {s : State} {c sid : Nat} (m : Nat)
    (h : ∀ f ∈ s.pending, f.core = c → f.sid = sid → f.tag = none) : pendingOnTags s c sid m = none := by
  refine List.findSome?_eq_none_iff.2 fun t _ => ?_
  split_ifs with hbit
  · refine List.find?_eq_none.2 fun f hf hc => ?_
    simp only [Bool.and_eq_true, beq_iff_eq] at hc
    obtain ⟨⟨hcore, hsid⟩, htag⟩ := hc
    exact nomatch (h f hf hcore hsid).symm.trans htag
  · rfl

theorem acquireTags_none {s : State} (c sid m : Nat) (h : ∀ e ∈ s.cores, ∀ q ∈ e.2.requests ++ e.2.reds, q.copy = none) :
    acquireTags s c sid m = s := by
  rw [acquireTags, performCopies]
  refine flushAll_none fun e he q hq => ?_
  rw [h e he q hq]
  rfl

theorem wakes_twait {s : State} {c l m : Nat} (h : Waits s c l (.twait m))
    (hp : ∀ f ∈ s.pending, f.core = c → f.sid = (getStrand s c l).sid → f.tag = none) (hm : (getCore s c).tags.toNat &&& m = m)
    (hcopy : ∀ e ∈ s.cores, ∀ q ∈ e.2.requests ++ e.2.reds, q.copy = none) :
    exec (.twaitWake c l) s = .next (finish s c l .none 0) := by
  refine onWait_waits h (?_ : tryTwait s c l m = _)
  rw [tryTwait, pendingOnTags_none m hp]
  exact (if_pos hm).trans (congrArg (fun u => some (finish u c l .none 0)) (acquireTags_none c _ m hcopy))

/-! ### MWAIT (R176) -/

/-- The jobs of a strand that run and those whose records wait. -/
def strandJobs (k : CoreSt) (sid : Nat) : List Nat :=
  ((k.q0.filter fun m => m.sid == sid).map (·.id)) ++ ((k.res.filter fun r => r.sid == sid).map (·.job))

theorem nextJob_eq_min? (k : CoreSt) (sid : Nat) : nextJob k sid = (strandJobs k sid).min? := by
  have hfold : ∀ (js : List Nat) (i : Nat), js.foldl
      (fun o j => match o with | none => some j | some i => some (min i j)) (some i) = some (js.foldl min i) := by
    intro js
    induction js with
    | nil => exact fun _ => rfl
    | cons j js ih => exact fun i => ih (min i j)
  unfold nextJob
  change (strandJobs k sid).foldl _ none = _
  cases strandJobs k sid with
  | nil => rfl
  | cons j js => exact (hfold js j).trans List.min?_cons'.symm

section
variable {k : CoreSt} {sid : Nat} {r : Result} (hr : r ∈ k.res) (hsid : r.sid = sid)
  (hq0 : ∀ m ∈ k.q0, m.sid = sid → r.job ≤ m.id) (hres : ∀ e ∈ k.res, e.sid = sid → e ≠ r → r.job < e.job)
include hr hsid hq0 hres

/-- A record that is earlier than every other job of its strand is the strand's next. -/
theorem nextResult_earliest : nextResult k sid = some r := by
  have hmin : nextJob k sid = some r.job := by
    rw [nextJob_eq_min?, List.min?_eq_some_iff]
    refine ⟨List.mem_append_right _ (List.mem_map.2 ⟨r, List.mem_filter.2 ⟨hr, beq_iff_eq.2 hsid⟩, rfl⟩), fun j hj => ?_⟩
    rcases List.mem_append.1 hj with hj | hj
    · obtain ⟨m, hm, rfl⟩ := List.mem_map.1 hj
      exact hq0 m (List.mem_filter.1 hm).1 (beq_iff_eq.1 (List.mem_filter.1 hm).2)
    · obtain ⟨e, he, rfl⟩ := List.mem_map.1 hj
      by_cases her : e = r
      · rw [her]
      · exact (hres e (List.mem_filter.1 he).1 (beq_iff_eq.1 (List.mem_filter.1 he).2) her).le
  rw [nextResult, hmin]
  dsimp only
  cases hfind : k.res.find? fun e => e.sid == sid && e.job == r.job with
  | none =>
    refine absurd (List.find?_eq_none.1 hfind r hr) (not_not_intro ?_)
    rw [hsid, beq_self_eq_true, beq_self_eq_true]
    rfl
  | some e =>
    have hp := List.find?_some hfind
    simp only [Bool.and_eq_true, beq_iff_eq] at hp
    by_contra hne
    exact absurd hp.2 (hres e (List.mem_of_find?_eq_some hfind) hp.1 fun he => hne (he ▸ rfl)).ne'
end

theorem pendingOnJob_none {s : State} {c sid job : Nat} (h : ∀ f ∈ s.pending, f.core = c → f.sid = sid → f.job ≠ some job) :
    pendingOnJob s c sid job = none := by
  refine List.find?_eq_none.2 fun f hf hc => ?_
  simp only [Bool.and_eq_true, beq_iff_eq] at hc
  exact h f hf hc.1.1 hc.1.2 hc.2

theorem popResult_pops {s : State} {c l : Nat} (d : Fin 64) {r : Result}
    (h : ∀ f ∈ s.pending, f.core = c → f.sid = r.sid → f.job ≠ some r.job) : popResult s c l d r =
      finish (putCore s c { getCore s c with res := (getCore s c).res.erase r }) c l (.g d) r.word := by
  unfold popResult
  dsimp only [onCore_eq]
  rw [pendingOnJob_none (s := putCore s c { getCore s c with res := (getCore s c).res.erase r }) h]

/-! ### A place of a queue (R158, R200) -/

theorem afterReds_quiet {s : State} {c l : Nat} (h : Quiet s c (getStrand s c l).sid) (which : MemReq → Bool) (f : State → State) :
    afterReds s c l which f = f s := by
  rw [afterReds, redsAtPeer_quiet h, if_neg Bool.false_ne_true]

theorem released_quiet {s : State} {c l : Nat} (h : Quiet s c (getStrand s c l).sid) (f : State → State) : released s c l f = f s := by
  rw [released, afterReds_quiet h, releaseTask, releaseAt_quiet h]

@[simp] theorem markReady_length (now n : Nat) (ms : List Cmd) : (markReady now n ms).length = ms.length := by
  induction ms generalizing n with
  | nil => simp [markReady]
  | cons m ms ih =>
    cases n with
    | zero => simp [markReady]
    | succ n =>
      unfold markReady
      split_ifs <;> simp [ih]

theorem putCore_putCore_self (s : State) (c : Nat) (x y : CoreSt) : putCore (putCore s c x) c y = putCore s c y := by
  simp [putCore]

/-- A core in which a command has taken its place. -/
def withCommand (k : CoreSt) (cmd : Cmd) : CoreSt :=
  if cmd.kind.matrix then { k with q0 := k.q0 ++ [cmd], nextMat := k.nextMat + 1 }
  else { k with q1 := k.q1 ++ [cmd], nextCp := k.nextCp + 1, tags := k.tags &&& ~~~ BitVec.ofNat 64 (2 ^ cmd.tag)
                out := nset k.out cmd.tag (nget k.out 0 cmd.tag + 1) }

/-- Where nothing is in flight, a command that takes its place changes its core as withCommand says, and releases reservations of
the fettler; and its strand returns its identifier. -/
theorem takePlace_quiet {s : State} {c l : Nat} (h : Quiet s c (getStrand s c l).sid) (cmd : Cmd) (d : Fin 64) :
    ∃ u sched, SameStrands s u ∧ takePlace s c l cmd d = finish (readyCopies (putCore u c
      (withCommand { getCore s c with sched := sched } (captured s cmd))) c) c l (.g d) (jobId (captured s cmd)) := by
  unfold takePlace
  rw [releaseAt_quiet h]
  extract_lets s0 cmd' tag s1 s2 s3
  have h1 : SameStrands s s1 := by
    simp only [s1]
    split_ifs
    · exact SameStrands.refl s
    · split
      · exact onNode_same ..
      · exact SameStrands.refl s
  have hk : getCore s1 c = getCore s c := h1.getCore c
  have h3 : ∃ sched, s3 = putCore s1 c (withCommand { getCore s c with sched := sched } cmd') := by
    simp only [s3, s2]
    split
    · rename_i i pass _
      refine ⟨{ (getCore s c).sched with released := nset (getCore s c).sched.released i pass }, ?_⟩
      simp only [onCore_eq, getCore_putCore_self, putCore_putCore_self, hk]
      rfl
    · refine ⟨(getCore s c).sched, ?_⟩
      rw [onCore_eq, hk]
      rfl
  obtain ⟨sched, h3⟩ := h3
  exact ⟨s1, sched, h1, by rw [h3]⟩

theorem withCommand_cycles (k : CoreSt) (cmd : Cmd) : (withCommand k cmd).cycles = k.cycles := by
  unfold withCommand
  split_ifs <;> rfl

/-- A waiting command for which a place is free takes it, where nothing is in flight and its launch node can count it. -/
theorem wakes_command {s : State} {c l : Nat} {m : Cmd} {d : Fin 64} (h : Waits s c l (.commandPlace m d))
    (hq : Quiet s c (getStrand s c l).sid) (hplace : placeFree (getCore s c) m.kind.matrix = true) (hfull : launchFull s c m = false) :
    ∃ t sched, exec (.commandPlaceWake c l) s = .next t ∧
      getStrand t c l = goesOn s c (wrG (getStrand s c l) d (BitVec.ofNat 64 (jobId (captured s m)))) ∧
      ∃ now, getCore t c = (fun k : CoreSt => { k with q1 := markReady now 4 k.q1 })
        (withCommand { getCore s c with sched := sched } (captured s m)) := by
  have hexec : exec (.commandPlaceWake c l) s = .next (takePlace s c l m d) := by
    refine onWait_waits h ((if_pos hplace).trans (congrArg some ?_))
    rw [countAndTake, hfull, if_neg Bool.false_ne_true, afterReds_quiet hq]
  obtain ⟨u, sched, hu, htake⟩ := takePlace_quiet hq m d
  refine ⟨_, sched, hexec, ?_, u.now, ?_⟩
  · rw [htake]
    refine getStrand_finish (s := s) (t := readyCopies (putCore u c _) c) (hu.getStrand c l) ?_ (.g d) _
    rw [readyCopies, onCore_eq, getCore_putCore_self, getCore_putCore_self, withCommand_cycles]
  · rw [htake, finish_eq_resumed, resumed, getCore_putStrand, readyCopies, onCore_eq, getCore_putCore_self, getCore_putCore_self]
    rfl

theorem launchFull_matrix {s : State} {c : Nat} {m : Cmd} (h : m.kind.matrix = true) : launchFull s c m = false := by
  unfold launchFull
  rw [h]
  split <;> rfl

theorem launchFull_copy {s : State} {c : Nat} {m : Cmd} (h : ∀ n, launchNodeOf s c = some n → counterFull s (tagOf s c) n = false) :
    launchFull s c m = false := by
  unfold launchFull
  split
  · rename_i n hn
    rw [h n hn, Bool.and_false]
  · rfl

theorem wakes_matrixCommand {s : State} {c l : Nat} {m : Cmd} {d : Fin 64} (h : Waits s c l (.commandPlace m d)) (hcore : m.core = c)
    (hq : Quiet s c (getStrand s c l).sid) (hm : m.kind.matrix = true) (hplace : (getCore s c).q0.length < 4) :
    ∃ t, exec (.commandPlaceWake c l) s = .next t ∧
      getStrand t c l = goesOn s c (wrG (getStrand s c l) d (BitVec.ofNat 64 ((getCore s c).nextMat % 2 ^ 16))) ∧
      (getCore t c).q0.length = (getCore s c).q0.length + 1 ∧ (getCore t c).nextMat = (getCore s c).nextMat + 1 := by
  subst hcore
  obtain ⟨t, sched, hexec, hstrand, now, hcore⟩ := wakes_command h hq (by simpa [placeFree, hm] using hplace) (launchFull_matrix hm)
  have hm' : (captured s m).kind.matrix = true := hm
  refine ⟨t, hexec, ?_, ?_, ?_⟩
  · rw [hstrand, jobId, if_pos hm']
    simp [captured, hm]
  · rw [hcore, withCommand, if_pos hm']
    simp
  · rw [hcore, withCommand, if_pos hm']

theorem wakes_copyCommand {s : State} {c l : Nat} {m : Cmd} {d : Fin 64} (h : Waits s c l (.commandPlace m d)) (hcore : m.core = c)
    (hq : Quiet s c (getStrand s c l).sid) (hm : m.kind.matrix = false) (hplace : (getCore s c).q1.length < 8)
    (hfull : ∀ n, launchNodeOf s c = some n → counterFull s (tagOf s c) n = false) :
    ∃ t, exec (.commandPlaceWake c l) s = .next t ∧
      getStrand t c l = goesOn s c (wrG (getStrand s c l) d (BitVec.ofNat 64 (2 ^ 16 + (getCore s c).nextCp % 2 ^ 16))) ∧
      (getCore t c).q1.length = (getCore s c).q1.length + 1 ∧ (getCore t c).nextCp = (getCore s c).nextCp + 1 := by
  subst hcore
  obtain ⟨t, sched, hexec, hstrand, now, hcore⟩ := wakes_command h hq (by simpa [placeFree, hm] using hplace) (launchFull_copy hfull)
  have hm' : ¬ (captured s m).kind.matrix = true := Bool.eq_false_iff.1 hm
  refine ⟨t, hexec, ?_, ?_, ?_⟩
  · rw [hstrand, jobId, if_neg hm', Nat.add_comm]
    simp [captured, hm]
  · rw [hcore, withCommand, if_neg hm']
    simp
  · rw [hcore, withCommand, if_neg hm']

theorem wakes_push {s : State} {c l : Nat} {p : Push} (h : Waits s c l (.pushPlace p)) (hq : Quiet s c (getStrand s c l).sid)
    (hplace : (getCore s c).q2.length < 4) (hdrain : ∀ x, getQueue? s p.tag p.queue = some x → x.draining = false) :
    ∃ t, exec (.commandPlaceWake c l) s = .next t ∧ getStrand t c l = goesOn s c (getStrand s c l) ∧
      (getCore t c).q2 = (getCore s c).q2 ++ [{ p with seq := pushSeq s p.sid }] := by
  have hwaits : ((getQueue? s p.tag p.queue).map (·.draining)).getD false = false := by
    cases hx : getQueue? s p.tag p.queue with
    | none => rfl
    | some x => exact hdrain x hx
  have hexec : exec (.commandPlaceWake c l) s = .next (takePushPlace s c l p) := by
    refine onWait_waits h (if_pos ?_)
    rw [hwaits, decide_eq_true hplace]
    rfl
  rw [takePushPlace, released_quiet hq] at hexec
  refine ⟨_, hexec, getStrand_finish (s := s) (t := onCore s c _) rfl ?_ .none 0, ?_⟩
  · rw [onCore_eq, getCore_putCore_self]
  · rw [finish_eq_resumed, resumed, getCore_putStrand, onCore_eq, getCore_putCore_self]

/-! ### Stalls, nodes and queues (R167, R197, R201) -/

theorem poolAccess_passes {s : State} {c l ea w : Nat} {q : MemReq} {f : State → State} (hf : poolFault (getCore s c) ea w = none)
    (hs : watermarkStalls (getCore s c) ea w = false) : poolAccess s c l q ea w f = f (countXbar s c) := by
  rw [poolAccess, hf]
  exact if_neg (Bool.eq_false_iff.1 hs)

/-- A pool load that is made at once completes. -/
theorem poolLoad_completes {s : State} {c l ea w : Nat} {sx : Bool} {dst : Dst} (he : s.cur.err = false) (hi : s.cur.inFlight = false) :
    poolLoad s c l ea w sx dst = finish s c l dst (loadedValue w sx ((getCore s c).pool.bits ea w)) := by
  rw [poolLoad, poolSplits, he, hi, if_neg Bool.false_ne_true, Bool.false_and, if_neg Bool.false_ne_true, poolRead]

theorem runMem_poolLoad (s : State) (c l ea w : Nat) (sx : Bool) (dst : Dst) (ord : Ord) (sc : Scope) :
    runMem s c l ⟨.load ea w sx dst, ord, sc, true, false, false⟩ =
      poolAccess s c l ⟨.load ea w sx dst, ord, sc, true, false, false⟩ ea w fun s => poolLoad s c l ea w sx dst := by
  simp only [runMem, if_true]

theorem wakes_watermark {s : State} {c l ea n : Nat} {dst : Dst} {ord : Ord} {sc : Scope}
    (h : Waits s c l (.watermark ⟨.load ea n false dst, ord, sc, true, false, false⟩)) (hf : poolFault (getCore s c) ea n = none)
    (hs : watermarkStalls (getCore s c) ea n = false) :
    ∃ t, exec (.watermarkStallEnd c l) s = .next t ∧
      getStrand t c l = goesOn s c (setDst (getStrand s c l) dst ((getCore s c).pool.bits ea n)) := by
  have hresume : resume s c l ⟨.load ea n false dst, ord, sc, true, false, false⟩ =
      poolLoad (countXbar { s with cur := ⟨c, l, false, false⟩ } c) c l ea n false dst :=
    (runMem_poolLoad ..).trans (poolAccess_passes (s := { s with cur := ⟨c, l, false, false⟩ }) hf hs)
  have hcounted : (getCore (countXbar { s with cur := ⟨c, l, false, false⟩ } c) c).pool = (getCore s c).pool ∧
      (getCore (countXbar { s with cur := ⟨c, l, false, false⟩ } c) c).cycles = (getCore s c).cycles := by
    rw [countXbar, onCore_eq, getCore_putCore_self]
    exact ⟨rfl, rfl⟩
  have hstrand : getStrand (resume s c l ⟨.load ea n false dst, ord, sc, true, false, false⟩) c l =
      goesOn s c (setDst (getStrand s c l) dst ((getCore s c).pool.bits ea n)) := by
    rw [hresume, poolLoad_completes rfl rfl, hcounted.1]
    exact getStrand_finish (s := s) (t := countXbar _ c) rfl hcounted.2 dst _
  refine ⟨_, onWait_waits h (if_neg ?_), hstrand⟩
  rw [hstrand]
  exact nofun

theorem wakes_dqpop {s : State} {c l q : Nat} {w : Fin 32} {x : Queue} {r : DRec} {rest : List DRec} (h : Waits s c l (.dqpop q w))
    (hx : getQueue? s (tagOf s c) q = some x) (hring : x.ring = r :: rest) : exec (.dqpopWake c l) s = .next
      (resumed (putQueue s (tagOf s c) q { x with ring := rest }) c l (setPopped (getStrand s c l) w r)) := by
  refine onWait_waits h (?_ : tryDqpop s c l q w = _)
  simp only [tryDqpop, hx, popQueue, hring, List.isEmpty_cons, Bool.false_eq_true, if_false]
  rfl

/-! ### Quiescence (R203, R288) -/

theorem getQueue?_putQueue_self (s : State) (tag q : Nat) (x : Queue) : getQueue? (putQueue s tag q x) tag q = some x := by
  simp [getQueue?, putQueue]

theorem getQueue?_putQueue_other (s : State) (tag : Nat) {q q' : Nat} (x : Queue) (h : q' ≠ q) :
    getQueue? (putQueue s tag q x) tag q' = getQueue? s tag q' := by
  simp [getQueue?, putQueue, nget?_nset_other _ _ h]

theorem queueQuiet_drained {x y : Queue} {e : Nat} (hy : drained x = some y) (h : queueQuiet x e = true) : queueQuiet y e = true := by
  unfold drained at hy
  split_ifs at hy
  obtain rfl := Option.some.inj hy
  simp only [queueQuiet, Bool.and_eq_true, List.all_eq_true, decide_eq_true_eq] at h ⊢
  obtain ⟨⟨hbuf, hring⟩, hlive⟩ := h
  refine ⟨⟨nofun, fun r hr => ?_⟩, hlive⟩
  rcases List.mem_append.1 hr with hr | hr
  · exact hring r hr
  · rw [drainOrder, List.mem_mergeSort] at hr
    obtain ⟨b, hb, rfl⟩ := List.mem_map.1 hr
    exact hbuf b hb

/-- Every one of some queues holds nothing of epoch e or below. -/
def QueuesQuiet (s : State) (tag e : Nat) (qs : List Nat) : Prop :=
  ∀ q ∈ qs, ∀ x, getQueue? s tag q = some x → queueQuiet x e = true

theorem queuesQuiet_putQueue {s : State} {tag e q : Nat} {qs : List Nat} {x : Queue} (h : QueuesQuiet s tag e qs)
    (hx : queueQuiet x e = true) : QueuesQuiet (putQueue s tag q x) tag e qs := by
  intro q' hq' y hy
  by_cases heq : q' = q
  · rw [heq, getQueue?_putQueue_self] at hy
    exact Option.some.inj hy ▸ hx
  · rw [getQueue?_putQueue_other s tag x heq] at hy
    exact h q' hq' y hy

theorem queuesQuiet_drainQueue {s : State} {tag e q : Nat} {qs : List Nat} (h : QueuesQuiet s tag e qs) (hq : q ∈ qs) :
    QueuesQuiet (drainQueue s tag q) tag e qs := by
  unfold drainQueue
  split
  · exact h
  · rename_i x hx
    split
    · rename_i y hy
      exact queuesQuiet_putQueue h (queueQuiet_drained hy (h q hq x hx))
    · exact queuesQuiet_putQueue h (h q hq x hx)

theorem pushOnWay_none {s : State} (h : ∀ x ∈ s.cores, x.2.q2 = []) (which : Push → Bool) : pushOnWay s which = false :=
  List.any_eq_false.2 fun e he => by rw [h e he]; exact Bool.false_ne_true

theorem pushesArrive_none {s : State} (h : ∀ x ∈ s.cores, x.2.q2 = []) (which : Push → Bool) : pushesArrive s which = s := by
  have hall : (s.cores.flatMap fun e => (e.2.q2.filter which).map fun p => (e.1, p)) = [] :=
    List.flatMap_eq_nil_iff.2 fun e he => by rw [h e he]; rfl
  simp only [pushesArrive, hall, List.mergeSort_nil, List.foldl_nil]

/-- The state after some queues are drained. -/
def drainQueues (s : State) (tag : Nat) (qs : List Nat) : State := qs.foldl (fun s q => drainQueue s tag q) s

theorem drainQueues_same (s : State) (tag : Nat) (qs : List Nat) : SameStrands s (drainQueues s tag qs) :=
  SameStrands.foldl (fun s q => drainQueue_same s tag q) qs s

theorem queuesQuiet_drainQueues {s : State} {tag e : Nat} {qs : List Nat} (h : QueuesQuiet s tag e qs) :
    QueuesQuiet (drainQueues s tag qs) tag e qs :=
  List.foldlRecOn qs _ (motive := fun t => QueuesQuiet t tag e qs) h fun _ h _ hq => queuesQuiet_drainQueue h hq

/-- Where no push is on its way, the check of a QWAIT drains its graph's queues, and holds when they are quiet. -/
theorem qwaitCheck_quiet {s : State} {tag n e : Nat} (hpush : ∀ x ∈ s.cores, x.2.q2 = [])
    (hquiet : QueuesQuiet s tag e (graphQueues s tag n)) :
    qwaitCheck s tag n e = (drainQueues s tag (graphQueues s tag n), true) := by
  have hnone := pushOnWay_none (s := drainQueues s tag (graphQueues s tag n)) (by rw [(drainQueues_same ..).2.1]; exact hpush)
  have hdrained := queuesQuiet_drainQueues hquiet
  unfold qwaitCheck
  dsimp only
  rw [pushesArrive_none hpush, ← drainQueues, hnone, Bool.not_false, Bool.and_true]
  refine congrArg (Prod.mk _) (List.all_eq_true.2 fun q hq => ?_)
  split
  · exact hdrained q hq _ ‹_›
  · rfl

theorem wakes_qwait {s : State} {c l n e : Nat} (h : Waits s c l (.qwait n e)) (hpush : ∀ x ∈ s.cores, x.2.q2 = [])
    (hquiet : QueuesQuiet s (tagOf s c) e (graphQueues s (tagOf s c) n)) :
    ∃ t, exec (.qwaitWake c l) s = .next t ∧ getStrand t c l = goesOn s c (getStrand s c l) := by
  have hsame := drainQueues_same s (tagOf s c) (graphQueues s (tagOf s c) n)
  refine ⟨_, onWait_waits h ?_, getStrand_finish (s := s) (hsame.getStrand c l) (by rw [hsame.getCore]) .none 0⟩
  dsimp only
  rw [qwaitCheck_quiet hpush hquiet]
  rfl

/-! ### The end of a TLBINV (R209, R318) -/

/-- Strands may have been made ready, and cores keep their clocks and translations. -/
structure Restarted (s t : State) : Prop where
  strands : ∀ c l, ∃ status since, getStrand t c l = { getStrand s c l with status := status, readySince := since }
  cycles : ∀ c, (getCore t c).cycles = (getCore s c).cycles
  tlb : ∀ c, (getCore t c).tlb = (getCore s c).tlb
  dies : t.dies = s.dies

theorem Restarted.refl (s : State) : Restarted s s := ⟨fun _ _ => ⟨_, _, rfl⟩, fun _ => rfl, fun _ => rfl, rfl⟩

theorem Restarted.trans {s t u : State} (h1 : Restarted s t) (h2 : Restarted t u) : Restarted s u where
  strands c l := by
    obtain ⟨a, b, e⟩ := h1.strands c l
    obtain ⟨a', b', e'⟩ := h2.strands c l
    exact ⟨a', b', by rw [e', e]⟩
  cycles c := (h2.cycles c).trans (h1.cycles c)
  tlb c := (h2.tlb c).trans (h1.tlb c)
  dies := h2.dies.trans h1.dies

theorem Restarted.foldl {α : Type} {f : State → α → State} (hf : ∀ s x, Restarted s (f s x)) (xs : List α) (s : State) :
    Restarted s (xs.foldl f s) :=
  List.foldlRecOn xs f (motive := Restarted s) (Restarted.refl s) fun _ h x _ => h.trans (hf _ x)

theorem wake_restarted (s : State) (c l : Nat) : Restarted s (wake s c l) where
  strands i j := by
    by_cases h : i * 8 + j = c * 8 + l
    · rw [getStrand, getStrand, h]
      exact ⟨_, _, nget_nset_self ..⟩
    · exact ⟨_, _, getStrand_putStrand_other _ _ h⟩
  cycles _ := rfl
  tlb _ := rfl
  dies := rfl

theorem onCore_restarted (s : State) (c : Nat) {f : CoreSt → CoreSt} (hc : ∀ k, (f k).cycles = k.cycles) (ht : ∀ k, (f k).tlb = k.tlb) :
    Restarted s (onCore s c f) where
  strands _ _ := ⟨_, _, rfl⟩
  cycles c' := by
    by_cases h : c' = c
    · rw [h, onCore_eq, getCore_putCore_self, hc]
    · rw [onCore_eq, getCore_putCore_other _ _ h]
  tlb c' := by
    by_cases h : c' = c
    · rw [h, onCore_eq, getCore_putCore_self, ht]
    · rw [onCore_eq, getCore_putCore_other _ _ h]
  dies := rfl

theorem restartLegs_restarted (s : State) (tag : Nat) : Restarted s (restartLegs s tag) := by
  refine Restarted.foldl (fun s c => ?_) _ s
  split_ifs
  · exact Restarted.refl s
  · refine (onCore_restarted s c ?_ ?_).trans (Restarted.foldl (fun s e => ?_) _ _)
    · exact fun _ => rfl
    · exact fun _ => rfl
    · split_ifs
      · exact wake_restarted ..
      · exact Restarted.refl s

theorem mem_keptXlats (tag : Nat) (page : Option Nat) (xs : List Xlat) (x : Xlat) :
    x ∈ xs.filter (fun x => !staleXlat tag page x) ↔ x ∈ xs ∧ staleXlat tag page x = false := by simp

theorem dropXlats_core (s : State) (tag : Nat) (page : Option Nat) (c : Nat) :
    (getCore (dropXlats s tag page) c).cycles = (getCore s c).cycles ∧
      ∀ x, x ∈ (getCore (dropXlats s tag page) c).tlb ↔ x ∈ (getCore s c).tlb ∧ staleXlat tag page x = false :=
  nget_map_rel (g := fun e => (e.1, { e.2 with tlb := e.2.tlb.filter fun x => !staleXlat tag page x }))
    (R := fun _ k k' => k'.cycles = k.cycles ∧ ∀ x, x ∈ k'.tlb ↔ x ∈ k.tlb ∧ staleXlat tag page x = false)
    (fun _ => ⟨rfl, mem_keptXlats tag page []⟩) s.cores (fun e _ => ⟨rfl, rfl, mem_keptXlats tag page e.2.tlb⟩) c

theorem dropXlats_die (s : State) (tag : Nat) (page : Option Nat) (e : Nat) (x : Xlat) :
    x ∈ (getDie (dropXlats s tag page) e).tlb ↔ x ∈ (getDie s e).tlb ∧ staleXlat tag page x = false :=
  nget_map_rel (g := fun e => (e.1, { e.2 with tlb := e.2.tlb.filter fun x => !staleXlat tag page x }))
    (R := fun _ k k' => x ∈ k'.tlb ↔ x ∈ k.tlb ∧ staleXlat tag page x = false)
    (fun _ => mem_keptXlats tag page [] x) s.dies (fun e _ => ⟨rfl, mem_keptXlats tag page e.2.tlb x⟩) e

theorem noneInFlight_of {s : State} {tag : Nat} (h : ∀ x ∈ s.cores, tagOf s x.1 = tag → x.2.requests = [] ∧ x.2.reds = [])
    (hp : ∀ x ∈ s.peers, tagOf s x.2.core ≠ tag) : noneInFlight s tag = true := by
  rw [noneInFlight, Bool.and_eq_true, List.all_eq_true, List.all_eq_true]
  refine ⟨fun x hx => ?_, fun x hx => bne_iff_ne.2 (hp x hx)⟩
  by_cases ht : tagOf s x.1 = tag
  · obtain ⟨hq, hr⟩ := h x hx ht
    rw [hq, hr]
    exact Bool.or_true _
  · rw [bne_iff_ne.2 ht, Bool.true_or]

theorem wakes_tlbinv {s : State} {c l tag : Nat} {page : Option Nat} (h : Waits s c l (.tlbinv tag page))
    (hnone : noneInFlight s tag = true) :
    ∃ t, exec (.tlbinvDone c l) s = .next t ∧ getStrand t c l = goesOn s c (getStrand s c l) ∧
      (∀ e x, x ∈ (getCore t e).tlb ↔ x ∈ (getCore s e).tlb ∧ staleXlat tag page x = false) ∧
      ∀ e x, x ∈ (getDie t e).tlb ↔ x ∈ (getDie s e).tlb ∧ staleXlat tag page x = false := by
  have hrestart := restartLegs_restarted s tag
  refine ⟨finish (dropXlats (restartLegs s tag) tag page) c l .none 0, onWait_waits h (if_pos hnone), ?_, fun e x => ?_, fun e x => ?_⟩
  · obtain ⟨status, since, hstrand⟩ := hrestart.strands c l
    rw [finish_eq_resumed, getStrand_resumed, goesOn, (dropXlats_core ..).1, hrestart.cycles]
    have hstrand' : getStrand (dropXlats (restartLegs s tag) tag page) c l = _ := hstrand
    rw [setDst, hstrand']
    rfl
  · rw [← hrestart.tlb]
    exact (dropXlats_core (restartLegs s tag) tag page e).2 x
  · have hdie : getDie s e = getDie (restartLegs s tag) e := by rw [getDie, getDie, hrestart.dies]
    rw [hdie]
    exact dropXlats_die (restartLegs s tag) tag page e x

/-! ### CLAMP (R294, R297) -/

theorem wakes_clamp {s : State} {c l n : Nat} {d : Fin 64} {v : Word} (h : Waits s c l (.clamp n d (some v)))
    (hfields : ∀ x ∈ (getPart s (tagOf s c)).fields, x.2.tsrc = 1 → x.2.targ = n → x.2.due = 0) :
    exec (.clampWake c l) s = .next (resumed s c l (wrG (getStrand s c l) d v)) := by
  obtain ⟨hlive, hparked, hstatus⟩ := h
  have hdone : clampFieldsDone s (tagOf s c) n = true := by
    refine List.all_eq_true.2 fun x hx => ?_
    simpa [← not_and_or, or_iff_not_imp_left] using hfields x hx
  have hawake : coreAwake s c = true := by rw [coreAwake, hparked]; rfl
  have hreply : replyTo s c l d v.toNat = resumed s c l (wrG (getStrand s c l) d v) := by
    rw [replyTo, if_pos hawake, finish_eq_resumed, setDst, BitVec.ofNat_toNat, BitVec.setWidth_eq]
  change ifDue s _ = _
  dsimp only
  simp only [hstatus, hlive, hdone, hreply, Bool.and_self, if_true]
  rfl

end Sys2Proof.Machine
open Sys2Proof Sys2Proof.Machine

/-- Settles O43: a step on a strand that sleeps is the arm of its wait, and each arm finds what the wait waited for. -/
theorem wakes : Obligations.Wakes := by
  intro c l d w s st k tag back result
  refine ⟨fun since tm h => ⟨fun i hi hlow => wakes_waita h hi hlow, fun hnone htm hdue => wakes_waitaTimeout h hnone htm hdue⟩,
    fun m h hp hm hcopy => wakes_twait h hp hm hcopy, fun r h hr hsid hq0 hres hp => ?_,
    fun m h hcore hq hm hplace => wakes_matrixCommand h hcore hq hm hplace,
    fun m h hcore hq hm hplace hfull => wakes_copyCommand h hcore hq hm hplace hfull,
    fun p h hq hplace hdrain => wakes_push h hq hplace hdrain, fun ea n dst ord sc h hf hs => wakes_watermark h hf hs,
    fun n v h => onWait_waits h rfl, fun q x r rest h hx hring => wakes_dqpop h hx hring,
    fun n e h hpush hquiet => wakes_qwait h hpush hquiet, fun g page h hcores hpeers => wakes_tlbinv h (noneInFlight_of hcores hpeers),
    fun n v h hfields => wakes_clamp h hfields⟩
  refine onWait_waits h ?_
  dsimp only
  rw [nextResult_earliest hr hsid hq0 hres, Option.map_some, popResult_pops d (hsid ▸ hp)]
  rfl

end

section
/-! SUPPORT. Waits on tags, the tensor table, the loop registers, and the records of matrix jobs as their strand sees them (08 R159 to R162,
R170, R171, R176 to R183). -/

namespace Sys2Proof.Machine

/-- The strand of this turn gets a value and goes on. -/
theorem finish_turn (s : State) (r : Fin 64) (v : Nat) :
    finish s s.cur.core s.cur.slot (.g r) v = withTurn s (passed s (wrG (turn s) r (BitVec.ofNat 64 v))) := by
  rw [finish, onStrand_eq, passed, ← turn]
  simp only [advanced, setDst, wrG_pc]
  rfl

/-! ### Tags (08 R170, R171) -/

/-- The mask of a tag instruction, as a word. -/
theorem tagMask_eq (t : Strand) (a : GOp) (x : BitVec 38) :
    tagMask t a x = (BitVec.ofNat 64 (gVal t a) ||| x.signExtend 64).toNat := by
  rw [tagMask, immOf_eq, BitVec.toNat_or, BitVec.toNat_ofNat, Nat.mod_eq_of_lt (gVal_lt t a)]

theorem toNat_and_eq_iff (t m : BitVec 64) : t.toNat &&& m.toNat = m.toNat ↔ t &&& m = m := by
  rw [← BitVec.toNat_and, BitVec.toNat_inj]

section
variable {s : State} {gd : Guard} {a d : GOp} (x : BitVec 38)

theorem tclr_runs (h : Runs s gd [.g a]) : exec (.tclr gd a x) s = .next (withTurn (putCore s s.cur.core
    { turnCore s with tags := (turnCore s).tags &&& ~~~ (BitVec.ofNat 64 (gVal (turn s) a) ||| x.signExtend 64) })
    (advanced (turn s))) := by
  refine (guarded_runs h _).trans ?_
  dsimp only
  rw [tagMask_eq, BitVec.ofNat_toNat, BitVec.setWidth_eq]
  rfl

variable (hp : ∀ f ∈ s.pending, f.sid = (turn s).sid → f.core = s.cur.core → f.tag = none)
include hp

theorem pendingOnTags_turn (m : Nat) : pendingOnTags s s.cur.core (turn s).sid m = none :=
  pendingOnTags_none m fun f hf hc hs => hp f hf hs hc

section
variable (h : Runs s gd [.g a])
include h

theorem twait_returns (hm : (turnCore s).tags &&& (BitVec.ofNat 64 (gVal (turn s) a) ||| x.signExtend 64) =
      BitVec.ofNat 64 (gVal (turn s) a) ||| x.signExtend 64)
    (hcopy : ∀ e ∈ s.cores, ∀ q ∈ e.2.requests ++ e.2.reds, q.copy = none) :
    exec (.twait gd a x) s = .next (finish s s.cur.core s.cur.slot .none 0) := by
  have htry : tryTwait s s.cur.core s.cur.slot (tagMask (turn s) a x) = some (finish s s.cur.core s.cur.slot .none 0) := by
    rw [tryTwait, ← turn, pendingOnTags_turn hp, tagMask_eq]
    exact (if_pos ((toNat_and_eq_iff ..).2 hm)).trans
      (congrArg (fun u => some (finish u s.cur.core s.cur.slot .none 0)) (acquireTags_none _ _ _ hcopy))
  refine (guarded_runs h _).trans ?_
  rw [← turn]
  dsimp only
  rw [htry]

theorem twait_sleeps (hm : (turnCore s).tags &&& (BitVec.ofNat 64 (gVal (turn s) a) ||| x.signExtend 64) ≠
      BitVec.ofNat 64 (gVal (turn s) a) ||| x.signExtend 64) :
    exec (.twait gd a x) s = .next (blockOn s s.cur.core s.cur.slot
      (.twait (BitVec.ofNat 64 (gVal (turn s) a) ||| x.signExtend 64).toNat)) := by
  have htry : tryTwait s s.cur.core s.cur.slot (tagMask (turn s) a x) = none := by
    rw [tryTwait, ← turn, pendingOnTags_turn hp, tagMask_eq]
    exact if_neg fun h => hm ((toNat_and_eq_iff ..).1 h)
  refine (guarded_runs h _).trans ?_
  rw [← turn]
  dsimp only
  rw [htry, tagMask_eq]
end

theorem tfind_finds (h : Runs s gd [.g a, .g d])
    (hcopy : ∀ e ∈ s.cores, ∀ q ∈ e.2.requests ++ e.2.reds, q.copy = none) :
    exec (.tfind gd d a x) s = .next (withTurn s (passed s (wrG (turn s) (gReg (turn s) d) (BitVec.ofNat 64
      ((List.range 64).takeWhile fun i =>
        !((turnCore s).tags &&& (BitVec.ofNat 64 (gVal (turn s) a) ||| x.signExtend 64)).getLsbD i).length)))) := by
  refine (guarded_runs h _).trans ?_
  rw [← turn]
  dsimp only
  rw [pendingOnTags_turn hp]
  dsimp only
  rw [acquireTags_none _ _ _ hcopy, ite_self, tagMask_eq, trailZeros_eq, ← turnCore, ← BitVec.toNat_and, finish_turn]
  rfl
end

/-! ### The tensor table and the loop registers (08 R159, R161, R162) -/

section
variable {s : State} {gd : Guard}

section
variable {v : Fin 32} (h : Runs s gd [.v v]) (ta : BitVec 12)
include h

theorem tables_trap (hv : (turnCore s).vcount ≤ v.val + 1 ∨ v.val = 31) :
    exec (.tdset gd v ta) s = .next (trapped s 0x042 (v.val + 1)) ∧
      exec (.tdget gd v ta) s = .next (trapped s 0x042 (v.val + 1)) := by
  have hx : extraV (turnCore s).vcount (v.val + 1) = some (0x042, v.val + 1) := if_pos (hv.imp_right (congrArg (· + 1)))
  rw [turnCore] at hx
  constructor
  · refine (guarded_runs h _).trans ?_
    rw [hx]
    rfl
  · refine (guarded_runs h _).trans ?_
    rw [hx]
    rfl

variable {w : Fin 32} (hw : w.val = v.val + 1) (hc : w.val < (turnCore s).vcount)
include hw hc

theorem tdset_writes (hd : ((tdescOf (vVal (turn s) v + vVal (turn s) w * 2 ^ 128)).valid &&
      tdescBad (tdescOf (vVal (turn s) v + vVal (turn s) w * 2 ^ 128))) = false) :
    exec (.tdset gd v ta) s = .next (withTurn (putPart s (tagOf s s.cur.core) { getPart s (tagOf s s.cur.core) with
      tensors := nset (getPart s (tagOf s s.cur.core)).tensors ta.toNat (vVal (turn s) v + vVal (turn s) w * 2 ^ 128) })
      (advanced (turn s))) := by
  have hx : extraV (getCore s s.cur.core).vcount (v.val + 1) = none := hw ▸ extraV_none hc w.isLt
  refine (guarded_runs h _).trans ?_
  rw [hx, ← turn, ← hw]
  dsimp only
  rw [vNum_val, hd, if_neg Bool.false_ne_true]
  rfl

theorem tdset_refuses (hd : ((tdescOf (vVal (turn s) v + vVal (turn s) w * 2 ^ 128)).valid &&
      tdescBad (tdescOf (vVal (turn s) v + vVal (turn s) w * 2 ^ 128))) = true) :
    exec (.tdset gd v ta) s = .next (trapped s 0x1D1 ta.toNat) := by
  have hx : extraV (getCore s s.cur.core).vcount (v.val + 1) = none := hw ▸ extraV_none hc w.isLt
  refine (guarded_runs h _).trans ?_
  rw [hx, ← turn, ← hw]
  dsimp only
  rw [vNum_val, hd, if_pos rfl]
  rfl

theorem tdget_reads :
    exec (.tdget gd v ta) s = .next (withTurn s (advanced (wrV (wrV (turn s) v
        (BitVec.ofNat 128 (nget (getPart s (tagOf s s.cur.core)).tensors 0 ta.toNat))) w
        (BitVec.ofNat 128 (nget (getPart s (tagOf s s.cur.core)).tensors 0 ta.toNat / 2 ^ 128))))) := by
  have hx : extraV (getCore s s.cur.core).vcount (v.val + 1) = none := hw ▸ extraV_none hc w.isLt
  refine (guarded_runs h _).trans ?_
  rw [hx]
  dsimp only
  rw [onStrand_eq, ← turn, ← hw, setVNum_val, setV, setV, ofNat_mod_word]
  rfl
end

/-- The value that LSET writes: the sum's low 32 bits. -/
theorem lset_value (t : Strand) (a : GOp) (x : BitVec 38) : BitVec.ofNat 32 (wrapTo 64 ((gVal t a : Int) + dispOf x)) =
    BitVec.truncate 32 (BitVec.ofNat 64 (gVal t a) + x.signExtend 64) := by
  rw [wrapTo_disp]
  rfl

theorem lset_writes {a : GOp} (h : Runs s gd [.g a]) (cp : Bool) (lr : BitVec 3) (x : BitVec 38) :
    let value : BitVec 32 := BitVec.truncate 32 (BitVec.ofNat 64 (gVal (turn s) a) + x.signExtend 64)
    exec (.lset gd a cp lr x) s = .next (withTurn (putCore s s.cur.core
      (if cp then { turnCore s with lcp := (turnCore s).lcp.set lr.toNat value }
        else { turnCore s with lmat := (turnCore s).lmat.set lr.toNat value })) (advanced (turn s))) := by
  refine (guarded_runs h _).trans ?_
  rw [← turn, lset_value]
  rfl
end

end Sys2Proof.Machine
open Sys2Proof Sys2Proof.Machine

/-- Settles O33: each instruction is its body on the mask, the pair of registers or the sum that its operands make. -/
theorem tagsAndTables : Obligations.TagsAndTables := by
  refine ⟨fun gd d a x s => ?_, fun gd a v w ta cp lr x s => ?_⟩
  · refine ⟨fun h => ⟨tclr_runs x h, fun hp => ⟨fun hm hcopy => twait_returns x hp h hm hcopy, fun hm hc => ?_⟩⟩,
      fun h hp hcopy => tfind_finds x hp h hcopy⟩
    exact ⟨_, twait_sleeps x hp h hm, (blockOn_sleeps hc _).2⟩
  · refine ⟨fun h hv => tables_trap h ta hv, fun h hw hc => ⟨fun hd => tdset_writes h ta hw hc ?_, fun hv hb =>
      tdset_refuses h ta hw hc ?_, tdget_reads h ta hw hc⟩, fun h => lset_writes h cp lr x⟩
    · rcases hd with hd | hd
      · rw [hd, Bool.false_and]
      · rw [hd, Bool.and_false]
    · rw [hv, hb, Bool.and_self]

end

section
/-! SUPPORT. The records of matrix jobs as their strand sees them, tile headers, bursts and the window accumulator (08 R176 to R183). -/

namespace Sys2Proof.Machine

/-! ### Records (08 R176) -/

/-- A strand of which no job runs and no record waits has no next record. -/
theorem nextResult_none {k : CoreSt} {sid : Nat} (hq : ∀ m ∈ k.q0, m.sid ≠ sid) (hr : ∀ e ∈ k.res, e.sid ≠ sid) :
    nextResult k sid = none := by
  have hjobs : strandJobs k sid = [] := by
    rw [strandJobs, List.filter_eq_nil_iff.2 fun m hm => by simpa using hq m hm,
      List.filter_eq_nil_iff.2 fun e he => by simpa using hr e he]
    rfl
  rw [nextResult, nextJob_eq_min?, hjobs]
  rfl

section
variable {s : State} {gd : Guard} {d : GOp} (h : Runs s gd [.g d])
include h

theorem mpoll_none (hn : nextResult (turnCore s) (turn s).sid = none) :
    exec (.mpoll gd d) s = .next (finish s s.cur.core s.cur.slot (.g (gReg (turn s) d)) (2 ^ 64 - 1)) := by
  refine (guarded_runs h _).trans ?_
  rw [← turnCore, ← turn]
  dsimp only
  rw [hn]

variable {r : Result} (hn : nextResult (turnCore s) (turn s).sid = some r)
include hn

theorem mpoll_pops : exec (.mpoll gd d) s = .next (popResult s s.cur.core s.cur.slot (gReg (turn s) d) r) := by
  refine (guarded_runs h _).trans ?_
  rw [← turnCore, ← turn]
  dsimp only
  rw [hn]

theorem mwait_pops : exec (.mwait gd d) s = .next (popResult s s.cur.core s.cur.slot (gReg (turn s) d) r) := by
  refine (guarded_runs h _).trans ?_
  rw [← turnCore, ← turn]
  dsimp only
  rw [hn]
end

/-- A popped record is its strand's, and the strand goes on. -/
theorem popResult_turn {s : State} (d : Fin 64) {r : Result}
    (h : ∀ f ∈ s.pending, f.core = s.cur.core → f.sid = r.sid → f.job ≠ some r.job) :
    popResult s s.cur.core s.cur.slot d r = withTurn (putCore s s.cur.core { turnCore s with res := (turnCore s).res.erase r })
      (passed s (wrG (turn s) d (BitVec.ofNat 64 r.word))) := by
  rw [popResult_pops d h]
  refine (finish_turn (putCore s s.cur.core _) d r.word).trans ?_
  rw [passed, turnCore, putCore_cur, getCore_putCore_self]
  rfl

/-! ### Tile headers, bursts and the window accumulator (08 R178, R179, R183) -/

theorem loopReg_eq (k : CoreSt) (mat : Bool) (i : BitVec 3) :
    loopReg k mat i.toNat = (if mat then k.lmat else k.lcp)[i.toNat].toNat := by
  rw [loopReg, List.getD_eq_getElem?_getD, Vector.getElem?_toList, Vector.getElem?_eq_getElem i.isLt, Option.getD_some]

section
variable {s : State} {gd : Guard}

theorem rndw_runs {d : GOp} (h : Runs s gd [.g d]) (clr : Bool) : exec (.rndw gd d clr) s =
    (if clr then fun u => .next (withTurn (putCore s s.cur.core { turnCore s with win := WinAcc.clear }) u)
      else fun u => .next (withTurn s u)) (advanced (wrG (turn s) (gReg (turn s) d) (BitVec.ofNat 64 (turnCore s).win.round))) := by
  refine (guarded_runs h _).trans ?_
  cases clr <;> rfl

/-- No job of the core that has not completed names the header. -/
theorem jobsNaming_none {k : CoreSt} {hdr : Nat} (h : ∀ m ∈ k.q0, m.remote = .no → m.st ≠ .done → m.m % 8 ≠ hdr) :
    jobsNaming k hdr = [] := by
  rw [jobsNaming, List.filter_eq_nil_iff.2, List.map_nil]
  intro m hm hc
  simp only [Bool.and_eq_true, beq_iff_eq, bne_iff_ne, bitsAt_zero] at hc
  exact h m hm hc.1.1 hc.1.2 hc.2

variable (h : Runs s gd [])
include h

theorem mclr_clears {hdr : BitVec 3} (hj : jobsNaming (turnCore s) hdr.toNat = []) : exec (.mclr gd hdr) s =
    .next (withTurn (putCore s s.cur.core { turnCore s with th := (turnCore s).th.set hdr.toNat 0 }) (advanced (turn s))) := by
  refine (guarded_runs h _).trans ?_
  rw [← turnCore, hj]
  dsimp only
  simp only [onCore_eq, clearHeader, Nat.mod_eq_of_lt hdr.isLt]
  rfl

theorem mburst_ends {lm : BitVec 3} (hn : (turnCore s).lmat[lm.toNat].toNat = 0) : exec (.mburst gd lm) s =
    .next (withTurn (putCore s s.cur.core { turnCore s with burst := none }) (advanced (turn s))) := by
  refine (guarded_runs h _).trans ?_
  rw [← turnCore, loopReg_eq, if_pos rfl, hn]
  rfl

theorem mburst_begins {lm : BitVec 3} (hn : (turnCore s).lmat[lm.toNat].toNat ≠ 0) (hm : isMgmt s.cur.core = false) :
    exec (.mburst gd lm) s = .next (withTurn (putCore
      (putCluster s (clusterOf s.cur.core) { getCluster s (clusterOf s.cur.core) with rampClass := some 3 }) s.cur.core
      { turnCore s with burst := some ⟨(turnCore s).lmat[lm.toNat].toNat, s.now⟩ }) (advanced (turn s))) := by
  refine (guarded_runs h _).trans ?_
  rw [← turnCore, loopReg_eq, if_pos rfl, hm]
  simp only [hn, decide_false, Bool.or_self, Bool.false_eq_true, if_false]
  rfl
end

end Sys2Proof.Machine
open Sys2Proof Sys2Proof.Machine

/-- Settles O34: the strand's next record is found once for MPOLL and MWAIT, and each other instruction is one change of its core. -/
theorem matrixRecordsAndWindow : Obligations.MatrixRecordsAndWindow := by
  intro gd d a sf hdr lm clr r s st k c put ready n
  refine ⟨fun h => ⟨fun hq hr => ?_, fun hr hsid hq hres hp => ?_, rndw_runs h clr⟩, fun h => guarded_runs h _,
    fun h => ⟨guarded_runs h _, fun hj => mclr_clears h (jobsNaming_none hj), fun hn => mburst_ends h hn,
      fun hn hm => mburst_begins h hn hm⟩⟩
  · rw [mpoll_none h (nextResult_none hq hr), finish_turn]
    rfl
  · have hnext : nextResult k st.sid = some r := nextResult_earliest hr hsid hq hres
    have hpop := popResult_turn (gReg st d) fun f hf hc hs => hp f hf (hs.trans hsid) hc
    exact ⟨(mpoll_pops h hnext).trans (congrArg _ hpop), (mwait_pops h hnext).trans (congrArg _ hpop)⟩

end

section
/-! SUPPORT. How a command of the copy unit or of a matrix engine takes its place, and the fields of its slot
(04 R73; 08 R157, R158, R168). -/

namespace Sys2Proof.Machine

/-! ### A command takes its place (08 R158, R168) -/

/-- A core that has released an entry of its static schedule for a pass. -/
def withEntry (k : CoreSt) : Option (Nat × Nat) → CoreSt
  | some (i, p) => { k with sched := { k.sched with released := nset k.sched.released i p } }
  | none => k

/-- A core of whose copy-unit commands the first four HELD are ready. -/
def readied (now : Nat) (k : CoreSt) : CoreSt := { k with q1 := markReady now 4 k.q1 }

theorem onNode_now (s : State) (tag n : Nat) (f : Node → Node) : (onNode s tag n f).now = s.now := by
  unfold onNode
  split <;> rfl

theorem passed_congr {s t : State} (ht : turn t = turn s) (hc : (turnCore t).cycles = (turnCore s).cycles) (u : Strand) :
    passed t u = passed s u := by rw [passed, passed, ht, hc]

/-- What a command that takes its place makes of its core and of its strand, where nothing is in flight. -/
theorem takePlace_turn {s : State} (h : Quiet s s.cur.core (turn s).sid) (cmd : Cmd) (d : Fin 64) :
    turn (takePlace s s.cur.core s.cur.slot cmd d) = passed s (wrG (turn s) d (BitVec.ofNat 64 (jobId (captured s cmd)))) ∧
    turnCore (takePlace s s.cur.core s.cur.slot cmd d) =
      readied s.now (withCommand (withEntry (turnCore s) (captured s cmd).entry) (captured s cmd)) := by
  unfold takePlace
  rw [← turn, releaseAt_quiet h]
  extract_lets s0 cmd' tag s1 s2 s3
  have h1 : SameStrands s s1 ∧ s1.now = s.now := by
    simp only [s1]
    split_ifs
    · exact ⟨SameStrands.refl s, rfl⟩
    · split
      · exact ⟨onNode_same .., onNode_now ..⟩
      · exact ⟨SameStrands.refl s, rfl⟩
  obtain ⟨hsame, hnow⟩ := h1
  have h3 : s3 = putCore s1 s.cur.core (withCommand (withEntry (turnCore s) cmd'.entry) cmd') := by
    have hk : getCore s1 s.cur.core = turnCore s := hsame.getCore _
    simp only [s3, s2]
    cases cmd'.entry with
    | none => rw [onCore_eq, hk]; rfl
    | some e => simp only [onCore_eq, getCore_putCore_self, putCore_putCore_self, hk]; rfl
  have hcur : s1.cur = s.cur := hsame.2.2
  have hturn : turn s1 = turn s := by rw [turn, hcur, hsame.getStrand, turn]
  have hcyc : ∀ k, (readied s.now (withCommand (withEntry k cmd'.entry) cmd')).cycles = k.cycles := fun k => by
    rw [readied, withCommand_cycles]
    cases cmd'.entry <;> rfl
  have hready : readyCopies s3 s.cur.core =
      putCore s1 s.cur.core (readied s.now (withCommand (withEntry (turnCore s) cmd'.entry) cmd')) := by
    rw [h3, readyCopies, onCore_eq, getCore_putCore_self, putCore_putCore_self, putCore_now, hnow]
    rfl
  have hfin := finish_turn (readyCopies s3 s.cur.core) d (jobId cmd')
  rw [hready, putCore_cur, hcur] at hfin
  rw [hready, hfin, turn_withTurn]
  constructor
  · have hput : turn (putCore s1 s.cur.core (readied s.now (withCommand (withEntry (turnCore s) cmd'.entry) cmd'))) = turn s := hturn
    rw [passed_congr hput, hput]
    rw [turnCore, putCore_cur, hcur, getCore_putCore_self, hcyc]
  · simp only [turnCore, withTurn, putStrand_cur, putCore_cur, hcur, getCore_putStrand, getCore_putCore_self]
    rfl

/-- A command that finds a free place issues. -/
theorem issueCmd_takes {s : State} (h : Quiet s s.cur.core (turn s).sid) {cmd : Cmd} (d : Fin 64)
    (hplace : placeFree (turnCore s) cmd.kind.matrix = true) (hfull : launchFull s s.cur.core cmd = false) :
    issueCmd s s.cur.core s.cur.slot cmd d = takePlace s s.cur.core s.cur.slot cmd d := by
  rw [issueCmd, ← turnCore, hplace, Bool.or_true, if_pos rfl, countAndTake, hfull, if_neg Bool.false_ne_true, afterReds_quiet h]

/-- Making commands ready leaves the last what it is, but for when it became ready. -/
theorem markReady_getLast (now n : Nat) (ms : List Cmd) (m : Cmd) : ∃ r ra g ga, (markReady now n (ms ++ [m])).getLast? =
    some { m with ready := r, readyAt := ra, aged := g, agedAt := ga } := by
  induction ms generalizing n with
  | nil =>
    cases n with
    | zero => exact ⟨_, _, _, _, rfl⟩
    | succ n =>
      rw [List.nil_append, markReady]
      split_ifs
      · exact ⟨m.ready, m.readyAt, m.aged, m.agedAt, by rw [markReady]; rfl⟩
      · exact ⟨true, now, m.pri, now, by rw [markReady]; rfl⟩
      · exact ⟨m.ready, m.readyAt, m.aged, m.agedAt, by rw [markReady]; rfl⟩
  | cons x ms ih =>
    have hskip : ∀ (y : Cmd) (n : Nat), (y :: markReady now n (ms ++ [m])).getLast? = (markReady now n (ms ++ [m])).getLast? := by
      intro y n
      refine List.getLast?_cons_of_ne_nil fun hnil => ?_
      have := congrArg List.length hnil
      simp at this
    cases n with
    | zero =>
      refine ⟨m.ready, m.readyAt, m.aged, m.agedAt, ?_⟩
      rw [List.cons_append, markReady, ← List.cons_append, List.getLast?_concat]
      nofun
    | succ n =>
      rw [List.cons_append, markReady]
      split_ifs
      all_goals rw [hskip]; exact ih _

theorem jobId_captured_copy (s : State) {cmd : Cmd} (hm : cmd.kind.matrix = false) :
    jobId (captured s cmd) = 2 ^ 16 + (getCore s cmd.core).nextCp % 2 ^ 16 := by
  have hm' : ¬ (captured s cmd).kind.matrix = true := Bool.eq_false_iff.1 hm
  rw [jobId, if_neg hm', Nat.add_comm, captured, hm]
  rfl

theorem jobId_captured_matrix (s : State) {cmd : Cmd} (hm : cmd.kind.matrix = true) :
    jobId (captured s cmd) = (getCore s cmd.core).nextMat % 2 ^ 16 := by
  have hm' : (captured s cmd).kind.matrix = true := hm
  rw [jobId, if_pos hm', Nat.add_zero, captured, hm]
  rfl

section
variable {s : State} (h : Quiet s s.cur.core (turn s).sid) {cmd : Cmd} (d : Fin 64) (hcore : cmd.core = s.cur.core)
include h hcore

/-- A copy-unit command that issues takes the last place of q1, clears its tag and is counted on it; its identifier is returned. -/
theorem copyCommand_issues (hm : cmd.kind.matrix = false) (hplace : (turnCore s).q1.length < 8)
    (hfull : ∀ n, launchNodeOf s s.cur.core = some n → counterFull s (tagOf s s.cur.core) n = false) :
    let t := issueCmd s s.cur.core s.cur.slot cmd d
    turn t = passed s (wrG (turn s) d (BitVec.ofNat 64 (2 ^ 16 + (turnCore s).nextCp % 2 ^ 16))) ∧
    (turnCore t).tags = (turnCore s).tags &&& ~~~ BitVec.ofNat 64 (2 ^ cmd.tag) ∧
    nget (turnCore t).out 0 cmd.tag = nget (turnCore s).out 0 cmd.tag + 1 ∧ (turnCore t).nextCp = (turnCore s).nextCp + 1 ∧
    (turnCore t).q0 = (turnCore s).q0 ∧ (turnCore t).q1.length = (turnCore s).q1.length + 1 ∧
    (∃ r ra g ga, (turnCore t).q1.getLast? = some { captured s cmd with ready := r, readyAt := ra, aged := g, agedAt := ga }) ∧
    ∀ n p, (captured s cmd).entry = some (n, p) → nget (turnCore t).sched.released 0 n = p := by
  intro t
  obtain ⟨hturn, hk⟩ := takePlace_turn h cmd d
  rw [← issueCmd_takes h d (by rw [placeFree, hm]; exact decide_eq_true hplace) (launchFull_copy hfull)] at hturn hk
  change turn t = _ at hturn
  change turnCore t = _ at hk
  have hwith : withCommand (withEntry (turnCore s) (captured s cmd).entry) (captured s cmd) =
      { withEntry (turnCore s) (captured s cmd).entry with
        q1 := (turnCore s).q1 ++ [captured s cmd], nextCp := (turnCore s).nextCp + 1
        tags := (turnCore s).tags &&& ~~~ BitVec.ofNat 64 (2 ^ cmd.tag)
        out := nset (turnCore s).out cmd.tag (nget (turnCore s).out 0 cmd.tag + 1) } := by
    refine (if_neg (Bool.eq_false_iff.1 hm)).trans ?_
    cases (captured s cmd).entry <;> rfl
  rw [hwith] at hk
  refine ⟨?_, ?_, ?_, ?_, ?_, ?_, ?_, ?_⟩
  · rw [hturn, jobId_captured_copy s hm, hcore, ← turnCore]
  · rw [hk, readied]
  · rw [hk, readied]
    exact nget_nset_self ..
  · rw [hk, readied]
  · rw [hk, readied]
    cases (captured s cmd).entry <;> rfl
  · rw [hk, readied]
    simp
  · rw [hk]
    exact markReady_getLast ..
  · intro n p he
    rw [hk, he]
    exact nget_nset_self ..

/-- A matrix job that issues takes the last place of q0; its identifier is returned. -/
theorem matrixCommand_issues (hm : cmd.kind.matrix = true) (hplace : (turnCore s).q0.length < 4) (he : cmd.entry = none) :
    let t := issueCmd s s.cur.core s.cur.slot cmd d
    turn t = passed s (wrG (turn s) d (BitVec.ofNat 64 ((turnCore s).nextMat % 2 ^ 16))) ∧
    (turnCore t).nextMat = (turnCore s).nextMat + 1 ∧ (turnCore t).q1 = markReady s.now 4 (turnCore s).q1 ∧
    (turnCore t).tags = (turnCore s).tags ∧ (turnCore t).q0 = (turnCore s).q0 ++ [captured s cmd] := by
  intro t
  obtain ⟨hturn, hk⟩ := takePlace_turn h cmd d
  rw [← issueCmd_takes h d (by rw [placeFree, hm]; exact decide_eq_true hplace) (launchFull_matrix hm)] at hturn hk
  have hnone : (captured s cmd).entry = none := by rw [captured, he]; rfl
  have hm' : (captured s cmd).kind.matrix = true := hm
  rw [hnone, withEntry, withCommand, if_pos hm', readied] at hk
  change turnCore t = _ at hk
  refine ⟨hturn.trans ?_, ?_, ?_, ?_, ?_⟩
  · rw [jobId_captured_matrix s hm, hcore, ← turnCore]
  all_goals rw [hk]
end

/-! ### The fields of an engine's slot (04 R73; 08 R157) -/

/-- The fields of an instruction's slot. -/
def slotFields (i : Instr) : Fields := (i.raw.map (·.2)).getD {}

/-- The table identifiers, loop registers and XO that X of format E holds. -/
theorem eBits_fields (ta tb : BitVec 12) (lm ln lk : BitVec 3) (xo : BitVec 5) :
    let x := eBits ta.toNat tb.toNat lm.toNat ln.toNat lk.toNat xo.toNat
    mBits x 26 12 = ta.toNat ∧ mBits x 14 12 = tb.toNat ∧ mBits x 11 3 = lm.toNat ∧ mBits x 8 3 = ln.toNat ∧
      mBits x 5 3 = lk.toNat ∧ mBits x 0 5 = xo.toNat := by
  have := ta.isLt
  have := tb.isLt
  have := lm.isLt
  have := ln.isLt
  have := lk.isLt
  have := xo.isLt
  simp only [mBits, eBits]
  omega

/-- The subfields of M that a COPY's mode fills. -/
theorem copyMode_fields (mode : CopyMode) (tag : BitVec 6) (sc : Scope) (prop : Bool) :
    let m := mode.toM + tag.toNat + sc.code * 2 ^ 8 + prop.toNat * 2 ^ 12
    bitsAt m 6 2 = (match mode with | .plain cmb => cmb.code | .fwd _ => 0) ∧
      bitsAt m 13 1 = (match mode with | .plain _ => 0 | .fwd _ => 1) := by
  have := tag.isLt
  have := sc.code_lt
  have := prop.toNat_lt
  cases mode with
  | plain cmb =>
    have := cmb.code_lt
    simp only [bitsAt, CopyMode.toM]
    omega
  | fwd o =>
    simp only [bitsAt, CopyMode.toM]
    omega

/-- ch= of a WMARK. -/
theorem wmark_channel (tag : BitVec 6) (ch : BitVec 2) (sc : Scope) (prop : Bool) :
    bitsAt (tag.toNat + ch.toNat * 2 ^ 6 + sc.code * 2 ^ 8 + prop.toNat * 2 ^ 12) 6 2 = ch.toNat := by
  have := tag.isLt
  have := ch.isLt
  simp only [bitsAt]
  omega

/-- hdr= and pro= of a matrix job. -/
theorem matrix_fields (hdr : BitVec 3) (pro : BitVec 6) (cvt prop : Bool) :
    let m := hdr.toNat + pro.toNat * 2 ^ 3 + cvt.toNat * 2 ^ 13 + prop.toNat * 2 ^ 14
    bitsAt m 0 3 = hdr.toNat ∧ bitsAt m 3 6 = pro.toNat := by
  have := hdr.isLt
  have := pro.isLt
  simp only [bitsAt]
  omega

/-! ### The command of an instruction (08 R157, R163 to R177) -/

/-- The command that an instruction e names for the strand of this turn, as an entry of the schedule or for a remote engine. -/
def commandOf (s : State) (e : Instr) (kind : CmdKind) (tag : Nat) (sc : Scope) (prop : Bool) (opa opb opc : Nat)
    (entry : Option (Nat × Nat)) (remote : Remote) : Cmd :=
  { cmdOf s s.cur.core s.cur.slot e kind tag sc prop opa opb opc with entry := entry, remote := remote }

/-- gC of a COPY: the names of a forwarding chain. -/
def chainOperand (t : Strand) : CopyMode → Nat
  | .plain _ => 0
  | .fwd o => gVal t o

section
variable {s : State} {e : Instr} {ta tb : BitVec 12} {lm ln lk : BitVec 3} {xo : BitVec 5}

/-- What the command captures besides its number: the descriptors and loop registers that X names. -/
theorem captured_commandOf (hx : (slotFields e).x = eBits ta.toNat tb.toNat lm.toNat ln.toNat lk.toNat xo.toNat) (kind : CmdKind)
    (tag : Nat) (sc : Scope) (prop : Bool) (opa opb opc : Nat) (entry : Option (Nat × Nat)) (remote : Remote) :
    let m := captured s (commandOf s e kind tag sc prop opa opb opc entry remote)
    let bank := if kind.matrix then (turnCore s).lmat else (turnCore s).lcp
    let desc (id : BitVec 12) : TDesc := tdescOf (nget (getPart s (tagOf s s.cur.core)).tensors 0 id.toNat)
    m.id = (if kind.matrix then (turnCore s).nextMat else (turnCore s).nextCp) ∧ m.da = desc ta ∧ m.db = desc tb ∧
      m.vlm = bank[lm.toNat].toNat ∧ m.vln = bank[ln.toNat].toNat ∧ m.vlk = bank[lk.toNat].toNat ∧ m.xo = xo.toNat := by
  obtain ⟨hta, htb, hlm, hln, hlk, hxo⟩ := eBits_fields ta tb lm ln lk xo
  rw [← hx] at hta htb hlm hln hlk hxo
  exact ⟨rfl, congrArg (fun i => tdescOf (tensorBits s (tagOf s s.cur.core) i)) hta,
    congrArg (fun i => tdescOf (tensorBits s (tagOf s s.cur.core) i)) htb,
    (congrArg (loopReg (turnCore s) kind.matrix) hlm).trans (loopReg_eq ..),
    (congrArg (loopReg (turnCore s) kind.matrix) hln).trans (loopReg_eq ..),
    (congrArg (loopReg (turnCore s) kind.matrix) hlk).trans (loopReg_eq ..), hxo⟩
end

section
variable {s : State} {gd : Guard} {d a b o : GOp} {mode : CopyMode} {tag : BitVec 6} {ch : BitVec 2} {sc : Scope} {prop : Bool}
  {ta tb : BitVec 12} {lm ln : BitVec 3}

theorem copyCmd?_copy : copyCmd? s s.cur.core s.cur.slot (.copy gd d a b mode tag sc prop ta tb lm ln) =
    some (commandOf s (.copy gd d a b mode tag sc prop ta tb lm ln) .copy tag.toNat sc prop (gVal (turn s) a) (gVal (turn s) b)
      (chainOperand (turn s) mode) none .no) := by cases mode <;> rfl

theorem copyCmd?_copyv : copyCmd? s s.cur.core s.cur.slot (.copyv gd d a b o tag sc prop ta tb lm ln) =
    some (commandOf s (.copyv gd d a b o tag sc prop ta tb lm ln) .copyv tag.toNat sc prop (gVal (turn s) a) (gVal (turn s) b)
      (gVal (turn s) o) none .no) := rfl

theorem copyCmd?_wmark : copyCmd? s s.cur.core s.cur.slot (.wmark gd d a b tag ch sc prop ta tb lm ln) =
    some (commandOf s (.wmark gd d a b tag ch sc prop ta tb lm ln) .wmark tag.toNat sc prop (gVal (turn s) a) (gVal (turn s) b) 0
      none .no) := rfl

theorem copyCmd?_mdld : copyCmd? s s.cur.core s.cur.slot (.mdld gd d a b tag ta lm ln) =
    some (commandOf s (.mdld gd d a b tag ta lm ln) .mdld tag.toNat .co false (gVal (turn s) a) (gVal (turn s) b) 0 none .no) := rfl

/-- An instruction of the copy unit issues its command. -/
theorem issueCopy_issues {i : Instr} {cmd : Cmd} (hcmd : copyCmd? s s.cur.core s.cur.slot i = some cmd) (r : Fin 64) :
    issueCopy s s.cur.core s.cur.slot i r = issueCmd s s.cur.core s.cur.slot cmd r := by rw [issueCopy, hcmd]

theorem exec_copy (h : Runs s gd ([.g a, .g b] ++ modeNames mode ++ [.g d])) : exec (.copy gd d a b mode tag sc prop ta tb lm ln) s =
    .next (issueCopy s s.cur.core s.cur.slot (.copy gd d a b mode tag sc prop ta tb lm ln) (gReg (turn s) d)) := guarded_runs h _

theorem exec_copyv (h : Runs s gd [.g a, .g b, .g o, .g d]) : exec (.copyv gd d a b o tag sc prop ta tb lm ln) s =
    .next (issueCopy s s.cur.core s.cur.slot (.copyv gd d a b o tag sc prop ta tb lm ln) (gReg (turn s) d)) := guarded_runs h _

theorem exec_wmark (h : Runs s gd [.g a, .g b, .g d]) : exec (.wmark gd d a b tag ch sc prop ta tb lm ln) s =
    .next (issueCopy s s.cur.core s.cur.slot (.wmark gd d a b tag ch sc prop ta tb lm ln) (gReg (turn s) d)) := guarded_runs h _

theorem exec_mdld (h : Runs s gd [.g a, .g b, .g d]) : exec (.mdld gd d a b tag ta lm ln) s =
    .next (issueCopy s s.cur.core s.cur.slot (.mdld gd d a b tag ta lm ln) (gReg (turn s) d)) := guarded_runs h _

variable {hdr : BitVec 3} {pro : BitVec 6} {cvt : Bool} {lk : BitVec 3} {xo : BitVec 5}

theorem exec_mjob (h : Runs s gd [.g a, .g b, .g o, .g d]) : exec (.mjob gd d a b o hdr pro cvt prop ta tb lm ln lk xo) s =
    .next (issueCmd s s.cur.core s.cur.slot (commandOf s (.mjob gd d a b o hdr pro cvt prop ta tb lm ln lk xo)
      (if cvt then .cvt else .mac) 0 .co prop (gVal (turn s) a) (gVal (turn s) b) (gVal (turn s) o) none .no) (gReg (turn s) d)) :=
  guarded_runs h _

theorem exec_mjobr {oc : Fin 63} (h : Runs s gd (namesOf (.mjobr gd d a b oc hdr pro cvt prop ta tb lm ln lk xo))) :
    let cap := gVal (turn s) (.g ⟨oc.val + 1, by omega⟩)
    exec (.mjobr gd d a b oc hdr pro cvt prop ta tb lm ln lk xo) s =
    .next (issueCmd s s.cur.core s.cur.slot (commandOf s (.mjobr gd d a b oc hdr pro cvt prop ta tb lm ln lk xo)
      (if cvt then .cvt else .mac) 0 .co prop (gVal (turn s) a) (gVal (turn s) b) (gVal (turn s) (.g ⟨oc.val, by omega⟩)) none
      (.onWay (cap / 2 ^ 55 % 2 ^ 9) cap)) (gReg (turn s) d)) :=
  guarded_runs h _
end

/-! ### CSTAGE (08 R168) -/

section
variable {s : State} {gd : Guard} {d o : GOp} (h : Runs s gd [.g o, .g d]) {x : BitVec 38} {n : Nat}
  (hn : n = (BitVec.ofNat 64 (gVal (turn s) o) + x.signExtend 64).toNat)
include h hn

theorem cstage_traps (hslot : (turnCore s).sched.slots.length ≤ n) : exec (.cstage gd d o x) s = .next (trapped s 0x1D0 n) := by
  refine (guarded_runs h _).trans ?_
  rw [← turn, ← turnCore]
  dsimp only
  rw [wrapTo_disp, ← hn, List.getElem?_eq_none hslot]
  rfl

theorem cstage_issues {slot : Nat} {e : Instr} {cmd : Cmd} (hslot : (turnCore s).sched.slots[n]? = some slot)
    (he : decodeSlot slot = .ok e) (hcmd : copyCmd? s s.cur.core s.cur.slot e = some cmd) : exec (.cstage gd d o x) s =
      .next (issueCmd s s.cur.core s.cur.slot { cmd with entry := some (n, 0) } (gReg (turn s) d)) := by
  refine (guarded_runs h _).trans ?_
  rw [← turn, ← turnCore]
  dsimp only
  rw [wrapTo_disp, ← hn, hslot]
  dsimp only
  rw [he]
  dsimp only
  rw [hcmd]
end

end Sys2Proof.Machine

open Sys2Proof Sys2Proof.Machine

/-- Settles O32: an instruction of the copy unit and an entry of the schedule make one command, which takes its place as every command
does, and the fields of its slot are read back. -/
theorem engineCommandsIssue : Obligations.EngineCommandsIssue := by
  intro gd d a b o oc mode tag ch sc cvt prop hdr pro ta tb lm ln lk xo x ge de s hat st k c ptag desc loop ready common copyIssued named
    asCopy asCopyv asWmark asMdld matIssued hfull
  have hcopy : ∀ {i e : Instr} {kind : CmdKind} {sc' : Scope} {pr : Bool} {opc : Nat} {entry : Option (Nat × Nat)}
      {tb' : BitVec 12} {want : Cmd → Prop},
      k.q1.length < 8 → kind.matrix = false → (slotFields e).x = eBits ta.toNat tb'.toNat lm.toNat ln.toNat 0 0 →
      exec i s = .next (issueCmd s c s.cur.slot
        (commandOf s e kind tag.toNat sc' pr (gVal st a) (gVal st b) opc entry .no) (gReg st d)) →
      (∀ m : Cmd, m.kind = kind → m.sc = sc' → m.prop = pr → m.opc = opc → m.m = (slotFields e).m → m.db = desc tb' → want m) →
      copyIssued i tag (entry.map fun p => (p.1, nget k.sched.released 0 p.1 + 1)) want := by
    intro i e kind sc' pr opc entry tb' want hplace hm hx hexec hwant
    obtain ⟨hturn, htags, hout, hnext, hq0, hlen, ⟨r, ra, g, ga, hlast⟩, hrel⟩ := copyCommand_issues hat.1
      (cmd := commandOf s e kind tag.toNat sc' pr (gVal st a) (gVal st b) opc entry .no) (gReg st d) rfl hm hplace hfull
    obtain ⟨hid, hda, hdb, hvlm, hvln, -⟩ := captured_commandOf (s := s) (lk := 0) (xo := 0) hx kind tag.toNat sc' pr (gVal st a)
      (gVal st b) opc entry .no
    have hbank : (if kind.matrix then (turnCore s).lmat else (turnCore s).lcp) = k.lcp := if_neg (Bool.eq_false_iff.1 hm)
    rw [if_neg (Bool.eq_false_iff.1 hm)] at hid
    rw [hbank] at hvlm hvln
    exact ⟨_, hexec, hturn, htags, hout, hnext, hq0, hlen, _, hlast, ⟨rfl, rfl, rfl, rfl, rfl, rfl, rfl⟩, hid, rfl, rfl, rfl, hda, hvlm,
      hvln, rfl, hwant _ rfl rfl rfl rfl rfl hdb, hrel⟩
  have hasCopy : ∀ {gd' : Guard} {d' : GOp} (m : Cmd), m.kind = .copy → m.sc = sc → m.prop = prop → m.opc = chainOperand st mode →
      m.m = (slotFields (.copy gd' d' a b mode tag sc prop ta tb lm ln)).m → m.db = desc tb → asCopy m := by
    intro gd' d' m hkind hsc hprop hopc hm hdb
    obtain ⟨hcmb, hfwd⟩ := copyMode_fields mode tag sc prop
    refine ⟨hkind, ⟨hdb, hsc, hprop⟩, ?_⟩
    rw [cmbOf, isFwd, if_pos hkind, hkind, hm, beq_self_eq_true, Bool.true_and]
    cases mode with
    | plain cmb => exact ⟨hopc, hcmb, beq_eq_false_iff_ne.2 (hfwd.trans_ne nofun)⟩
    | fwd e => exact ⟨hopc, hcmb, beq_iff_eq.2 hfwd⟩
  have hasWmark : ∀ {gd' : Guard} {d' : GOp} (m : Cmd), m.kind = .wmark → m.sc = sc → m.prop = prop →
      m.m = (slotFields (.wmark gd' d' a b tag ch sc prop ta tb lm ln)).m → m.db = desc tb → asWmark m := by
    intro gd' d' m hkind hsc hprop hm hdb
    refine ⟨hkind, ⟨hdb, hsc, hprop⟩, ?_⟩
    rw [channelOf, hm]
    exact Fin.ext ((congrArg (· % 4) (wmark_channel tag ch sc prop)).trans (Nat.mod_eq_of_lt ch.isLt))
  have hmatrix : ∀ {i e : Instr} {third : Nat} {remote : Remote},
      k.q0.length < 4 → (slotFields e).x = eBits ta.toNat tb.toNat lm.toNat ln.toNat lk.toNat xo.toNat →
      (slotFields e).m = hdr.toNat + pro.toNat * 2 ^ 3 + cvt.toNat * 2 ^ 13 + prop.toNat * 2 ^ 14 →
      exec i s = .next (issueCmd s c s.cur.slot (commandOf s e (if cvt then .cvt else .mac) 0 .co prop (gVal st a) (gVal st b)
        third none remote) (gReg st d)) → matIssued i third remote := by
    intro i e third remote hplace hx hmm hexec
    have hm : (if cvt then CmdKind.cvt else .mac).matrix = true := by cases cvt <;> rfl
    obtain ⟨hhdr, hpro⟩ := matrix_fields hdr pro cvt prop
    rw [← hmm] at hhdr hpro
    obtain ⟨hturn, hnext, hq1, htags, hq0⟩ := matrixCommand_issues hat.1 (cmd := commandOf s e (if cvt then .cvt else .mac) 0 .co prop
      (gVal st a) (gVal st b) third none remote) (gReg st d) rfl hm hplace rfl
    obtain ⟨hid, hda, hdb, hvlm, hvln, hvlk, hxo⟩ := captured_commandOf (s := s) hx (if cvt then .cvt else .mac) 0 .co prop (gVal st a)
      (gVal st b) third none remote
    have hbank : (if (if cvt then CmdKind.cvt else .mac).matrix then (turnCore s).lmat else (turnCore s).lcp) = k.lmat := if_pos hm
    rw [if_pos hm] at hid
    rw [hbank] at hvlm hvln hvlk
    exact ⟨_, hexec, hturn, hnext, hq1, htags, _, hq0, ⟨rfl, rfl, rfl, rfl, rfl, rfl, rfl⟩, rfl, hid, rfl, rfl, rfl, hda, hdb, hvlm, hvln,
      hvlk, rfl, rfl, hhdr, congrArg (· + 1) hpro, hxo⟩
  have hplain : ∀ {e : Instr} {cmd : Cmd}, copyCmd? s c s.cur.slot e = some cmd →
      Host.Outcome.next (issueCopy s c s.cur.slot e (gReg st d)) = (.next (issueCmd s c s.cur.slot cmd (gReg st d)) :
        Host.Outcome State Fault Refusal) := fun hcmd => congrArg _ (issueCopy_issues hcmd _)
  refine ⟨fun hplace => ⟨fun h => ?_, fun h => ?_, fun h => ⟨?_, ?_⟩, fun h slot e hslot he => ⟨?_, ?_, ?_, ?_⟩⟩,
    fun h n hn hslot => cstage_traps h hn hslot,
    fun hplace => ⟨fun h => hmatrix hplace rfl rfl (exec_mjob h), fun h => hmatrix hplace rfl rfl (exec_mjobr h)⟩⟩
  · exact hcopy hplace rfl rfl ((exec_copy h).trans (hplain copyCmd?_copy)) fun m hkind hsc hprop hopc hm =>
      hasCopy m hkind hsc hprop hopc hm
  · exact hcopy hplace rfl rfl ((exec_copyv h).trans (hplain copyCmd?_copyv)) fun m hkind hsc hprop hopc _ hdb =>
      ⟨hkind, ⟨hdb, hsc, hprop⟩, hopc⟩
  · exact hcopy hplace rfl rfl ((exec_wmark h).trans (hplain copyCmd?_wmark)) fun m hkind hsc hprop _ hm =>
      hasWmark m hkind hsc hprop hm
  · exact hcopy (tb' := 0) hplace rfl rfl ((exec_mdld h).trans (hplain copyCmd?_mdld)) fun m hkind hsc hprop _ _ _ =>
      ⟨hkind, hsc, hprop⟩
  · rintro rfl
    exact hcopy hplace rfl rfl (cstage_issues h rfl hslot he copyCmd?_copy) fun m hkind hsc hprop hopc hm =>
      hasCopy m hkind hsc hprop hopc hm
  · rintro rfl
    exact hcopy hplace rfl rfl (cstage_issues h rfl hslot he copyCmd?_copyv) fun m hkind hsc hprop hopc _ hdb =>
      ⟨hkind, ⟨hdb, hsc, hprop⟩, hopc⟩
  · rintro rfl
    exact hcopy hplace rfl rfl (cstage_issues h rfl hslot he copyCmd?_wmark) fun m hkind hsc hprop _ hm =>
      hasWmark m hkind hsc hprop hm
  · rintro rfl
    exact hcopy (tb' := 0) hplace rfl rfl (cstage_issues h rfl hslot he copyCmd?_mdld) fun m hkind hsc hprop _ _ _ =>
      ⟨hkind, hsc, hprop⟩

end

section
/-! SUPPORT. Commands in the places of a core's queues: how one is found and replaced, and what leaves the places as they are
(08 R158). -/

namespace Sys2Proof.Machine

/-! ### One core changes -/

/-- What a change of one core keeps, it keeps of every core. -/
theorem onCore_keeps {α : Type} (π : CoreSt → α) (s : State) (c : Nat) {f : CoreSt → CoreSt} (h : ∀ k, π (f k) = π k) (p : Nat) :
    π (getCore (onCore s c f) p) = π (getCore s p) := by
  rcases eq_or_ne p c with rfl | hp
  · rw [onCore_eq, getCore_putCore_self, h]
  · rw [onCore_eq, getCore_putCore_other s _ hp]

/-- What a change of one cluster keeps, it keeps of every cluster. -/
theorem onCluster_keeps {α : Type} (π : Cluster → α) (s : State) (c : Nat) {f : Cluster → Cluster} (h : ∀ x, π (f x) = π x) (p : Nat) :
    π (getCluster (onCluster s c f) p) = π (getCluster s p) := by
  rcases eq_or_ne p c with rfl | hp
  · rw [onCluster_eq, getCluster_putCluster_self, h]
  · rw [onCluster_eq, getCluster_putCluster_other s _ hp]

theorem getCore_poolWrite_self (s : State) (c a w v : Nat) :
    getCore (poolWrite s c a w v) c = { getCore s c with pool := (getCore s c).pool.setBits a w v } :=
  getCore_putCore_self s c { getCore s c with pool := (getCore s c).pool.setBits a w v }

theorem poolWrite_keeps {α : Type} (π : CoreSt → α) (s : State) (c a w v : Nat)
    (h : ∀ k : CoreSt, π { k with pool := k.pool.setBits a w v } = π k) (p : Nat) : π (getCore (poolWrite s c a w v) p) = π (getCore s p) :=
  onCore_keeps π s c (f := fun k => { k with pool := k.pool.setBits a w v }) h p

/-- Written bits of a pool are read back. -/
theorem pool_bits_poolWrite_self (s : State) (c a w v : Nat) : (getCore (poolWrite s c a w v) c).pool.bits a w = v % 2 ^ w := by
  rw [getCore_poolWrite_self]
  exact Memory.bits_setBits_self ..

/-! ### Commands in their places -/

/-- A step that is due is taken. -/
theorem ifDue_some {s t : State} {o : Option State} (h : o = some t) : ifDue s o = .next t := by
  rw [h]
  rfl

/-- t has the commands of s in their places, at the same moment. -/
structure SamePlaces (s t : State) : Prop where
  q0 : ∀ c, (getCore t c).q0 = (getCore s c).q0
  q1 : ∀ c, (getCore t c).q1 = (getCore s c).q1
  now : t.now = s.now

theorem SamePlaces.refl (s : State) : SamePlaces s s := ⟨fun _ => rfl, fun _ => rfl, rfl⟩

theorem SamePlaces.trans {s t u : State} (h : SamePlaces s t) (g : SamePlaces t u) : SamePlaces s u :=
  ⟨fun c => (g.q0 c).trans (h.q0 c), fun c => (g.q1 c).trans (h.q1 c), g.now.trans h.now⟩

theorem SamePlaces.findCmd {s t : State} (h : SamePlaces s t) (c : Nat) (mat : Bool) (id : Nat) :
    findCmd t c mat id = findCmd s c mat id := by rw [Machine.findCmd, h.q0, h.q1, Machine.findCmd]

theorem samePlaces_onCore (s : State) (c : Nat) {f : CoreSt → CoreSt} (h0 : ∀ k, (f k).q0 = k.q0) (h1 : ∀ k, (f k).q1 = k.q1) :
    SamePlaces s (onCore s c f) := ⟨onCore_keeps (·.q0) s c h0, onCore_keeps (·.q1) s c h1, rfl⟩

theorem samePlaces_onCluster (s : State) (i : Nat) (f : Cluster → Cluster) : SamePlaces s (onCluster s i f) :=
  ⟨fun _ => rfl, fun _ => rfl, rfl⟩

theorem samePlaces_poolWrite (s : State) (c a w v : Nat) : SamePlaces s (poolWrite s c a w v) :=
  ⟨poolWrite_keeps (·.q0) s c a w v fun _ => rfl, poolWrite_keeps (·.q1) s c a w v fun _ => rfl, rfl⟩

/-- Any number of steps that leave the places as they are leave them so. -/
theorem samePlaces_foldl {α : Type} {f : State → α → State} (h : ∀ s x, SamePlaces s (f s x)) (xs : List α) (s : State) :
    SamePlaces s (xs.foldl f s) := by
  induction xs generalizing s with
  | nil => exact SamePlaces.refl s
  | cons x xs ih => exact (h s x).trans (ih _)

/-- A command that is found has the number it is looked for by. -/
theorem findCmd_id {s : State} {c id : Nat} {mat : Bool} {m : Cmd} (h : findCmd s c mat id = some m) : m.id = id := by
  have := List.find?_some h
  exact beq_iff_eq.1 this

/-- What replacing a command keeps of a core, it keeps of every core. -/
theorem setCmd_keeps {α : Type} (π : CoreSt → α) (s : State) (m : Cmd) (h0 : ∀ k q, π { k with q0 := q } = π k)
    (h1 : ∀ k q, π { k with q1 := q } = π k) (p : Nat) : π (getCore (setCmd s m) p) = π (getCore s p) := by
  refine onCore_keeps π s m.core (fun k => ?_) p
  split_ifs
  · exact h0 ..
  · exact h1 ..

/-- A command whose last step is over. -/
def endedCmd (m : Cmd) (fault : Option (Nat × Nat × Nat)) : Cmd := { m with prog := { m.prog with ended := true, fault := fault } }

theorem endCmd_eq (s : State) (m : Cmd) (fault : Option (Nat × Nat × Nat)) : endCmd s m fault = setCmd s (endedCmd m fault) := rfl

/-- A command that replaces another of its number and class is found in its place. -/
theorem findCmd_setCmd {s : State} {c id : Nat} {mat : Bool} {m m' : Cmd} (h : findCmd s c mat id = some m) (hid : m'.id = id)
    (hcore : m'.core = c) (hmat : m'.kind.matrix = mat) : findCmd (setCmd s m') c mat id = some m' := by
  have hfind : ∀ ms : List Cmd, (ms.find? fun x => x.id == id) = some m →
      ((ms.map fun x => if x.id == m'.id then m' else x).find? fun x => x.id == id) = some m' := by
    intro ms hm
    have hp : ((fun x : Cmd => x.id == id) ∘ fun x => if x.id == m'.id then m' else x) = fun x => x.id == id := by
      funext x
      simp only [Function.comp, hid]
      by_cases hx : x.id = id <;> simp [hx, hid]
    rw [List.find?_map, hp, hm, Option.map_some, hid, if_pos (List.find?_some hm)]
  subst hcore hmat
  rw [findCmd] at h ⊢
  rw [setCmd, onCore_eq, getCore_putCore_self]
  split_ifs at h ⊢ <;> exact hfind _ h

end Sys2Proof.Machine

end

section
/-! SUPPORT. The steps of a matrix job (02 R36, R37; 08 R172 to R175, R372; 14 R269). -/

namespace Sys2Proof.Machine

/-- The engine stands at a step boundary. -/
def atBoundary (s : State) (cl : Nat) : State := onCluster s cl fun x => { x with runMat := none }

theorem atBoundary_runMat (s : State) (cl : Nat) : (getCluster (atBoundary s cl) cl).runMat = none := by
  rw [atBoundary, onCluster_eq, getCluster_putCluster_self]

theorem atBoundary_keeps {α : Type} (π : Cluster → α) (s : State) (cl : Nat) (h : ∀ x, π { x with runMat := none } = π x) (i : Nat) :
    π (getCluster (atBoundary s cl) i) = π (getCluster s i) := onCluster_keeps π s cl (f := fun x => { x with runMat := none }) h i

/-- A job that has passed its checks. -/
def startedJob (m : Cmd) : Cmd := { m with prog := { m.prog with started := true } }

/-! ### The checks and the operands do not depend on what the engine runs -/

theorem granulesBad_atBoundary (s : State) (cl i tag lo hi : Nat) :
    granulesBad (atBoundary s cl) i tag lo hi = granulesBad s i tag lo hi := by
  have h : ∀ g, granuleHolder (atBoundary s cl) i g = granuleHolder s i g := fun g =>
    congrArg (nget · 0 g) (atBoundary_keeps (·.granules) s cl (fun _ => rfl) i)
  simp only [granulesBad, h]

theorem matrixFault_atBoundary (s : State) (cl : Nat) (m : Cmd) : matrixFault (atBoundary s cl) (startedJob m) = matrixFault s m := by
  unfold matrixFault
  simp only [granulesBad_atBoundary]
  rfl

theorem bValue_atBoundary (s : State) (cl : Nat) (m : Cmd) (k j : Nat) : bValue (atBoundary s cl) m k j = bValue s m k j := by
  rw [bValue, atBoundary_keeps (·.bstore) s cl fun _ => rfl]
  rfl

theorem groupPairs_atBoundary (s : State) (cl : Nat) (m : Cmd) (i j g : Nat) :
    groupPairs (atBoundary s cl) m i j g = groupPairs s m i j g := by
  unfold groupPairs
  simp only [bValue_atBoundary]
  rfl

theorem metaBad_atBoundary (s : State) (cl : Nat) (m : Cmd) (i q : Nat) : metaBad (atBoundary s cl) m i q = metaBad s m i q := rfl

theorem stepMetaBad_atBoundary (s : State) (cl : Nat) (m : Cmd) : stepMetaBad (atBoundary s cl) m = stepMetaBad s m := by
  unfold stepMetaBad
  simp only [metaBad_atBoundary]

/-! ### A step is the job's that the engine runs -/

section
variable {s : State} {cl c id : Nat} {m : Cmd} (hrun : (getCluster s cl).runMat = some (c, id)) (hf : findCmd s c true id = some m)
  (hgo : cmdGoes m = true)
include hrun hf hgo

theorem matrixStep_mac (hst : m.prog.started = true) (hkind : m.kind = .mac) :
    exec (.matrixStep cl none) s = .next (jobStepEnds (macStep (atBoundary s cl) m none) c id) := by
  refine ifDue_some ?_
  simp only [hrun, hf, hgo, hst, isCvtJob, hkind, stepError, atBoundary]
  rfl

theorem matrixStep_cvt (hst : m.prog.started = true) (hkind : m.kind = .cvt) :
    exec (.matrixStep cl none) s = .next (jobStepEnds (cvtStep (atBoundary s cl) m none) c id) := by
  refine ifDue_some ?_
  simp only [hrun, hf, hgo, hst, isCvtJob, hkind, stepError, atBoundary]
  rfl

/-- A first step that ends its job. -/
theorem matrixStep_over (hst : m.prog.started = false) {t : State} (ht : matrixStart (atBoundary s cl) m = (t, none)) :
    exec (.matrixStep cl none) s = .next t := by
  refine ifDue_some ?_
  simp only [hrun, hf, hgo, hst]
  rw [atBoundary] at ht
  simp only [ht]
  rfl
end

theorem matrixStart_fault {s : State} {m : Cmd} {code : Nat} (h : matrixFault s (startedJob m) = some code) :
    matrixStart s m = (endCmd s (startedJob m) (some (code, 0, 0)), none) := by
  unfold matrixStart
  rw [← startedJob]
  dsimp only
  rw [h]

/-! ### What a step writes -/

theorem jobPool_poolWrite (s : State) (c a w v : Nat) (m : Cmd) : jobPool (poolWrite s c a w v) m = jobPool s m := by
  have h : tagOf (poolWrite s c a w v) m.core = tagOf s m.core := by
    rw [tagOf, poolWrite_keeps (·.tag) s c a w v fun _ => rfl, tagOf]
  rw [jobPool, jobCore, h]
  rfl

theorem samePlaces_countHeader (s : State) (m : Cmd) (nans ovfs : Nat) : SamePlaces s (countHeader s m nans ovfs) :=
  samePlaces_onCore s _ (fun _ => rfl) fun _ => rfl

/-- A job's counts reach its header. -/
theorem th_countHeader (s : State) (m : Cmd) (nans ovfs : Nat) :
    (getCore (countHeader s m nans ovfs) (jobPool s m)).th.toList[headerOf m % 8]? = some (BitVec.ofNat 32
      (stickyAdd ((getCore s (jobPool s m)).th.toList.getD (headerOf m % 8) 0).toNat nans ovfs)) := by
  have hlt : headerOf m % 8 < 8 := Nat.mod_lt _ (by decide)
  rw [countHeader, onCore_eq, getCore_putCore_self]
  simp [hlt]

/-- A job has written w bits of its pool and counted in its header. -/
def wroteAndCounted (s : State) (m : Cmd) (a w v nans ovfs : Nat) : State :=
  countHeader (poolWrite s (jobPool s m) a w v) m nans ovfs

section
variable (s : State) (m m' : Cmd) (a w v nans ovfs : Nat)

theorem samePlaces_wroteAndCounted : SamePlaces s (wroteAndCounted s m a w v nans ovfs) :=
  (samePlaces_poolWrite ..).trans (samePlaces_countHeader ..)

theorem pool_wroteAndCounted : (getCore (wroteAndCounted s m a w v nans ovfs) (jobPool s m)).pool.bits a w = v % 2 ^ w := by
  rw [wroteAndCounted, countHeader, onCore_keeps (·.pool), pool_bits_poolWrite_self]
  exact fun _ => rfl

theorem th_wroteAndCounted : (getCore (wroteAndCounted s m a w v nans ovfs) (jobPool s m)).th.toList[headerOf m % 8]? =
    some (BitVec.ofNat 32 (stickyAdd ((getCore s (jobPool s m)).th.toList.getD (headerOf m % 8) 0).toNat nans ovfs)) := by
  have h := th_countHeader (poolWrite s (jobPool s m) a w v) m nans ovfs
  rwa [jobPool_poolWrite, poolWrite_keeps (·.th) s _ a w v fun _ => rfl] at h
end

/-! ### The end of a step -/

/-- A job whose step replaces its command waits from now with its base priority. -/
theorem jobStepEnds_setCmd {s : State} {c id : Nat} {m m' : Cmd} (hf : findCmd s c true id = some m) (hid : m'.id = id)
    (hcore : m'.core = c) (hmat : m'.kind.matrix = true) : jobStepEnds (setCmd s m') c id = setCmd (setCmd s m') (stepEnds s m') ∧
      findCmd (jobStepEnds (setCmd s m') c id) c true id = some (stepEnds s m') := by
  have hset := findCmd_setCmd hf hid hcore hmat
  have hends : jobStepEnds (setCmd s m') c id = setCmd (setCmd s m') (stepEnds s m') := by
    rw [jobStepEnds, hset]
    rfl
  refine ⟨hends, ?_⟩
  rw [hends]
  exact findCmd_setCmd hset hid hcore hmat

/-- A step of a job of s that writes w bits of its pool, counts in its header and replaces its command by m', and the engine that has run
it. -/
theorem writingStep_ends {s : State} {cl c id : Nat} {m m' : Cmd} (hf : findCmd s c true id = some m) (hid : m'.id = id)
    (hcore : m'.core = c) (hmat : m'.kind.matrix = true) (a w v nans ovfs : Nat) :
    let t := jobStepEnds (setCmd (wroteAndCounted (atBoundary s cl) m a w v nans ovfs) m') c id
    (getCluster t cl).runMat = none ∧ (getCore t (jobPool s m)).pool.bits a w = v % 2 ^ w ∧
    (getCore t (jobPool s m)).th.toList[headerOf m % 8]? = some (BitVec.ofNat 32
      (stickyAdd ((getCore s (jobPool s m)).th.toList.getD (headerOf m % 8) 0).toNat nans ovfs)) ∧
    findCmd t c true id = some (stepEnds s m') := by
  have hplaces := (samePlaces_onCluster s cl _).trans (samePlaces_wroteAndCounted (atBoundary s cl) m a w v nans ovfs)
  have hpool := pool_wroteAndCounted (atBoundary s cl) m a w v nans ovfs
  have hth := th_wroteAndCounted (atBoundary s cl) m a w v nans ovfs
  have hrun : (getCluster (wroteAndCounted (atBoundary s cl) m a w v nans ovfs) cl).runMat = none := atBoundary_runMat s cl
  generalize wroteAndCounted (atBoundary s cl) m a w v nans ovfs = u at *
  intro t
  obtain ⟨ht, hfind⟩ := jobStepEnds_setCmd ((hplaces.findCmd c true id).trans hf) hid hcore hmat
  change t = _ at ht
  have hkeeps : ∀ {α : Type} (π : CoreSt → α), (∀ k q, π { k with q0 := q } = π k) → (∀ k q, π { k with q1 := q } = π k) →
      ∀ p, π (getCore t p) = π (getCore u p) := fun π h0 h1 p => by
    rw [ht, setCmd_keeps π _ _ h0 h1, setCmd_keeps π _ _ h0 h1]
  refine ⟨?_, ?_, ?_, ?_⟩
  · rw [ht]
    exact hrun
  · rw [hkeeps (·.pool) (fun _ _ => rfl) fun _ _ => rfl]
    exact hpool
  · rw [hkeeps (·.th) (fun _ _ => rfl) fun _ _ => rfl]
    exact hth
  · rw [hfind, stepEnds, hplaces.now, stepEnds]

/-! ### A tile of one element -/

/-- The job's step is that of its first block, and its tile has one element. -/
structure OneElement (m : Cmd) : Prop where
  block : m.prog.rowBlock = 0
  group : m.prog.group = 0
  rows : m.vlm = 1
  cols : m.vln = 1

theorem groupSize_cases (m : Cmd) : groupSize m = 4 ∨ groupSize m = 16 := by
  unfold groupSize groupClass
  split_ifs <;> simp

section
variable {m : Cmd} (h : OneElement m)
include h

theorem blockRows_oneElement : blockRows m = [0] := by
  rw [blockRows, h.block, h.rows]
  rfl

/-- A cvt job of one element writes it, and ends. -/
theorem cvtStep_oneElement (s : State) (hfmt : m.db.fmt < 16) :
    let y := cvtEncode m.db.scalar .rne m.prop 0
      ((decodeF .f32 (poolRead s (jobPool s m) (tileAddr m 0 0) 32)).scale (-m.db.sexp))
    cvtStep s m none = setCmd (wroteAndCounted s m (elemAddr m.db (originRow m.opb) (originCol m.opb)) m.db.scalar.width y.1 0 y.2.toNat)
      { m with prog := { m.prog with ended := true, fault := none } } := by
  intro y
  have hbq : m.db.isBq = false := by simpa [TDesc.isBq] using hfmt
  have hrow : cvtWriteRow s m 0 =
      (poolWrite s (jobPool s m) (elemAddr m.db (originRow m.opb) (originCol m.opb)) m.db.scalar.width y.1, y.2.toNat) := by
    rw [cvtWriteRow, hbq, cvtRow, h.cols]
    simp [cvtTile, y]
  have hlast : ¬ 128 * (m.prog.rowBlock + 1) < m.vlm := by rw [h.block, h.rows]; decide
  rw [cvtStep, blockRows_oneElement h]
  simp only [List.foldl_cons, List.foldl_nil, hrow, Nat.zero_add, if_neg hlast]
  rfl

omit h in
theorem groupCount_oneElement (hvlk : m.vlk = groupSize m) : groupCount m = 1 := by
  rw [groupCount, hvlk]
  exact Nat.div_self (by rcases groupSize_cases m with h | h <;> rw [h] <;> decide)

variable (hvlk : m.vlk = groupSize m)
include hvlk

theorem stepGroups_oneElement : stepGroups m = 1 := by
  rw [stepGroups, groupCount_oneElement hvlk, h.group, promotion]
  omega

theorem macProgress_oneElement : macProgress m = { m with prog := { m.prog with ended := true } } := by
  rw [macProgress, groupCount_oneElement hvlk, stepGroups_oneElement h hvlk, h.group, h.block, h.rows]
  rfl

/-- A mac job of one element and one group accumulates the group's products, and ends. -/
theorem macStep_oneElement (s : State) (hmeta : stepMetaBad s m = none) :
    let a := accStep (promotion m) true ⟨poolRead s (jobPool s m) (tileAddr m 0 0) 32, .fin false 0 0, 0, 0, 0⟩ (groupPairs s m 0 0 0)
    macStep s m none = setCmd (wroteAndCounted s m (tileAddr m 0 0) 32 a.acc a.nans a.ovfs)
      { m with prog := { m.prog with ended := true } } := by
  intro a
  have hrun : runGroups s m 0 0 0 1 (poolRead s (jobPool s m) (tileAddr m 0 0) 32) = a := rfl
  have hprog := macProgress_oneElement h hvlk
  generalize ({ m with prog := { m.prog with ended := true } } : Cmd) = m' at hprog ⊢
  rw [macStep, hmeta]
  dsimp only
  rw [blockRows_oneElement h, h.cols, h.group, stepGroups_oneElement h hvlk, hprog]
  simp [hrun, wroteAndCounted]

theorem stepMetaBad_oneElement (s : State) (hsp : isSparse m = true) :
    stepMetaBad s m = ((List.range (groupSize m / 4)).find? fun q => metaBad s m 0 q).map fun q => (0, q) := by
  rw [stepMetaBad, hsp, blockRows_oneElement h, stepGroups_oneElement h hvlk, h.group]
  simp [List.findSome?]
  cases (List.range (groupSize m / 4)).find? fun q => metaBad s m 0 q <;> rfl
end

section
variable {s : State} {cl c id : Nat} {m : Cmd} (hrun : (getCluster s cl).runMat = some (c, id)) (hf : findCmd s c true id = some m)
  (hgo : cmdGoes m = true) (hst : m.prog.started = true) (hcore : m.core = c) (hmat : m.kind.matrix = true) (h : OneElement m)
include hrun hf hgo hst hcore hmat h

/-- A step of a mac job of one element and one group. -/
theorem matrixStep_accumulates (hkind : m.kind = .mac) (hvlk : m.vlk = groupSize m) (hmeta : stepMetaBad s m = none) {a : AccSt}
    (ha : accStep (promotion m) true ⟨poolRead s (jobPool s m) (tileAddr m 0 0) 32, .fin false 0 0, 0, 0, 0⟩ (groupPairs s m 0 0 0) = a) :
    ∃ t, exec (.matrixStep cl none) s = .next t ∧
    (getCluster t cl).runMat = none ∧ (getCore t (jobPool s m)).pool.bits (tileAddr m 0 0) 32 = a.acc % 2 ^ 32 ∧
    (getCore t (jobPool s m)).th.toList[headerOf m % 8]? = some (BitVec.ofNat 32
      (stickyAdd ((getCore s (jobPool s m)).th.toList.getD (headerOf m % 8) 0).toNat a.nans a.ovfs)) ∧
    findCmd t c true id = some (stepEnds s { m with prog := { m.prog with ended := true } }) := by
  have hid := findCmd_id hf
  have hstep := matrixStep_mac hrun hf hgo hst hkind
  have hmac := macStep_oneElement h hvlk (atBoundary s cl) ((stepMetaBad_atBoundary s cl m).trans hmeta)
  dsimp only at hmac
  rw [groupPairs_atBoundary] at hmac
  have hpool : poolRead (atBoundary s cl) (jobPool (atBoundary s cl) m) (tileAddr m 0 0) 32 =
    poolRead s (jobPool s m) (tileAddr m 0 0) 32 := rfl
  rw [hpool, ha] at hmac
  rw [hmac] at hstep
  exact ⟨_, hstep, writingStep_ends (m' := { m with prog := { m.prog with ended := true } }) hf hid hcore hmat (tileAddr m 0 0) 32 a.acc
    a.nans a.ovfs⟩

/-- A step of a cvt job of one element. -/
theorem matrixStep_converts (hkind : m.kind = .cvt) (hfmt : m.db.fmt < 16) {y : Nat × Bool}
    (hy : cvtEncode m.db.scalar .rne m.prop 0 ((decodeF .f32 (poolRead s (jobPool s m) (tileAddr m 0 0) 32)).scale (-m.db.sexp)) = y) :
    ∃ t, exec (.matrixStep cl none) s = .next t ∧
    (getCore t (jobPool s m)).pool.bits (elemAddr m.db (originRow m.opb) (originCol m.opb)) m.db.scalar.width =
      y.1 % 2 ^ m.db.scalar.width ∧
    (getCore t (jobPool s m)).th.toList[headerOf m % 8]? = some (BitVec.ofNat 32
      (stickyAdd ((getCore s (jobPool s m)).th.toList.getD (headerOf m % 8) 0).toNat 0 y.2.toNat)) ∧
    findCmd t c true id = some (stepEnds s { m with prog := { m.prog with ended := true, fault := none } }) := by
  have hid := findCmd_id hf
  have hstep := matrixStep_cvt hrun hf hgo hst hkind
  have hcvt := cvtStep_oneElement h (atBoundary s cl) hfmt
  dsimp only at hcvt
  have hpool : poolRead (atBoundary s cl) (jobPool (atBoundary s cl) m) (tileAddr m 0 0) 32 =
    poolRead s (jobPool s m) (tileAddr m 0 0) 32 := rfl
  rw [hpool, hy] at hcvt
  rw [hcvt] at hstep
  obtain ⟨-, hrest⟩ := writingStep_ends (cl := cl) (m' := { m with prog := { m.prog with ended := true, fault := none } }) hf
    hid hcore hmat (elemAddr m.db (originRow m.opb) (originCol m.opb)) m.db.scalar.width y.1 0 y.2.toNat
  exact ⟨_, hstep, hrest⟩
end

/-! ### What a fault leaves (08 R372), and zi -/

/-- A mac job stops: its pool changes, and it has ended with the fault. -/
theorem stopMac_ends (s : State) (m : Cmd) (code row col : Nat) (hit : Nat → Nat → Bool) : ∃ u, SamePlaces s u ∧
    stopMac s m code row col hit = endCmd u m (some (code, row, col)) :=
  ⟨_, samePlaces_foldl (fun _ _ => samePlaces_poolWrite ..) _ s, rfl⟩

/-- A mac job of which a group's metadata R174 shuts out ends. -/
theorem matrixStep_metaBad {s : State} {cl c id : Nat} {m : Cmd} (hrun : (getCluster s cl).runMat = some (c, id))
    (hf : findCmd s c true id = some m) (hgo : cmdGoes m = true) (hst : m.prog.started = true) (hcore : m.core = c)
    (hmat : m.kind.matrix = true) (hkind : m.kind = .mac) {i q : Nat} (hbad : stepMetaBad (atBoundary s cl) m = some (i, q)) :
    ∃ t, exec (.matrixStep cl none) s = .next t ∧ findCmd t c true id =
      some (stepEnds s (endedCmd m (some (0x1C9, i, 4 * q)))) := by
  have hid := findCmd_id hf
  have hstep := matrixStep_mac hrun hf hgo hst hkind
  obtain ⟨u, hu, hstop⟩ := stopMac_ends (atBoundary s cl) m 0x1C9 i (4 * q) fun i _ =>
    (List.range (m.vlk / 4)).any fun q => metaBad (atBoundary s cl) m i q
  have hmac : macStep (atBoundary s cl) m none = endCmd u m (some (0x1C9, i, 4 * q)) := by
    rw [macStep, hbad]
    exact hstop
  rw [hmac, endCmd_eq] at hstep
  have hplaces := (samePlaces_onCluster s cl _).trans hu
  obtain ⟨-, hfind⟩ := jobStepEnds_setCmd (m' := endedCmd m (some (0x1C9, i, 4 * q))) ((hplaces.findCmd c true id).trans hf) hid hcore hmat
  refine ⟨_, hstep, hfind.trans ?_⟩
  rw [stepEnds, hplaces.now, stepEnds]

/-- The progress of a started job whose tile is found as `saved`. -/
def savedJob (m : Cmd) (saved : List Nat) : Cmd := { m with prog := { m.prog with started := true, saved := saved } }

/-- The tile after zi. -/
def zeroed (s : State) (m : Cmd) : State := if zeroFirst m then poolWrite s (jobPool s m) (tileAddr m 0 0) 32 0 else s

theorem samePlaces_zeroed (s : State) (m : Cmd) : SamePlaces s (zeroed s m) := by
  unfold zeroed
  split_ifs
  · exact samePlaces_poolWrite ..
  · exact SamePlaces.refl s

theorem pool_zeroed (s : State) (m : Cmd) : (getCore (zeroed s m) (jobPool s m)).pool.bits (tileAddr m 0 0) 32 =
    if zeroFirst m then 0 else poolRead s (jobPool s m) (tileAddr m 0 0) 32 := by
  unfold zeroed
  split_ifs
  · exact pool_bits_poolWrite_self ..
  · rfl

/-- The first step of a mac job of one element and no products. -/
theorem matrixStart_noProducts {s : State} {m : Cmd} (hm : matrixFault s (startedJob m) = none) (hkind : m.kind = .mac) (h1 : m.vlm = 1)
    (h2 : m.vln = 1) (h3 : m.vlk = 0) : matrixStart s m =
      (endCmd (zeroed s m) (savedJob m [poolRead s (jobPool s m) (tileAddr m 0 0) 32]) none, none) := by
  have h1' : (startedJob m).vlm = 1 := h1
  have h2' : (startedJob m).vln = 1 := h2
  have h3' : (startedJob m).vlk = 0 := h3
  have hne : ¬ ((startedJob m).vlm = 0 ∨ (startedJob m).vln = 0) := by rw [h1', h2']; decide
  have hcvt : ¬ isCvtJob (startedJob m) = true := by rw [isCvtJob, startedJob, hkind]; decide
  have hcells : ((List.range (startedJob m).vlm).flatMap fun i => (List.range (startedJob m).vln).map fun j => (i, j)) = [(0, 0)] := by
    rw [h1', h2']
    rfl
  rw [matrixStart, ← startedJob]
  dsimp only
  rw [hm]
  dsimp only
  rw [if_neg hne, if_neg hcvt, if_pos h3', hcells]
  rfl

/-! ### The side memory of a sparse job (08 R174) -/

theorem metaAddr_zero (m : Cmd) (q : Nat) : metaAddr m 0 q = m.opa / 2 ^ 32 % 2 ^ 16 + 4 * q := by
  rw [metaAddr, Nat.zero_mul, Nat.zero_add]
  rfl

/-- Both halves of a code of metadata, of four bits. -/
theorem metaCode_halves (s : State) (m : Cmd) (q : Nat) :
    bitsAt (metaCode s m 0 q) 0 2 = metaCode s m 0 q % 4 ∧ bitsAt (metaCode s m 0 q) 2 2 = metaCode s m 0 q / 4 := by
  have h : metaCode s m 0 q < 2 ^ 4 := Nat.mod_lt _ (by decide)
  simp only [bitsAt]
  omega

theorem metaBad_iff (s : State) (m : Cmd) (q : Nat) : metaBad s m 0 q = true ↔
    ¬ (m.opa / 2 ^ 32 % 2 ^ 16 + 4 * q + 4 ≤ 2 ^ 16 ∧ metaCode s m 0 q % 4 < metaCode s m 0 q / 4) := by
  obtain ⟨hlow, hhigh⟩ := metaCode_halves s m q
  rw [metaBad, hlow, hhigh, metaAddr_zero, Bool.or_eq_true, decide_eq_true_iff, decide_eq_true_iff]
  omega

/-! ### Records (08 R176, 16 R281) -/

/-- t has the records of s, and its jobs in their places. -/
def SameRecords (s t : State) : Prop := ∀ c, (getCore t c).res = (getCore s c).res ∧ (getCore t c).doneQ = (getCore s c).doneQ ∧
  (getCore t c).q0 = (getCore s c).q0

theorem SameRecords.refl (s : State) : SameRecords s s := fun _ => ⟨rfl, rfl, rfl⟩

theorem SameRecords.trans {s t u : State} (h : SameRecords s t) (g : SameRecords t u) : SameRecords s u := fun c =>
  ⟨(g c).1.trans (h c).1, (g c).2.1.trans (h c).2.1, (g c).2.2.trans (h c).2.2⟩

theorem sameRecords_onCore (s : State) (c : Nat) {f : CoreSt → CoreSt} (hr : ∀ k, (f k).res = k.res) (hd : ∀ k, (f k).doneQ = k.doneQ)
    (hq : ∀ k, (f k).q0 = k.q0) : SameRecords s (onCore s c f) := fun p =>
  ⟨onCore_keeps (·.res) s c hr p, onCore_keeps (·.doneQ) s c hd p, onCore_keeps (·.q0) s c hq p⟩

theorem sameRecords_wakeMclr (s : State) (c : Nat) : SameRecords s (wakeMclr s c) := by
  unfold wakeMclr
  generalize List.range 8 = ls
  induction ls generalizing s with
  | nil => exact SameRecords.refl s
  | cons l ls ih =>
    refine SameRecords.trans ?_ (ih _)
    dsimp only
    split
    · split_ifs
      · exact SameRecords.refl s
      · exact sameRecords_onCore (f := fun k => clearHeader k _) s c (fun _ => rfl) (fun _ => rfl) fun _ => rfl
    · exact SameRecords.refl s

/-- An entry of a map stands in it after a write, unless it is what its key read as. -/
theorem mem_nset_of_mem {α : Type} {m : NMap α} {k : Nat} {v : α} {e : Nat × α} (h : e ∈ m) : e ∈ nset m k v ∨ nget? m k = some e.2 := by
  induction m with
  | nil => exact absurd h List.not_mem_nil
  | cons x m ih =>
    obtain ⟨i, a⟩ := x
    rw [nset, nget?]
    rcases List.mem_cons.1 h with rfl | hm
    · by_cases hik : i = k
      · exact .inr (if_pos hik)
      · refine .inl ?_
        split_ifs <;> simp
    · rcases ih hm with hmem | hget
      · refine .inl ?_
        split_ifs <;> simp [hm, hmem]
      · by_cases hik : i = k
        · exact .inl (by rw [if_pos hik]; exact List.mem_cons_of_mem _ hm)
        · exact .inr ((if_neg hik).trans hget)

/-- What some core is, some core is after a change that keeps it. -/
theorem cores_any_onCore {s : State} {p : Nat × CoreSt → Bool} {c : Nat} {f : CoreSt → CoreSt} (hf : ∀ i j k, p (i, f k) = p (j, k))
    (h : s.cores.any p = true) : (onCore s c f).cores.any p = true := by
  obtain ⟨e, he, hp⟩ := List.any_eq_true.1 h
  refine List.any_eq_true.2 ?_
  rcases mem_nset_of_mem (k := c) (v := f (getCore s c)) he with hmem | hget
  · exact ⟨e, hmem, hp⟩
  · refine ⟨(c, f (getCore s c)), mem_of_nget? (nget?_nset_self ..), ?_⟩
    rw [hf c e.1, getCore, nget, hget]
    exact hp

/-- A strand that exists exists after a change of a core that keeps its records and its replies. -/
theorem sidAlive_onCore {s : State} {sid : Nat} (h : sidAlive s sid = true) (c : Nat) {f : CoreSt → CoreSt}
    (hd : ∀ k, (f k).deque = k.deque) (hr : ∀ k, (f k).ring = k.ring) (hi : ∀ k, (f k).inbox = k.inbox) :
    sidAlive (onCore s c f) sid = true := by
  unfold sidAlive at h ⊢
  simp only [Bool.or_eq_true] at h ⊢
  rcases h with (((h | h) | h) | h) | h
  · exact .inl (.inl (.inl (.inl h)))
  · exact .inl (.inl (.inl (.inr (cores_any_onCore (fun _ _ k => by rw [hd, hr]) h))))
  · exact .inl (.inl (.inr h))
  · exact .inl (.inr h)
  · exact .inr (cores_any_onCore (fun _ _ k => by rw [hi]) h)

/-- A core of whose matrix jobs one has left its place. -/
def vacated (id : Nat) (k : CoreSt) : CoreSt := { k with q0 := k.q0.filter fun m => m.id != id }

/-- A record enters the result side of its core. -/
theorem enterRecord_enters {s : State} {c : Nat} {r : Result} (h : sidAlive s r.sid = true) :
    enterRecord s c r = putCore s c { vacated r.job (getCore s c) with res := (getCore s c).res ++ [r] } := by
  have halive : sidAlive (onCore s c (vacated r.job)) r.sid = true :=
    sidAlive_onCore h c (fun _ => rfl) (fun _ => rfl) fun _ => rfl
  refine (if_pos halive).trans ?_
  simp only [onCore_eq, getCore_putCore_self, putCore_putCore_self]
  rfl

/-- The engine's places without a job that completes, and the job's core, whose burst is idle from now. -/
def leftEngine (s : State) (m : Cmd) : State :=
  onCore (onCluster s (jobCluster m) fun x =>
    { x with remotePlaces := x.remotePlaces.filter (· != (m.core, m.id)), remoteQ := x.remoteQ.filter (· != (m.core, m.id))
             runMat := if x.runMat = some (m.core, m.id) then none else x.runMat }) m.core
    fun k => { k with burst := k.burst.map fun b => { b with idleSince := s.now } }

theorem sameRecords_leftEngine (s : State) (m : Cmd) : SameRecords s (leftEngine s m) :=
  sameRecords_onCore (onCluster s (jobCluster m) _) m.core
    (f := fun k => { k with burst := k.burst.map fun b => { b with idleSince := s.now } })
    (fun _ => rfl) (fun _ => rfl) fun _ => rfl

theorem sidAlive_leftEngine {s : State} {sid : Nat} (h : sidAlive s sid = true) (m : Cmd) : sidAlive (leftEngine s m) sid = true :=
  sidAlive_onCore (s := onCluster s (jobCluster m) _) h m.core
    (f := fun k => { k with burst := k.burst.map fun b => { b with idleSince := s.now } }) (fun _ => rfl) (fun _ => rfl) fun _ => rfl

/-- A job that completes leaves its record in the result side. -/
theorem completeJob_enters {s : State} {m : Cmd} (word : Nat) (hroom : (getCore s m.core).res.length < 4)
    (hdone : (getCore s m.core).doneQ = []) (h : sidAlive s m.sid = true) : let t := completeJob s m word
    (getCore t m.core).res = (getCore s m.core).res ++ [⟨m.sid, m.id, word⟩] ∧
      (getCore t m.core).q0 = (getCore s m.core).q0.filter fun x => x.id != m.id := by
  obtain ⟨hres, hdq, hq0⟩ := sameRecords_leftEngine s m m.core
  have halive : sidAlive (leftEngine s m) (⟨m.sid, m.id, word⟩ : Result).sid = true := sidAlive_leftEngine h m
  have hin : ((getCore (leftEngine s m) m.core).res.length < 4 && (getCore (leftEngine s m) m.core).doneQ.isEmpty) = true := by
    rw [hres, hdq, hdone]
    simpa using hroom
  have ht : completeJob s m word = wakeMclr (enterRecord (leftEngine s m) m.core ⟨m.sid, m.id, word⟩) m.core :=
    congrArg (wakeMclr · m.core) (if_pos hin)
  obtain ⟨hres', -, hq0'⟩ := sameRecords_wakeMclr (enterRecord (leftEngine s m) m.core ⟨m.sid, m.id, word⟩) m.core m.core
  dsimp only
  rw [ht, hres', hq0', enterRecord_enters halive, getCore_putCore_self, hres, vacated, hq0]
  exact ⟨rfl, rfl⟩

/-- A job that completes while the result side is full waits in DONE. -/
theorem completeJob_waits {s : State} {m : Cmd} (word : Nat) (hfull : 4 ≤ (getCore s m.core).res.length) :
    let t := completeJob s m word
    (getCore t m.core).res = (getCore s m.core).res ∧ (getCore t m.core).doneQ = (getCore s m.core).doneQ ++ [⟨m.sid, m.id, word⟩] := by
  obtain ⟨hres, hdq, -⟩ := sameRecords_leftEngine s m m.core
  have hin : ¬ ((getCore (leftEngine s m) m.core).res.length < 4 && (getCore (leftEngine s m) m.core).doneQ.isEmpty) = true := by
    rw [hres]
    simp
    omega
  have ht : completeJob s m word = wakeMclr (onCore (setCmd (leftEngine s m) { m with st := .done }) m.core fun k =>
      { k with doneQ := k.doneQ ++ [⟨m.sid, m.id, word⟩] }) m.core := congrArg (wakeMclr · m.core) (if_neg hin)
  obtain ⟨hres', hdq', -⟩ := sameRecords_wakeMclr (onCore (setCmd (leftEngine s m) { m with st := .done }) m.core fun k =>
      { k with doneQ := k.doneQ ++ [⟨m.sid, m.id, word⟩] }) m.core m.core
  dsimp only
  rw [ht, hres', hdq', onCore_eq, getCore_putCore_self]
  exact ⟨(setCmd_keeps (·.res) _ _ (fun _ _ => rfl) (fun _ _ => rfl) _).trans hres,
    congrArg (· ++ _) ((setCmd_keeps (·.doneQ) _ _ (fun _ _ => rfl) (fun _ _ => rfl) _).trans hdq)⟩

/-- The record of a job that has run, and of one that no engine took. -/
theorem recordWord_ok (m : Cmd) (hdr : Nat) : recordWord m hdr 0 = m.id % 2 ^ 16 * 2 ^ 48 + hdr % 2 ^ 32 * 2 ^ 16 := by
  rw [recordWord, Nat.zero_mod, Nat.add_zero]

theorem recordWord_refused (m : Cmd) : recordWord m 0 1 = m.id % 2 ^ 16 * 2 ^ 48 + 1 := by
  rw [recordWord, Nat.zero_mod, Nat.zero_mul, Nat.add_zero]

/-- A job that has ended with no fault completes with its header. -/
theorem matrixJobComplete_done {s : State} {cl : Nat} {m : Cmd} (hended : endedJob s cl = some m) (hfault : m.prog.fault = none) :
    exec (.matrixJobComplete cl) s = .next (completeJob s m (recordWord m (headerNow s m) 0)) := by
  refine ifDue_some ?_
  rw [hended, Option.map_some]
  dsimp only
  rw [hfault]

theorem resultRecordEnter_enters {s : State} {c : Nat} {r : Result} {rest : List Result} (hdone : (getCore s c).doneQ = r :: rest)
    (hroom : (getCore s c).res.length < 4) : exec (.resultRecordEnter c) s =
      .next (enterRecord (onCore s c fun k => { k with doneQ := rest }) c r) := by
  refine ifDue_some ?_
  simp only [hdone, hroom, if_true]

/-! ### Remote jobs (08 R177) -/

section
variable {s : State} {c j e cap : Nat} {m : Cmd} (hj : (getCore s c).q0[j]? = some m) (hremote : m.remote = .onWay e cap)
include hj hremote

theorem mjobrArrival_refused (hok : capOk s m e cap = false) : exec (.mjobrArrival c j) s =
    .next (completeJob s { m with prog := { m.prog with ended := true } } (recordWord m 0 1)) := by
  refine ifDue_some ?_
  rw [hj, Option.bind_some]
  split
  case h_1 e' cap' h =>
    obtain ⟨rfl, rfl⟩ := Remote.onWay.inj (hremote.symm.trans h)
    rw [hok, if_neg Bool.false_ne_true]
  case h_2 h => exact absurd hremote (h e cap)

theorem mjobrArrival_taken (hok : capOk s m e cap = true) : exec (.mjobrArrival c j) s =
    .next (onCluster (setCmd s { m with remote := .waiting e cap }) e fun x => { x with remoteQ := x.remoteQ ++ [(c, m.id)] }) := by
  refine ifDue_some ?_
  rw [hj, Option.bind_some]
  split
  case h_1 e' cap' h =>
    obtain ⟨rfl, rfl⟩ := Remote.onWay.inj (hremote.symm.trans h)
    rw [if_pos hok]
  case h_2 h => exact absurd hremote (h e cap)
end

/-- A capability for another partition does not hold. -/
theorem capOk_otherTag {s : State} {m : Cmd} {e cap : Nat} (h : cap / 2 ^ 49 % 2 ^ 6 ≠ tagOf s m.core) : capOk s m e cap = false := by
  have hne : (bitsAt cap 49 6 == tagOf s m.core) = false := beq_eq_false_iff_ne.2 h
  rw [capOk]
  simp [hne]

/-- The place of a matrix job that is replaced. -/
theorem setCmd_place {s : State} {m m' : Cmd} {j : Nat} (hj : (getCore s m'.core).q0[j]? = some m) (hid : m'.id = m.id)
    (hmat : m'.kind.matrix = true) : (getCore (setCmd s m') m'.core).q0[j]? = some m' := by
  rw [setCmd, onCore_eq, getCore_putCore_self]
  rw [if_pos hmat, List.getElem?_map, hj, Option.map_some, hid, beq_self_eq_true, if_pos rfl]

theorem remotePlaceGrant_grants {s : State} {cl c id t cap : Nat} {rest : List (Nat × Nat)} {m : Cmd}
    (hq : (getCluster s cl).remoteQ = (c, id) :: rest) (hroom : (getCluster s cl).remotePlaces.length < 8)
    (hf : findCmd s c true id = some m) (hremote : m.remote = .waiting t cap) : exec (.remotePlaceGrant cl) s =
      .next (setCmd (onCluster s cl fun x => { x with remoteQ := rest, remotePlaces := x.remotePlaces ++ [(c, id)] })
        { m with remote := .placed t cap, ready := true, readyAt := s.now, aged := m.pri, agedAt := s.now }) := by
  refine ifDue_some ?_
  have hf' : findCmd (onCluster s cl fun x => { x with remoteQ := rest, remotePlaces := x.remotePlaces ++ [(c, id)] }) c true id =
    some m := hf
  rw [hq]
  dsimp only
  rw [if_pos hroom, hf', Option.bind_some]
  rw [hremote]
  rfl

end Sys2Proof.Machine

open Sys2Proof Sys2Proof.Machine

/-- Settles O47: each step of a job of one element as the support above computes it, and the job's record and its remote place. -/
theorem matrixSteps : Obligations.MatrixSteps := by
  intro cl c id j m s hcore hmat k gs p old stepped oneElement counted accumulates code good entered
  refine ⟨fun hrun hf hgo => ⟨?_, fun hone hkind hvlk => ?_, fun hone hkind hfmt => ?_, ?_⟩, fun hended hfault => ?_, ?_,
    fun e cap hj hremote => ⟨fun htag => ?_, fun hok => ?_⟩, ?_⟩
  · intro code hst hbad
    have hid := findCmd_id hf
    refine ⟨_, matrixStep_over hrun hf hgo hst (matrixStart_fault ((matrixFault_atBoundary s cl m).trans hbad)), atBoundary_runMat s cl, ?_⟩
    exact findCmd_setCmd (s := atBoundary s cl) hf hid hcore hmat
  · obtain ⟨hst, hblock, hgroup, hrows, hcols⟩ := hone
    have hone : OneElement m := ⟨hblock, hgroup, hrows, hcols⟩
    have hacc : ∀ pairs, stepMetaBad s m = none → groupPairs s m 0 0 0 = pairs → accumulates pairs := by
      rintro pairs hmeta rfl
      exact matrixStep_accumulates hrun hf hgo hst hcore hmat hone hkind hvlk hmeta rfl
    have hbad : ∀ q, metaBad s m 0 q = true ↔ ¬ good q := fun q => by
      rw [metaBad_iff, metaCode, metaAddr_zero, hcore]
    refine ⟨fun hsp => hacc _ ?_ ?_, fun hsp hgood => hacc _ ?_ ?_, fun q hq hsp hq' hgood => ?_⟩
    · rw [stepMetaBad, hsp]
      rfl
    · simp [groupPairs, hsp, gs]
    · rw [stepMetaBad_oneElement hone hvlk s hsp, List.find?_eq_none.2, Option.map_none]
      intro q hq
      rw [hbad, not_not]
      exact hgood q (List.mem_range.1 hq)
    · simp only [groupPairs, hsp, if_pos, Nat.zero_mul, Nat.zero_add, (metaCode_halves s m _).1, (metaCode_halves s m _).2]
      simp only [metaCode, metaAddr_zero, hcore]
      rfl
    · have hfind : stepMetaBad (atBoundary s cl) m = some (0, q) := by
        rw [stepMetaBad_atBoundary, stepMetaBad_oneElement hone hvlk s hsp, List.find?_range_eq_some.2 ⟨(hbad q).2 hq', ?_, fun r hr => ?_⟩]
        · rfl
        · exact List.mem_range.2 hq
        · rw [Bool.not_eq_true', Bool.eq_false_iff, Ne, hbad, not_not]
          exact hgood r hr
      exact matrixStep_metaBad hrun hf hgo hst hcore hmat hkind hfind
  · obtain ⟨hst, hblock, hgroup, hrows, hcols⟩ := hone
    exact matrixStep_converts hrun hf hgo hst hcore hmat ⟨hblock, hgroup, hrows, hcols⟩ hkind hfmt rfl
  · intro hst hnone hkind hrows hcols hprod
    have hid := findCmd_id hf
    have hstart := matrixStart_noProducts ((matrixFault_atBoundary s cl m).trans hnone) hkind hrows hcols hprod
    refine ⟨_, matrixStep_over hrun hf hgo hst hstart, ?_, ?_⟩
    · rw [endCmd, setCmd_keeps (·.pool) _ _ (fun _ _ => rfl) fun _ _ => rfl]
      exact pool_zeroed (atBoundary s cl) m
    · exact findCmd_setCmd (((samePlaces_zeroed (atBoundary s cl) m).findCmd c true id).trans hf) hid hcore hmat
  · subst hcore
    refine ⟨_, matrixJobComplete_done hended hfault, ?_⟩
    rw [← recordWord_ok]
    exact ⟨completeJob_enters _, completeJob_waits _⟩
  · intro r rest hdone hroom halive
    have h1 : sidAlive (onCore s c fun k => { k with doneQ := rest }) r.sid = true :=
      sidAlive_onCore halive c (fun _ => rfl) (fun _ => rfl) fun _ => rfl
    refine ⟨_, resultRecordEnter_enters hdone hroom, ?_⟩
    rw [enterRecord_enters h1, getCore_putCore_self, onCore_eq, getCore_putCore_self]
    exact ⟨rfl, rfl⟩
  · subst hcore
    have hno : capOk s m e cap = false := capOk_otherTag htag
    refine ⟨_, mjobrArrival_refused hj hremote hno, ?_⟩
    rw [← recordWord_refused]
    exact ⟨completeJob_enters (m := { m with prog := { m.prog with ended := true } }) _,
      completeJob_waits (m := { m with prog := { m.prog with ended := true } }) _⟩
  · subst hcore
    refine ⟨_, mjobrArrival_taken hj hremote hok, ?_, ?_⟩
    · rw [onCluster_eq, getCluster_putCluster_self]
      rfl
    · exact setCmd_place (m' := { m with remote := .waiting e cap }) hj rfl hmat
  · intro rest e cap hq hroom hf hremote
    have hid := findCmd_id hf
    refine ⟨_, remotePlaceGrant_grants hq hroom hf hremote, ?_, ?_, ?_⟩
    · exact congrArg (·.remoteQ) (getCluster_putCluster_self ..)
    · exact congrArg (·.remotePlaces) (getCluster_putCluster_self ..)
    · exact findCmd_setCmd (s := onCluster s cl _) hf hid hcore hmat

end

section
/-! SUPPORT. What an access of an engine does where nothing is under way: in a pool, in a B store, and in a page that the core has cached
(08 R163, R164, R180; 12 R249). -/

namespace Sys2Proof.Machine

/-! ### Bits of memory that a write leaves (03 R44) -/

theorem Memory.testBit_bytes (m : Memory) (b : Nat) {n i : Nat} (h : i < 8 * n) :
    (m.bytes b n).testBit i = (m.read (b + i / 8)).toNat.testBit (i % 8) := by
  rw [← Memory.byte_of_bytes m b (show i / 8 < n by omega), Nat.testBit_mod_two_pow, Nat.testBit_div_two_pow, Nat.mod_add_div,
    decide_eq_true (Nat.mod_lt i (by decide)), Bool.true_and]

theorem Memory.testBit_bits (m : Memory) (a w i : Nat) :
    (m.bits a w).testBit i = (decide (i < w) && (m.read ((a + i) / 8)).toNat.testBit ((a + i) % 8)) := by
  rw [Memory.bits, bitsAt, Nat.testBit_mod_two_pow, Nat.testBit_div_two_pow]
  by_cases hi : i < w
  · have hspan : a % 8 + i < 8 * byteSpan a w := by rw [byteSpan]; omega
    rw [Nat.add_comm i, Memory.testBit_bytes m _ hspan, show a / 8 + (a % 8 + i) / 8 = (a + i) / 8 by omega,
      show (a % 8 + i) % 8 = (a + i) % 8 by omega]
  · rw [decide_eq_false hi, Bool.false_and, Bool.false_and]

/-- A bit that is not written keeps its value. -/
theorem Memory.testBit_setBits_outside (m : Memory) (a w v : Nat) {i : Nat} (h : i < a ∨ a + w ≤ i) :
    ((m.setBits a w v).read (i / 8)).toNat.testBit (i % 8) = (m.read (i / 8)).toNat.testBit (i % 8) := by
  by_cases hout : i / 8 < a / 8 ∨ a / 8 + byteSpan a w ≤ i / 8
  · rw [Memory.read_setBits_outside m a w v hout]
  · obtain ⟨j, hj⟩ : ∃ j, i = 8 * (a / 8) + j := ⟨i - 8 * (a / 8), by omega⟩
    have hspan : j < 8 * byteSpan a w := by omega
    have hbyte : i / 8 = a / 8 + j / 8 := by omega
    have hbit : i % 8 = j % 8 := by omega
    have hfield : ¬ (a % 8 ≤ j ∧ j < a % 8 + w) := by omega
    rw [hbyte, hbit, ← Memory.testBit_bytes _ _ hspan, ← Memory.testBit_bytes _ _ hspan, Memory.setBits, Memory.bytes_setBytes,
      Nat.testBit_mod_two_pow, decide_eq_true hspan, Bool.true_and, testBit_setBits, if_neg hfield]

theorem Memory.bits_setBits_outside (m : Memory) {a w : Nat} (v : Nat) {b n : Nat} (h : b + n ≤ a ∨ a + w ≤ b) :
    (m.setBits a w v).bits b n = m.bits b n := by
  refine Nat.eq_of_testBit_eq fun i => ?_
  rw [Memory.testBit_bits, Memory.testBit_bits]
  by_cases hi : i < n
  · rw [Memory.testBit_setBits_outside m a w v (by omega)]
  · rw [decide_eq_false hi, Bool.false_and, Bool.false_and]

/-! ### Nothing is under way -/

/-- No core has an access under way. -/
def Idle (s : State) : Prop := ∀ e ∈ s.cores, e.2.requests = [] ∧ e.2.reds = []

section
variable {s : State} (h : Idle s)
include h

theorem Idle.still (c : Nat) : Still s c := by
  rcases getCore_mem s c with hm | hm
  · exact h _ hm
  · rw [Still, hm]
    exact ⟨rfl, rfl⟩

theorem Idle.flushAll (which : Nat → Req → Bool) : flushAll s which = s :=
  flushAll_none fun e he q hq => by
    obtain ⟨hreq, hred⟩ := h e he
    rw [hreq, hred] at hq
    cases hq

theorem Idle.onCore (c : Nat) {f : CoreSt → CoreSt} (hq : ∀ k, (f k).requests = k.requests) (hr : ∀ k, (f k).reds = k.reds) :
    Idle (onCore s c f) := by
  obtain ⟨hreq, hred⟩ := h.still c
  exact all_nset (p := fun k : CoreSt => k.requests = [] ∧ k.reds = []) h c ⟨(hq _).trans hreq, (hr _).trans hred⟩

theorem Idle.poolWrite (c a w v : Nat) : Idle (poolWrite s c a w v) :=
  h.onCore c (f := fun k => { k with pool := k.pool.setBits a w v }) (fun _ => rfl) fun _ => rfl

theorem Idle.setCmd (m : Cmd) : Idle (setCmd s m) := by
  refine h.onCore m.core (fun k => ?_) fun k => ?_ <;> split_ifs <;> rfl
end

/-! ### Pools and B stores -/

theorem poolRead_mod (s : State) (c a w : Nat) : poolRead s c a w % 2 ^ w = poolRead s c a w := Nat.mod_mod ..

section
variable {e : Eng} {c : Nat} (h : Still e.s c) (a w v : Nat) (fn : AtomicFn)

include h in
theorem engPool_still : engPool e c a w = e := by rw [engPool, flush_still h]

include h in
theorem engRead_pool : engRead e (.pool c) a w = .ok e (poolRead e.s c a w) := by rw [engRead, engPool_still h]

theorem engWrite_pool (hlate : e.late = false) : engWrite e (.pool c) a w v = .ok { e with s := poolWrite e.s c a w v } () := by
  rw [engWrite, if_neg (Bool.eq_false_iff.1 hlate)]

theorem engWrite_pool_late (hlate : e.late = true) : engWrite e (.pool c) a w v =
    .ok { e with s := fly e.s c (engLater e a [] (.poolWrite [(a, w, v % 2 ^ w)])) } () := by
  rw [engWrite, if_pos hlate]

include h in
/-- A read-modify-write of a pool that writes. -/
theorem engAtomic_pool_writes {v : Nat} (hv : atomicNew fn (poolRead e.s c a w) = some v) : engAtomic e (.pool c) a w fn =
    .ok { e with s := poolWrite e.s c a w v, late := false } (poolRead e.s c a w) := by
  have hread : engRead { e with late := false } (.pool c) a w = .ok { e with late := false } (poolRead e.s c a w) :=
    engRead_pool (e := { e with late := false }) h a w
  rw [engAtomic, hread, andThen, hv]
  · rfl
  · nofun

include h in
/-- A compare in a pool that fails. -/
theorem engAtomic_pool_keeps (hv : atomicNew fn (poolRead e.s c a w) = none) : engAtomic e (.pool c) a w fn =
    .ok { e with late := false } (poolRead e.s c a w) := by
  have hread : engRead { e with late := false } (.pool c) a w = .ok { e with late := false } (poolRead e.s c a w) :=
    engRead_pool (e := { e with late := false }) h a w
  rw [engAtomic, hread, andThen, hv]
  nofun
end

/-- A cluster of whose B store w bits have been written. -/
def storeWritten (a w v : Nat) (x : Cluster) : Cluster := { x with bstore := x.bstore.setBits a w v }

theorem engWrite_store (e : Eng) (cl a w v : Nat) :
    engWrite e (.store cl) a w v = .ok { e with s := onCluster (wakeGranules e.s cl a w) cl (storeWritten a w v) } () := rfl

theorem wakeGranules_getCore (s : State) (cl a w p : Nat) : getCore (wakeGranules s cl a w) p = getCore s p := by
  unfold wakeGranules
  split_ifs <;> rfl

theorem wakeGranules_now (s : State) (cl a w : Nat) : (wakeGranules s cl a w).now = s.now := by
  unfold wakeGranules
  split_ifs <;> rfl

/-! ### Cached pages -/

/-- Bits of a line, of which there are some, make one part. -/
theorem lineParts_line {a w : Nat} (n : Nat) (hw : 0 < w) (h : a % 512 + w ≤ 512) : lineParts (n + 2) a w = [(a, w)] := by
  have hk : min w (512 - a % 512) = w := by omega
  rw [lineParts, if_neg (by omega), hk]
  dsimp only
  rw [Nat.sub_self, lineParts, if_pos rfl]

section
variable {e : Eng} {a w : Nat} {x : Xlat} (hx : cached e.s e.cmd.core a = some x) (hcan : canonical a = true)

include hx hcan in
theorem engLocate_cached (rd wr : Bool) (hrd : rd = true → x.rd = true) (hwr : wr = true → x.wr = true) :
    engLocate e rd wr [(a, w)] = .ok e [(x, a, w)] := by
  have hrights : ((rd && !x.rd) || (wr && !x.wr)) = false := by
    cases rd <;> cases wr <;> simp_all
  have hxlat : engXlat e a rd wr = .ok e x := by
    rw [engXlat, hcan, hx]
    dsimp only
    rw [hrights]
    rfl
  rw [engLocate, hxlat]
  rfl

/-- A line that an engine comes to while nothing is under way is reached. -/
theorem engTouch_idle (h : Idle e.s) (line : Nat) : engTouch e line = { e with s := reachLine e.s noCore line } := by
  rw [engTouch, touchFor, h.flushAll]

variable (h : Idle e.s) (hpeer : x.peer = false) (hw : 0 < w) (hline : a % 512 + w ≤ 512)
include hx hcan h hpeer hw hline

theorem engRead_global (hrd : x.rd = true) : ∃ t, Reached e.s t ∧
    engRead e .glob a w = .ok { e with s := t } (physRead e.s x.key (x.phys a) w % 2 ^ w) := by
  have hreach := reachLine_reached e.s noCore (lineOf (x.part a w).pa)
  refine ⟨_, hreach, ?_⟩
  rw [engRead, lineParts_line 2 hw hline, engLocate_cached hx hcan true false (fun _ => hrd) nofun, andThen]
  rw [engReadParts]
  rw [hpeer, if_neg Bool.false_ne_true, engTouch_idle h, andThen]
  dsimp only
  rw [engReadParts, andThen]
  rw [Nat.mul_zero, Nat.add_zero, hreach.physRead]
  rfl

theorem engWrite_global (hwr : x.wr = true) (hlate : e.late = false) (v : Nat) : ∃ t, Reached e.s t ∧
    engWrite e .glob a w v = .ok { e with s := writePart t noCore (x.part a w) v } () := by
  refine ⟨_, reachLine_reached e.s noCore (lineOf (x.part a w).pa), ?_⟩
  rw [engWrite, lineParts_line 2 hw hline, engLocate_cached hx hcan false true nofun fun _ => hwr, andThen]
  rw [engWriteParts]
  rw [hpeer, if_neg Bool.false_ne_true, engTouch_idle h, andThen]
  dsimp only
  rw [hlate, if_neg Bool.false_ne_true, engWriteParts]
end

end Sys2Proof.Machine

end

section
/-! SUPPORT. The steps of a copy-unit command that moves one element (08 R163 to R167, R169, R372). -/

namespace Sys2Proof.Machine

/-! ### The one element -/

/-- A command that has begun with a tile of one element of a scalar format, and is no forwarding chain. -/
structure CopiesOne (m : Cmd) : Prop where
  started : m.prog.started = true
  element : m.prog.element = 0
  plain : isFwd m = false
  rows : m.vlm = 1
  cols : m.vln = 1
  fmt : m.da.fmt < 16

/-- Its destination has the format and the scale of its source. -/
structure SameKind (m : Cmd) : Prop where
  fmt : m.db.fmt = m.da.fmt
  sexp : m.db.sexp = m.da.sexp

/-- The source element and the destination element of such a command. -/
def srcAddr (m : Cmd) : Nat := elemAddr m.da (originRow m.opa) (originCol m.opa)
def dstAddr (m : Cmd) : Nat := elemAddr m.db (originRow m.opb) (originCol m.opb)

theorem isBq_of_fmt {d : TDesc} (h : d.fmt < 16) : d.isBq = false := by simpa [TDesc.isBq] using h

theorem elem_of_fmt {d : TDesc} (h : d.fmt < 16) : d.elem = d.scalar.width := by
  rw [TDesc.elem, isBq_of_fmt h, if_neg Bool.false_ne_true]

theorem scalar_width_pos (d : TDesc) : 0 < d.scalar.width := by cases d.scalar <;> decide

/-- Where a tensor lies depends on the tags of the cores and on the partitions. -/
theorem tensorCore_congr {s t : State} (htag : ∀ p, (getCore t p).tag = (getCore s p).tag) (hparts : t.parts = s.parts) (c : Nat)
    (d : TDesc) : tensorCore t c d = tensorCore s c d := by
  rw [tensorCore, tagOf, htag, physicalOf, getPart, hparts]
  rfl

theorem srcSpot_pool {s : State} {m : Cmd} {p : Nat} (h1 : m.da.space = 1) (hp : tensorCore s m.core m.da = some p) :
    srcSpot s m = .pool p := by
  rw [srcSpot, hp, spotOf, if_neg (by omega), if_pos h1]
  rfl

theorem srcSpot_global {s : State} {m : Cmd} (h0 : m.da.space = 0) : srcSpot s m = .glob := by rw [srcSpot, spotOf, if_pos h0]

section
variable {s : State} {m : Cmd} (h : isFwd m = false)
include h

theorem dstSpots_pool {p : Nat} (h1 : m.db.space = 1) (hp : tensorCore s m.core m.db = some p) : dstSpots s m = [.pool p] := by
  rw [dstSpots, h, hp, spotOf, if_neg (by omega), if_pos h1]
  rfl

theorem dstSpots_global (h0 : m.db.space = 0) : dstSpots s m = [.glob] := by
  rw [dstSpots, h, spotOf, if_pos h0]
  rfl

theorem dstSpots_store (h2 : m.db.space = 2) : dstSpots s m = [.store (clusterOf m.core)] := by
  rw [dstSpots, h, spotOf, if_neg (by omega), if_neg (by omega)]
  rfl
end

section
variable {m : Cmd} (h : CopiesOne m)
include h

theorem elementPos_one : elementPos m 0 = (0, 0) := by
  rw [elementPos, h.cols]

theorem elementCount_one : elementCount m = 1 := by
  rw [elementCount, h.rows, h.cols]

/-- What is read of the source. -/
theorem srcBits_one {e e' : Eng} {sp : Spot} {b : Nat} (hsp : srcSpot e.s m = sp)
    (hread : engRead e sp (srcAddr m) m.da.scalar.width = .ok e' b) : srcBits e m 0 0 = .ok e' b := by
  rw [srcBits, isBq_of_fmt h.fmt, elem_of_fmt h.fmt, hsp]
  exact hread

/-- A core of whose side memory an MDLD has written its element. -/
def sideLoaded (m : Cmd) (v : Nat) (k : CoreSt) : CoreSt := { k with side := k.side.setBits (m.opb % 2 ^ 16) m.da.scalar.width v }

/-- An MDLD's element enters side memory. -/
theorem copyElement_mdld {e : Eng} {p : Nat} (hkind : m.kind = .mdld) (hsp : srcSpot e.s m = .pool p) (hstill : Still e.s p) :
    copyElement e m 0 = .ok { e with s := onCore e.s m.core (sideLoaded m (poolRead e.s p (srcAddr m) m.da.scalar.width)) } m := by
  have hread : engRead e (.pool p) (elemAddr m.da ((srcTile m).r + 0) ((srcTile m).c + 0)) m.da.scalar.width =
    .ok e (poolRead e.s p (srcAddr m) m.da.scalar.width) := engRead_pool hstill ..
  rw [copyElement, elementPos_one h]
  dsimp only
  rw [if_pos hkind, hsp, elem_of_fmt h.fmt, hread, andThen, Nat.zero_mul]
  rfl

variable (hsame : SameKind m)
include hsame

theorem db_fmt_one : m.db.fmt < 16 := hsame.fmt ▸ h.fmt

theorem inRuns_one : inRuns m = false := by
  rw [inRuns, isBq_of_fmt (db_fmt_one h hsame), Bool.and_false]

theorem sameFormat_one : sameFormat m = true := by
  simp [sameFormat, hsame.fmt, hsame.sexp, isBq_of_fmt (db_fmt_one h hsame)]

omit h in
theorem db_scalar_one : m.db.scalar = m.da.scalar := by rw [TDesc.scalar, hsame.fmt, TDesc.scalar]

theorem db_elem_one : m.db.elem = m.da.scalar.width := by rw [elem_of_fmt (db_fmt_one h hsame), db_scalar_one hsame]

/-- An element copied bit for bit. -/
theorem copyElement_copies {e e₁ e₂ : Eng} {sp : Spot} {b : Nat} (hkind : m.kind ≠ .mdld) (hcmb : cmbOf m = 0)
    (hsrc : srcBits e m 0 0 = .ok e₁ b) (hdst : dstSpots e₁.s m = [sp])
    (hwrite : engWrite e₁ sp (dstAddr m) m.da.scalar.width b = .ok e₂ ()) :
    copyElement e m 0 = .ok { e₂ with s := countWatermark e₂.s m (dstAddr m) m.da.scalar.width } m := by
  have haddr : elemAddr m.db ((dstTile m).r + 0) ((dstTile m).c + 0) = dstAddr m := rfl
  rw [copyElement, elementPos_one h]
  dsimp only
  rw [if_neg hkind, hsrc, andThen]
  rw [inRuns_one h hsame, sameFormat_one h hsame, haddr, db_elem_one h hsame, Bool.false_and, if_neg Bool.false_ne_true,
    if_neg Bool.false_ne_true, if_pos rfl, if_pos hcmb, writeElement, hdst, writeSpots, hwrite]
  rfl

/-- An element combined into its destination, a pool that no access is under way to. -/
theorem copyElement_combines {e e₁ : Eng} {p b v : Nat} (hkind : m.kind ≠ .mdld) (hcmb : cmbOf m ≠ 0)
    (hsrc : srcBits e m 0 0 = .ok e₁ b) (hdst : dstSpots e₁.s m = [.pool p]) (hstill : Still e₁.s p)
    (hv : atomicNew (combineFn m b) (poolRead e₁.s p (dstAddr m) 32) = some v) :
    copyElement e m 0 = .ok { e₁ with s := poolWrite e₁.s p (dstAddr m) 32 v, late := false } m := by
  have haddr : elemAddr m.db ((dstTile m).r + 0) ((dstTile m).c + 0) = dstAddr m := rfl
  rw [copyElement, elementPos_one h]
  dsimp only
  rw [if_neg hkind, hsrc, andThen]
  rw [inRuns_one h hsame, sameFormat_one h hsame, haddr, Bool.false_and, if_neg Bool.false_ne_true, if_neg Bool.false_ne_true,
    if_pos rfl, if_neg hcmb, hdst, List.headD_cons, engAtomic_pool_writes hstill _ _ _ hv]
  rfl
end

/-! ### The step that moves it -/

theorem addLines_length (ls new : List Nat) : (addLines ls new).length ≤ ls.length + new.length := by
  unfold addLines
  induction new generalizing ls with
  | nil => simp
  | cons x new ih =>
    rw [List.foldl_cons, List.length_cons]
    refine (ih _).trans ?_
    split_ifs
    · omega
    · rw [List.length_cons]
      omega

/-- A step that has moved one element has not moved its lines. -/
theorem stepFull_first (m : Cmd) (u : Nat) : stepFull (linesMoved ([], []) m u) = false := by
  have hspan : ∀ a w, (spanLines a w).length = 2 := fun _ _ => rfl
  have hnil : ∀ new, (addLines [] new).length ≤ new.length := fun new => by simpa using addLines_length [] new
  rw [stepFull, Bool.or_eq_false_iff, decide_eq_false_iff_not, decide_eq_false_iff_not, linesMoved]
  constructor
  · refine not_lt.2 ((hnil _).trans ?_)
    dsimp only
    split_ifs <;> simp [hspan]
  · refine not_lt.2 ((hnil _).trans ?_)
    dsimp only
    split_ifs <;> simp [hspan]

/-- The command after its element. -/
def movedOne (m : Cmd) : Cmd := { m with prog := { m.prog with element := 1, answers := [] } }

/-- The first element is still to be moved, and the step has not moved its lines. -/
theorem oneToMove {m : Cmd} (h : CopiesOne m) :
    ¬ (decide (elementCount m ≤ 0) || !isFwd m && stepFull (linesMoved ([], []) m 0)) = true := by
  rw [elementCount_one h, stepFull_first, Bool.and_false]
  decide

theorem copyElements_one {s : State} {m : Cmd} (h : CopiesOne m) (late : Bool) {e : Eng}
    (hel : copyElement { s := s, cmd := m, ans := m.prog.answers, late := late && m.kind != .wmark } m 0 = .ok e m) :
    copyElements none late (elementCount m + 1) s m 0 ([], []) = setCmd e.s (movedOne m) := by
  have hcount := elementCount_one h
  have hover : (decide (elementCount (movedOne m) ≤ 1) || !isFwd (movedOne m) &&
      stepFull (linesMoved (linesMoved ([], []) m 0) (movedOne m) 1)) = true := by
    rw [show elementCount (movedOne m) = 1 from hcount]
    rfl
  rw [hcount, copyElements, h.element]
  dsimp only
  rw [if_neg (oneToMove h), if_neg nofun, hel]
  dsimp only
  rw [copyElements]
  dsimp only
  exact if_pos hover

/-- A command whose tile is done ends. -/
theorem copyEnds_over {u : State} {c id : Nat} {m : Cmd} (hf : findCmd u c false id = some m) (hgo : cmdGoes m = true)
    (hdone : elementCount m ≤ m.prog.element) :
    copyEnds u c id = if m.kind = .copyv then copyCommit u m else endCmd u m none := by
  simp only [cmdGoes, Bool.and_eq_true, Bool.not_eq_true', Option.isNone_iff_eq_none] at hgo
  obtain ⟨⟨⟨-, hended⟩, hstalled⟩, hasked⟩ := hgo
  rw [copyEnds, hf]
  dsimp only
  rw [hended, hstalled, hasked, if_neg (by simpa using hdone)]

/-- Where a command has ended, its unit waits for its completion. -/
theorem copyBoundary_over {u : State} {cl c id : Nat} {m : Cmd} (hf : findCmd u c false id = some m) (hended : m.prog.ended = true) :
    copyBoundary u cl c id = u := by
  rw [copyBoundary, hf]
  dsimp only
  rw [hended, Bool.true_or, if_pos rfl]

section
variable {s : State} {cl c id : Nat} {m : Cmd} (hrun : (getCluster s cl).runCopy = some (c, id)) (hf : findCmd s c false id = some m)
  (hgo : cmdGoes m = true)
include hrun hf hgo

theorem copyStep_goes (turn : CopyTurn) (hst : m.prog.started = true) :
    exec (.copyStep cl turn) s = .next (copyBoundary (copyGoes s m turn.softErr turn.late) cl c id) := by
  refine ifDue_some ?_
  rw [hrun]
  dsimp only
  rw [hf]
  dsimp only
  rw [hgo, hst]
  rfl

/-- A command that fails its checks ends. -/
theorem copyStep_fault (turn : CopyTurn) (hst : m.prog.started = false) {code : Nat} (hbad : copyFault s m = some code) :
    exec (.copyStep cl turn) s = .next (endCmd s (startedJob m) (some (code, 0, 0))) := by
  have hstart : copyStart s m = (endCmd s (startedJob m) (some (code, 0, 0)), none) := by
    have hbad' : copyFault s (startedJob m) = some code := hbad
    rw [copyStart, ← startedJob, hbad']
  refine ifDue_some ?_
  rw [hrun]
  dsimp only
  rw [hf]
  dsimp only
  rw [hgo, hst, hstart]
  rfl
end

/-- The state after a command's one element has moved, with e as its access left it, and the command has ended. -/
def afterOne (s : State) (m : Cmd) : State := endCmd (setCmd s (movedOne m)) (movedOne m) none

theorem afterOne_keeps {α : Type} (π : CoreSt → α) (s : State) (m : Cmd) (h0 : ∀ k q, π { k with q0 := q } = π k)
    (h1 : ∀ k q, π { k with q1 := q } = π k) (p : Nat) : π (getCore (afterOne s m) p) = π (getCore s p) := by
  rw [afterOne, endCmd_eq, setCmd_keeps π _ _ h0 h1, setCmd_keeps π _ _ h0 h1]

theorem cmdGoes_movedOne {m : Cmd} (h : cmdGoes m = true) : cmdGoes (movedOne m) = true := h

section
variable {s : State} {cl c id : Nat} {m : Cmd} (hrun : (getCluster s cl).runCopy = some (c, id)) (hf : findCmd s c false id = some m)
  (hgo : cmdGoes m = true) (hcore : m.core = c) (hmat : m.kind.matrix = false) (h : CopiesOne m)

include hf hcore hmat in
theorem findCmd_movedOne {u : State} (hu : SamePlaces s u) : findCmd (setCmd u (movedOne m)) c false id = some (movedOne m) := by
  have hid := findCmd_id hf
  exact findCmd_setCmd (m' := movedOne m) ((hu.findCmd c false id).trans hf) hid hcore hmat

include hf hcore hmat in
theorem findCmd_afterOne {u : State} (hu : SamePlaces s u) :
    findCmd (afterOne u m) c false id = some (endedCmd (movedOne m) none) := by
  have hid := findCmd_id hf
  exact findCmd_setCmd (m' := endedCmd (movedOne m) none) (findCmd_movedOne hf hcore hmat hu) hid hcore hmat

include hrun hf hgo hcore hmat h

/-- The step of a command of one element that is no COPYV. -/
theorem copyStep_moves {late : Bool} (hkind : m.kind ≠ .copyv) {e : Eng} (hu : SamePlaces s e.s)
    (hel : copyElement { s := s, cmd := m, ans := m.prog.answers, late := late && m.kind != .wmark } m 0 = .ok e m) :
    exec (.copyStep cl ⟨none, late⟩) s = .next (afterOne e.s m) := by
  have hcmp : ¬ toCompare m = true := by simp [toCompare, hkind]
  have hfwd : ¬ (isFwd m && !m.prog.reserved) = true := by simp [h.plain]
  have hends : copyEnds (setCmd e.s (movedOne m)) c id = afterOne e.s m := by
    rw [copyEnds_over (findCmd_movedOne hf hcore hmat hu) (cmdGoes_movedOne hgo) (elementCount_one h).le,
      if_neg (show ¬ (movedOne m).kind = .copyv from hkind)]
    rfl
  rw [copyStep_goes hrun hf hgo _ h.started, copyGoes, if_neg hfwd, if_neg hcmp, copyElements_one h late hel, hcore,
    findCmd_id hf, hends, copyBoundary_over (findCmd_afterOne hf hcore hmat hu) rfl]
end

/-! ### What its access leaves -/

theorem countWatermark_other {m : Cmd} (h : m.kind ≠ .wmark) (s : State) (a w : Nat) : countWatermark s m a w = s := by
  rw [countWatermark, if_neg h]

theorem countWatermark_keeps {α : Type} (π : CoreSt → α) (s : State) (m : Cmd) (a w : Nat) (h : ∀ k x, π { k with wch := x } = π k)
    (p : Nat) : π (getCore (countWatermark s m a w) p) = π (getCore s p) := by
  unfold countWatermark
  split_ifs
  · refine onCore_keeps π s m.core (fun k => ?_) p
    dsimp only
    split_ifs
    · exact h ..
    · rfl
  · rfl

theorem countWatermark_now (s : State) (m : Cmd) (a w : Nat) : (countWatermark s m a w).now = s.now := by
  unfold countWatermark
  split_ifs <;> rfl

theorem samePlaces_countWatermark (s : State) (m : Cmd) (a w : Nat) : SamePlaces s (countWatermark s m a w) :=
  ⟨countWatermark_keeps (·.q0) s m a w fun _ _ => rfl, countWatermark_keeps (·.q1) s m a w fun _ _ => rfl, countWatermark_now ..⟩

theorem samePlaces_fly (s : State) (c : Nat) (q : Req) : SamePlaces s (fly s c q) :=
  samePlaces_onCore s c (f := fun k => { k with requests := k.requests ++ [q] }) (fun _ => rfl) fun _ => rfl

theorem Stored.samePlaces {s t : State} (h : Stored s t) : SamePlaces s t := by
  obtain ⟨ss, mem, ks, ls, gs, -, rfl⟩ := h
  exact ⟨fun _ => rfl, fun _ => rfl, rfl⟩

/-- A channel whose FILL a range starts at advances over it. -/
theorem advanceChannel_next {x : Channel} {a w : Nat} (hnone : x.written = []) (ha : x.base + x.fill = a) (hw : 0 < w)
    (hfit : x.fill + w ≤ x.len) : advanceChannel x a w = { x with fill := x.fill + w } := by
  have hfind : coveredTo [(a, a + w)] 1 (x.base + x.fill) = a + w := by
    rw [coveredTo, ha, List.find?_cons_of_pos (by simp; omega)]
    rfl
  have hmin : min (a + w) (x.base + x.len) = a + w := by omega
  have hfill : a + w - x.base = x.fill + w := by omega
  rw [advanceChannel, hnone, List.nil_append, List.length_singleton, hfind, hmin, hfill, ← hnone]
  simp [hnone]

/-- A channel that is still the one of a WMARK's issue counts the element. -/
theorem wch_countWatermark {s : State} {m : Cmd} {a w : Nat} (v : Nat) (hkind : m.kind = .wmark) :
    let x := (getCore s m.core).wch[channelOf m]
    x.gen = m.chGen → x.written = [] → x.base + x.fill = a → 0 < w → x.fill + w ≤ x.len →
    (getCore (countWatermark (poolWrite s m.core a w v) m a w) m.core).wch =
      (getCore s m.core).wch.set (channelOf m) { x with fill := x.fill + w } := by
  intro x hgen hnone hnext hw hfit
  rw [countWatermark, if_pos hkind, onCore_eq, getCore_putCore_self, getCore_poolWrite_self]
  dsimp only
  rw [if_pos hgen]
  dsimp only
  rw [show advanceChannel (getCore s m.core).wch[channelOf m] a w = _ from advanceChannel_next hnone hnext hw hfit]

theorem scalar_f32 {d : TDesc} (h : d.fmt = 0) : d.scalar = .f32 := by
  rw [TDesc.scalar, h]
  rfl

theorem combineFn_add {m : Cmd} (hs : m.db.scalar = .f32) (hc : cmbOf m = 1) (y : Nat) : combineFn m y = .amo (.flt .f32 .fadd) y := by
  rw [combineFn, hs, hc]
  rfl

theorem combineFn_max {m : Cmd} (hs : m.db.scalar = .f32) (hc : cmbOf m = 2) (y : Nat) : combineFn m y = .amo (.flt .f32 .fmax) y := by
  rw [combineFn, hs, hc]
  rfl

/-! ### Elements of pools -/

section
variable {s : State} {cl c id : Nat} {m : Cmd} (hrun : (getCluster s cl).runCopy = some (c, id)) (hf : findCmd s c false id = some m)
  (hgo : cmdGoes m = true) (hcore : m.core = c) (hmat : m.kind.matrix = false) (hidle : Idle s) (h : CopiesOne m)
  {p₁ : Nat} (h1 : m.da.space = 1) (hp1 : tensorCore s m.core m.da = some p₁)
include hrun hf hgo hcore hmat hidle h h1 hp1

theorem copyStep_mdld {late : Bool} (hkind : m.kind = .mdld) : exec (.copyStep cl ⟨none, late⟩) s =
    .next (afterOne (onCore s m.core (sideLoaded m (poolRead s p₁ (srcAddr m) m.da.scalar.width))) m) :=
  copyStep_moves hrun hf hgo hcore hmat h (hkind ▸ nofun)
    (samePlaces_onCore s m.core (f := sideLoaded m (poolRead s p₁ (srcAddr m) m.da.scalar.width)) (fun _ => rfl) fun _ => rfl)
    (copyElement_mdld h hkind (srcSpot_pool h1 hp1) (hidle.still p₁))

variable (hsame : SameKind m) {p₂ : Nat} (h2 : m.db.space = 1) (hp2 : tensorCore s m.core m.db = some p₂)
include hsame h2 hp2

/-- An element copied from pool to pool at once. -/
theorem copyStep_pool {late : Bool} (hlate : (late && m.kind != .wmark) = false) (hkind : m.kind ≠ .mdld) (hkind' : m.kind ≠ .copyv)
    (hcmb : cmbOf m = 0) : exec (.copyStep cl ⟨none, late⟩) s = .next (afterOne (countWatermark
      (poolWrite s p₂ (dstAddr m) m.da.scalar.width (poolRead s p₁ (srcAddr m) m.da.scalar.width)) m (dstAddr m) m.da.scalar.width) m) := by
  have hsrc := srcBits_one (e := { s := s, cmd := m, ans := m.prog.answers, late := late && m.kind != .wmark }) h (srcSpot_pool h1 hp1)
    (engRead_pool (hidle.still p₁) ..)
  exact copyStep_moves hrun hf hgo hcore hmat h hkind' ((samePlaces_poolWrite ..).trans (samePlaces_countWatermark ..))
    (copyElement_copies h hsame hkind hcmb hsrc (dstSpots_pool h.plain h2 hp2) (engWrite_pool _ _ _ hlate))

/-- An element copied from pool to pool whose write stays under way. -/
theorem copyStep_pool_late (hkind : m.kind = .copy) (hcmb : cmbOf m = 0) :
    ∃ q, q.op = .poolWrite [(dstAddr m, m.da.scalar.width, poolRead s p₁ (srcAddr m) m.da.scalar.width)] ∧
      q.copy = some ⟨c, id, m.tag, m.sc⟩ ∧ exec (.copyStep cl ⟨none, true⟩) s = .next (afterOne (fly s p₂ q) m) := by
  have hid := findCmd_id hf
  have hlate : (true && m.kind != .wmark) = true := by rw [hkind]; rfl
  have hsrc := srcBits_one (e := { s := s, cmd := m, ans := m.prog.answers, late := true && m.kind != .wmark }) h (srcSpot_pool h1 hp1)
    (engRead_pool (hidle.still p₁) ..)
  have hel := copyElement_copies h hsame (hkind ▸ nofun) hcmb hsrc (dstSpots_pool h.plain h2 hp2) (engWrite_pool_late _ _ _ hlate)
  dsimp only at hel
  rw [countWatermark_other (hkind ▸ nofun), poolRead_mod] at hel
  refine ⟨_, ?_, ?_, copyStep_moves hrun hf hgo hcore hmat h (hkind ▸ nofun) (samePlaces_fly s p₂ _) hel⟩
  · rfl
  · rw [engLater, hcore, hid]

/-- An element combined into a pool. -/
theorem copyStep_combine {late : Bool} (hkind : m.kind = .copy) (hcmb : cmbOf m ≠ 0) {v : Nat}
    (hv : atomicNew (combineFn m (poolRead s p₁ (srcAddr m) m.da.scalar.width)) (poolRead s p₂ (dstAddr m) 32) = some v) :
    exec (.copyStep cl ⟨none, late⟩) s = .next (afterOne (poolWrite s p₂ (dstAddr m) 32 v) m) := by
  have hsrc := srcBits_one (e := { s := s, cmd := m, ans := m.prog.answers, late := late && m.kind != .wmark }) h (srcSpot_pool h1 hp1)
    (engRead_pool (hidle.still p₁) ..)
  exact copyStep_moves hrun hf hgo hcore hmat h (hkind ▸ nofun) (samePlaces_poolWrite ..)
    (copyElement_combines h hsame (hkind ▸ nofun) hcmb hsrc (dstSpots_pool h.plain h2 hp2) (hidle.still p₂) hv)

/-- An f32 element combined into a pool. -/
theorem copyStep_combine_f32 {late : Bool} (hkind : m.kind = .copy) (hcmb : cmbOf m ≠ 0) (h0 : m.da.fmt = 0) {op : AmoF}
    (hop : ∀ y, combineFn m y = .amo (.flt .f32 op) y) : ∃ t, exec (.copyStep cl ⟨none, late⟩) s = .next t ∧
      findCmd t c false id = some (endedCmd (movedOne m) none) ∧ poolRead t p₂ (dstAddr m) 32 =
        amoFloat .f32 op (poolRead s p₂ (dstAddr m) 32) (poolRead s p₁ (srcAddr m) 32) % 2 ^ 32 := by
  have hv : atomicNew (combineFn m (poolRead s p₁ (srcAddr m) m.da.scalar.width)) (poolRead s p₂ (dstAddr m) 32) =
      some (amoFloat .f32 op (poolRead s p₂ (dstAddr m) 32) (poolRead s p₁ (srcAddr m) 32)) := by
    rw [hop, scalar_f32 h0, show CvtType.f32.width = 32 from rfl, atomicNew, amoNew, show (ftypeFmt .f32).width = 32 from rfl, poolRead_mod,
      poolRead_mod]
  refine ⟨_, copyStep_combine hrun hf hgo hcore hmat hidle h h1 hp1 hsame h2 hp2 hkind hcmb hv,
    findCmd_afterOne hf hcore hmat (samePlaces_poolWrite ..), ?_⟩
  rw [poolRead, afterOne_keeps (·.pool) _ _ (fun _ _ => rfl) fun _ _ => rfl, pool_bits_poolWrite_self]
end

/-! ### Elements of global memory -/

section
variable {s : State} {cl c id : Nat} {m : Cmd} (hrun : (getCluster s cl).runCopy = some (c, id)) (hf : findCmd s c false id = some m)
  (hgo : cmdGoes m = true) (hcore : m.core = c) (hmat : m.kind.matrix = false) (hidle : Idle s) (h : CopiesOne m) (hsame : SameKind m)
  (hkind : m.kind = .copy) (hcmb : cmbOf m = 0) {x : Xlat} (hpeer : x.peer = false)
include hrun hf hgo hcore hmat hidle h hsame hkind hcmb hpeer

/-- An element copied from a pool to a page of memory at once. -/
theorem copyStep_toGlobal {p₁ : Nat} (h1 : m.da.space = 1) (hp1 : tensorCore s m.core m.da = some p₁) (h0 : m.db.space = 0)
    (hx : cached s c (dstAddr m) = some x) (hwr : x.wr = true) (hcan : canonical (dstAddr m) = true)
    (hline : dstAddr m % 512 + m.da.scalar.width ≤ 512) (hplain : isInternal (x.phys (dstAddr m)) = false) :
    ∃ u, exec (.copyStep cl ⟨none, false⟩) s = .next (afterOne (writePart u noCore (x.part (dstAddr m) m.da.scalar.width)
      (poolRead s p₁ (srcAddr m) m.da.scalar.width)) m) ∧
      SamePlaces s (writePart u noCore (x.part (dstAddr m) m.da.scalar.width) (poolRead s p₁ (srcAddr m) m.da.scalar.width)) := by
  subst hcore
  have hsrc := srcBits_one (e := { s := s, cmd := m, ans := m.prog.answers, late := false && m.kind != .wmark }) h (srcSpot_pool h1 hp1)
    (engRead_pool (hidle.still p₁) ..)
  obtain ⟨u, hu, hwrite⟩ := engWrite_global (e := { s := s, cmd := m, ans := m.prog.answers, late := false && m.kind != .wmark }) hx hcan
    hidle hpeer (scalar_width_pos m.da) hline hwr rfl (poolRead s p₁ (srcAddr m) m.da.scalar.width)
  have hel := copyElement_copies h hsame (hkind ▸ nofun) hcmb hsrc (dstSpots_global h.plain h0) hwrite
  dsimp only at hel
  rw [countWatermark_other (hkind ▸ nofun)] at hel
  have hplaces := (hu.stored.trans (writePart_stored u noCore (poolRead s p₁ (srcAddr m) m.da.scalar.width)
    (p := x.part (dstAddr m) m.da.scalar.width) hplain)).samePlaces
  exact ⟨u, copyStep_moves hrun hf hgo rfl hmat h (hkind ▸ nofun) hplaces hel, hplaces⟩

/-- An element copied from a page of memory to the B store. -/
theorem copyStep_toStore {late : Bool} (h0 : m.da.space = 0) (h2 : m.db.space = 2) (hx : cached s c (srcAddr m) = some x)
    (hrd : x.rd = true) (hcan : canonical (srcAddr m) = true) (hline : srcAddr m % 512 + m.da.scalar.width ≤ 512) :
    ∃ u, exec (.copyStep cl ⟨none, late⟩) s = .next (afterOne (onCluster u (clusterOf c) (storeWritten (dstAddr m) m.da.scalar.width
      (physRead s x.key (x.phys (srcAddr m)) m.da.scalar.width % 2 ^ m.da.scalar.width))) m) ∧ SamePlaces s u := by
  subst hcore
  obtain ⟨u, hu, hread⟩ := engRead_global (e := { s := s, cmd := m, ans := m.prog.answers, late := late && m.kind != .wmark }) hx hcan
    hidle hpeer (scalar_width_pos m.da) hline hrd
  dsimp only at hread
  generalize physRead s x.key (x.phys (srcAddr m)) m.da.scalar.width % 2 ^ m.da.scalar.width = v at hread ⊢
  have hel := copyElement_copies h hsame (hkind ▸ nofun) hcmb (srcBits_one h (srcSpot_global h0) hread) (dstSpots_store h.plain h2)
    (engWrite_store ..)
  have hplaces : SamePlaces s (wakeGranules u (clusterOf m.core) (dstAddr m) m.da.scalar.width) :=
    hu.stored.samePlaces.trans ⟨fun p => by rw [wakeGranules_getCore], fun p => by rw [wakeGranules_getCore], wakeGranules_now ..⟩
  dsimp only at hel
  rw [countWatermark_other (hkind ▸ nofun)] at hel
  have hstored := hplaces.trans (samePlaces_onCluster _ (clusterOf m.core) (storeWritten (dstAddr m) m.da.scalar.width v))
  have hnc : m.kind ≠ .copyv := hkind ▸ nofun
  exact ⟨wakeGranules u (clusterOf m.core) (dstAddr m) m.da.scalar.width, copyStep_moves hrun hf hgo rfl hmat h hnc hstored hel, hplaces⟩
end

/-- What the element has written to a pool is read back. -/
theorem pool_afterOne_poolWrite (s : State) (p a w v : Nat) (m : Cmd) :
    (getCore (afterOne (countWatermark (poolWrite s p a w v) m a w) m) p).pool.bits a w = v % 2 ^ w := by
  rw [afterOne_keeps (·.pool) _ _ (fun _ _ => rfl) fun _ _ => rfl, countWatermark_keeps (·.pool) _ _ _ _ fun _ _ => rfl,
    pool_bits_poolWrite_self]

/-- Memory does not depend on the commands in their places. -/
theorem physRead_afterOne (u : State) (m : Cmd) (key w : Nat) {pa : Nat} (h : isInternal pa = false) :
    physRead (afterOne u m) key pa w = physRead u key pa w := by
  have hmem : (afterOne u m).mem = u.mem := rfl
  have hkeyOf : (afterOne u m).keyOf = u.keyOf := rfl
  have hkeys : (afterOne u m).keys = u.keys := rfl
  exact physRead_congr h fun a _ _ => keyedByte_congr hmem hkeyOf hkeys key a

/-- What the element has written to memory is read back. -/
theorem physRead_afterOne_writePart (s : State) (c v : Nat) (m : Cmd) {p : Part} (h : isInternal p.pa = false) :
    physRead (afterOne (writePart s c p v) m) p.key p.pa p.w = v % 2 ^ p.w := by
  rw [physRead_afterOne _ m _ _ h]
  exact physRead_physWrite_self _ _ _ _ _ _ h

/-! ### COPYV (08 R166) -/

/-- A COPYV whose compare has succeeded. -/
def comparedCmd (m : Cmd) : Cmd := { m with prog := { m.prog with compared := true, answers := [] } }

theorem comparedCmd_copiesOne {m : Cmd} (h : CopiesOne m) : CopiesOne (comparedCmd m) := ⟨h.1, h.2, h.3, h.4, h.5, h.6⟩

/-- A pool after the first version write of a COPYV. -/
def versioned (s : State) (p : Nat) (m : Cmd) : State := poolWrite s p (versionAddr m) 64 (wrapTo 64 (m.opc + 1))

/-- The state after a COPYV has written its element v. -/
def elementWritten (s : State) (p : Nat) (m : Cmd) (v : Nat) : State :=
  setCmd (poolWrite (versioned s p m) p (dstAddr m) m.da.scalar.width v) (movedOne (comparedCmd m))

/-- And after it has committed. -/
def committed (s : State) (p : Nat) (m : Cmd) (v : Nat) : State :=
  endCmd (poolWrite (elementWritten s p m v) p (versionAddr m) 64 (wrapTo 64 (m.opc + 2))) (movedOne (comparedCmd m)) none

theorem samePlaces_versioned (s : State) (p : Nat) (m : Cmd) : SamePlaces s (versioned s p m) := samePlaces_poolWrite ..

theorem Idle.versioned {s : State} (h : Idle s) (p : Nat) (m : Cmd) : Idle (versioned s p m) := h.poolWrite _ _ _ _

theorem tensorCore_versioned (s : State) (p : Nat) (m : Cmd) (c : Nat) (d : TDesc) :
    tensorCore (versioned s p m) c d = tensorCore s c d :=
  tensorCore_congr (poolWrite_keeps (·.tag) _ _ _ _ _ fun _ => rfl) rfl c d

theorem tensorCore_elementWritten (s : State) (p : Nat) (m : Cmd) (v c : Nat) (d : TDesc) :
    tensorCore (elementWritten s p m v) c d = tensorCore s c d := by
  rw [← tensorCore_versioned s p m]
  exact tensorCore_congr (fun q => (setCmd_keeps (·.tag) _ _ (fun _ _ => rfl) (fun _ _ => rfl) q).trans
    (poolWrite_keeps (·.tag) _ _ _ _ _ (fun _ => rfl) q)) rfl c d

theorem poolRead_versioned_other (s : State) {p q : Nat} (m : Cmd) (h : q ≠ p) (a w : Nat) :
    poolRead (versioned s p m) q a w = poolRead s q a w := by
  have hcore : getCore (versioned s p m) q = getCore s q := getCore_putCore_other s _ h
  rw [poolRead, hcore, poolRead]

theorem wrapTo_nat (n : Nat) : wrapTo 64 (n : Int) = n % 2 ^ 64 := by
  rw [wrapTo]
  omega

section
variable {s : State} {m : Cmd} (hidle : Idle s) (hplain : isFwd m = false) {p : Nat} (h2 : m.db.space = 1)
  (hp : tensorCore s m.core m.db = some p)
include hidle hplain h2 hp

theorem copyCompare_holds (hv : poolRead s p (versionAddr m) 64 = m.opc) : copyCompare s m = (versioned s p m, some (comparedCmd m)) := by
  have hnew : atomicNew (.cas (.i .n64) m.opc (wrapTo 64 (m.opc + 1))) (poolRead s p (versionAddr m) 64) =
      some (wrapTo 64 (m.opc + 1)) := by
    rw [hv, atomicNew, if_pos rfl]
  rw [copyCompare, dstSpots_pool hplain h2 hp, List.headD_cons]
  dsimp only
  rw [engAtomic_pool_writes (hidle.still p) _ _ _ hnew]
  dsimp only
  rw [if_pos hv]
  rfl

theorem copyCompare_fails (hopc : m.opc < 2 ^ 64) (hv : poolRead s p (versionAddr m) 64 ≠ m.opc) :
    copyCompare s m = (setCmd s { m with prog := { m.prog with ended := true, failed := true } }, none) := by
  have hlt : poolRead s p (versionAddr m) 64 < 2 ^ 64 := Nat.mod_lt _ (by decide)
  have hnew : atomicNew (.cas (.i .n64) m.opc (wrapTo 64 (m.opc + 1))) (poolRead s p (versionAddr m) 64) = none := by
    rw [atomicNew]
    refine if_neg fun heq => hv ?_
    rwa [show vtypeWidth (.i .n64) = 64 from rfl, Nat.mod_eq_of_lt hlt, Nat.mod_eq_of_lt hopc] at heq
  rw [copyCompare, dstSpots_pool hplain h2 hp, List.headD_cons]
  dsimp only
  rw [engAtomic_pool_keeps (hidle.still p) _ _ _ hnew]
  dsimp only
  rw [if_neg hv]

/-- The last write of a COPYV. -/
theorem copyCommit_pool : copyCommit s m = endCmd (poolWrite s p (versionAddr m) 64 (wrapTo 64 (m.opc + 2))) m none := by
  rw [copyCommit, performCopies, hidle.flushAll]
  rw [dstSpots_pool hplain h2 hp, List.headD_cons, engWrite_pool _ _ _ rfl]
end

section
variable {s : State} {cl c id : Nat} {m : Cmd} (hrun : (getCluster s cl).runCopy = some (c, id)) (hf : findCmd s c false id = some m)
  (hgo : cmdGoes m = true) (hcore : m.core = c) (hmat : m.kind.matrix = false) (hidle : Idle s) (h : CopiesOne m)
  (hkind : m.kind = .copyv) (hnew : m.prog.compared = false)
  {p₂ : Nat} (h2 : m.db.space = 1) (hp2 : tensorCore s m.core m.db = some p₂)
include hrun hf hgo hcore hmat hidle h hkind hnew h2 hp2

/-- A COPYV whose compare fails ends, and writes nothing. -/
theorem copyStep_compareFails {late : Bool} (hopc : m.opc < 2 ^ 64) (hv : poolRead s p₂ (versionAddr m) 64 ≠ m.opc) :
    exec (.copyStep cl ⟨none, late⟩) s = .next (setCmd s { m with prog := { m.prog with ended := true, failed := true } }) ∧
    findCmd (setCmd s { m with prog := { m.prog with ended := true, failed := true } }) c false id =
      some { m with prog := { m.prog with ended := true, failed := true } } := by
  have hid := findCmd_id hf
  have hcmp : toCompare m = true := by rw [toCompare, hkind, hnew]; rfl
  have hfwd : ¬ (isFwd m && !m.prog.reserved) = true := by simp [h.plain]
  have hfind := findCmd_setCmd (m' := { m with prog := { m.prog with ended := true, failed := true } }) hf hid hcore hmat
  refine ⟨?_, hfind⟩
  rw [copyStep_goes hrun hf hgo _ h.started, copyGoes, if_neg hfwd, if_pos hcmp, if_neg nofun,
    copyCompare_fails hidle h.plain h2 hp2 hopc hv]
  dsimp only
  rw [copyBoundary_over hfind rfl]

variable (hv : poolRead s p₂ (versionAddr m) 64 = m.opc)
include hv

/-- A COPYV whose element meets a soft error ends behind its compare. -/
theorem copyStep_softError {late : Bool} : exec (.copyStep cl ⟨some 1, late⟩) s =
      .next (endCmd (versioned s p₂ m) (comparedCmd m) (some (0x1C7, 0, 0))) ∧
    findCmd (endCmd (versioned s p₂ m) (comparedCmd m) (some (0x1C7, 0, 0))) c false id =
      some (endedCmd (comparedCmd m) (some (0x1C7, 0, 0))) := by
  have hid := findCmd_id hf
  have hcmp : toCompare m = true := by rw [toCompare, hkind, hnew]; rfl
  have hfwd : ¬ (isFwd m && !m.prog.reserved) = true := by simp [h.plain]
  have hone := comparedCmd_copiesOne h
  have hfind : findCmd (endCmd (versioned s p₂ m) (comparedCmd m) (some (0x1C7, 0, 0))) c false id =
      some (endedCmd (comparedCmd m) (some (0x1C7, 0, 0))) := findCmd_setCmd (m' := endedCmd (comparedCmd m) (some (0x1C7, 0, 0)))
    (((samePlaces_versioned s p₂ m).findCmd c false id).trans hf) hid hcore hmat
  have hmoves : copyElements (some 0) late (elementCount (comparedCmd m) + 1) (versioned s p₂ m) (comparedCmd m) 0 ([], []) =
      endCmd (versioned s p₂ m) (comparedCmd m) (some (0x1C7, 0, 0)) := by
    rw [copyElements, hone.element]
    dsimp only
    rw [if_neg (oneToMove hone), if_pos rfl, elementPos_one hone]
  have hends : copyEnds (endCmd (versioned s p₂ m) (comparedCmd m) (some (0x1C7, 0, 0))) c id =
      endCmd (versioned s p₂ m) (comparedCmd m) (some (0x1C7, 0, 0)) := by
    rw [copyEnds, hfind]
    rfl
  refine ⟨?_, hfind⟩
  rw [copyStep_goes hrun hf hgo _ h.started, copyGoes, if_neg hfwd, if_pos hcmp, if_neg (show ¬ some 1 = some 0 by decide),
    copyCompare_holds hidle h.plain h2 hp2 hv]
  dsimp only
  rw [show (some 1).map (· - 1) = some 0 from rfl, hmoves, show (comparedCmd m).core = c from hcore, show (comparedCmd m).id = id from hid,
    hends, copyBoundary_over hfind rfl]

variable {p₁ : Nat} (h1 : m.da.space = 1) (hp1 : tensorCore s m.core m.da = some p₁)

omit hrun hf hgo hcore hmat hv hnew in
include h1 hp1 in
/-- Behind its compare a COPYV's element moves. -/
theorem copyElements_versioned (hsame : SameKind m) (hp : p₁ ≠ p₂) :
    copyElements none false (elementCount (comparedCmd m) + 1) (versioned s p₂ m) (comparedCmd m) 0 ([], []) =
      elementWritten s p₂ m (poolRead s p₁ (srcAddr m) m.da.scalar.width) := by
  have hone := comparedCmd_copiesOne h
  have hnm : (comparedCmd m).kind ≠ .mdld := hkind ▸ nofun
  have hnw : (comparedCmd m).kind ≠ .wmark := hkind ▸ nofun
  have hcmb : cmbOf (comparedCmd m) = 0 := if_neg (hkind ▸ nofun)
  have hsrc := srcBits_one
    (e := { s := versioned s p₂ m, cmd := comparedCmd m, ans := [], late := false && (comparedCmd m).kind != .wmark }) hone
    (srcSpot_pool h1 ((tensorCore_versioned ..).trans hp1)) (engRead_pool ((hidle.versioned p₂ m).still p₁) ..)
  have hel := copyElement_copies hone ⟨hsame.fmt, hsame.sexp⟩ hnm hcmb hsrc
    (dstSpots_pool hone.plain h2 ((tensorCore_versioned ..).trans hp2)) (engWrite_pool _ _ _ rfl)
  dsimp only at hel
  rw [countWatermark_other hnw] at hel
  refine (copyElements_one hone false hel).trans ?_
  rw [elementWritten, ← poolRead_versioned_other s m hp]
  rfl

omit hrun hnew hv in
/-- And it commits. -/
theorem copyEnds_elementWritten (v : Nat) : copyEnds (elementWritten s p₂ m v) c id = committed s p₂ m v ∧
    findCmd (committed s p₂ m v) c false id = some (endedCmd (movedOne (comparedCmd m)) none) := by
  have hid := findCmd_id hf
  have hcopyv : (movedOne (comparedCmd m)).kind = .copyv := hkind
  have hplaces := (samePlaces_versioned s p₂ m).trans (samePlaces_poolWrite _ p₂ (dstAddr m) m.da.scalar.width v)
  have hmoved : findCmd (elementWritten s p₂ m v) c false id = some (movedOne (comparedCmd m)) :=
    findCmd_setCmd (m' := movedOne (comparedCmd m)) ((hplaces.findCmd c false id).trans hf) hid hcore hmat
  have hidle' : Idle (elementWritten s p₂ m v) := ((hidle.versioned p₂ m).poolWrite _ _ _ _).setCmd _
  constructor
  · rw [copyEnds_over hmoved hgo (elementCount_one (comparedCmd_copiesOne h)).le, if_pos hcopyv]
    exact copyCommit_pool (m := movedOne (comparedCmd m)) hidle' h.plain h2 ((tensorCore_elementWritten ..).trans hp2)
  · exact findCmd_setCmd (m' := endedCmd (movedOne (comparedCmd m)) none)
      (((samePlaces_poolWrite ..).findCmd c false id).trans hmoved) hid hcore hmat

include h1 hp1 in
/-- A COPYV whose compare succeeds writes its element and commits. -/
theorem copyStep_commits (hsame : SameKind m) (hp : p₁ ≠ p₂) : exec (.copyStep cl ⟨none, false⟩) s =
      .next (committed s p₂ m (poolRead s p₁ (srcAddr m) m.da.scalar.width)) ∧
    findCmd (committed s p₂ m (poolRead s p₁ (srcAddr m) m.da.scalar.width)) c false id =
      some (endedCmd (movedOne (comparedCmd m)) none) := by
  have hid := findCmd_id hf
  have hcmp : toCompare m = true := by rw [toCompare, hkind, hnew]; rfl
  have hfwd : ¬ (isFwd m && !m.prog.reserved) = true := by simp [h.plain]
  have hmoves := copyElements_versioned hidle h hkind h2 hp2 h1 hp1 hsame hp
  obtain ⟨hends, hfind⟩ := copyEnds_elementWritten hf hgo hcore hmat hidle h hkind h2 hp2
    (poolRead s p₁ (srcAddr m) m.da.scalar.width)
  refine ⟨?_, hfind⟩
  rw [copyStep_goes hrun hf hgo _ h.started, copyGoes, if_neg hfwd, if_pos hcmp, if_neg nofun,
    copyCompare_holds hidle h.plain h2 hp2 hv]
  dsimp only
  rw [Option.map_none, hmoves, show (comparedCmd m).core = c from hcore, show (comparedCmd m).id = id from hid, hends,
    copyBoundary_over hfind rfl]
end

/-! ### The bits a COPYV leaves -/

section
variable (s : State) (p : Nat) (m : Cmd) (v : Nat)

theorem pool_committed_version : (getCore (committed s p m v) p).pool.bits (versionAddr m) 64 = (m.opc + 2) % 2 ^ 64 := by
  rw [committed, endCmd_eq, setCmd_keeps (·.pool) _ _ (fun _ _ => rfl) fun _ _ => rfl, pool_bits_poolWrite_self, wrapTo_mod]
  exact wrapTo_nat (m.opc + 2)

theorem pool_committed_element (h : versionAddr m + 64 ≤ dstAddr m) :
    (getCore (committed s p m v) p).pool.bits (dstAddr m) m.da.scalar.width = v % 2 ^ m.da.scalar.width := by
  rw [committed, endCmd_eq, setCmd_keeps (·.pool) _ _ (fun _ _ => rfl) fun _ _ => rfl, getCore_poolWrite_self]
  rw [Memory.bits_setBits_outside _ _ (.inr h), elementWritten, setCmd_keeps (·.pool) _ _ (fun _ _ => rfl) fun _ _ => rfl,
    pool_bits_poolWrite_self]

theorem pool_versioned : (getCore (versioned s p m) p).pool.bits (versionAddr m) 64 = (m.opc + 1) % 2 ^ 64 := by
  rw [versioned, pool_bits_poolWrite_self, wrapTo_mod]
  exact wrapTo_nat (m.opc + 1)
end

end Sys2Proof.Machine

end

section
/-! SUPPORT. What the performance of accesses under way leaves of copy-unit commands and of nodes, and the completion of a copy-unit command
(08 R170; 12 R231; 16 R281). -/

namespace Sys2Proof.Machine

/-! ### What accesses that are performed leave -/

/-- t has the tags and copy-unit commands of s, and its nodes and launches. -/
structure SameTasks (s t : State) : Prop where
  tag : ∀ c, (getCore t c).tag = (getCore s c).tag
  tags : ∀ c, (getCore t c).tags = (getCore s c).tags
  vfail : ∀ c, (getCore t c).vfail = (getCore s c).vfail
  q1 : ∀ c, (getCore t c).q1 = (getCore s c).q1
  nodes : ∀ i, (getPart t i).nodes = (getPart s i).nodes
  launches : ∀ i, (getPart t i).launches = (getPart s i).launches

theorem SameTasks.refl (s : State) : SameTasks s s :=
  ⟨fun _ => rfl, fun _ => rfl, fun _ => rfl, fun _ => rfl, fun _ => rfl, fun _ => rfl⟩

theorem SameTasks.trans {s t u : State} (h : SameTasks s t) (g : SameTasks t u) : SameTasks s u where
  tag c := (g.tag c).trans (h.tag c)
  tags c := (g.tags c).trans (h.tags c)
  vfail c := (g.vfail c).trans (h.vfail c)
  q1 c := (g.q1 c).trans (h.q1 c)
  nodes i := (g.nodes i).trans (h.nodes i)
  launches i := (g.launches i).trans (h.launches i)

theorem SameTasks.foldl {α : Type} {f : State → α → State} (hf : ∀ s x, SameTasks s (f s x)) (xs : List α) (s : State) :
    SameTasks s (xs.foldl f s) :=
  List.foldlRecOn xs f (motive := SameTasks s) (SameTasks.refl s) fun _ h x _ => h.trans (hf _ x)

/-- A core changes in what it has under way, in its pool or in its counts. -/
theorem sameTasks_onCore (s : State) (c : Nat) {f : CoreSt → CoreSt} (h : ∀ k, (f k).tag = k.tag ∧ (f k).tags = k.tags ∧
    (f k).vfail = k.vfail ∧ (f k).q1 = k.q1) : SameTasks s (onCore s c f) where
  tag := onCore_keeps (·.tag) s c fun k => (h k).1
  tags := onCore_keeps (·.tags) s c fun k => (h k).2.1
  vfail := onCore_keeps (·.vfail) s c fun k => (h k).2.2.1
  q1 := onCore_keeps (·.q1) s c fun k => (h k).2.2.2
  nodes _ := rfl
  launches _ := rfl

/-- What a change of one partition keeps, it keeps of every partition. -/
theorem onPart_keeps {α : Type} (π : Partn → α) (s : State) (i : Nat) {f : Partn → Partn} (h : ∀ p, π (f p) = π p) (j : Nat) :
    π (getPart (onPart s i f) j) = π (getPart s j) := by
  rcases eq_or_ne j i with rfl | hj
  · rw [onPart_eq, getPart_putPart_self, h]
  · rw [onPart_eq, getPart_putPart_other s _ hj]

theorem sameTasks_onPart (s : State) (i : Nat) {f : Partn → Partn} (hn : ∀ p, (f p).nodes = p.nodes)
    (hl : ∀ p, (f p).launches = p.launches) : SameTasks s (onPart s i f) where
  tag _ := rfl
  tags _ := rfl
  vfail _ := rfl
  q1 _ := rfl
  nodes := onPart_keeps (·.nodes) s i hn
  launches := onPart_keeps (·.launches) s i hl

theorem Stored.sameTasks {s t : State} (h : Stored s t) : SameTasks s t := by
  obtain ⟨ss, m, ks, ls, gs, -, rfl⟩ := h
  exact ⟨fun _ => rfl, fun _ => rfl, fun _ => rfl, fun _ => rfl, fun _ => rfl, fun _ => rfl⟩

theorem clearLog_sameTasks (s : State) (die v : Nat) : SameTasks s (clearLog s die v) := by
  unfold clearLog
  dsimp only
  split_ifs <;> exact ⟨fun _ => rfl, fun _ => rfl, fun _ => rfl, fun _ => rfl, fun _ => rfl, fun _ => rfl⟩

theorem internalWriteWord_sameTasks (s : State) (i v : Nat) : SameTasks s (internalWriteWord s i v) := by
  unfold internalWriteWord
  dsimp only
  split_ifs
  · exact sameTasks_onPart s _ (fun _ => rfl) fun _ => rfl
  · exact SameTasks.refl s
  · exact clearLog_sameTasks ..
  · exact SameTasks.refl s
  · exact ⟨fun _ => rfl, fun _ => rfl, fun _ => rfl, fun _ => rfl, fun _ => rfl, fun _ => rfl⟩
  · exact sameTasks_onPart s _ (fun _ => rfl) fun _ => rfl
  · exact SameTasks.refl s
  · exact SameTasks.refl s

theorem internalWriteWords_sameTasks (s : State) (i v n : Nat) : SameTasks s (internalWriteWords s i v n) := by
  induction n generalizing s i v with
  | zero => exact SameTasks.refl s
  | succ n ih => exact (internalWriteWord_sameTasks s i _).trans (ih _ _ _)

theorem writePart_sameTasks (s : State) (c : Nat) (p : Part) (v : Nat) : SameTasks s (writePart s c p v) := by
  cases h : isInternal p.pa with
  | false => exact (writePart_stored s c v h).sameTasks
  | true =>
    unfold writePart physWrite
    rw [h]
    exact (((setDirty_stored s p.leaf).trans (reachLine_reached _ c _).stored).trans (fireGlobal_stored _ p.pa p.w)).sameTasks.trans
      (internalWriteWords_sameTasks ..)

theorem poolWrite_sameTasks (s : State) (c a w v : Nat) : SameTasks s (poolWrite s c a w v) :=
  SameTasks.trans (sameTasks_onCore s c (f := fun k => { k with pool := k.pool.setBits a w v }) fun _ => ⟨rfl, rfl, rfl, rfl⟩)
    ⟨fun _ => rfl, fun _ => rfl, fun _ => rfl, fun _ => rfl, fun _ => rfl, fun _ => rfl⟩

theorem ringDoorbell_sameTasks (s : State) (c ea w : Nat) : SameTasks s (ringDoorbell s c ea w) := by
  unfold ringDoorbell
  dsimp only
  split_ifs
  · split
    · exact sameTasks_onPart s _ (fun _ => rfl) fun _ => rfl
    · exact SameTasks.refl s
  · exact SameTasks.refl s

theorem placeAtomic_sameTasks (s : State) (c line : Nat) : SameTasks s (placeAtomic s c line) := by
  have hreach := (reachLine_reached s c line).stored.sameTasks
  unfold placeAtomic
  dsimp only
  split_ifs
  · exact sameTasks_onCore s c fun _ => ⟨rfl, rfl, rfl, rfl⟩
  · exact hreach.trans (sameTasks_onCore _ c fun _ => ⟨rfl, rfl, rfl, rfl⟩)
  · refine (hreach.trans ?_).trans (sameTasks_onCore _ c fun _ => ⟨rfl, rfl, rfl, rfl⟩)
    exact ⟨fun _ => rfl, fun _ => rfl, fun _ => rfl, fun _ => rfl, fun _ => rfl, fun _ => rfl⟩

theorem doAtomic_sameTasks (s : State) (c : Nat) (p : Part) (fn : AtomicFn) : SameTasks s (doAtomic s c p fn).1 := by
  have hplace := placeAtomic_sameTasks s c (lineOf p.pa)
  unfold doAtomic
  dsimp only
  split
  · exact hplace.trans (writePart_sameTasks ..)
  · exact hplace

theorem performReq_sameTasks (s : State) (c : Nat) (q : Req) : SameTasks s (performReq s c q).after := by
  have hreach : ∀ line, SameTasks s (reachLine s c line) := fun line => (reachLine_reached s c line).stored.sameTasks
  have hcell : ∀ o : Option (Nat × Part), SameTasks s (match o with
      | some e => reachLine s c (lineOf e.2.pa)
      | none => s) := fun o => by
    split
    · exact hreach _
    · exact SameTasks.refl s
  unfold performReq
  dsimp only
  split
  case h_1 =>
    rw [readNext_after]
    exact (reachLines_reached s c _).stored.sameTasks
  case h_2 w vals _ _ =>
    have hwrite : SameTasks s (match q.parts[nextPart s (List.range q.parts.length)]?, vals[nextPart s (List.range q.parts.length)]? with
        | some p, some v => writePart s c p v
        | _, _ => s) := by
      split
      · exact writePart_sameTasks ..
      · exact SameTasks.refl s
    split_ifs
    · exact hwrite
    · exact hwrite
    · exact hwrite.trans (ringDoorbell_sameTasks ..)
    · exact hwrite.trans (ringDoorbell_sameTasks ..)
    · exact hwrite
  case h_3 =>
    rw [readNext_after]
    exact SameTasks.refl s
  case h_4 todo _ =>
    have hwrite : SameTasks s (match todo[nextPart s (List.range todo.length)]? with
        | some (a, w, v) => poolWrite s c a w v
        | none => s) := by
      split
      · exact poolWrite_sameTasks ..
      · exact SameTasks.refl s
    split_ifs <;> exact hwrite
  case h_5 =>
    split
    · exact doAtomic_sameTasks ..
    · exact SameTasks.refl s
  case h_6 =>
    split
    · split_ifs
      · exact SameTasks.refl s
      · exact writePart_sameTasks ..
    · exact SameTasks.refl s
  case h_7 =>
    split
    · exact hreach _
    · exact SameTasks.refl s
  case h_8 =>
    split
    · exact SameTasks.refl s
    · split
      · exact SameTasks.refl s
      · next o rest _ =>
        split_ifs <;> exact hcell o

theorem performAll_sameTasks (s : State) (c n : Nat) (q : Req) : SameTasks s (performAll s c n q).1 := by
  induction n generalizing s q with
  | zero => exact SameTasks.refl s
  | succ n ih =>
    have h := performReq_sameTasks s c q
    unfold performAll
    split
    case h_1 hp => rwa [hp] at h
    case h_2 hp =>
      rw [hp] at h
      exact h.trans (ih _ _)

theorem performNow_sameTasks (s : State) (c : Nat) (q : Req) : SameTasks s (performNow s c q) := by
  have h := performAll_sameTasks s c 32 q
  unfold performNow
  dsimp only
  split
  · exact h.trans (sameTasks_onCore _ c fun _ => ⟨rfl, rfl, rfl, rfl⟩)
  · exact h

theorem flush_sameTasks (s : State) (c : Nat) (which : Req → Bool) : SameTasks s (flush s c which) := by
  unfold flush
  dsimp only
  split_ifs
  · refine SameTasks.trans ?_ (SameTasks.foldl (fun s q => performNow_sameTasks s c q) _ _)
    exact sameTasks_onCore s c fun _ => ⟨rfl, rfl, rfl, rfl⟩
  · exact SameTasks.refl s

theorem flushReds_sameTasks (s : State) (c : Nat) (which : Req → Bool) : SameTasks s (flushReds s c which) := by
  unfold flushReds
  dsimp only
  split_ifs
  · refine SameTasks.trans ?_ (SameTasks.foldl (fun s q => performAll_sameTasks s c 1 q) _ _)
    exact sameTasks_onCore s c fun _ => ⟨rfl, rfl, rfl, rfl⟩
  · exact SameTasks.refl s

theorem performCopies_sameTasks (s : State) (which : CopyMark → Nat → Bool) : SameTasks s (performCopies s which) := by
  unfold performCopies flushAll
  exact SameTasks.foldl (fun s e => SameTasks.trans (flush_sameTasks ..) (flushReds_sameTasks ..)) s.cores s

/-! ### A copy-unit command completes (08 R170, 16 R281) -/

/-- A node whose counter goes down and stays above 0. -/
theorem decNode_counts {s : State} {tag i : Nat} {n : Node} (hn : getNode? s tag i = some n) (hlives : nodeLives n = true)
    (hcnt : 1 < n.cnt) (core : Option Nat) : decNode s tag i core = putNode s tag i { n with cnt := n.cnt - 1 } := by
  have hended : nodeEnded n = false := by rwa [nodeLives, Bool.not_eq_true'] at hlives
  have hzero : ¬ (nodeEnded n || n.cnt == 0) = true := by
    rw [hended, Bool.false_or, beq_iff_eq]
    omega
  have hdown : countDown s tag i = putNode s tag i { n with cnt := n.cnt - 1 } := by
    rw [countDown, onNode, hn]
    dsimp only
    rw [if_neg (show n.cnt ≠ 0 by omega)]
  have hput : getNode? (putNode s tag i { n with cnt := n.cnt - 1 }) tag i = some { n with cnt := n.cnt - 1 } := by
    rw [getNode?, putNode, onPart_eq, getPart_putPart_self, nget?_nset_self]
  rw [decNode, hn]
  dsimp only
  rw [if_neg hzero, hdown, settleNode, hput]
  dsimp only
  rw [if_pos (.inl (show n.cnt - 1 ≠ 0 by omega))]

/-- A core of which a copy-unit command has completed in full. -/
def copyDone (e : Cmd) (k : CoreSt) : CoreSt :=
  let k := tagDone { k with q1 := k.q1.filter fun m => m.id != e.id } e.tag
  { k with vfail := vfailAfter e.kind .done k.vfail e.tag }

/-- The state after a copy-unit command has left its place and its unit. -/
def copyLeft (s : State) (e : Cmd) : State :=
  onCluster (readyCopies (onCore s e.core (copyDone e)) e.core) (clusterOf e.core) fun x =>
    { x with runCopy := if x.runCopy = some (e.core, e.id) then none else x.runCopy }

/-- Its writes are performed where its strand has ended. -/
def copyPerformed (s : State) (e : Cmd) : State :=
  if sidAlive (copyLeft s e) e.sid then copyLeft s e
  else performCopies (copyLeft s e) fun m _ => m.core == e.core && m.id == e.id

theorem copyPerformed_sameTasks (s : State) (e : Cmd) : SameTasks (copyLeft s e) (copyPerformed s e) := by
  unfold copyPerformed
  split_ifs
  · exact SameTasks.refl _
  · exact performCopies_sameTasks ..

section
variable (s : State) (e : Cmd)

theorem getCore_copyLeft : getCore (copyLeft s e) e.core = readied s.now (copyDone e (getCore s e.core)) := by
  have h : getCore (copyLeft s e) e.core = getCore (readyCopies (onCore s e.core (copyDone e)) e.core) e.core := rfl
  rw [h, readyCopies, onCore_eq, getCore_putCore_self, onCore_eq, getCore_putCore_self]
  rfl

theorem tagOf_copyPerformed (c : Nat) : tagOf (copyPerformed s e) c = tagOf s c := by
  have hleft : (getCore (copyLeft s e) c).tag = (getCore s c).tag :=
    (onCore_keeps (·.tag) (onCore s e.core (copyDone e)) e.core (f := readied s.now) (fun _ => rfl) c).trans
      (onCore_keeps (·.tag) s e.core (f := copyDone e) (fun _ => rfl) c)
  rw [tagOf, (copyPerformed_sameTasks s e).tag, hleft, tagOf]

theorem getNode?_copyPerformed (tag i : Nat) : getNode? (copyPerformed s e) tag i = getNode? s tag i := by
  rw [getNode?, (copyPerformed_sameTasks s e).nodes]
  rfl

theorem getLaunch?_copyPerformed (tag i : Nat) : getLaunch? (copyPerformed s e) tag i = getLaunch? s tag i := by
  rw [getLaunch?, (copyPerformed_sameTasks s e).launches]
  rfl

/-- The tag, the places and the VFAIL bit of the core of a command that has completed. -/
theorem core_copyPerformed : let k := getCore s e.core
    let u := getCore (copyPerformed s e) e.core
    u.tags = (if nget k.out 0 e.tag - 1 = 0 then k.tags ||| BitVec.ofNat 64 (2 ^ e.tag) else k.tags) ∧
    u.q1.length = (k.q1.filter fun x => x.id != e.id).length ∧ u.vfail = k.vfail &&& ~~~ BitVec.ofNat 64 (2 ^ e.tag) := by
  intro k u
  have hsame := copyPerformed_sameTasks s e
  have hvfail : ∀ v, vfailAfter e.kind .done v e.tag = v &&& ~~~ BitVec.ofNat 64 (2 ^ e.tag) := fun v =>
    if_neg fun h => h.2 rfl
  refine ⟨?_, ?_, ?_⟩
  · rw [hsame.tags, getCore_copyLeft]
    rfl
  · rw [hsame.q1, getCore_copyLeft]
    exact markReady_length ..
  · rw [hsame.vfail, getCore_copyLeft]
    exact hvfail _

theorem completeCopy_eq : completeCopy s e .done = (getLaunch? s (tagOf s e.core) e.launch).elim (copyPerformed s e)
    fun x => decNode (copyPerformed s e) (tagOf s e.core) x.node (some e.core) := by
  rw [← getLaunch?_copyPerformed s e, ← tagOf_copyPerformed s e]
  refine (?_ : completeCopy s e .done = (match getLaunch? (copyPerformed s e) (tagOf (copyPerformed s e) e.core) e.launch with
    | some x => decNode (copyPerformed s e) (tagOf (copyPerformed s e) e.core) x.node (some e.core)
    | none => copyPerformed s e)).trans ?_
  · rfl
  · split
    case h_1 x hx => rw [hx, Option.elim_some]
    case h_2 hx => rw [hx, Option.elim_none]
end

theorem copyComplete_done {s : State} {cl : Nat} {e : Cmd} (hended : endedCopy s cl = some e) (hfault : e.prog.fault = none)
    (hfailed : e.prog.failed = false) : exec (.copyComplete cl) s = .next (completeCopy s e .done) := by
  have hend : copyEndOf e = .done := by
    rw [copyEndOf, hfault]
    dsimp only
    rw [hfailed, if_neg Bool.false_ne_true]
  refine ifDue_some ?_
  rw [hended, Option.map_some, hend]

/-! ### The reservations of a forwarding chain (08 R165) -/

section
variable {s : State} {cl c id : Nat} {m : Cmd} (hrun : (getCluster s cl).runCopy = some (c, id)) (hf : findCmd s c false id = some m)
  (hgo : cmdGoes m = true) (hfwd : isFwd m = true) (hst : m.prog.started = true) (hres : m.prog.reserved = false) {since : Nat}
  (hsince : m.prog.reserveFrom = some since)
include hrun hf hgo hfwd hst hres hsince

theorem forwardReservation_made (h : s.now ≤ since + 2048) : exec (.forwardReservation cl) s =
    .next (setCmd s { m with prog := { m.prog with reserved := true } }) := by
  have hdue : (cmdGoes m && isFwd m && m.prog.started && !m.prog.reserved &&
      decide (s.now ≤ m.prog.reserveFrom.getD s.now + 2048)) = true := by
    rw [hgo, hfwd, hst, hres, hsince, Option.getD_some, decide_eq_true h]
    rfl
  refine ifDue_some ?_
  rw [hrun]
  dsimp only
  rw [hf]
  dsimp only
  rw [if_pos hdue]

theorem forwardReservation_late (h : since + 2048 ≤ s.now) : exec (.forwardReservationTimeout cl) s =
    .next (endCmd s m (some (0x1C8, 0, 0))) := by
  have hdue : (cmdGoes m && isFwd m && m.prog.started && !m.prog.reserved &&
      decide (m.prog.reserveFrom.getD s.now + 2048 ≤ s.now)) = true := by
    rw [hgo, hfwd, hst, hres, hsince, Option.getD_some, decide_eq_true h]
    rfl
  refine ifDue_some ?_
  rw [hrun]
  dsimp only
  rw [hf]
  dsimp only
  rw [if_pos hdue]
end

end Sys2Proof.Machine

open Sys2Proof Sys2Proof.Machine

/-- Settles O46: a command of one element by the access that moves it, a COPYV by its compare and its commit besides, and a completion
by what the performance of its writes leaves. -/
theorem copySteps : Obligations.CopySteps := by
  intro cl c id late m s k w at1 at2 pool step oneElement sameKind ends written
  have hbegun : oneElement → Idle s ∧ CopiesOne m := fun ⟨hidle, hst, hel, hfwd, hrow, hcol, hfmt⟩ =>
    ⟨hidle, hst, hel, hfwd, hrow, hcol, hfmt⟩
  have hkinds : sameKind → SameKind m := fun ⟨hfmt, hsexp⟩ => ⟨hfmt, hsexp⟩
  refine ⟨fun hrun hf hcore hmat hgo => ⟨fun code hst hbad => ?_, fun p1 hone h1 hp1 => ⟨fun hkind => ?_, fun p2 hsame h2 hp2 =>
    ⟨fun hkind hcmb => ?_, fun hkind h0 => ⟨fun hcmb => ?_, fun hcmb => ?_⟩, fun hkind hnew hopc => ⟨fun hv => ?_, fun hv hp => ⟨?_, ?_⟩⟩,
      ?_⟩, ?_⟩, ?_, fun since hfwd hst hres hsince => ⟨?_, ?_⟩⟩, ?_⟩
  · have hid := findCmd_id hf
    exact ⟨_, copyStep_fault hrun hf hgo _ hst hbad, rfl,
      findCmd_setCmd (m' := endedCmd (startedJob m) (some (code, 0, 0))) hf hid hcore hmat⟩
  · obtain ⟨hidle, h⟩ := hbegun hone
    subst hcore
    refine ⟨_, copyStep_mdld hrun hf hgo rfl hmat hidle h h1 hp1 hkind, findCmd_afterOne hf rfl hmat
      (samePlaces_onCore s m.core (f := sideLoaded m _) (fun _ => rfl) fun _ => rfl), ?_⟩
    rw [afterOne_keeps (·.side) _ _ (fun _ _ => rfl) fun _ _ => rfl, onCore_eq, getCore_putCore_self]
    exact (Memory.bits_setBits_self ..).trans (poolRead_mod ..)
  · obtain ⟨hidle, h⟩ := hbegun hone
    subst hcore
    have hnc : m.kind ≠ .copyv := hkind ▸ nofun
    have hnm : m.kind ≠ .mdld := hkind ▸ nofun
    cases late with
    | false =>
      exact ⟨_, copyStep_pool hrun hf hgo rfl hmat hidle h h1 hp1 (hkinds hsame) h2 hp2 rfl hnm hnc hcmb, findCmd_afterOne hf rfl hmat
        ((samePlaces_poolWrite ..).trans (samePlaces_countWatermark ..)),
        fun _ => (pool_afterOne_poolWrite ..).trans (poolRead_mod ..), nofun⟩
    | true =>
      obtain ⟨q, hop, hcopy, hstep⟩ := copyStep_pool_late hrun hf hgo rfl hmat hidle h h1 hp1 (hkinds hsame) h2 hp2 hkind hcmb
      refine ⟨_, hstep, findCmd_afterOne hf rfl hmat (samePlaces_fly ..), nofun, fun _ => ⟨?_, q, ?_, hop, hcopy⟩⟩
      · rw [afterOne_keeps (·.pool) _ _ (fun _ _ => rfl) fun _ _ => rfl, fly, onCore_eq, getCore_putCore_self]
      · obtain ⟨hreq, -⟩ := hidle.still p2
        rw [afterOne_keeps (·.requests) _ _ (fun _ _ => rfl) fun _ _ => rfl, fly, onCore_eq, getCore_putCore_self, hreq]
        rfl
  · obtain ⟨hidle, h⟩ := hbegun hone
    subst hcore
    exact copyStep_combine_f32 hrun hf hgo rfl hmat hidle h h1 hp1 (hkinds hsame) h2 hp2 hkind (hcmb.trans_ne one_ne_zero) h0
      (combineFn_add ((db_scalar_one (hkinds hsame)).trans (scalar_f32 h0)) hcmb)
  · obtain ⟨hidle, h⟩ := hbegun hone
    subst hcore
    exact copyStep_combine_f32 hrun hf hgo rfl hmat hidle h h1 hp1 (hkinds hsame) h2 hp2 hkind (hcmb.trans_ne two_ne_zero) h0
      (combineFn_max ((db_scalar_one (hkinds hsame)).trans (scalar_f32 h0)) hcmb)
  · obtain ⟨hidle, h⟩ := hbegun hone
    subst hcore
    obtain ⟨hstep, hfind⟩ := copyStep_compareFails (late := late) hrun hf hgo rfl hmat hidle h hkind hnew h2 hp2 hopc hv
    exact ⟨_, hstep, setCmd_keeps (·.pool) _ _ (fun _ _ => rfl) (fun _ _ => rfl) p2, hfind⟩
  · rintro rfl hbelow
    obtain ⟨hidle, h⟩ := hbegun hone
    subst hcore
    obtain ⟨hstep, hfind⟩ := copyStep_commits hrun hf hgo rfl hmat hidle h hkind hnew h2 hp2 hv h1 hp1 (hkinds hsame) hp
    exact ⟨_, hstep, hfind, (pool_committed_element s p2 m _ hbelow).trans (poolRead_mod ..), pool_committed_version ..⟩
  · obtain ⟨hidle, h⟩ := hbegun hone
    subst hcore
    obtain ⟨hstep, hfind⟩ := copyStep_softError (late := late) hrun hf hgo rfl hmat hidle h hkind hnew h2 hp2 hv
    refine ⟨_, hstep, hfind, ?_⟩
    refine (congrArg (fun u : Memory => u.bits (versionAddr m) 64)
      (setCmd_keeps (·.pool) _ _ (fun _ _ => rfl) (fun _ _ => rfl) p2)).trans ?_
    exact pool_versioned s p2 m
  · rintro hkind rfl ch rfl hgen hnone hnext hfit
    obtain ⟨hidle, h⟩ := hbegun hone
    subst hcore
    have hlate : (late && m.kind != .wmark) = false := by rw [hkind]; exact Bool.and_false _
    refine ⟨_, copyStep_pool hrun hf hgo rfl hmat hidle h h1 hp1 (hkinds hsame) h2 hp2 hlate (hkind ▸ nofun) (hkind ▸ nofun)
      (if_neg (hkind ▸ nofun)), findCmd_afterOne hf rfl hmat ((samePlaces_poolWrite ..).trans (samePlaces_countWatermark ..)), ?_, ?_⟩
    · exact (pool_afterOne_poolWrite ..).trans (poolRead_mod ..)
    · rw [afterOne_keeps (·.wch) _ _ (fun _ _ => rfl) fun _ _ => rfl]
      exact wch_countWatermark _ hkind hgen hnone hnext (scalar_width_pos m.da) hfit
  · rintro x hsame hkind hcmb rfl h0 hx hwr hpeer hcan hline hplain -
    obtain ⟨hidle, h⟩ := hbegun hone
    subst hcore
    have hmem : isInternal (x.part at2 w).pa = false := hplain _ (List.mem_singleton_self _)
    obtain ⟨u, hstep, hplaces⟩ := copyStep_toGlobal hrun hf hgo rfl hmat hidle h (hkinds hsame) hkind hcmb hpeer h1 hp1 h0 hx hwr hcan hline
      hmem
    exact ⟨_, hstep, findCmd_afterOne hf rfl hmat hplaces, (physRead_afterOne_writePart u noCore _ m hmem).trans (poolRead_mod ..)⟩
  · intro x hone hsame hkind hcmb h0 h2 hx hrd hpeer hcan hline
    obtain ⟨hidle, h⟩ := hbegun hone
    subst hcore
    obtain ⟨u, hstep, hplaces⟩ := copyStep_toStore (late := late) hrun hf hgo rfl hmat hidle h (hkinds hsame) hkind hcmb hpeer h0 h2 hx hrd
      hcan hline
    refine ⟨_, hstep, findCmd_afterOne hf rfl hmat (hplaces.trans (samePlaces_onCluster ..)), ?_⟩
    have hstored : getCluster (afterOne (onCluster u (clusterOf m.core) (storeWritten at2 w (physRead s x.key (x.phys at1) w % 2 ^ w))) m)
        (clusterOf m.core) = storeWritten at2 w (physRead s x.key (x.phys at1) w % 2 ^ w) (getCluster u (clusterOf m.core)) :=
      getCluster_putCluster_self u (clusterOf m.core) _
    refine (congrArg (fun y : Cluster => y.bstore.bits at2 w) hstored).trans ((Memory.bits_setBits_self ..).trans ?_)
    rw [Nat.mod_mod]
    exact Nat.mod_eq_of_lt (physRead_lt ..)
  · intro hlate
    exact forwardReservation_made hrun hf hgo hfwd hst hres hsince hlate
  · intro hlate
    exact forwardReservation_late hrun hf hgo hfwd hst hres hsince hlate
  · intro e hended hfault hfailed hlive h left
    obtain ⟨htags, hq1, hvfail⟩ := core_copyPerformed s e
    refine ⟨_, copyComplete_done hended hfault hfailed, ?_⟩
    rw [completeCopy_eq]
    cases hx : getLaunch? s (tagOf s e.core) e.launch with
    | none => exact ⟨htags, hq1, hvfail, nofun⟩
    | some x =>
      obtain ⟨n, hn, hlives, hcnt⟩ := hlive x hx
      have hn' := (getNode?_copyPerformed s e (tagOf s e.core) x.node).trans hn
      rw [Option.elim_some, decNode_counts hn' hlives hcnt]
      refine ⟨htags, hq1, hvfail, fun y hy i hi => ?_⟩
      obtain rfl := Option.some.inj hy
      obtain rfl := Option.some.inj (hn.symm.trans hi)
      rw [getNode?, putNode, onPart_eq, getPart_putPart_self, nget?_nset_self]

end
